-- ==== Sys2Proof/Word.lean ====
section
/-! DEFINITION. The word types of the Molell M2 (R7) and their plainest arithmetic. -/
namespace Sys2Proof

/-- A byte of memory. -/
abbrev Byte := BitVec 8
/-- A 16-bit value: a halfword, an FP16 or a BF16 pattern. -/
abbrev Half := BitVec 16
/-- A 32-bit value: an S register, one lane of a V register, a lane mask. -/
abbrev Word := BitVec 32
/-- A 64-bit value: a virtual address, a PC, the base of an affine register. -/
abbrev DWord := BitVec 64
/-- One bit per lane, lane i at bit i. -/
abbrev Mask := BitVec 32
/-- The 32 lane values of one V register. -/
abbrev Lanes := Vector Word 32

/-- A mask with every lane set. -/
def fullMask : Mask := 0xFFFFFFFF#32

/-- Whether lane `i` is set in a mask. -/
def Mask.has (m : Mask) (i : Nat) : Bool := m.getLsbD i

/-- The lanes of a mask, ascending. -/
def Mask.lanes (m : Mask) : List (Fin 32) := (List.finRange 32).filter (fun i => m.getLsbD i.val)

/-- The mask of the lanes at which `f` holds. -/
def maskOf (f : Fin 32 → Bool) : Mask :=
  BitVec.ofNat 32 ((List.finRange 32).foldl (fun acc i => if f i then acc + 2 ^ i.val else acc) 0)

/-- Every lane holds the same value. -/
def Lanes.splat (w : Word) : Lanes := Vector.replicate 32 w

end Sys2Proof
end

