-- ==== Sys2Proof/Config.lean ====
section
/-! DEFINITION. What one Molell M2 fixes (R2, R3, R5) and the free values: constants without a body, for results the
spec leaves open. Nothing in Lean can evaluate a free value, so a theorem about one holds for every value of it. -/
namespace Sys2Proof.Config

/-- Partitions of a die (R3). -/
def partitions : Nat := 8
/-- Clusters of a partition (R3). -/
def clustersPerPartition : Nat := 24
/-- Clusters of a die (R5). -/
def clusters : Nat := 192
/-- Cores of a cluster (R3). -/
def coresPerCluster : Nat := 8
/-- Cores of a die (R5). -/
def cores : Nat := 1536
/-- Resident groups of a core (R184). -/
def groupsPerCore : Nat := 16
/-- V registers of a core's file (R183). -/
def vRegsPerCore : Nat := 512
/-- Copy engines of a partition (R148). -/
def enginesPerPartition : Nat := 12
/-- The end of device memory: 192 GiB (R15, R17). -/
def deviceEnd : Nat := 0x3000000000
/-- Bytes of local store of a cluster (R31). -/
def localStoreBytes : Nat := 262144

/-- FREE VALUE. Which of the two products of R2 the die is on: `true` for a workstation pair card. Both are shipped.
(DEDUCED, log 11.) -/
opaque pairCard : Bool

/-- FREE VALUE. The L2 set of a line in its slice: "a fixed hash that affects only conflict behaviour" (R55).
(DESIGN CHOICE, log 14.) -/
opaque l2SetOf : Nat → Nat
/-- FREE VALUE. The L1 set of a line: R51 gives 64 sets and no index function. (DESIGN CHOICE, log 14.) -/
opaque l1SetOf : Nat → Nat
/-- FREE VALUE. The set of a line in its portion of the remote-data cache: R69 gives no index function.
(DESIGN CHOICE, log 14.) -/
opaque rdcSetOf : Nat → Nat
/-- FREE VALUE. The peer-directory set of a line: R70 gives no index function. (DESIGN CHOICE, log 14.) -/
opaque dirSetOf : Nat → Nat
/-- FREE VALUE. The partition-TLB set of an entry, from its address space and its page's number: R34 gives no index function.
(DESIGN CHOICE, log 14.) -/
opaque tlbSetOf : Nat → Nat → Nat
/-- FREE VALUE. Which candidate a replacement picks (pseudo-LRU, tree not given: R51, R55, R69), from the step counter
and the number of candidates. (DESIGN CHOICE, log 14.) -/
opaque victim : Nat → Nat → Nat
/-- FREE VALUE. Whether a box test reports a child whose box the segment misses by at most the tolerance of R226:
"a fixed function of the ray and the box". The arguments are the eight segment words and the six box bounds.
(DESIGN CHOICE, log 66.) -/
opaque boxSlack : List Word → List Rat → Bool
/-- FREE VALUE. The rounded entry distance of a child that is reported only within the tolerance of R226.
(DESIGN CHOICE, log 66.) -/
opaque boxSlackDist : List Word → List Rat → BitVec 32
/-- FREE VALUE. Which free slot of a pool a new ray takes (R402: "a free slot"), from the step counter and the number of
free slots. (DESIGN CHOICE, log 68.) -/
opaque freeSlot : Nat → Nat → Nat
/-- FREE VALUE. The die's clk count (R474) at a step of the model: steps are not clk. (DESIGN CHOICE, log 4.) -/
opaque deviceClk : Nat → BitVec 64
/-- FREE VALUE. Nanoseconds since device reset (R368, WALLL and WALLH) at a step of the model. (DESIGN CHOICE, log 4.) -/
opaque wallNs : Nat → BitVec 64
/-- FREE VALUE. Whether the code cache of a cluster loses a line when it is filled (R273 gives it no size, and lets a line
be "either old or new"), from the step counter, the address space and the number of the line. (DESIGN CHOICE, log 15.) -/
opaque codeDrop : Nat → Nat → Nat → Bool
/-- FREE VALUE. The device serial number (R520). (DESIGN CHOICE, log 59.) -/
opaque serial : List (BitVec 8)
/-- FREE VALUE. The bytes of an attestation report from its contents in the order of R520: the spec gives the contents and no
layout. (DESIGN CHOICE, log 59.) -/
opaque reportByte : List (List (BitVec 8)) → Nat → BitVec 8
/-- FREE VALUE. The signature of the identity key over the contents of a report: its private half never leaves the controller
(R520). The number tells one signature from another. (DESIGN CHOICE, log 59.) -/
opaque identitySign : List (List (BitVec 8)) → Nat → List (BitVec 8)
/-- FREE VALUE. Bytes of a record whose layout "is the device's own": the block record of R461. (DESIGN CHOICE, log 73.) -/
opaque privateByte : Nat → Nat → BitVec 8
/-- FREE VALUE. The hash of the public key of firmware images, fused on the die (R519). (DESIGN CHOICE, log 98.) -/
opaque fusedKeyHash : List (BitVec 8)
/-- FREE VALUE. The version that the header of an image states: the header's layout is not given (R519).
(DESIGN CHOICE, log 98.) -/
opaque imageVersion : List (BitVec 8) → Nat
/-- FREE VALUE. The fused minimum version of a firmware image (R519). (DESIGN CHOICE, log 98.) -/
opaque minVersion : Nat → Nat
/-- FREE VALUE. The aligned unit that the device takes where software gives an unaligned address for a structure whose
alignment the spec states without saying what another address does (FUT of a copy: R151, R171; BASE, QUEUE and OVL of
queues: R172, R176). The argument is the address divided by the alignment, rounded down. (DESIGN CHOICE, log 37.) -/
opaque alignedUnit : Nat → Nat

end Sys2Proof.Config
end

