-- ==== Sys2Proof/Syntax.lean ====
section
/-! DEFINITION. The instructions and the steps of the Molell M2: one constructor per row of the opcode table. The 224
encoded rows carry the fields of their formats (R274, R275, R293); the 119 rows without an encoding are the steps of
the host, the command processor, the engines and the memory system, and carry what names the work they act on. -/
namespace Sys2Proof

/-- An operand code of R279, with its literal word where the code calls for one. -/
inductive Opnd where
  | v (n : Fin 128)
  | s (n : Fin 64)
  | a (n : Fin 32)
  | latch
  | lit32 (w : Word)
  | lit64 (w : DWord)
  | zero
  | lane
  | quad
  | grp
  | bx
  | by_
  | bz
  | launch
  | emask
  | amask
  | icnt
  | core
  | ray
  | inl (k : Fin 15)
  | none
  deriving DecidableEq, Repr

/-- A predicate code of R283; `rsvd` is a code that no field may hold. -/
inductive Pred where
  | p (n : Fin 96)
  | tru
  | fls
  | rsvd (c : BitVec 8)
  deriving DecidableEq, Repr

/-- The access widths of R278. -/
inductive Width where
  | z8 | z16 | w32 | w64 | w128 | s8 | s16 | rsvd
  deriving DecidableEq, Repr

/-- The order field of R115: plain, or acquire and release at cluster, die or system scope. -/
inductive Order where
  | plain | clu | die | sys
  deriving DecidableEq, Repr

/-- The cache field of R52. -/
inductive CachePol where
  | normal | stream | persist | bypass
  deriving DecidableEq, Repr

/-- The M byte of loads and stores (R278); `off` is the offset literal of OFS = 1. -/
structure MemFields where
  wid : Width
  off : Option Word
  cache : CachePol
  ord : Order
  deriving DecidableEq, Repr

/-- The scopes of R104. -/
inductive Scope where
  | core | clu | die | pair | sys
  deriving DecidableEq, Repr

/-- The atomic operations of R383. -/
inductive AtomOp where
  | add | add64 | mins | maxs | minu | maxu | and | or | xor | swap | swap64 | cas | cas64 | fadd
  deriving DecidableEq, Repr

/-- The M byte of atomics (R278). -/
structure AtomFields where
  op : AtomOp
  ret : Bool
  scope : Scope
  deriving DecidableEq, Repr

/-- The fields of an `mma` word (R294); `bhalf` is the B base divided by 2. -/
structure MmaFields where
  tile : Fin 8
  ga : Fin 32
  va : Fin 128
  gb : Fin 32
  bhalf : Fin 64
  deriving DecidableEq, Repr

/-- A group by its block's serial in the model and its number in the block. -/
structure GroupKey where
  block : Nat
  index : Nat
  deriving DecidableEq, Repr

/-- A matrix sequencer: its cluster and its number there (R243). -/
structure SeqKey where
  cluster : Nat
  index : Nat
  deriving DecidableEq, Repr

/-- The structures of R73 that an error can strike. -/
inductive EccUnit where
  | l1 | l2Data | l2Tag | rdc | cirque | localStore | vFile | saFile | tlb | tiles | dram
  deriving DecidableEq, Repr

/-- What one patrol-scrub read finds (R74). -/
inductive ScrubFinding where
  | clean | corrected | uncorrectable
  deriving DecidableEq, Repr

/-- One patrol-scrub read: what it finds, and the core and the lanes in which it finds it (R74, R76). -/
structure ScrubRead where
  core : Nat
  lanes : Word
  finding : ScrubFinding
  deriving DecidableEq, Repr

/-- A firmware image as the flash holds it (R519): the 64 bytes of its header besides the signature, the signature's two numbers, and
its body. -/
structure FwImage where
  head : List Byte
  r : Nat
  s : Nat
  body : List Byte
  deriving DecidableEq, Repr

/-- A line of a pair transaction, with the stores of the peer die that follow once this die has given it up, by byte (R70). -/
structure PeerLine where
  line : Nat
  stores : List (Nat × Byte)
  deriving DecidableEq, Repr

/-- Whose copy command is accepted: one of this die, by its number, or one of the peer die, by the lines homed here (R60). -/
inductive CopyTaker where
  | own (cmd : Nat)
  | peer (lines : List Nat)
  deriving DecidableEq, Repr

/-- Whose copy command writes: one of this die, or one of the peer die with the line and its bytes (R60). -/
inductive CopyWriter where
  | own (cmd : Nat)
  | peer (line : Nat) (bytes : List (Nat × Byte))
  deriving DecidableEq, Repr

/-- The agents that stop at a halt (R450, R456). -/
inductive HaltAgent where
  | group (g : GroupKey)
  | sequencer (k : SeqKey)
  | engine (n : Nat)
  | traversal (cluster : Nat)
  | cirque (part : Nat)
  deriving DecidableEq, Repr

/-- The instructions and steps of the device: one constructor per row of the opcode table. `e` is the run-end bit. The
encoded rows come first: the compiler of Lean gives no object tag beyond 244, so compiled code builds only those, and
`step` reaches the steps without an encoding through the agenda of the state or by calling their meanings. -/
inductive Instr where
  -- 16-bit group instructions (R274)
  | add16 (e : Bool) (d y : Fin 32)
  | sub16 (e : Bool) (d y : Fin 32)
  | mul16 (e : Bool) (d y : Fin 32)
  | and16 (e : Bool) (d y : Fin 32)
  | or16 (e : Bool) (d y : Fin 32)
  | xor16 (e : Bool) (d y : Fin 32)
  | shl16 (e : Bool) (d y : Fin 32)
  | shru16 (e : Bool) (d y : Fin 32)
  | fadd16 (e : Bool) (d y : Fin 32)
  | fmul16 (e : Bool) (d y : Fin 32)
  | fsub16 (e : Bool) (d y : Fin 32)
  | fmin16 (e : Bool) (d y : Fin 32)
  | fmax16 (e : Bool) (d y : Fin 32)
  | mov16 (e : Bool) (d y : Fin 32)
  | mins16 (e : Bool) (d y : Fin 32)
  | maxs16 (e : Bool) (d y : Fin 32)
  -- two-source instructions (F3)
  | add (e : Bool) (d x y : Opnd)
  | sub (e : Bool) (d x y : Opnd)
  | mul (e : Bool) (d x y : Opnd)
  | mulhs (e : Bool) (d x y : Opnd)
  | mulhu (e : Bool) (d x y : Opnd)
  | mad (e : Bool) (d x y : Opnd)
  | mins (e : Bool) (d x y : Opnd)
  | maxs (e : Bool) (d x y : Opnd)
  | minu (e : Bool) (d x y : Opnd)
  | maxu (e : Bool) (d x y : Opnd)
  | and (e : Bool) (d x y : Opnd)
  | or (e : Bool) (d x y : Opnd)
  | xor (e : Bool) (d x y : Opnd)
  | andn (e : Bool) (d x y : Opnd)
  | shl (e : Bool) (d x y : Opnd)
  | shru (e : Bool) (d x y : Opnd)
  | shrs (e : Bool) (d x y : Opnd)
  | rotl (e : Bool) (d x y : Opnd)
  | bfes (e : Bool) (d x y : Opnd)
  | bfeu (e : Bool) (d x y : Opnd)
  | bfi (e : Bool) (d x y : Opnd)
  | fadd (e : Bool) (d x y : Opnd)
  | fsub (e : Bool) (d x y : Opnd)
  | fmul (e : Bool) (d x y : Opnd)
  | ffma (e : Bool) (d x y : Opnd)
  | fmin (e : Bool) (d x y : Opnd)
  | fmax (e : Bool) (d x y : Opnd)
  | hadd2 (e : Bool) (d x y : Opnd)
  | hmul2 (e : Bool) (d x y : Opnd)
  | hfma2 (e : Bool) (d x y : Opnd)
  | bfma2 (e : Bool) (d x y : Opnd)
  | dp4aS (e : Bool) (d x y : Opnd)
  | dp4aU (e : Bool) (d x y : Opnd)
  | dp8aS (e : Bool) (d x y : Opnd)
  | xlaneSel (e : Bool) (d x y : Opnd)
  | xlaneFlip (e : Bool) (d x y : Opnd)
  -- compares (FK) and predicate logic
  | cmpiEq (e : Bool) (pd : Pred) (x y : Opnd)
  | cmpiNe (e : Bool) (pd : Pred) (x y : Opnd)
  | cmpiLt (e : Bool) (pd : Pred) (x y : Opnd)
  | cmpiGe (e : Bool) (pd : Pred) (x y : Opnd)
  | cmpuLt (e : Bool) (pd : Pred) (x y : Opnd)
  | cmpuGe (e : Bool) (pd : Pred) (x y : Opnd)
  | cmpfEq (e : Bool) (pd : Pred) (x y : Opnd)
  | cmpfNe (e : Bool) (pd : Pred) (x y : Opnd)
  | cmpfLt (e : Bool) (pd : Pred) (x y : Opnd)
  | cmpfGe (e : Bool) (pd : Pred) (x y : Opnd)
  | cmpfUo (e : Bool) (pd : Pred) (x y : Opnd)
  | cmpfO (e : Bool) (pd : Pred) (x y : Opnd)
  | pand (e : Bool) (pd px py : Pred)
  | por (e : Bool) (pd px py : Pred)
  | pxor (e : Bool) (pd px py : Pred)
  -- memory (FM)
  | ld (e : Bool) (d x : Opnd) (m : MemFields)
  | st (e : Bool) (d x : Opnd) (m : MemFields)
  | ldl (e : Bool) (d x : Opnd) (m : MemFields)
  | stl (e : Bool) (d x : Opnd) (m : MemFields)
  | atom (e : Bool) (d x : Opnd) (m : AtomFields)
  | atoml (e : Bool) (d x : Opnd) (m : AtomFields)
  -- integer unary (F2 0x33)
  | mov (e : Bool) (d x : Opnd)
  | not (e : Bool) (d x : Opnd)
  | neg (e : Bool) (d x : Opnd)
  | abs (e : Bool) (d x : Opnd)
  | popc (e : Bool) (d x : Opnd)
  | clz (e : Bool) (d x : Opnd)
  | ctz (e : Bool) (d x : Opnd)
  | brev (e : Bool) (d x : Opnd)
  | sextb (e : Bool) (d x : Opnd)
  | sexth (e : Bool) (d x : Opnd)
  | zextb (e : Bool) (d x : Opnd)
  | zexth (e : Bool) (d x : Opnd)
  | bswap (e : Bool) (d x : Opnd)
  | packS8 (e : Bool) (d x : Opnd)
  | packU8 (e : Bool) (d x : Opnd)
  | packS4 (e : Bool) (d x : Opnd)
  | unpkS8 (e : Bool) (d x : Opnd)
  | unpkU8 (e : Bool) (d x : Opnd)
  | unpkS4 (e : Bool) (d x : Opnd)
  -- FP unary and conversion (F2 0x34)
  | fneg (e : Bool) (d x : Opnd)
  | fabs (e : Bool) (d x : Opnd)
  | frcp (e : Bool) (d x : Opnd)
  | frsq (e : Bool) (d x : Opnd)
  | fsqrt (e : Bool) (d x : Opnd)
  | fex2 (e : Bool) (d x : Opnd)
  | flg2 (e : Bool) (d x : Opnd)
  | fsin (e : Bool) (d x : Opnd)
  | fcos (e : Bool) (d x : Opnd)
  | frintNe (e : Bool) (d x : Opnd)
  | frintZ (e : Bool) (d x : Opnd)
  | frintDn (e : Bool) (d x : Opnd)
  | frintUp (e : Bool) (d x : Opnd)
  | ffrac (e : Bool) (d x : Opnd)
  | fclass (e : Bool) (d x : Opnd)
  | fsat (e : Bool) (d x : Opnd)
  | cvtF32S32 (e : Bool) (d x : Opnd)
  | cvtF32U32 (e : Bool) (d x : Opnd)
  | cvtS32F32Ne (e : Bool) (d x : Opnd)
  | cvtS32F32Z (e : Bool) (d x : Opnd)
  | cvtS32F32Dn (e : Bool) (d x : Opnd)
  | cvtS32F32Up (e : Bool) (d x : Opnd)
  | cvtU32F32Ne (e : Bool) (d x : Opnd)
  | cvtU32F32Z (e : Bool) (d x : Opnd)
  | cvtF16x2F32 (e : Bool) (d x : Opnd)
  | cvtBf16x2F32 (e : Bool) (d x : Opnd)
  | cvtF32F16lo (e : Bool) (d x : Opnd)
  | cvtF32F16hi (e : Bool) (d x : Opnd)
  | cvtF32Bf16lo (e : Bool) (d x : Opnd)
  | cvtF32Bf16hi (e : Bool) (d x : Opnd)
  | cvtF16x2Bf16x2 (e : Bool) (d x : Opnd)
  | cvtBf16x2F16x2 (e : Bool) (d x : Opnd)
  | qntC8 (e : Bool) (t : Fin 8) (d x : Opnd)
  | dqntC8 (e : Bool) (t : Fin 8) (d x : Opnd)
  -- lanes (F2 0x35)
  | bcastS (e : Bool) (d x : Opnd)
  | affx (e : Bool) (d x : Opnd)
  | ballot (e : Bool) (d : Opnd) (px : Pred)
  | anyof (e : Bool) (d : Opnd) (px : Pred)
  | allof (e : Bool) (d : Opnd) (px : Pred)
  | pcount (e : Bool) (d : Opnd) (px : Pred)
  | redAddS32 (e : Bool) (d x : Opnd)
  | redMinS32 (e : Bool) (d x : Opnd)
  | redMaxS32 (e : Bool) (d x : Opnd)
  | redAddF32 (e : Bool) (d x : Opnd)
  | redMinF32 (e : Bool) (d x : Opnd)
  | redMaxF32 (e : Bool) (d x : Opnd)
  | scanAddS32 (e : Bool) (d x : Opnd)
  | scanxAddS32 (e : Bool) (d x : Opnd)
  | scanAddF32 (e : Bool) (d x : Opnd)
  | qswapH (e : Bool) (d x : Opnd)
  | qswapV (e : Bool) (d x : Opnd)
  | qswapD (e : Bool) (d x : Opnd)
  | qbc0 (e : Bool) (d x : Opnd)
  | qbc1 (e : Bool) (d x : Opnd)
  | qbc2 (e : Bool) (d x : Opnd)
  | qbc3 (e : Bool) (d x : Opnd)
  | rebalLd (e : Bool) (d x : Opnd)
  | rebalNx (e : Bool) (d x : Opnd)
  -- control (F2 0x36)
  | nop (e : Bool)
  | exit (e : Bool)
  | join (e : Bool)
  | ret (e : Bool)
  | callI (e : Bool) (x : Opnd)
  | jmpI (e : Bool) (x : Opnd)
  | barBlk (e : Bool)
  | yield (e : Bool)
  | trap (e : Bool) (x : Opnd)
  | brk (e : Bool)
  | rte (e : Bool)
  | rdsr (e : Bool) (d : Opnd) (n : BitVec 8)
  | wrsr (e : Bool) (n : BitVec 8) (x : Opnd)
  | fenceCore (e : Bool)
  | fenceClu (e : Bool)
  | fenceDie (e : Bool)
  | fencePair (e : Bool)
  | fenceSys (e : Bool)
  | endphase (e : Bool) (x : Opnd)
  | clk (e : Bool) (d : Opnd)
  | dsrd (e : Bool) (d : Opnd) (n : BitVec 8)
  | dswr (e : Bool) (n : BitVec 8) (x : Opnd)
  | wait (e : Bool) (ldc stc cpc tlc : BitVec 6)
  | grd (gp : Pred) (neg : Bool) (gcnt : Fin 8)
  | bra (e : Bool) (disp : BitVec 23)
  | call (e : Bool) (disp : BitVec 23)
  | brsZ (e : Bool) (si : Fin 64) (disp : BitVec 16)
  | brsNz (e : Bool) (si : Fin 64) (disp : BitVec 16)
  | brv (e : Bool) (pr : Pred) (sns : Bool) (disp : BitVec 16)
  -- FC: copies, rays, tasks, matrix
  | copyLin (e : Bool) (t b : Opnd)
  | copyRect (e : Bool) (t b : Opnd)
  | copyWin (e : Bool) (t b : Opnd)
  | copyGath (e : Bool) (t b : Opnd)
  | copyRed (e : Bool) (t b : Opnd)
  | copyFill (e : Bool) (t b : Opnd)
  | trace (e : Bool) (b : Opnd)
  | spawn (e : Bool) (t b : Opnd)
  | retire (e : Bool)
  | accum (e : Bool) (b : Opnd)
  | binp (e : Bool) (t b : Opnd)
  | binrep (e : Bool) (t b : Opnd)
  | texLod (e : Bool) (t b : Opnd)
  | texQ (e : Bool) (t b : Opnd)
  | rng (e : Bool) (t b : Opnd)
  | freg (e : Bool) (t b : Opnd)
  | fres (e : Bool) (t b : Opnd)
  | tqPush (e : Bool) (t b : Opnd)
  | tqPop (e : Bool) (t b : Opnd)
  | fpoll (e : Bool) (t b : Opnd)
  | tqPushv (e : Bool) (t b : Opnd)
  | mstart (e : Bool) (b : Opnd)
  | accld (e : Bool) (t b : Opnd)
  | acczero (e : Bool) (b : Opnd)
  | mcfg (e : Bool) (b : Opnd)
  | mbarArr (e : Bool) (n : Fin 16)
  | mbarWait (e : Bool) (n : Fin 16) (t : Opnd)
  -- matrix-stream words (R293)
  | mnop
  | mend
  | mwait (n : Fin 16) (ph : Bool)
  | marr (n : Fin 16)
  | mzero (tile : Fin 8)
  | mloop (c : Fin 4) (nm1 : BitVec 12) (disp : BitVec 12)
  | mbra (disp : BitVec 24)
  | mmaF16 (m : MmaFields)
  | mmaBf16 (m : MmaFields)
  | mmaS8 (m : MmaFields)
  | mmaU8 (m : MmaFields)
  | mmaC8 (m : MmaFields)
  | mmaS4 (m : MmaFields)
  | mmaF16Sp16 (m : MmaFields)
  | mmaBf16Sp16 (m : MmaFields)
  | mmaS8Sp16 (m : MmaFields)
  | mmaS8Sp8 (m : MmaFields)
  | mmaS4Sp8 (m : MmaFields)
  -- the device, the host's accesses and the controller
  | deviceReset
  | firmwareImageVerify (image : FwImage) (key : List Byte)
  | registerWrite (fn off : Nat) (wide : Bool) (val : DWord)
  | hostBar2Write (fn off : Nat) (data : List Byte)
  | hostBar2Read (fn off len : Nat)
  | doorbellTail (fn q : Nat) (tail : Word)
  | doorbellCcons (fn q : Nat) (val : Word)
  | cqallocWrite (fn : Nat) (part ent : Fin 8) (val : DWord)
  | pclr (fn : Nat) (val : DWord)
  | persistClearDone
  | windowEnable (fn : Nat) (w : Fin 16) (val : DWord)
  | windowEnableDone (w : Fin 16)
  | windowDisable (fn : Nat) (w : Fin 16) (val : DWord)
  | attestationRequest (fn : Nat) (val : DWord)
  | attestationReportDone
  | summaryRequest (fn : Nat) (val : DWord)
  | summaryDone
  | pairctlRetrain (fn : Nat) (val : Word)
  | colLinkTrainStart
  | colLinkUp
  | flitCrcReplay
  | colLinkReplayFail
  | colLinkDown
  | powerLimitReached
  | thermalTrip
  -- packets and launches
  | nopPacket (q : Nat)
  | illegalPacket (q : Nat)
  | launch (q : Nat)
  | modeSwitchFlush
  | modeSwitchDone
  | launchStart (l : Nat)
  | branch (q : Nat)
  | branchEvaluate (q : Nat)
  | queueWait (q : Nat)
  | queueWaitPoll (q : Nat)
  | signal (q : Nat)
  | inval (q : Nat)
  | invalShootdownDone (job : Nat)
  | invalComplete (job : Nat)
  | pmove (q : Nat)
  | pmoveCopyDone (job : Nat)
  | abortLost (q : Nat)
  | abortLaunch (q : Nat)
  | ctxctlHalt (q : Nat)
  | ctxctlResume (q : Nat)
  | ctxctlEnd (q : Nat)
  | launchComplete (l : Nat)
  | blockPlace (l : Nat)
  | blockEvict (blk : Nat)
  | evictSaveDone (blk : Nat)
  | blockRestore (blk : Nat)
  -- completions of issued work
  | branchRefillDone (g : GroupKey) (slot : Fin 2)
  | fixedLatencyWrite (g : GroupKey)
  | varLatencyWrite (op : Nat)
  | storeFifoLeave (g : GroupKey)
  | storePerformed (op : Nat)
  | loadResultReturn (op : Nat)
  | atomicPerformed (op : Nat)
  | localAccessPerformed (op : Nat)
  | ownedAccessProceed (op : Nat)
  | translationWalkDone (walk : Nat)
  | viewLineFill (line : Nat)
  | scrubLine (unit : EccUnit) (part : Fin 8) (line : Nat) (found : ScrubRead)
  | rds (line : Nat)
  | upg (line : Nat)
  | rdx (line : Nat)
  | peerAtomic (line off : Nat) (op : AtomOp) (d n : DWord) (data : List Byte)
  | wb (line : Nat) (data : List Byte)
  | inv (own : Bool) (l : PeerLine)
  | invAck (line : Nat)
  | recall (own keep : Bool) (l : PeerLine) (data : List Byte)
  | recallData (line : Nat)
  | fenceComplete (op : Nat)
  | barBlkRelease (blk : Nat)
  | stageArrivalVisible (op : Nat)
  -- engines, the Cirque, futures and queues
  | copyAccept (by_ : CopyTaker)
  | copyLineRead (cmd : Nat)
  | copyLineWrite (by_ : CopyWriter)
  | binAppend (op : Nat)
  | binrepAccept (op : Nat)
  | scatterReplayStart (rep : Nat)
  | scatterReplayDone (rep : Nat)
  | accumAppend (op : Nat)
  | accTileReplay (rep : Nat)
  | accTileReplayDone (rep : Nat)
  | fregPerform (op : Nat)
  | fresPerform (op : Nat)
  | fpollPerform (op : Nat)
  | waitListWalk (job : Nat)
  | tqPushPerform (op : Nat)
  | tqPopPerform (op : Nat)
  | tqPopWake (op : Nat)
  -- rays
  | rayHandoffPerformed (op : Nat)
  | prefetchHintRead (job : Nat)
  | traversalPull (cluster : Nat) (asid : Nat)
  | traversalBinTimeout (part asid bin : Nat)
  | nodeVisit (part asid slot : Nat)
  | shadeBinTimeout (part asid bin : Nat)
  | waveForm (part asid : Nat)
  | waveFormerStarvation (part asid : Nat)
  | spawnHandleWrite (op : Nat)
  | textureResult (op : Nat)
  | rngResult (op : Nat)
  -- the matrix engine
  | streamFetchReturn (k : SeqKey)
  | ksliceApply (k : SeqKey)
  | talusStallRetry (k : SeqKey)
  | talusStallTimeout (k : SeqKey)
  | matrixWatchdogReset (cluster : Nat)
  | matrixResetDone (cluster : Nat)
  | accldResult (op : Nat)
  | acczeroPerformed (op : Nat)
  | mcfgPerformed (op : Nat)
  -- halts, debug and trace
  | haltLineArrive (asid : Nat)
  | haltAgentStop (asid : Nat) (agent : HaltAgent)
  | deferredCauseDelivery (g : GroupKey)
  | profileSample (core : Nat)
  | dispatchTraceTimeout (asid : Nat)
  -- two more steps of the device
  | codeCacheFill (cluster asid line : Nat)
  | hostRegisterRead (fn off : Nat) (wide : Bool)
  deriving DecidableEq, Repr

end Sys2Proof
end

