-- ==== Sys2Proof/WellFormed.lean ====
section
/-! DEFINITION. Which instruction terms are encodings of an instruction: the checks of R276, R278, R280, R282, R283 and
R290 that depend on the word alone. A word that fails one raises the illegal-encoding group fault (R289). The checks that
need the group (its allocation, its role, its mode) are in the issue checks of Machine/Operands.lean. -/
namespace Sys2Proof

/-- Why a word is not an instruction (R289, R293). -/
inductive Reject where
  /-- fewer halfwords than the instruction has -/
  | short
  /-- an F2 FN that is not listed (R286, R287) -/
  | unassignedFn
  /-- an FC K that is not listed (R288) -/
  | unassignedK
  /-- a non-zero bit that must be zero (R275, R293) -/
  | nonzeroReserved
  /-- a field that the instruction does not use and that is not 0xFF (R276) -/
  | unreadField
  /-- a destination code from 0xE0 to 0xFE (R280) -/
  | destCode
  /-- 0xFF in a field that is read (R280) -/
  | sourceNone
  /-- a predicate code out of range (R283) -/
  | predCode
  /-- a width that the instruction does not have (R278) -/
  | widthCode
  /-- a cache policy on local store (R278) -/
  | cacheOnLocal
  /-- an atomic operation or scope that is not assigned (R278, R383) -/
  | atomCode
  /-- an operand code that cannot be an address (R375) -/
  | addressCode
  /-- an operand code that the instruction cannot take there (R317, R338, R358, R377) -/
  | operandCode
  /-- a second literal (R282) -/
  | secondLiteral
  /-- a `grd` with E = 1 (R290) -/
  | guardRunEnd
  /-- a T or B field of the wrong class (R276) -/
  | fieldClass
  /-- a stream mop that is not assigned (R293) -/
  | unassignedMop
  deriving DecidableEq, Repr

namespace Opnd

/-- Literal words the operand calls for (R271). -/
def isLit : Opnd → Bool
  | .lit32 _ => true
  | .lit64 _ => true
  | _ => false

/-- Bytes of literal words (R271). -/
def litBytes : Opnd → Nat
  | .lit32 _ => 4
  | .lit64 _ => 8
  | _ => 0

/-- A register code: V, S or A. -/
def isReg : Opnd → Bool
  | .v _ => true
  | .s _ => true
  | .a _ => true
  | _ => false

end Opnd

namespace WellFormed

/-- A destination holds a register code or 0xFF (R280). -/
def dst (d : Opnd) : Option Reject :=
  if d.isReg || d == .none then none else some .destCode

/-- A destination that is read too holds a register code (R305, R324). -/
def dstRead (d : Opnd) : Option Reject :=
  if d.isReg then none else if d == .none then some .sourceNone else some .destCode

/-- A source that is read is not 0xFF (R280). -/
def src (x : Opnd) : Option Reject := if x == .none then some .sourceNone else none

/-- A source run starts at a register code (R317, R338). -/
def srcRun (x : Opnd) : Option Reject :=
  if x.isReg then none else if x == .none then some .sourceNone else some .operandCode

/-- At most one literal (R282). -/
def oneLit (x y : Opnd) : Option Reject := if x.isLit && y.isLit then some .secondLiteral else none

/-- A predicate destination is p0 to p95 (R283). -/
def pdst : Pred → Option Reject
  | .p _ => none
  | _ => some .predCode

/-- A predicate source is p0 to p95, true or false (R283). -/
def psrc : Pred → Option Reject
  | .rsvd _ => some .predCode
  | _ => none

/-- An address operand (R375). -/
def addr : Opnd → Option Reject
  | .latch => some .addressCode
  | .ray => some .addressCode
  | .none => some .addressCode
  | _ => none

/-- Store data: a register, `zero` or an inline constant (R377). -/
def storeData : Opnd → Option Reject
  | .v _ => none
  | .s _ => none
  | .a _ => none
  | .zero => none
  | .inl _ => none
  | .none => some .sourceNone
  | _ => some .operandCode

/-- The data register of an atomic (R278, R384). -/
def atomData (d : Opnd) : Option Reject :=
  if d.isReg then none else if d == .none then some .sourceNone else some .operandCode

/-- OFS and a literal address may not both occur (R282). -/
def offLit (x : Opnd) (m : MemFields) : Option Reject :=
  if x.isLit && m.off.isSome then some .secondLiteral else none

/-- Every width but 7 (R278). -/
def loadWidth (m : MemFields) : Option Reject := if m.wid == .rsvd then some .widthCode else none

/-- Stores have no sign-extending width (R278). -/
def storeWidth (m : MemFields) : Option Reject :=
  if m.wid == .rsvd || m.wid == .s8 || m.wid == .s16 then some .widthCode else none

/-- CACHE must be 0 on local store (R278). -/
def localCache (m : MemFields) : Option Reject := if m.cache == .normal then none else some .cacheOnLocal

/-- A token field: an S code or none (R276). -/
def tokenT : Opnd → Option Reject
  | .s _ => none
  | .none => none
  | _ => some .fieldClass

/-- A field that holds an S code (R276). -/
def sField : Opnd → Option Reject
  | .s _ => none
  | _ => some .fieldClass

/-- A field that holds a V code (R276). -/
def vField : Opnd → Option Reject
  | .v _ => none
  | _ => some .fieldClass

/-- A field that holds a V code or none (R399, `spawn`). -/
def vFieldOpt : Opnd → Option Reject
  | .v _ => none
  | .none => none
  | _ => some .fieldClass

/-- The target of `call.i` and `jmp.i`; a V code is a class error, found later (R358). -/
def jumpTarget : Opnd → Option Reject
  | .s _ => none
  | .a _ => none
  | .v _ => none
  | .lit64 _ => none
  | .none => some .sourceNone
  | _ => some .operandCode

/-- The first failing check. -/
def first : List (Option Reject) → Option Reject
  | [] => none
  | some r :: _ => some r
  | none :: rest => first rest

/-- A two-source instruction of F3. -/
def f3 (d x y : Opnd) : Option Reject := first [dst d, src x, src y, oneLit x y]
/-- A two-source instruction of F3 that reads D too. -/
def f3d (d x y : Opnd) : Option Reject := first [dstRead d, src x, src y, oneLit x y]
/-- A compare (R341). -/
def fk (pd : Pred) (x y : Opnd) : Option Reject := first [pdst pd, src x, src y, oneLit x y]
/-- A one-source instruction of F2. -/
def f2 (d x : Opnd) : Option Reject := first [dst d, src x]
/-- A one-source instruction of F2 whose source is a run (R317, R338). -/
def f2run (d x : Opnd) : Option Reject := first [dst d, srcRun x]
/-- A vote (R345). -/
def vote (d : Opnd) (px : Pred) : Option Reject := first [dst d, psrc px]
/-- A command with a token and an S run. -/
def cmd (t b : Opnd) : Option Reject := first [tokenT t, sField b]

end WellFormed

open WellFormed in
/-- The first reason why a term is not an encoding of an instruction, or none. -/
def Instr.check : Instr → Option Reject
  | .mad _ d x y => f3d d x y
  | .bfi _ d x y => f3d d x y
  | .dp4aS _ d x y => f3d d x y
  | .dp4aU _ d x y => f3d d x y
  | .dp8aS _ d x y => f3d d x y
  | .ffma _ d x y => f3d d x y
  | .hfma2 _ d x y => f3d d x y
  | .bfma2 _ d x y => f3d d x y
  | .add _ d x y => f3 d x y
  | .sub _ d x y => f3 d x y
  | .mul _ d x y => f3 d x y
  | .mulhs _ d x y => f3 d x y
  | .mulhu _ d x y => f3 d x y
  | .mins _ d x y => f3 d x y
  | .maxs _ d x y => f3 d x y
  | .minu _ d x y => f3 d x y
  | .maxu _ d x y => f3 d x y
  | .and _ d x y => f3 d x y
  | .or _ d x y => f3 d x y
  | .xor _ d x y => f3 d x y
  | .andn _ d x y => f3 d x y
  | .shl _ d x y => f3 d x y
  | .shru _ d x y => f3 d x y
  | .shrs _ d x y => f3 d x y
  | .rotl _ d x y => f3 d x y
  | .bfes _ d x y => f3 d x y
  | .bfeu _ d x y => f3 d x y
  | .fadd _ d x y => f3 d x y
  | .fsub _ d x y => f3 d x y
  | .fmul _ d x y => f3 d x y
  | .fmin _ d x y => f3 d x y
  | .fmax _ d x y => f3 d x y
  | .hadd2 _ d x y => f3 d x y
  | .hmul2 _ d x y => f3 d x y
  | .xlaneSel _ d x y => f3 d x y
  | .xlaneFlip _ d x y => f3 d x y
  | .cmpiEq _ p x y => fk p x y
  | .cmpiNe _ p x y => fk p x y
  | .cmpiLt _ p x y => fk p x y
  | .cmpiGe _ p x y => fk p x y
  | .cmpuLt _ p x y => fk p x y
  | .cmpuGe _ p x y => fk p x y
  | .cmpfEq _ p x y => fk p x y
  | .cmpfNe _ p x y => fk p x y
  | .cmpfLt _ p x y => fk p x y
  | .cmpfGe _ p x y => fk p x y
  | .cmpfUo _ p x y => fk p x y
  | .cmpfO _ p x y => fk p x y
  | .pand _ p x y => first [pdst p, psrc x, psrc y]
  | .por _ p x y => first [pdst p, psrc x, psrc y]
  | .pxor _ p x y => first [pdst p, psrc x, psrc y]
  | .ld _ d x m => first [dst d, addr x, loadWidth m, offLit x m]
  | .st _ d x m => first [storeData d, addr x, storeWidth m, offLit x m]
  | .ldl _ d x m => first [dst d, addr x, loadWidth m, localCache m, offLit x m]
  | .stl _ d x m => first [storeData d, addr x, storeWidth m, localCache m, offLit x m]
  | .atom _ d x _ => first [atomData d, addr x]
  | .atoml _ d x _ => first [atomData d, addr x]
  | .packS8 _ d x => f2run d x
  | .packU8 _ d x => f2run d x
  | .packS4 _ d x => f2run d x
  | .cvtF16x2F32 _ d x => f2run d x
  | .cvtBf16x2F32 _ d x => f2run d x
  | .mov _ d x => f2 d x
  | .not _ d x => f2 d x
  | .neg _ d x => f2 d x
  | .abs _ d x => f2 d x
  | .popc _ d x => f2 d x
  | .clz _ d x => f2 d x
  | .ctz _ d x => f2 d x
  | .brev _ d x => f2 d x
  | .sextb _ d x => f2 d x
  | .sexth _ d x => f2 d x
  | .zextb _ d x => f2 d x
  | .zexth _ d x => f2 d x
  | .bswap _ d x => f2 d x
  | .unpkS8 _ d x => f2 d x
  | .unpkU8 _ d x => f2 d x
  | .unpkS4 _ d x => f2 d x
  | .fneg _ d x => f2 d x
  | .fabs _ d x => f2 d x
  | .frcp _ d x => f2 d x
  | .frsq _ d x => f2 d x
  | .fsqrt _ d x => f2 d x
  | .fex2 _ d x => f2 d x
  | .flg2 _ d x => f2 d x
  | .fsin _ d x => f2 d x
  | .fcos _ d x => f2 d x
  | .frintNe _ d x => f2 d x
  | .frintZ _ d x => f2 d x
  | .frintDn _ d x => f2 d x
  | .frintUp _ d x => f2 d x
  | .ffrac _ d x => f2 d x
  | .fclass _ d x => f2 d x
  | .fsat _ d x => f2 d x
  | .cvtF32S32 _ d x => f2 d x
  | .cvtF32U32 _ d x => f2 d x
  | .cvtS32F32Ne _ d x => f2 d x
  | .cvtS32F32Z _ d x => f2 d x
  | .cvtS32F32Dn _ d x => f2 d x
  | .cvtS32F32Up _ d x => f2 d x
  | .cvtU32F32Ne _ d x => f2 d x
  | .cvtU32F32Z _ d x => f2 d x
  | .cvtF32F16lo _ d x => f2 d x
  | .cvtF32F16hi _ d x => f2 d x
  | .cvtF32Bf16lo _ d x => f2 d x
  | .cvtF32Bf16hi _ d x => f2 d x
  | .cvtF16x2Bf16x2 _ d x => f2 d x
  | .cvtBf16x2F16x2 _ d x => f2 d x
  | .qntC8 _ _ d x => f2 d x
  | .dqntC8 _ _ d x => f2 d x
  | .bcastS _ d x => f2 d x
  | .affx _ d x => f2 d x
  | .ballot _ d p => vote d p
  | .anyof _ d p => vote d p
  | .allof _ d p => vote d p
  | .pcount _ d p => vote d p
  | .redAddS32 _ d x => f2 d x
  | .redMinS32 _ d x => f2 d x
  | .redMaxS32 _ d x => f2 d x
  | .redAddF32 _ d x => f2 d x
  | .redMinF32 _ d x => f2 d x
  | .redMaxF32 _ d x => f2 d x
  | .scanAddS32 _ d x => f2 d x
  | .scanxAddS32 _ d x => f2 d x
  | .scanAddF32 _ d x => f2 d x
  | .qswapH _ d x => f2 d x
  | .qswapV _ d x => f2 d x
  | .qswapD _ d x => f2 d x
  | .qbc0 _ d x => f2 d x
  | .qbc1 _ d x => f2 d x
  | .qbc2 _ d x => f2 d x
  | .qbc3 _ d x => f2 d x
  | .rebalLd _ d x => f2 d x
  | .rebalNx _ d x => f2 d x
  | .callI _ x => jumpTarget x
  | .jmpI _ x => jumpTarget x
  | .trap _ x => src x
  | .rdsr _ d _ => dst d
  | .wrsr _ _ x => src x
  | .endphase _ x => src x
  | .clk _ d => dst d
  | .dsrd _ d _ => dst d
  | .dswr _ _ x => src x
  | .grd gp _ _ => psrc gp
  | .brv _ pr _ _ => psrc pr
  | .copyLin _ t b => cmd t b
  | .copyRect _ t b => cmd t b
  | .copyWin _ t b => cmd t b
  | .copyGath _ t b => cmd t b
  | .copyRed _ t b => cmd t b
  | .copyFill _ t b => cmd t b
  | .trace _ b => vField b
  | .spawn _ t b => first [vFieldOpt t, vField b]
  | .accum _ b => vField b
  | .binp _ t b => first [sField t, vField b]
  | .binrep _ t b => cmd t b
  | .texLod _ t b => first [vField t, sField b]
  | .texQ _ t b => first [vField t, sField b]
  | .rng _ t b => first [vField t, sField b]
  | .freg _ t b => cmd t b
  | .fres _ t b => cmd t b
  | .tqPush _ t b => cmd t b
  | .tqPop _ t b => cmd t b
  | .fpoll _ t b => cmd t b
  | .tqPushv _ t b => cmd t b
  | .mstart _ b => sField b
  | .accld _ t b => first [vField t, sField b]
  | .acczero _ b => sField b
  | .mcfg _ b => sField b
  | .mbarWait _ _ t => sField t
  | _ => none

/-- A term that is an encoding of an instruction, or a step without an encoding. -/
def Instr.wf (i : Instr) : Bool := i.check.isNone

end Sys2Proof
end

