-- ==== Sys2Proof/Decode.lean ====
section
/-! DEFINITION. The decoder of group code and of matrix streams (R271 to R294), total and rejecting by name, and the
encoder written from the same tables. -/
namespace Sys2Proof

/-- What a decoder answers: an instruction and its length in bytes, or why there is none. -/
inductive Decoded where
  | ok (i : Instr) (len : Nat)
  | reject (r : Reject)
  deriving DecidableEq, Repr

/-! ## Operand codes (R279, R283) -/

/-- The operand an 8-bit code names, with the literal words that would follow (R279). -/
def opndOf (c : BitVec 8) (l32 : Word) (l64 : DWord) : Opnd :=
  if h : c.toNat < 0x80 then .v ⟨c.toNat, h⟩
  else if h : c.toNat < 0xC0 then .s ⟨c.toNat - 0x80, by omega⟩
  else if h : c.toNat < 0xE0 then .a ⟨c.toNat - 0xC0, by omega⟩
  else if h : 0xF0 ≤ c.toNat ∧ c.toNat < 0xFF then .inl ⟨c.toNat - 0xF0, by omega⟩
  else match c.toNat with
    | 0xE0 => .latch
    | 0xE1 => .lit32 l32
    | 0xE2 => .lit64 l64
    | 0xE3 => .zero
    | 0xE4 => .lane
    | 0xE5 => .quad
    | 0xE6 => .grp
    | 0xE7 => .bx
    | 0xE8 => .by_
    | 0xE9 => .bz
    | 0xEA => .launch
    | 0xEB => .emask
    | 0xEC => .amask
    | 0xED => .icnt
    | 0xEE => .core
    | 0xEF => .ray
    | _ => .none

/-- The 8-bit code of an operand (R279). -/
def codeOf : Opnd → BitVec 8
  | .v n => BitVec.ofNat 8 n.val
  | .s n => BitVec.ofNat 8 (0x80 + n.val)
  | .a n => BitVec.ofNat 8 (0xC0 + n.val)
  | .latch => 0xE0#8
  | .lit32 _ => 0xE1#8
  | .lit64 _ => 0xE2#8
  | .zero => 0xE3#8
  | .lane => 0xE4#8
  | .quad => 0xE5#8
  | .grp => 0xE6#8
  | .bx => 0xE7#8
  | .by_ => 0xE8#8
  | .bz => 0xE9#8
  | .launch => 0xEA#8
  | .emask => 0xEB#8
  | .amask => 0xEC#8
  | .icnt => 0xED#8
  | .core => 0xEE#8
  | .ray => 0xEF#8
  | .inl k => BitVec.ofNat 8 (0xF0 + k.val)
  | .none => 0xFF#8

/-- The predicate a code names (R283). -/
def predOf (c : BitVec 8) : Pred :=
  if h : c.toNat < 96 then .p ⟨c.toNat, h⟩
  else if c = 0x60#8 then .tru
  else if c = 0x61#8 then .fls
  else .rsvd c

/-- The 8-bit code of a predicate (R283). -/
def pred8 : Pred → BitVec 8
  | .p n => BitVec.ofNat 8 n.val
  | .tru => 0x60#8
  | .fls => 0x61#8
  | .rsvd c => c

/-- The code of a predicate in a 7-bit field (R283). -/
def pred7 (p : Pred) : BitVec 7 := (pred8 p).setWidth 7

/-- The width a WID field names (R278). -/
def widthOf (w : BitVec 3) : Width :=
  match w.toNat with
  | 0 => .z8
  | 1 => .z16
  | 2 => .w32
  | 3 => .w64
  | 4 => .w128
  | 5 => .s8
  | 6 => .s16
  | _ => .rsvd

/-- The WID field of a width (R278). -/
def widthCode : Width → BitVec 3
  | .z8 => 0 | .z16 => 1 | .w32 => 2 | .w64 => 3 | .w128 => 4 | .s8 => 5 | .s16 => 6 | .rsvd => 7

/-- The order an ORD field names (R115). -/
def orderOf (w : BitVec 2) : Order :=
  match w.toNat with
  | 0 => .plain
  | 1 => .clu
  | 2 => .die
  | _ => .sys

/-- The ORD field of an order (R115). -/
def orderCode : Order → BitVec 2
  | .plain => 0 | .clu => 1 | .die => 2 | .sys => 3

/-- The policy a CACHE field names (R52). -/
def cacheOf (w : BitVec 2) : CachePol :=
  match w.toNat with
  | 0 => .normal
  | 1 => .stream
  | 2 => .persist
  | _ => .bypass

/-- The CACHE field of a policy (R52). -/
def cacheCode : CachePol → BitVec 2
  | .normal => 0 | .stream => 1 | .persist => 2 | .bypass => 3

/-- The scope a SCOPE field names, none for codes 5 to 7 (R121). -/
def scopeOf (w : BitVec 3) : Option Scope :=
  match w.toNat with
  | 0 => some .core
  | 1 => some .clu
  | 2 => some .die
  | 3 => some .pair
  | 4 => some .sys
  | _ => none

/-- The SCOPE field of a scope (R104). -/
def scopeCode : Scope → BitVec 3
  | .core => 0 | .clu => 1 | .die => 2 | .pair => 3 | .sys => 4

/-- The atomic operation an OP field names, none for 0xE and 0xF (R383). -/
def atomOpOf (w : BitVec 4) : Option AtomOp :=
  match w.toNat with
  | 0 => some .add
  | 1 => some .add64
  | 2 => some .mins
  | 3 => some .maxs
  | 4 => some .minu
  | 5 => some .maxu
  | 6 => some .and
  | 7 => some .or
  | 8 => some .xor
  | 9 => some .swap
  | 10 => some .swap64
  | 11 => some .cas
  | 12 => some .cas64
  | 13 => some .fadd
  | _ => none

/-- The OP field of an atomic operation (R383). -/
def atomOpCode : AtomOp → BitVec 4
  | .add => 0 | .add64 => 1 | .mins => 2 | .maxs => 3 | .minu => 4 | .maxu => 5 | .and => 6 | .or => 7 | .xor => 8
  | .swap => 9 | .swap64 => 10 | .cas => 11 | .cas64 => 12 | .fadd => 13

/-! ## Opcode tables (R274, R284 to R288, R293) -/

/-- The operations of the 16-bit word (R274). -/
def shortTable : Nat → Option (Bool → Fin 32 → Fin 32 → Instr)
  | 0 => some .add16
  | 1 => some .sub16
  | 2 => some .mul16
  | 3 => some .and16
  | 4 => some .or16
  | 5 => some .xor16
  | 6 => some .shl16
  | 7 => some .shru16
  | 8 => some .fadd16
  | 9 => some .fmul16
  | 10 => some .fsub16
  | 11 => some .fmin16
  | 12 => some .fmax16
  | 13 => some .mov16
  | 14 => some .mins16
  | 15 => some .maxs16
  | _ => none

/-- The majors of format F3 (R284). -/
def f3Table : Nat → Option (Bool → Opnd → Opnd → Opnd → Instr)
  | 0 => some .add
  | 1 => some .sub
  | 2 => some .mul
  | 3 => some .mulhs
  | 4 => some .mulhu
  | 5 => some .mad
  | 6 => some .mins
  | 7 => some .maxs
  | 8 => some .minu
  | 9 => some .maxu
  | 10 => some .and
  | 11 => some .or
  | 12 => some .xor
  | 13 => some .andn
  | 14 => some .shl
  | 15 => some .shru
  | 16 => some .shrs
  | 17 => some .rotl
  | 18 => some .bfes
  | 19 => some .bfeu
  | 20 => some .bfi
  | 21 => some .fadd
  | 22 => some .fsub
  | 23 => some .fmul
  | 24 => some .ffma
  | 25 => some .fmin
  | 26 => some .fmax
  | 27 => some .hadd2
  | 28 => some .hmul2
  | 29 => some .hfma2
  | 30 => some .bfma2
  | 31 => some .dp4aS
  | 32 => some .dp4aU
  | 33 => some .dp8aS
  | 34 => some .xlaneSel
  | 35 => some .xlaneFlip
  | _ => none

/-- The compare majors, CS = 0 and CS = 1 (R285). -/
def fkTable : Nat → Bool → Option (Bool → Pred → Opnd → Opnd → Instr)
  | 36, false => some .cmpiEq
  | 36, true => some .cmpiNe
  | 37, false => some .cmpiLt
  | 37, true => some .cmpiGe
  | 38, false => some .cmpuLt
  | 38, true => some .cmpuGe
  | 39, false => some .cmpfEq
  | 39, true => some .cmpfNe
  | 40, false => some .cmpfLt
  | 40, true => some .cmpfGe
  | 41, false => some .cmpfUo
  | 41, true => some .cmpfO
  | _, _ => none

/-- The predicate-logic majors (R284, R343). -/
def predTable : Nat → Option (Bool → Pred → Pred → Pred → Instr)
  | 42 => some .pand
  | 43 => some .por
  | 44 => some .pxor
  | _ => none

/-- The load and store majors (R284). -/
def fmTable : Nat → Option (Bool → Opnd → Opnd → MemFields → Instr)
  | 45 => some .ld
  | 46 => some .st
  | 47 => some .ldl
  | 48 => some .stl
  | _ => none

/-- The atomic majors (R284). -/
def atomTable : Nat → Option (Bool → Opnd → Opnd → AtomFields → Instr)
  | 49 => some .atom
  | 50 => some .atoml
  | _ => none

/-- F2 major 0x33 (R286). -/
def intUnaryTable : Nat → Option (Bool → Opnd → Opnd → Instr)
  | 0 => some .mov
  | 1 => some .not
  | 2 => some .neg
  | 3 => some .abs
  | 4 => some .popc
  | 5 => some .clz
  | 6 => some .ctz
  | 7 => some .brev
  | 8 => some .sextb
  | 9 => some .sexth
  | 10 => some .zextb
  | 11 => some .zexth
  | 12 => some .bswap
  | 16 => some .packS8
  | 17 => some .packU8
  | 18 => some .packS4
  | 19 => some .unpkS8
  | 20 => some .unpkU8
  | 21 => some .unpkS4
  | _ => none

/-- F2 major 0x34, FN 0x00 to 0x1F (R286). -/
def fpUnaryTable : Nat → Option (Bool → Opnd → Opnd → Instr)
  | 0 => some .fneg
  | 1 => some .fabs
  | 2 => some .frcp
  | 3 => some .frsq
  | 4 => some .fsqrt
  | 5 => some .fex2
  | 6 => some .flg2
  | 7 => some .fsin
  | 8 => some .fcos
  | 9 => some .frintNe
  | 10 => some .frintZ
  | 11 => some .frintDn
  | 12 => some .frintUp
  | 13 => some .ffrac
  | 14 => some .fclass
  | 15 => some .fsat
  | 16 => some .cvtF32S32
  | 17 => some .cvtF32U32
  | 18 => some .cvtS32F32Ne
  | 19 => some .cvtS32F32Z
  | 20 => some .cvtS32F32Dn
  | 21 => some .cvtS32F32Up
  | 22 => some .cvtU32F32Ne
  | 23 => some .cvtU32F32Z
  | 24 => some .cvtF16x2F32
  | 25 => some .cvtBf16x2F32
  | 26 => some .cvtF32F16lo
  | 27 => some .cvtF32F16hi
  | 28 => some .cvtF32Bf16lo
  | 29 => some .cvtF32Bf16hi
  | 30 => some .cvtF16x2Bf16x2
  | 31 => some .cvtBf16x2F16x2
  | _ => none

/-- F2 major 0x35, the members with an operand X (R287). -/
def laneTable : Nat → Option (Bool → Opnd → Opnd → Instr)
  | 0 => some .bcastS
  | 1 => some .affx
  | 6 => some .redAddS32
  | 7 => some .redMinS32
  | 8 => some .redMaxS32
  | 9 => some .redAddF32
  | 10 => some .redMinF32
  | 11 => some .redMaxF32
  | 12 => some .scanAddS32
  | 13 => some .scanxAddS32
  | 14 => some .scanAddF32
  | 16 => some .qswapH
  | 17 => some .qswapV
  | 18 => some .qswapD
  | 19 => some .qbc0
  | 20 => some .qbc1
  | 21 => some .qbc2
  | 22 => some .qbc3
  | 24 => some .rebalLd
  | 25 => some .rebalNx
  | _ => none

/-- F2 major 0x35, the members with a predicate X (R287, R345). -/
def voteTable : Nat → Option (Bool → Opnd → Pred → Instr)
  | 2 => some .ballot
  | 3 => some .anyof
  | 4 => some .allof
  | 5 => some .pcount
  | _ => none

/-- F2 major 0x36, the members with no operand (R287, R360). -/
def bareTable : Nat → Option (Bool → Instr)
  | 0 => some .nop
  | 1 => some .exit
  | 2 => some .join
  | 3 => some .ret
  | 6 => some .barBlk
  | 7 => some .yield
  | 9 => some .brk
  | 10 => some .rte
  | 13 => some .fenceCore
  | 14 => some .fenceClu
  | 15 => some .fenceDie
  | 16 => some .fencePair
  | 17 => some .fenceSys
  | _ => none

/-- F2 major 0x36, the members with a source X only (R287). -/
def ctlXTable : Nat → Option (Bool → Opnd → Instr)
  | 4 => some .callI
  | 5 => some .jmpI
  | 8 => some .trap
  | 18 => some .endphase
  | _ => none

/-- FC major 0x3C (R288). -/
def copyTable : Nat → Option (Bool → Opnd → Opnd → Instr)
  | 0 => some .copyLin
  | 1 => some .copyRect
  | 2 => some .copyWin
  | 3 => some .copyGath
  | 4 => some .copyRed
  | 5 => some .copyFill
  | _ => none

/-- FC major 0x3E (R288). -/
def taskTable : Nat → Option (Bool → Opnd → Opnd → Instr)
  | 0 => some .freg
  | 1 => some .fres
  | 2 => some .tqPush
  | 3 => some .tqPop
  | 4 => some .fpoll
  | 5 => some .tqPushv
  | _ => none

/-- The `mma` mops (R293). -/
def mmaTable : Nat → Option (MmaFields → Instr)
  | 16 => some .mmaF16
  | 17 => some .mmaBf16
  | 18 => some .mmaS8
  | 19 => some .mmaU8
  | 20 => some .mmaC8
  | 21 => some .mmaS4
  | 24 => some .mmaF16Sp16
  | 25 => some .mmaBf16Sp16
  | 26 => some .mmaS8Sp16
  | 28 => some .mmaS8Sp8
  | 29 => some .mmaS4Sp8
  | _ => none

/-! ## Fields and literals (R271, R275) -/

/-- A halfword of the code, 0 beyond the end. -/
def half (hs : List Half) (k : Nat) : Half := hs.getD k 0

/-- The 32-bit value of two halfwords, low half first (R271). -/
def word2 (hs : List Half) (k : Nat) : Word := half hs (k + 1) ++ half hs k

/-- The literal32 that starts at halfword `k` (R271). -/
def lit32At (hs : List Half) (k : Nat) : Word := word2 hs k

/-- The literal64 that starts at halfword `k`, low word first (R271). -/
def lit64At (hs : List Half) (k : Nat) : DWord := word2 hs (k + 2) ++ word2 hs k

/-- An operand code of a 32-bit word whose literal words start at halfword 2. -/
def opndAt (hs : List Half) (c : BitVec 8) : Opnd := opndOf c (lit32At hs 2) (lit64At hs 2)

/-- The D field. -/
def fieldD (w : Word) : BitVec 8 := w.extractLsb' 8 8
/-- The X field. -/
def fieldX (w : Word) : BitVec 8 := w.extractLsb' 16 8
/-- The Y, FN, M or K field. -/
def fieldY (w : Word) : BitVec 8 := w.extractLsb' 24 8

/-- Bytes of an instruction with two operands. -/
def len2 (x y : Opnd) : Nat := 4 + x.litBytes + y.litBytes

/-- Answers the instruction unless a check of WellFormed fails or the code ends too early. -/
def checked (hs : List Half) (i : Instr) (len : Nat) : Decoded :=
  match i.check with
  | some r => .reject r
  | none => if hs.length * 2 < len then .reject .short else .ok i len

/-- A field that must hold 0xFF (R276). -/
def unread (c : BitVec 8) (k : Decoded) : Decoded := if c = 0xFF#8 then k else .reject .unreadField

/-- F2 major 0x36 (R287). -/
def decodeControl (hs : List Half) (w : Word) (e : Bool) : Decoded :=
  let fn := (fieldY w).toNat
  match bareTable fn with
  | some c => unread (fieldD w) (unread (fieldX w) (checked hs (c e) 4))
  | none =>
    match ctlXTable fn with
    | some c => let x := opndAt hs (fieldX w); unread (fieldD w) (checked hs (c e x) (len2 x .zero))
    | none =>
      match fn with
      | 0x0B => checked hs (.rdsr e (opndAt hs (fieldD w)) (fieldX w)) 4
      | 0x0C => let x := opndAt hs (fieldX w); checked hs (.wrsr e (fieldD w) x) (len2 x .zero)
      | 0x13 => unread (fieldX w) (checked hs (.clk e (opndAt hs (fieldD w))) 4)
      | 0x14 => checked hs (.dsrd e (opndAt hs (fieldD w)) (fieldX w)) 4
      | 0x15 => let x := opndAt hs (fieldX w); checked hs (.dswr e (fieldD w) x) (len2 x .zero)
      | _ => .reject .unassignedFn

/-- FC major 0x3D (R288, R399). -/
def decodeRay (hs : List Half) (e : Bool) (t b : Opnd) (k : Nat) (ct cb : BitVec 8) : Decoded :=
  match k with
  | 0x00 => unread ct (checked hs (.trace e b) 4)
  | 0x01 => checked hs (.spawn e t b) 4
  | 0x02 => unread ct (unread cb (checked hs (.retire e) 4))
  | 0x03 => unread ct (checked hs (.accum e b) 4)
  | 0x04 => checked hs (.binp e t b) 4
  | 0x05 => checked hs (.binrep e t b) 4
  | 0x06 => checked hs (.texLod e t b) 4
  | 0x07 => checked hs (.texQ e t b) 4
  | 0x08 => checked hs (.rng e t b) 4
  | _ => .reject .unassignedK

/-- FC major 0x3F (R288, R407). -/
def decodeMatrix (hs : List Half) (e : Bool) (t b : Opnd) (k : Nat) (ct cb : BitVec 8) : Decoded :=
  if h : 0x10 ≤ k ∧ k < 0x20 then unread ct (unread cb (checked hs (.mbarArr e ⟨k - 0x10, by omega⟩) 4))
  else if h : 0x20 ≤ k ∧ k < 0x30 then unread cb (checked hs (.mbarWait e ⟨k - 0x20, by omega⟩ t) 4)
  else match k with
    | 0x00 => unread ct (checked hs (.mstart e b) 4)
    | 0x01 => checked hs (.accld e t b) 4
    | 0x02 => unread ct (checked hs (.acczero e b) 4)
    | 0x04 => unread ct (checked hs (.mcfg e b) 4)
    | _ => .reject .unassignedK

/-- The majors 0x33 to 0x3F, and the rejections among them (R284). -/
def decodeUpper (hs : List Half) (w : Word) (major : Nat) (e : Bool) : Decoded :=
  let fn := (fieldY w).toNat
  let d := opndAt hs (fieldD w)
  let x := opndAt hs (fieldX w)
  match major with
  | 0x33 =>
    match intUnaryTable fn with
    | some c => checked hs (c e d x) (len2 x .zero)
    | none => .reject .unassignedFn
  | 0x34 =>
    match fpUnaryTable fn with
    | some c => checked hs (c e d x) (len2 x .zero)
    | none =>
      if h : 0x20 ≤ fn ∧ fn < 0x28 then checked hs (.qntC8 e ⟨fn - 0x20, by omega⟩ d x) (len2 x .zero)
      else if h : 0x28 ≤ fn ∧ fn < 0x30 then checked hs (.dqntC8 e ⟨fn - 0x28, by omega⟩ d x) (len2 x .zero)
      else .reject .unassignedFn
  | 0x35 =>
    match voteTable fn with
    | some c => checked hs (c e d (predOf (fieldX w))) 4
    | none =>
      match laneTable fn with
      | some c => checked hs (c e d x) (len2 x .zero)
      | none => .reject .unassignedFn
  | 0x36 => decodeControl hs w e
  | 0x37 => checked hs (.wait e (w.extractLsb' 8 6) (w.extractLsb' 14 6) (w.extractLsb' 20 6) (w.extractLsb' 26 6)) 4
  | 0x38 =>
    if w.extractLsb' 19 13 ≠ 0#13 then .reject .nonzeroReserved
    else if e then .reject .guardRunEnd
    else checked hs (.grd (predOf ((w.extractLsb' 8 7).setWidth 8)) (w.getLsbD 15) ⟨(w.extractLsb' 16 3).toNat, by omega⟩) 4
  | 0x39 => if w.getLsbD 8 then checked hs (.call e (w.extractLsb' 9 23)) 4 else checked hs (.bra e (w.extractLsb' 9 23)) 4
  | 0x3A =>
    if w.getLsbD 15 then .reject .nonzeroReserved
    else
      let si : Fin 64 := ⟨(w.extractLsb' 8 6).toNat, by omega⟩
      if w.getLsbD 14 then checked hs (.brsNz e si (w.extractLsb' 16 16)) 4 else checked hs (.brsZ e si (w.extractLsb' 16 16)) 4
  | 0x3B => checked hs (.brv e (predOf ((w.extractLsb' 8 7).setWidth 8)) (w.getLsbD 15) (w.extractLsb' 16 16)) 4
  | 0x3C =>
    match copyTable fn with
    | some c => checked hs (c e d x) 4
    | none => .reject .unassignedK
  | 0x3D => decodeRay hs e d x fn (fieldD w) (fieldX w)
  | 0x3E =>
    match taskTable fn with
    | some c => checked hs (c e d x) 4
    | none => .reject .unassignedK
  | _ => decodeMatrix hs e d x fn (fieldD w) (fieldX w)

/-- The M byte of a load or store (R278), with its offset literal, which follows the literal of X. -/
def memFieldsAt (hs : List Half) (m : BitVec 8) : MemFields :=
  { wid := widthOf (m.extractLsb' 0 3), off := if m.getLsbD 3 then some (lit32At hs 2) else none,
    cache := cacheOf (m.extractLsb' 4 2), ord := orderOf (m.extractLsb' 6 2) }

/-- Bytes of the offset literal. -/
def MemFields.offBytes (m : MemFields) : Nat := if m.off.isSome then 4 else 0

/-- A 32-bit word of group code with the halfwords from its PC on (R272, R284). -/
def decode32 (hs : List Half) : Decoded :=
  let w := word2 hs 0
  let major := (w.extractLsb' 2 6).toNat
  let e := w.getLsbD 1
  let d := opndAt hs (fieldD w)
  let x := opndAt hs (fieldX w)
  let y := opndAt hs (fieldY w)
  match f3Table major with
  | some c => checked hs (c e d x y) (len2 x y)
  | none =>
    match fkTable major (w.getLsbD 15) with
    | some c => checked hs (c e (predOf ((w.extractLsb' 8 7).setWidth 8)) x y) (len2 x y)
    | none =>
      match predTable major with
      | some c => checked hs (c e (predOf (fieldD w)) (predOf (fieldX w)) (predOf (fieldY w))) 4
      | none =>
        match fmTable major with
        | some c => let m := memFieldsAt hs (fieldY w); checked hs (c e d x m) (4 + x.litBytes + m.offBytes)
        | none =>
          match atomTable major with
          | some c =>
            match atomOpOf (w.extractLsb' 24 4), scopeOf (w.extractLsb' 29 3) with
            | some op, some sc => checked hs (c e d x ⟨op, w.getLsbD 28, sc⟩) (4 + x.litBytes)
            | _, _ => .reject .atomCode
          | none => decodeUpper hs w major e

/-- Group code at a PC (R271): the halfwords from the PC on give one instruction. -/
def decode (hs : List Half) : Decoded :=
  match hs with
  | [] => .reject .short
  | h :: _ =>
    if h.getLsbD 0 then (if hs.length < 2 then .reject .short else decode32 hs)
    else
      match shortTable (h.extractLsb' 2 4).toNat with
      | some c => .ok (c (h.getLsbD 1) ⟨(h.extractLsb' 6 5).toNat, by omega⟩ ⟨(h.extractLsb' 11 5).toNat, by omega⟩) 2
      | none => .reject .unassignedFn

/-- The fields of an `mma` word (R294). -/
def mmaFieldsOf (m : Word) : MmaFields :=
  { tile := ⟨(m.extractLsb' 6 3).toNat, by omega⟩, ga := ⟨(m.extractLsb' 9 5).toNat, by omega⟩,
    va := ⟨(m.extractLsb' 14 7).toNat, by omega⟩, gb := ⟨(m.extractLsb' 21 5).toNat, by omega⟩,
    bhalf := ⟨(m.extractLsb' 26 6).toNat, by omega⟩ }

/-- A matrix-stream word (R293). (DESIGN CHOICE, log 8.) -/
def decodeStream (m : Word) : Decoded :=
  let mop := (m.extractLsb' 0 6).toNat
  match mmaTable mop with
  | some c => .ok (c (mmaFieldsOf m)) 4
  | none =>
    match mop with
    | 0x00 => if m.extractLsb' 6 26 = 0#26 then .ok .mnop 4 else .reject .nonzeroReserved
    | 0x01 => if m.extractLsb' 6 26 = 0#26 then .ok .mend 4 else .reject .nonzeroReserved
    | 0x02 =>
      if m.extractLsb' 11 21 = 0#21 then .ok (.mwait ⟨(m.extractLsb' 6 4).toNat, by omega⟩ (m.getLsbD 10)) 4
      else .reject .nonzeroReserved
    | 0x03 =>
      if m.extractLsb' 10 22 = 0#22 then .ok (.marr ⟨(m.extractLsb' 6 4).toNat, by omega⟩) 4 else .reject .nonzeroReserved
    | 0x04 =>
      if m.extractLsb' 9 23 = 0#23 then .ok (.mzero ⟨(m.extractLsb' 6 3).toNat, by omega⟩) 4 else .reject .nonzeroReserved
    | 0x05 => .ok (.mloop ⟨(m.extractLsb' 6 2).toNat, by omega⟩ (m.extractLsb' 8 12) (m.extractLsb' 20 12)) 4
    | 0x06 => if m.extractLsb' 6 2 = 0#2 then .ok (.mbra (m.extractLsb' 8 24)) 4 else .reject .nonzeroReserved
    | _ => .reject .unassignedMop

/-! ## The encoder -/

/-- The low byte of a 32-bit word: 4 × major + 2 × E + 1 (R272). -/
def head (major : Nat) (e : Bool) : BitVec 8 := BitVec.ofNat 6 major ++ BitVec.ofBool e ++ 1#1

/-- The two halfwords of a 32-bit word, low half first (R271). -/
def word32 (w : Word) : List Half := [w.extractLsb' 0 16, w.extractLsb' 16 16]

/-- The literal words of an operand (R271). -/
def litWords : Opnd → List Half
  | .lit32 w => word32 w
  | .lit64 w => word32 (w.extractLsb' 0 32) ++ word32 (w.extractLsb' 32 32)
  | _ => []

/-- A 16-bit word (R274). -/
def encShort (op : Nat) (e : Bool) (d y : Fin 32) : List Half :=
  [BitVec.ofNat 5 y.val ++ BitVec.ofNat 5 d.val ++ BitVec.ofNat 4 op ++ BitVec.ofBool e ++ 0#1]

/-- Format F3 (R275). -/
def encF3 (major : Nat) (e : Bool) (d x y : Opnd) : List Half :=
  word32 (codeOf y ++ codeOf x ++ codeOf d ++ head major e) ++ litWords x ++ litWords y

/-- Format FK (R275). -/
def encFk (major : Nat) (cs e : Bool) (p : Pred) (x y : Opnd) : List Half :=
  word32 (codeOf y ++ codeOf x ++ BitVec.ofBool cs ++ pred7 p ++ head major e) ++ litWords x ++ litWords y

/-- F3 with predicate codes (R276). -/
def encPred (major : Nat) (e : Bool) (p x y : Pred) : List Half := word32 (pred8 y ++ pred8 x ++ pred8 p ++ head major e)

/-- Format F2 (R275). -/
def encF2 (major fn : Nat) (e : Bool) (d x : Opnd) : List Half :=
  word32 (BitVec.ofNat 8 fn ++ codeOf x ++ codeOf d ++ head major e) ++ litWords x

/-- F2 with a predicate X (R345). -/
def encVote (fn : Nat) (e : Bool) (d : Opnd) (p : Pred) : List Half :=
  word32 (BitVec.ofNat 8 fn ++ pred8 p ++ codeOf d ++ head 0x35 e)

/-- F2 major 0x36 with a status-register number in X. -/
def encSr (fn : Nat) (e : Bool) (d n : BitVec 8) : List Half := word32 (BitVec.ofNat 8 fn ++ n ++ d ++ head 0x36 e)

/-- F2 major 0x36 with a status-register number in D. -/
def encSrW (fn : Nat) (e : Bool) (n : BitVec 8) (x : Opnd) : List Half :=
  word32 (BitVec.ofNat 8 fn ++ codeOf x ++ n ++ head 0x36 e) ++ litWords x

/-- The M byte of a load or store (R278). -/
def memByte (m : MemFields) : BitVec 8 :=
  orderCode m.ord ++ cacheCode m.cache ++ BitVec.ofBool m.off.isSome ++ widthCode m.wid

/-- Format FM of loads and stores (R275). -/
def encFm (major : Nat) (e : Bool) (d x : Opnd) (m : MemFields) : List Half :=
  word32 (memByte m ++ codeOf x ++ codeOf d ++ head major e) ++ litWords x ++ (match m.off with | some o => word32 o | none => [])

/-- Format FM of atomics (R275). -/
def encAtom (major : Nat) (e : Bool) (d x : Opnd) (m : AtomFields) : List Half :=
  word32 (scopeCode m.scope ++ BitVec.ofBool m.ret ++ atomOpCode m.op ++ codeOf x ++ codeOf d ++ head major e) ++ litWords x

/-- Format FC (R275). -/
def encFc (major k : Nat) (e : Bool) (t b : Opnd) : List Half :=
  word32 (BitVec.ofNat 8 k ++ codeOf b ++ codeOf t ++ head major e)

/-- An `mma` word (R294). -/
def encMma (mop : Nat) (m : MmaFields) : List Half :=
  word32 (BitVec.ofNat 6 m.bhalf.val ++ BitVec.ofNat 5 m.gb.val ++ BitVec.ofNat 7 m.va.val ++ BitVec.ofNat 5 m.ga.val ++
    BitVec.ofNat 3 m.tile.val ++ BitVec.ofNat 6 mop)

/-- The halfwords of an instruction; a step without an encoding has none. -/
def encode : Instr → List Half
  | .add16 e d y => encShort 0 e d y
  | .sub16 e d y => encShort 1 e d y
  | .mul16 e d y => encShort 2 e d y
  | .and16 e d y => encShort 3 e d y
  | .or16 e d y => encShort 4 e d y
  | .xor16 e d y => encShort 5 e d y
  | .shl16 e d y => encShort 6 e d y
  | .shru16 e d y => encShort 7 e d y
  | .fadd16 e d y => encShort 8 e d y
  | .fmul16 e d y => encShort 9 e d y
  | .fsub16 e d y => encShort 10 e d y
  | .fmin16 e d y => encShort 11 e d y
  | .fmax16 e d y => encShort 12 e d y
  | .mov16 e d y => encShort 13 e d y
  | .mins16 e d y => encShort 14 e d y
  | .maxs16 e d y => encShort 15 e d y
  | .add e d x y => encF3 0 e d x y
  | .sub e d x y => encF3 1 e d x y
  | .mul e d x y => encF3 2 e d x y
  | .mulhs e d x y => encF3 3 e d x y
  | .mulhu e d x y => encF3 4 e d x y
  | .mad e d x y => encF3 5 e d x y
  | .mins e d x y => encF3 6 e d x y
  | .maxs e d x y => encF3 7 e d x y
  | .minu e d x y => encF3 8 e d x y
  | .maxu e d x y => encF3 9 e d x y
  | .and e d x y => encF3 10 e d x y
  | .or e d x y => encF3 11 e d x y
  | .xor e d x y => encF3 12 e d x y
  | .andn e d x y => encF3 13 e d x y
  | .shl e d x y => encF3 14 e d x y
  | .shru e d x y => encF3 15 e d x y
  | .shrs e d x y => encF3 16 e d x y
  | .rotl e d x y => encF3 17 e d x y
  | .bfes e d x y => encF3 18 e d x y
  | .bfeu e d x y => encF3 19 e d x y
  | .bfi e d x y => encF3 20 e d x y
  | .fadd e d x y => encF3 21 e d x y
  | .fsub e d x y => encF3 22 e d x y
  | .fmul e d x y => encF3 23 e d x y
  | .ffma e d x y => encF3 24 e d x y
  | .fmin e d x y => encF3 25 e d x y
  | .fmax e d x y => encF3 26 e d x y
  | .hadd2 e d x y => encF3 27 e d x y
  | .hmul2 e d x y => encF3 28 e d x y
  | .hfma2 e d x y => encF3 29 e d x y
  | .bfma2 e d x y => encF3 30 e d x y
  | .dp4aS e d x y => encF3 31 e d x y
  | .dp4aU e d x y => encF3 32 e d x y
  | .dp8aS e d x y => encF3 33 e d x y
  | .xlaneSel e d x y => encF3 34 e d x y
  | .xlaneFlip e d x y => encF3 35 e d x y
  | .cmpiEq e p x y => encFk 36 false e p x y
  | .cmpiNe e p x y => encFk 36 true e p x y
  | .cmpiLt e p x y => encFk 37 false e p x y
  | .cmpiGe e p x y => encFk 37 true e p x y
  | .cmpuLt e p x y => encFk 38 false e p x y
  | .cmpuGe e p x y => encFk 38 true e p x y
  | .cmpfEq e p x y => encFk 39 false e p x y
  | .cmpfNe e p x y => encFk 39 true e p x y
  | .cmpfLt e p x y => encFk 40 false e p x y
  | .cmpfGe e p x y => encFk 40 true e p x y
  | .cmpfUo e p x y => encFk 41 false e p x y
  | .cmpfO e p x y => encFk 41 true e p x y
  | .pand e p x y => encPred 42 e p x y
  | .por e p x y => encPred 43 e p x y
  | .pxor e p x y => encPred 44 e p x y
  | .ld e d x m => encFm 45 e d x m
  | .st e d x m => encFm 46 e d x m
  | .ldl e d x m => encFm 47 e d x m
  | .stl e d x m => encFm 48 e d x m
  | .atom e d x m => encAtom 49 e d x m
  | .atoml e d x m => encAtom 50 e d x m
  | .mov e d x => encF2 0x33 0 e d x
  | .not e d x => encF2 0x33 1 e d x
  | .neg e d x => encF2 0x33 2 e d x
  | .abs e d x => encF2 0x33 3 e d x
  | .popc e d x => encF2 0x33 4 e d x
  | .clz e d x => encF2 0x33 5 e d x
  | .ctz e d x => encF2 0x33 6 e d x
  | .brev e d x => encF2 0x33 7 e d x
  | .sextb e d x => encF2 0x33 8 e d x
  | .sexth e d x => encF2 0x33 9 e d x
  | .zextb e d x => encF2 0x33 10 e d x
  | .zexth e d x => encF2 0x33 11 e d x
  | .bswap e d x => encF2 0x33 12 e d x
  | .packS8 e d x => encF2 0x33 16 e d x
  | .packU8 e d x => encF2 0x33 17 e d x
  | .packS4 e d x => encF2 0x33 18 e d x
  | .unpkS8 e d x => encF2 0x33 19 e d x
  | .unpkU8 e d x => encF2 0x33 20 e d x
  | .unpkS4 e d x => encF2 0x33 21 e d x
  | .fneg e d x => encF2 0x34 0 e d x
  | .fabs e d x => encF2 0x34 1 e d x
  | .frcp e d x => encF2 0x34 2 e d x
  | .frsq e d x => encF2 0x34 3 e d x
  | .fsqrt e d x => encF2 0x34 4 e d x
  | .fex2 e d x => encF2 0x34 5 e d x
  | .flg2 e d x => encF2 0x34 6 e d x
  | .fsin e d x => encF2 0x34 7 e d x
  | .fcos e d x => encF2 0x34 8 e d x
  | .frintNe e d x => encF2 0x34 9 e d x
  | .frintZ e d x => encF2 0x34 10 e d x
  | .frintDn e d x => encF2 0x34 11 e d x
  | .frintUp e d x => encF2 0x34 12 e d x
  | .ffrac e d x => encF2 0x34 13 e d x
  | .fclass e d x => encF2 0x34 14 e d x
  | .fsat e d x => encF2 0x34 15 e d x
  | .cvtF32S32 e d x => encF2 0x34 16 e d x
  | .cvtF32U32 e d x => encF2 0x34 17 e d x
  | .cvtS32F32Ne e d x => encF2 0x34 18 e d x
  | .cvtS32F32Z e d x => encF2 0x34 19 e d x
  | .cvtS32F32Dn e d x => encF2 0x34 20 e d x
  | .cvtS32F32Up e d x => encF2 0x34 21 e d x
  | .cvtU32F32Ne e d x => encF2 0x34 22 e d x
  | .cvtU32F32Z e d x => encF2 0x34 23 e d x
  | .cvtF16x2F32 e d x => encF2 0x34 24 e d x
  | .cvtBf16x2F32 e d x => encF2 0x34 25 e d x
  | .cvtF32F16lo e d x => encF2 0x34 26 e d x
  | .cvtF32F16hi e d x => encF2 0x34 27 e d x
  | .cvtF32Bf16lo e d x => encF2 0x34 28 e d x
  | .cvtF32Bf16hi e d x => encF2 0x34 29 e d x
  | .cvtF16x2Bf16x2 e d x => encF2 0x34 30 e d x
  | .cvtBf16x2F16x2 e d x => encF2 0x34 31 e d x
  | .qntC8 e t d x => encF2 0x34 (0x20 + t.val) e d x
  | .dqntC8 e t d x => encF2 0x34 (0x28 + t.val) e d x
  | .bcastS e d x => encF2 0x35 0 e d x
  | .affx e d x => encF2 0x35 1 e d x
  | .redAddS32 e d x => encF2 0x35 6 e d x
  | .redMinS32 e d x => encF2 0x35 7 e d x
  | .redMaxS32 e d x => encF2 0x35 8 e d x
  | .redAddF32 e d x => encF2 0x35 9 e d x
  | .redMinF32 e d x => encF2 0x35 10 e d x
  | .redMaxF32 e d x => encF2 0x35 11 e d x
  | .scanAddS32 e d x => encF2 0x35 12 e d x
  | .scanxAddS32 e d x => encF2 0x35 13 e d x
  | .scanAddF32 e d x => encF2 0x35 14 e d x
  | .qswapH e d x => encF2 0x35 16 e d x
  | .qswapV e d x => encF2 0x35 17 e d x
  | .qswapD e d x => encF2 0x35 18 e d x
  | .qbc0 e d x => encF2 0x35 19 e d x
  | .qbc1 e d x => encF2 0x35 20 e d x
  | .qbc2 e d x => encF2 0x35 21 e d x
  | .qbc3 e d x => encF2 0x35 22 e d x
  | .rebalLd e d x => encF2 0x35 24 e d x
  | .rebalNx e d x => encF2 0x35 25 e d x
  | .ballot e d p => encVote 2 e d p
  | .anyof e d p => encVote 3 e d p
  | .allof e d p => encVote 4 e d p
  | .pcount e d p => encVote 5 e d p
  | .nop e => encF2 0x36 0 e .none .none
  | .exit e => encF2 0x36 1 e .none .none
  | .join e => encF2 0x36 2 e .none .none
  | .ret e => encF2 0x36 3 e .none .none
  | .barBlk e => encF2 0x36 6 e .none .none
  | .yield e => encF2 0x36 7 e .none .none
  | .brk e => encF2 0x36 9 e .none .none
  | .rte e => encF2 0x36 10 e .none .none
  | .fenceCore e => encF2 0x36 13 e .none .none
  | .fenceClu e => encF2 0x36 14 e .none .none
  | .fenceDie e => encF2 0x36 15 e .none .none
  | .fencePair e => encF2 0x36 16 e .none .none
  | .fenceSys e => encF2 0x36 17 e .none .none
  | .callI e x => encF2 0x36 4 e .none x
  | .jmpI e x => encF2 0x36 5 e .none x
  | .trap e x => encF2 0x36 8 e .none x
  | .endphase e x => encF2 0x36 18 e .none x
  | .rdsr e d n => encSr 0x0B e (codeOf d) n
  | .wrsr e n x => encSrW 0x0C e n x
  | .clk e d => encF2 0x36 0x13 e d .none
  | .dsrd e d n => encSr 0x14 e (codeOf d) n
  | .dswr e n x => encSrW 0x15 e n x
  | .wait e l s c t => word32 (t ++ c ++ s ++ l ++ head 0x37 e)
  | .grd gp neg n => word32 (0#13 ++ BitVec.ofNat 3 n.val ++ BitVec.ofBool neg ++ pred7 gp ++ head 0x38 false)
  | .bra e disp => word32 (disp ++ 0#1 ++ head 0x39 e)
  | .call e disp => word32 (disp ++ 1#1 ++ head 0x39 e)
  | .brsZ e si disp => word32 (disp ++ 0#1 ++ 0#1 ++ BitVec.ofNat 6 si.val ++ head 0x3A e)
  | .brsNz e si disp => word32 (disp ++ 0#1 ++ 1#1 ++ BitVec.ofNat 6 si.val ++ head 0x3A e)
  | .brv e pr sns disp => word32 (disp ++ BitVec.ofBool sns ++ pred7 pr ++ head 0x3B e)
  | .copyLin e t b => encFc 0x3C 0 e t b
  | .copyRect e t b => encFc 0x3C 1 e t b
  | .copyWin e t b => encFc 0x3C 2 e t b
  | .copyGath e t b => encFc 0x3C 3 e t b
  | .copyRed e t b => encFc 0x3C 4 e t b
  | .copyFill e t b => encFc 0x3C 5 e t b
  | .trace e b => encFc 0x3D 0x00 e .none b
  | .spawn e t b => encFc 0x3D 0x01 e t b
  | .retire e => encFc 0x3D 0x02 e .none .none
  | .accum e b => encFc 0x3D 0x03 e .none b
  | .binp e t b => encFc 0x3D 0x04 e t b
  | .binrep e t b => encFc 0x3D 0x05 e t b
  | .texLod e t b => encFc 0x3D 0x06 e t b
  | .texQ e t b => encFc 0x3D 0x07 e t b
  | .rng e t b => encFc 0x3D 0x08 e t b
  | .freg e t b => encFc 0x3E 0 e t b
  | .fres e t b => encFc 0x3E 1 e t b
  | .tqPush e t b => encFc 0x3E 2 e t b
  | .tqPop e t b => encFc 0x3E 3 e t b
  | .fpoll e t b => encFc 0x3E 4 e t b
  | .tqPushv e t b => encFc 0x3E 5 e t b
  | .mstart e b => encFc 0x3F 0x00 e .none b
  | .accld e t b => encFc 0x3F 0x01 e t b
  | .acczero e b => encFc 0x3F 0x02 e .none b
  | .mcfg e b => encFc 0x3F 0x04 e .none b
  | .mbarArr e n => encFc 0x3F (0x10 + n.val) e .none .none
  | .mbarWait e n t => encFc 0x3F (0x20 + n.val) e t .none
  | .mnop => word32 (0#26 ++ 0x00#6)
  | .mend => word32 (0#26 ++ 0x01#6)
  | .mwait n ph => word32 (0#21 ++ BitVec.ofBool ph ++ BitVec.ofNat 4 n.val ++ 0x02#6)
  | .marr n => word32 (0#22 ++ BitVec.ofNat 4 n.val ++ 0x03#6)
  | .mzero t => word32 (0#23 ++ BitVec.ofNat 3 t.val ++ 0x04#6)
  | .mloop c n disp => word32 (disp ++ n ++ BitVec.ofNat 2 c.val ++ 0x05#6)
  | .mbra disp => word32 (disp ++ 0#2 ++ 0x06#6)
  | .mmaF16 m => encMma 16 m
  | .mmaBf16 m => encMma 17 m
  | .mmaS8 m => encMma 18 m
  | .mmaU8 m => encMma 19 m
  | .mmaC8 m => encMma 20 m
  | .mmaS4 m => encMma 21 m
  | .mmaF16Sp16 m => encMma 24 m
  | .mmaBf16Sp16 m => encMma 25 m
  | .mmaS8Sp16 m => encMma 26 m
  | .mmaS8Sp8 m => encMma 28 m
  | .mmaS4Sp8 m => encMma 29 m
  | _ => []

/-- A word of a matrix stream, and no word of group code. -/
def Instr.isStream : Instr → Bool
  | .mnop | .mend | .mwait _ _ | .marr _ | .mzero _ | .mloop _ _ _ | .mbra _ => true
  | .mmaF16 _ | .mmaBf16 _ | .mmaS8 _ | .mmaU8 _ | .mmaC8 _ | .mmaS4 _ => true
  | .mmaF16Sp16 _ | .mmaBf16Sp16 _ | .mmaS8Sp16 _ | .mmaS8Sp8 _ | .mmaS4Sp8 _ => true
  | _ => false

/-- A row of the opcode table that has an encoding. -/
def Instr.isEncoded (i : Instr) : Bool := !(encode i).isEmpty

/-- The halfwords of a bit number as the opcode table counts them: bit 0 is the lowest bit of the first halfword.
The longest instruction has 12 bytes (R271). -/
def tableHalves (w : Nat) : List Half := (List.range 6).map (fun k => BitVec.ofNat 16 (w / 2 ^ (16 * k)))

/-- The instruction the decoder reads from a word of the opcode table. A 32-bit word whose bit 0 is clear begins no 32-bit
instruction of group code (R271), so it is read as a word of a matrix stream (R293); every other word is group code.
(DESIGN CHOICE, log 8.) -/
def decodeTableWord (nbits w : Nat) : Option Instr :=
  if nbits = 0 then none
  else
    let d := if nbits = 32 ∧ w % 2 = 0 then decodeStream (BitVec.ofNat 32 w) else decode (tableHalves w)
    match d with
    | .ok i _ => some i
    | .reject _ => none

end Sys2Proof
end

