-- ==== Sys2Proof/Machine/State.lean ====
section
/-! DEFINITION. The state of one die of the Molell M2 (and, on a pair card, what its peer holds), as plain data, and the
machine right after reset. INVENTORY.md lists every field with the rule that names it. -/
namespace Sys2Proof.Machine

/-! ## Why a step can stop -/

/-- Why the machine stops. -/
inductive Fault where
  /-- raised by `step` when the junction reached 110 °C and nothing but a device reset is left to do: "the controller stops
  the clock" (R523). Safe: the hardware does nothing either. -/
  | clockStopped
  deriving DecidableEq, Repr

/-- Why an instruction has no meaning. -/
inductive Refusal where
  /-- raised by an arm of `exec` whose instruction is not modelled yet. Safe. -/
  | notModelled (mnemonic : String)
  deriving DecidableEq, Repr

/-! ## Memory -/

/-- Byte memory as address and byte pairs: addresses strictly rising, no byte 0 listed. An unlisted address reads as 0. -/
structure Memory where
  cells : List Host.Cell
  deriving DecidableEq, Repr

/-- The memory kinds of R15. -/
inductive MemKind where
  | device | peer | hostCoh | hostUnc | view
  deriving DecidableEq, Repr

/-- A physical place: a kind and an address within its target (R15). -/
structure Loc where
  kind : MemKind
  pa : Nat
  deriving DecidableEq, Repr

/-! ## Registers and slots of a group -/

/-- An A register: lane i holds base + i × stride (R186). -/
structure Affine where
  base : DWord
  stride : Word
  deriving DecidableEq, Repr

/-- The value of the last-result latch, of the class of its destination (R199). -/
inductive LatchVal where
  | s (w : Word)
  | a (x : Affine)
  | v (l : Lanes)
  deriving DecidableEq, Repr

/-- A register or predicate of a group. -/
inductive RegId where
  | v (n : Fin 128)
  | s (n : Fin 64)
  | a (n : Fin 32)
  | p (n : Fin 96)
  | k (n : Fin 8)
  deriving DecidableEq, Repr

/-- The slot states of R194, numbered 0 to 3 by R369. -/
inductive SlotState where
  | free | ready | wait | join
  deriving DecidableEq, Repr

/-- What a slot in Wait waits for. -/
inductive WaitReason where
  /-- registers pending from variable-latency instructions (R198, R387) -/
  | regs (rs : List RegId)
  /-- a page walk (R34) -/
  | walk
  /-- room in the partition's miss queue (R35) -/
  | walkRoom
  /-- a code-cache line (R273) -/
  | fetch
  /-- a count at 63: load 0, store 1, copy 2, tile 3 (R385) -/
  | count (c : Nat)
  /-- room at the copy engine (R148) -/
  | engine
  /-- a fence (R119) -/
  | fence (op : Nat)
  /-- the counts of `wait` (R386) -/
  | counts (l s c t : Nat)
  /-- the block barrier, with its phase at arrival (R363) -/
  | barBlk (ph : Bool)
  /-- a stage barrier, with the expected phase (R414) -/
  | stage (n : Fin 16) (e : Bool)
  /-- the pop of a task queue (R397) -/
  | tqPop (op : Nat)
  /-- a full scatter bin (R168) -/
  | binFull (op : Nat)
  /-- a sequencer that is not Idle (R409) -/
  | seqBusy
  /-- the refill after a taken branch (R197) -/
  | refill
  deriving DecidableEq, Repr

/-- A PC slot (R194) with its guard (R292), its latch (R199) and its place in the arbitration (R440). -/
structure Slot where
  pc : DWord
  mask : Mask
  st : SlotState
  gmask : Mask
  gleft : Nat
  /-- the guard's mask is fixed when the first instruction of the span issues (R291): until then its predicate -/
  gpend : Option (Pred × Bool)
  latch : Option LatchVal
  wait : Option WaitReason
  age : Nat
  yielded : Bool
  lastIssue : Nat
  /-- the next issue is not compared with any breakpoint (R464) -/
  bpSkip : Bool
  /-- placed by a handler entry or a return, it has not issued since (R473) -/
  turned : Bool
  deriving DecidableEq, Repr

/-- A slot as saved at handler entry (R368, R447). -/
structure SavedSlot where
  pc : DWord
  mask : Mask
  st : BitVec 2
  /-- up to 8 (R290); the register shows three bits of it (R369) -/
  gleft : BitVec 4
  gmask : Mask
  deriving DecidableEq, Repr

/-- An entry of the divergence stack (R194). -/
structure StackEntry where
  pc : DWord
  mask : Mask
  deriving DecidableEq, Repr

/-- The roles of R193. -/
inductive Role where
  | gen | vec | cpy
  deriving DecidableEq, Repr

/-- Why a register is pending (R198, R387). -/
inductive PendKind where
  | fixed | var | token
  deriving DecidableEq, Repr

/-- A register that waits for a result; `far` marks a result of peer or host kind (R381). -/
structure Pending where
  reg : RegId
  kind : PendKind
  op : Nat
  far : Bool
  deriving DecidableEq, Repr

/-- A cause of R442 with its subcode and TVAL. -/
structure Cause where
  code : Nat
  sub : Nat
  tval : Word
  slot : Nat
  /-- the stream fields of a sequencer's fault, as its records give them (R247) -/
  strm : Option (List (Nat × Nat × Nat)) := none
  deriving DecidableEq, Repr

/-- A write of a register that a result brings: the lanes written, or the whole register for S, A and shadow registers. -/
structure RegWrite where
  reg : RegId
  mask : Mask
  val : LatchVal
  deriving DecidableEq, Repr

/-- The ordinals of a group's instructions in the dispatch-trace keys (R478). -/
structure Ordinals where
  binp : Nat
  accum : Nat
  spawn : Nat
  push : Nat
  pop : Nat
  deriving DecidableEq, Repr

/-- A group: 32 lanes in lock-step (R6). -/
structure Group where
  index : Nat
  core : Nat
  res : Nat
  role : Role
  gid : Word
  vregs : Nat
  sregs : Nat
  aregs : Nat
  v : Vector Lanes 128
  p : Vector Mask 96
  s : Vector Word 64
  a : Vector Affine 32
  k : Vector Word 8
  slot0 : Slot
  slot1 : Slot
  stack : Vector StackEntry 16
  sd : Nat
  sc : Nat
  emask : Mask
  lfmask : Mask
  afx : Bool
  hm : Bool
  sstep : Bool
  cause : Word
  tval : Word
  save0 : SavedSlot
  save1 : SavedSlot
  spill : DWord
  rbp : Vector Word 32
  rbt : Word
  icnt : DWord
  ldCnt : Nat
  stCnt : Nat
  cpCnt : Nat
  tlCnt : Nat
  pend : List Pending
  /-- registers whose token has arrived and that no instruction has read since (R128) -/
  tokNew : List RegId
  /-- stores of the core that left a FIFO before this may have been observed by the group (R111, R124) -/
  seen : Nat
  deferred : List Cause
  /-- the cause of an entry that waits for the other slot's pop to complete (R448) -/
  entering : Option Cause := none
  handle : Lanes
  rsv : Nat
  shKind : Nat
  ord : Ordinals
  dbl : Bool
  lost : Bool
  ended : Bool
  stopped : Bool
  /-- the cause that this group's stop record gives (R455) -/
  stopCause : Option Cause
  /-- the step at which it started (R474) -/
  born : Nat
  deriving DecidableEq, Repr

/-! ## Issued work -/

/-- One lane's access to memory. -/
structure LaneAcc where
  lane : Nat
  va : DWord
  loc : Loc
  deriving DecidableEq, Repr

/-- One lane of an atomic: its place, its data and, for a compare, the new value. -/
structure LaneAtom where
  lane : Nat
  loc : Loc
  d : DWord
  n : DWord
  deriving DecidableEq, Repr

/-- The variable-latency results that only write registers (R198). -/
inductive VarKind where
  | rebal | rdsr | clk | dsrd | spawn | rng
  deriving DecidableEq, Repr

/-- An access that a transaction of the slice logic has still to make (R528). -/
inductive SliceAct where
  /-- write bytes at a place translated before: the word or the descriptor -/
  | store (l : Loc) (bs : List Byte)
  /-- write bytes at an address; `own` says that a continuation record is meant, which no host kind may hold (R172) -/
  | put (va : DWord) (bs : List Byte) (own : Bool)
  /-- lower the JOIN count of a record, and push the record when it reaches 0 (R173, R174) -/
  | lower (rcd : DWord)
  /-- push a record onto the queue that it names (R174, R177) -/
  | pushRec (rcd : DWord)
  /-- read the 64 bytes of a record into the transaction -/
  | take (va : DWord)
  /-- copy the 64 bytes of a record -/
  | move (src dst : DWord)
  /-- move the head of a queue's overflow list past a record (R177) -/
  | unlink (q : Loc) (rcd : DWord)
  /-- register a record at a word, or take the value of a resolved one (R171, R173) -/
  | regist (word : Loc) (rcd : DWord) (slot : Nat)
  /-- read the link of a registration: the next one to visit (R174) -/
  | link (rcd : DWord) (slot : Nat)
  deriving DecidableEq, Repr

/-- The operations of the slice logic that a group issues. -/
inductive SliceOp where
  | freg (rcd : DWord) (slot : Nat)
  | fres (val : Word) (pc : DWord)
  | fpoll
  /-- the records as read at issue, or the status that the push answers (R395) -/
  | push (recs : List (List Byte)) (bad : Option Word)
  /-- the local address; `tail` holds TAIL as a pop that waits has seen it (R397) -/
  | pop (dst : Nat) (bad : Option Word) (tail : Option Nat)
  deriving DecidableEq, Repr

/-- How far a transaction of the slice logic has come (R528). -/
structure SliceTxn where
  /-- the word's or the descriptor's place and address -/
  place : Loc
  va : DWord
  /-- the registers of its token, as issued -/
  t : Opnd
  hm : Bool
  ikey : DWord
  /-- accesses left, once it has started -/
  acts : List SliceAct
  started : Bool
  /-- the bytes in hand, and the words that its token will bring -/
  data : List Byte
  tok : List Word
  /-- it has met a fault and waits for a resume -/
  stopped : Bool
  /-- a pop that has looked at its queue and has to wait -/
  tried : Bool
  deriving DecidableEq, Repr

/-- A ray hand-off (R129). -/
inductive Handoff where
  | trace | spawn | retire
  deriving DecidableEq, Repr

/-- What an issued piece of work still has to do. -/
inductive OpBody where
  /-- a result on its way to its registers -/
  | regs (kind : VarKind) (ws : List RegWrite)
  /-- a load; `parked` once it waits on an owned line (R525) -/
  | load (accs : List LaneAcc) (wid : Width) (d : Opnd) (cache : CachePol) (ord : Order) (bcast : Bool) (parked : Bool)
  /-- a store: the bytes in ascending lane order; `left` once it has left the FIFO (R524) -/
  | store (bytes : List (Loc × Byte)) (cache : CachePol) (ord : Order) (left : Option Nat) (parked : Bool)
  /-- an atomic on memory -/
  | atomic (lanes : List LaneAtom) (op : AtomOp) (ret : Bool) (scope : Scope) (d : Opnd) (left : Option Nat) (parked : Bool)
  /-- a local load: lane and address -/
  | ldl (accs : List (Nat × Nat)) (wid : Width) (d : Opnd) (ord : Order) (bcast : Bool) (parked : Bool)
  /-- a local store: address and byte in ascending lane order -/
  | stl (bytes : List (Nat × Byte)) (ord : Order) (parked : Bool)
  /-- a local atomic: lane, address, data, new value -/
  | atoml (lanes : List (Nat × Nat × DWord × DWord)) (op : AtomOp) (ret : Bool) (scope : Scope) (d : Opnd) (parked : Bool)
  /-- a fence that did not complete at issue (R119) -/
  | fence (scope : Scope)
  /-- an arrival on a stage barrier that is not yet visible (R264) -/
  | stageArr (blk : Nat) (n : Fin 16)
  /-- `binp`: the set's descriptor and, per lane, index and value (R391) -/
  | binp (desc : DWord) (hm : Bool) (items : List (Nat × Word × Word)) (ikey : DWord)
  /-- `binrep` (R392); `started` once accepted, with the replays it waits for -/
  | binrep (desc : DWord) (hm : Bool) (t : Opnd) (started : Bool) (reps : List Nat)
  /-- `accum`: the contributions, four words each (R404) -/
  | accum (items : List (Nat × Word × Word × Word × Word)) (key : DWord)
  /-- an operation on a future word or a task queue (R393 to R397), at the place of the word or descriptor -/
  | slice (op : SliceOp) (x : SliceTxn)
  /-- a ray hand-off: the lanes' handles (R401 to R403) -/
  | handoff (kind : Handoff) (handles : List Word) (resume : Bool)
  /-- a texture sample (R405): the texel format; for each lane the texels with their weights in units of 2^-24, none where
  the result is the canonical NaN; and the places of the texels -/
  | tex (fmt : Nat) (plans : List (Nat × Option (List (Nat × DWord)))) (t : Opnd) (locs : List (DWord × Loc))
  /-- `accld` (R410) -/
  | accld (tile slab : Nat) (t : Opnd) (act : Mask)
  /-- `acczero` (R411) -/
  | acczero (tile : Nat)
  /-- `mcfg` (R412) -/
  | mcfg (w : Word)
  deriving DecidableEq, Repr

/-- Work that a group has issued and that is not performed yet; `seen` bounds the stores of other groups of its core that the
group's earlier loads may have observed (R124). -/
structure Op where
  id : Nat
  gk : GroupKey
  slot : Nat
  seen : Nat
  body : OpBody
  deriving DecidableEq, Repr

/-! ## Blocks, launches, contexts -/

/-- A stage barrier (R263). -/
structure StageBar where
  count : Nat
  pend : Nat
  ph : Bool
  deriving DecidableEq, Repr

/-- Where a block is (R184, R463); `ended` keeps an ended block whose local store a copy still names (R185). -/
inductive BlockState where
  | resident | evicting | saved | ended
  deriving DecidableEq, Repr

/-- A block: 1 to 32 groups on one cluster (R6). -/
structure Block where
  serial : Nat
  launch : Nat
  asid : Nat
  b : Nat
  bx : Word
  by_ : Word
  bz : Word
  cluster : Nat
  alloc : Nat
  loc : Memory
  locks : List Nat
  barPend : Nat
  barPh : Bool
  sbar : Vector StageBar 16
  mx : Bool
  seq : Option Nat
  tiles : Nat
  groups : List Group
  st : BlockState
  /-- the wake condition of a group has been latched while the block is saved (R463) -/
  woken : Bool
  image : Nat
  record : Nat
  isRay : Bool
  formation : Nat
  deriving DecidableEq, Repr

/-- The fields of a launch descriptor (R178). -/
structure Desc where
  entry : DWord
  const : DWord
  csize : Nat
  kind : Nat
  mx : Bool
  ttrap : Bool
  prio : Nat
  tmask : BitVec 8
  gx : Nat
  gy : Nat
  gz : Nat
  ng : Nat
  vregs : Nat
  sregs : Nat
  aregs : Nat
  lskb : Nat
  tiles : Nat
  fanout : Nat
  roles : DWord
  ctab : DWord
  stab : DWord
  nsh : Nat
  gang : Nat
  result : DWord
  deriving DecidableEq, Repr

/-- A companding table as held for a launch (R89, R90). -/
structure CTable where
  fx : Vector Word 17
  fy : Vector Word 17
  inv12 : Vector (BitVec 12) 256
  inv32 : Vector Word 256
  deriving DecidableEq, Repr

/-- The header of a shader table (R207). -/
structure RayHeader where
  tlas : DWord
  inst : DWord
  ninst : Nat
  tlim : Nat
  g0 : Vector Word 3
  cell : Word
  hint : DWord
  pf : Nat
  lowt : Nat
  lows : Nat
  tot : Nat
  tos : Nat
  acc : DWord
  aw : Nat
  ah : Nat
  deriving DecidableEq, Repr

/-- An entry of a shader table (R207). -/
structure ShaderEntry where
  pc : DWord
  vregs : Nat
  fan : Nat
  kind : Nat
  deriving DecidableEq, Repr

/-- The six counters of a ray launch (R212). -/
structure RayCounters where
  impl : Word
  misuse : Word
  spfail : Word
  badsh : Word
  accdrop : Word
  terms : Word
  deriving DecidableEq, Repr

/-- How far a launch has come: read and waiting for residency (R439), waiting for the mode switch that it has begun (R66),
accepted, started. -/
inductive LaunchState where
  | queued | switching | accepted | started
  deriving DecidableEq, Repr

/-- A launch from its packet to its completion (R430, R136). -/
structure Launch where
  id : Nat
  q : Nat
  n : Nat
  irq : Bool
  corr : Word
  asid : Nat
  fn : Nat
  prio : Nat
  descVa : DWord
  refs : List (Nat × Bool × Bool)
  waits : List Nat
  /-- SER of its packet (R425) -/
  ser : Bool
  /-- partitions to write back at its start, each with whether another context ran there (R431) -/
  flush : List (Nat × Bool)
  st : LaunchState
  desc : Desc
  tables : List (Option CTable)
  hdr : Option RayHeader
  shaders : List ShaderEntry
  result : Word
  ctr : RayCounters
  nextBlock : Nat
  lseq : Nat
  /-- formation counts per partition (R455, R478) -/
  formed : Vector Nat 8
  /-- scatter bin sets that `binp` has named, with the Cirque's partition (R169) -/
  binSets : List (Nat × DWord × Bool)
  /-- the key of each record in a bin, for the merge of R481: set, region, position, IKEY, lane -/
  binKeys : List (DWord × Nat × Nat × DWord × Nat)
  /-- the completion status to post, set when the launch is aborted (R459) -/
  abort : Option Nat
  deriving DecidableEq, Repr

/-- How far a halt of a context has come (R450, R452). -/
inductive HaltState where
  | running | raised | stopping | halted
  deriving DecidableEq, Repr

/-- A place named by kind and address, or absent (R421, R445). -/
structure Place where
  loc : Option Loc
  deriving DecidableEq, Repr

/-- A resident context: the held context-table entry (R21, R22), exception entry (R445) and repro entry (R477). -/
structure Ctx where
  asid : Nat
  v : Bool
  priv : Bool
  part : Nat
  evict : Bool
  repro : Bool
  fth : Bool
  vfn : Nat
  root : Nat
  save : Nat
  hpc : DWord
  fring : Option Loc
  sring : Option Loc
  flog : Nat
  slog : Nat
  msix : Nat
  bxall : Bool
  wbArea : Option Loc
  dtr : Option Loc
  dtlog : Nat
  dtMode : Nat
  own : Nat
  rva : DWord
  rlen : Nat
  spillArea : Option Loc
  splog : Nat
  halt : HaltState
  /-- agents that still have to stop -/
  agents : List HaltAgent
  /-- CTXCTL halt packets that wait for the halt to complete: queue, packet index, IRQ (R452) -/
  haltPkts : List (Nat × Nat × Bool)
  /-- CTXCTL resume and end packets that wait for the halt, in the order read: queue, packet index, IRQ, whether it is an
  end (R458, R459) -/
  afterPkts : List (Nat × Nat × Bool × Bool)
  fhead : Nat
  shead : Nat
  drops : Nat
  /-- bytes and status of the dispatch trace, and the position of each stream in it (R478, R479) -/
  dtBytes : Nat
  dtStatus : Nat
  /-- the trace buffer has filled: recording has stopped (R479) -/
  dtFull : Bool := false
  dtPos : List (Nat × Nat)
  /-- bytes of the accumulation spill area in use (R481) -/
  spillUsed : Nat
  /-- registered continuations that await a future: the launch that registered each, and its link word (R65, R136, R173) -/
  conts : List (Nat × Nat)
  /-- cause 0x25 was taken (R522) -/
  linkFault : Bool
  deriving DecidableEq, Repr

/-- What the device keeps for an address-space identifier beyond residency. -/
structure AsidInfo where
  asid : Nat
  dbg : Vector Word 160
  hseq : DWord
  lseq : Nat
  ended : Bool
  /-- a context that took cause 0x25 has left and was not ended (R522) -/
  linkFault : Bool
  /-- the write-back area, FHEAD and SHEAD of the context that left last (R446, R521) -/
  left : Option (Loc × Nat × Nat)
  deriving DecidableEq, Repr

/-! ## The command processor -/

/-- A completion record (R428). -/
structure Completion where
  corr : Word
  status : Nat
  op : Nat
  result : Word
  ctr : Option RayCounters
  irq : Bool
  /-- the packet's index in its queue -/
  n : Nat
  deriving DecidableEq, Repr

/-- A packet that holds the later packets of its queue (R425, R427, R433). -/
inductive Hold where
  | branch (n back skip : Nat) (cmp : Bool) (mask val : Word) (irq : Bool)
  | wait (n : Nat) (loc : Loc) (c : Nat) (irq : Bool)
  | launch (id : Nat)
  deriving DecidableEq, Repr

/-- A queue that the command processor is reading (R421, R422). -/
structure Queue where
  q : Nat
  ring : Loc
  cring : Loc
  swb : Loc
  rlog : Nat
  clog : Nat
  msix : Nat
  mgmt : Bool
  asid : Nat
  vfn : Nat
  pcap : Nat
  head : Nat
  tail : Nat
  ccons : Nat
  cdone : Nat
  qerr : Nat
  hold : Option Hold
  /-- SIGNAL packets that wait for earlier packets (R425): index, word, value -/
  sigs : List (Nat × Loc × DWord × Bool)
  skip : Nat
  /-- packets that have started and not completed -/
  inFlight : List Nat
  /-- completion records that wait for room (R424) -/
  held : List Completion
  /-- results of the last packets, for BRANCH (R433) -/
  results : List (Nat × Word)
  lastCorr : Word
  /-- its entry has held V = 0 since it was last read (R423) -/
  cleared : Bool
  deriving DecidableEq, Repr

/-- An entry of the handle table (R429). -/
structure HandleEnt where
  fn : Nat
  h : Nat
  /-- the launches that write it and have not completed, newest first (R429) -/
  writers : List Nat
  readers : List Nat
  deriving DecidableEq, Repr

/-- An invalidate or page-move packet in progress (R43, R47). -/
structure Job where
  id : Nat
  q : Nat
  n : Nat
  irq : Bool
  asid : Nat
  va : Nat
  pages : Nat
  pa : Option Nat
  /-- for a page move: old and new address, size in bytes, leaf entry addresses -/
  move : Option (Nat × Nat × Nat × List Nat)
  phase : Nat
  /-- the mappings that the shootdown dropped: kind code, physical base and bytes (R43) -/
  dropped : List (Nat × Nat × Nat)
  deriving DecidableEq, Repr

/-! ## Translation -/

/-- The page sizes of a TLB entry (R34). -/
inductive PageSize where
  | k64 | m2 | m512
  deriving DecidableEq, Repr

/-- Which TLB holds an entry (R34). -/
inductive TlbWhere where
  | core (n : Nat)
  | part (n : Nat)
  deriving DecidableEq, Repr

/-- A TLB entry (R34): the virtual base, the mapping's kind code, rights and physical base, and the entry read. -/
structure TlbEnt where
  at_ : TlbWhere
  asid : Nat
  vbase : Nat
  size : PageSize
  kind : Nat
  w : Bool
  x : Bool
  p : Bool
  pbase : Nat
  ent : DWord
  deriving DecidableEq, Repr

/-- A walk-cache entry: a top or middle entry (R34). -/
structure WalkCacheEnt where
  part : Nat
  asid : Nat
  /-- 0 top, 1 middle -/
  level : Nat
  /-- VA<53:42>, or VA<53:29> -/
  index : Nat
  ent : DWord
  deriving DecidableEq, Repr

/-- The kinds of access of a fault record (R37, ACC). -/
inductive Acc where
  | load | store | atomic | fetch | copyRead | copyWrite | travRead | cirqueWrite
  deriving DecidableEq, Repr

/-- A fault of a translation: cause, subcode, level and the last entry read (R30, R37). -/
structure XFault where
  cause : Nat
  sub : Nat
  level : Nat
  ent : DWord
  /-- the physical address that subcode 0x07 logs (R23) -/
  pa : Nat := 0
  deriving DecidableEq, Repr

/-- A walk in progress or waiting in the miss queue (R35), for a core of a partition; or a request that has joined the walk
`lead`. -/
structure Walk where
  id : Nat
  asid : Nat
  va : DWord
  part : Nat
  core : Nat
  gk : GroupKey
  slot : Nat
  lead : Option Nat
  deriving DecidableEq, Repr

/-- What a walk answered to the slot that waited for it, until its instruction issues again: a fault, or with cause 0 the
last entry read. -/
structure WalkFail where
  gk : GroupKey
  slot : Nat
  vpage : Nat
  fault : XFault
  deriving DecidableEq, Repr

/-! ## Caches -/

/-- A line of an L1 (R51): sectors present and the bytes; `stream` marks a line that is first to be evicted (R52). -/
structure L1Line where
  core : Nat
  kind : MemKind
  line : Nat
  valid : BitVec 4
  stream : Bool
  data : Vector Byte 128
  deriving DecidableEq, Repr

/-- A line of an L2 slice (R55): its way, of which the first TWAYS are the treelet cache (R59), and its marks (R52, R58). For
a decoded line, the window that decoded it and its generation (R99). -/
structure L2Line where
  slice : Nat
  kind : MemKind
  line : Nat
  way : Nat
  valid : BitVec 4
  dirty : BitVec 4
  poison : BitVec 4
  persist : Bool
  stream : Bool
  win : Nat
  gen : Nat
  data : Vector Byte 128
  deriving DecidableEq, Repr

/-- A line of the remote-data cache; `dirty` is state M, otherwise S (R69). -/
structure RdcLine where
  part : Nat
  asid : Nat
  line : Nat
  dirty : Bool
  poison : BitVec 4
  data : Vector Byte 128
  deriving DecidableEq, Repr

/-- The states of a home line that has a peer-directory entry (R70). -/
inductive DirState where
  | ps | pm | pl
  deriving DecidableEq, Repr

/-- What a home transaction in flight is for (R70). -/
inductive HomeWait where
  | inv | recall | recallInv
  deriving DecidableEq, Repr

/-- The tag, entries and lines of the memory system outside the memories themselves. -/
structure Caches where
  l1 : List L1Line
  l2 : List L2Line
  rdc : List RdcLine
  dir : List (Nat × DirState)
  /-- home lines with a transaction in flight: Inv or recall sent to the peer (R70) -/
  homeTxn : List (Nat × HomeWait)
  /-- answers of the peer that have not reached home: the line and the data of a recall (R70) -/
  peerAns : List (Nat × Option (Vector Byte 128))
  /-- the peer's copies of this die's lines; the flag is state M -/
  peerCopies : List (Nat × Bool)
  code : List (Nat × Nat × Nat × Vector Byte 128)
  /-- 32-byte sectors of device memory that read as uncorrectable (R50), by PA / 32 -/
  bad : List Nat
  /-- sectors of the peer die's memory that this die lost in a poisoned line (R75), by PA / 32 -/
  peerBad : List Nat
  /-- lines of this die that a copy engine of the peer die owns, with the moment of acceptance (R60, R70, R160) -/
  peerOwned : List (Nat × Nat)
  deriving DecidableEq, Repr

/-! ## Engines -/

/-- The parameters of a copy command by kind (R152 to R163). -/
inductive CopyBody where
  | lin (bytes : Nat)
  | fill (bytes : Nat) (pat : Word)
  | rect (width height depth spitch dpitch splane dplane : Nat)
  | gath (count idx rowb spitch nrows : Nat)
  | win (h w c esz fh fw dily dilx stry strx pady padx srow spix oy0 ox0 oh ow : Nat)
  | red (n op fmt tbl : Nat) (res scl : DWord)
  | bad (status : Nat)
  deriving DecidableEq, Repr

/-- A line that a copy command owns: its destination, the address of the line as the command names it, and its place. -/
structure OwnedLine where
  dest : Nat
  va : Nat
  loc : Loc
  deriving DecidableEq, Repr

/-- A copy command (R148). -/
structure CopyCmd where
  id : Nat
  gk : GroupKey
  gid : Word
  launch : Nat
  corr : Word
  asid : Nat
  cluster : Nat
  engine : Nat
  hm : Bool
  kind : Nat
  dst : DWord
  src : DWord
  dls : Bool
  sls : Bool
  fr : Bool
  sba : Bool
  sb : Fin 16
  dcache : Nat
  ils : Bool
  fut : DWord
  tok : Opnd
  body : CopyBody
  slot : Nat
  accepted : Bool
  /-- the moment of acceptance (R159, R160) -/
  stamp : Nat
  /-- stores of its core that left a FIFO before this may have been observed by the issuer before the command (R124, R125) -/
  seen : Nat
  status : Nat
  /-- ownership entries in use (R158) -/
  entries : Nat
  /-- what is left to do, in order: destination lines, or groups of 32 elements (R101, R158) -/
  todo : List Nat
  /-- the bytes of the unit in hand, read and not yet written: destination, address, byte -/
  buf : Option (List (Nat × Nat × Byte))
  /-- bytes of lines that are not complete yet -/
  held : List (Nat × Nat × Byte)
  /-- destination bytes below this have been written although their unit is done again after a halt (R450) -/
  skip : Nat
  /-- the destination pages translated, and the source pages (R41): page number and place -/
  dpages : List (Nat × Loc)
  spages : List (Nat × Loc)
  /-- lines owned and not yet passed by the frontier (R158) -/
  owned : List OwnedLine
  /-- local-store lines locked (R68) -/
  llines : List Nat
  stopped : Bool
  /-- the rows of a gather that its indices named at acceptance (R155, R530) -/
  rows : List Nat
  /-- an out-of-range row was met (R155) -/
  idxBad : Bool
  watched : List Nat
  deriving DecidableEq, Repr

/-- The states of a ray (R206). -/
inductive RayState where
  | travBinned (bin : Nat)
  | walking
  | shadeBinned (bin : Nat)
  | inEpisode
  deriving DecidableEq, Repr

/-- A hit a walk holds (R227). -/
structure Hit where
  t : Word
  u : Half
  v : Half
  shid : Nat
  inst : Word
  prim : Word
  deriving DecidableEq, Repr

/-- An instance that a walk has entered (R224): the transformed ray, the bottom level's base, and what hits take from it. -/
structure WalkInst where
  ray : Vector Word 6
  blas : Nat
  iid : Word
  sbase : Nat
  fopq : Bool
  deriving DecidableEq, Repr

/-- A child that waits on the walk's stack (R226). -/
structure WalkItem where
  /-- its rounded entry distance; none for a root, and for what is left of a leaf that has been taken -/
  dist : Option Word
  /-- child reference of R223 -/
  ref : Word
  /-- the treelet that holds the reference, by its number in the hierarchy -/
  treelet : Nat
  /-- bottom level: the instance it belongs to -/
  inst : Option WalkInst
  deriving DecidableEq, Repr

/-- The state of a walk inside its traversal unit (R226 to R231). -/
structure RayWalk where
  cluster : Nat
  /-- the pull that brought the ray in: rays with one number are one batch (R220) -/
  batch : Nat
  stack : List WalkItem
  /-- the triangle hit of this walk (R227) -/
  hit : Option Hit
  /-- the lowest candidate so far: c, KEY and its shader (R228) -/
  cand : Option (Word × Word × Nat)
  visits : Nat
  deriving DecidableEq, Repr

/-- A ray in a pool (R202, R205). -/
structure Ray where
  part : Nat
  asid : Nat
  slot : Nat
  launch : Nat
  w : Vector Word 16
  st : RayState
  /-- arrival order in its bin -/
  stamp : Nat
  resume : Bool
  walk : Option RayWalk
  /-- the RID of R478 -/
  rid : DWord
  deriving DecidableEq, Repr

/-- An accumulation bin of a partition (R170): contributions in append order, with their keys. -/
structure AccBin where
  part : Nat
  launch : Nat
  tile : Nat
  items : List (DWord × Word × Word × Word × Word)
  first : Nat
  deriving DecidableEq, Repr

/-- A replay waiting for its allocation or in progress (R169). -/
structure Replay where
  id : Nat
  part : Nat
  asid : Nat
  launch : Nat
  /-- scatter: descriptor VA, handler mode and region; accumulation: the tile's contributions -/
  scatter : Option (DWord × Bool × Nat)
  tile : Nat
  items : List (DWord × Word × Word × Word × Word)
  started : Bool
  stamp : Nat
  /-- the target pages translated: page number and place -/
  pages : List (Nat × Loc)
  owned : List Loc
  stopped : Bool
  deriving DecidableEq, Repr

/-- A treelet prefetch: partition, context, launch and the CELL12 of its hint (R234). -/
structure Prefetch where
  id : Nat
  part : Nat
  asid : Nat
  launch : Nat
  cell : Nat
  deriving DecidableEq, Repr

/-- The walk of a wait list by the slice logic (R174, R528). -/
structure ListWalk where
  id : Nat
  asid : Nat
  launch : Nat
  slice : Nat
  val : Word
  /-- the registration to visit next, in the form of a LINK word; 0 ends the walk -/
  next : DWord
  /-- accesses left for the record in hand -/
  acts : List SliceAct
  data : List Byte
  stopped : Bool
  deriving DecidableEq, Repr

/-! ## The matrix engine -/

/-- The kinds of a tile (R244). -/
inductive TileKind where
  | none | fp | s4 | s8 | u8 | c8
  deriving DecidableEq, Repr

/-- The partial of one element of an unfinished FP step (R253). -/
structure FpAcc where
  any : Bool
  nan : Bool
  pinf : Bool
  ninf : Bool
  /-- the exact sum of the finite terms, in units of 2^-298 -/
  sum : Int
  deriving DecidableEq, Repr

/-- An accumulator tile (R243, R254): 4,096 base values and two partials each. -/
structure Tile where
  kind : TileKind
  v : Vector Word 4096
  p0 : Vector Int 4096
  p1 : Vector Int 4096
  deriving DecidableEq, Repr

/-- A Talus entry (R256). -/
structure TalusEnt where
  tile : Nat
  row : Nat
  col : Nat
  cnt : Int
  deriving DecidableEq, Repr

/-- The sequencer states of R245. -/
inductive SeqState where
  | idle | run | wait | stall | trapped | stopped
  deriving DecidableEq, Repr

/-- The modes of R242. -/
inductive MmaMode where
  | f16 | bf16 | s8 | u8 | c8 | s4 | f16sp16 | bf16sp16 | s8sp16 | s8sp8 | s4sp8
  deriving DecidableEq, Repr

/-- A step that the array has begun (R242, R253). -/
structure MmaStep where
  mode : MmaMode
  m : MmaFields
  word : Word
  pc : DWord
  slice : Nat
  acc : Vector FpAcc 4096
  /-- the registers that the step has read, each as one whole: group, register, lanes (R252) -/
  regs : List (Fin 32 × Nat × Lanes) := []
  deriving DecidableEq, Repr

/-- A sequencer bound to a block (R243, R245, R265). -/
structure Sequencer where
  key : SeqKey
  blk : Nat
  st : SeqState
  /-- the state a halt interrupted (R456) -/
  was : SeqState
  pc : DWord
  starter : GroupKey
  starterGid : Word
  ctr : Vector (BitVec 13) 4
  tmode : Bool
  ta : Fin 8
  tb : Fin 8
  tiles : List Tile
  talus : List TalusEnt
  step : Option MmaStep
  /-- the `mwait` the sequencer is in -/
  waitOn : Option (Fin 16 × Bool)
  /-- stream lines held, by address (R246) -/
  lines : List (DWord × Vector Byte 128)
  /-- the word taken last -/
  word : Word
  deriving DecidableEq, Repr

/-! ## Host-side registers -/

/-- L2CFG (R61). -/
structure L2Cfg where
  tways : Nat
  pways : Nat
  mode : Bool
  swp : Bool
  deriving DecidableEq, Repr

/-- SERR_CNT of a partition (R79). -/
structure SerrCnt where
  cnt : Word
  thr : Half
  int : Bool
  ue : Bool
  src : Byte
  deriving DecidableEq, Repr

/-- A format window's registers (R95), with the table it holds (R96). -/
structure Window where
  en : Bool
  cfmt : BitVec 2
  dfmt : Bool
  vfn : BitVec 4
  gen : BitVec 8
  err : BitVec 3
  busy : Bool
  code : Nat
  scale : Nat
  view : Nat
  pages : Nat
  tbl : Nat
  held : Vector Word 256
  deriving DecidableEq, Repr

/-- A CQALLOC entry (R165). -/
structure CqEnt where
  v : Bool
  asid : BitVec 10
  pool : BitVec 5
  repl : BitVec 5
  err : BitVec 2
  deriving DecidableEq, Repr

/-- An error-log entry (R518). -/
structure ErrEnt where
  addr : DWord
  fn : Nat
  kind : Nat
  asid : Nat
  corr : Word
  deriving DecidableEq, Repr

/-- How a host access ends (R515, R518). -/
inductive Resp where
  | ok (data : List Byte)
  | completerAbort
  | unsupported
  deriving DecidableEq, Repr

/-- A host access to device memory that waits for its lines (R515): a write with its bytes, or a read. -/
structure HostAcc where
  fn : Nat
  pa : Nat
  len : Nat
  data : Option (List Byte)
  deriving DecidableEq, Repr

/-- The registers that the host reads and writes through BAR 0 and the controller's state. (DEDUCED, log 28.) -/
structure HostRegs where
  ctxtBase : DWord
  qtab : DWord
  exctBase : DWord
  reproBase : DWord
  l2cfg : L2Cfg
  /-- a persist-mark clear is in progress (R61) -/
  pclr : Bool
  serr : Vector SerrCnt 8
  win : Vector Window 16
  /-- windows disabled while accesses that were translated through them wait, newest first (R96) -/
  winPast : List (Nat × Window)
  cq : Vector (Vector CqEnt 8) 8
  vfrange : Vector DWord 9
  vfOn : BitVec 9
  errlog : Vector ErrEnt 64
  elhead : Word
  elcons : Word
  elovf : Word
  /-- images verified so far, and FWSTAT (R519) -/
  fwDone : Nat
  fwstat : Nat
  /-- the hashes and versions of the images that run (R520) -/
  images : List (List Byte × Nat)
  nonce : Vector Word 8
  attreq : DWord
  attBusy : Bool
  sumPa : Nat
  sumBusy : Bool
  /-- PA as the GO of the summary in progress found it (R521) -/
  sumBuf : Nat
  sumSeq : Nat
  pairstat : Nat
  /-- a retrain of the link is in progress (R72) -/
  retraining : Bool
  /-- steps of 100 MHz the clock has been lowered by (R523) -/
  clkSteps : Nat
  clockStopped : Bool
  deriving DecidableEq, Repr

/-! ## Debug and trace -/

/-- A core's sampling position: the next residency index and the sample number (R472). -/
structure Sampler where
  core : Nat
  asid : Nat
  next : Nat
  tick : Nat
  deriving DecidableEq, Repr

/-- The run of a traced group (R474). -/
structure TraceRun where
  core : Nat
  gk : GroupKey
  slot : Nat
  count : Nat
  pc : DWord
  mask : Mask
  clk : DWord
  deriving DecidableEq, Repr

/-- The run in progress on a core (R197): its slot, and the instructions issued in it. -/
structure CoreRun where
  core : Nat
  gk : GroupKey
  slot : Nat
  count : Nat
  deriving DecidableEq, Repr

/-! ## The state -/

/-- The state of the device. (DESIGN CHOICE, log 2; DESIGN CHOICE, log 3; DESIGN CHOICE, log 99.) -/
structure State where
  /-- device memory of this die behind its controllers (R48) -/
  dram : Memory
  /-- host memory and PCI Express peers, as the device reaches them (R15) -/
  host : Memory
  /-- device memory of the peer die, at its home slices (R69) -/
  peer : Memory
  mem : Caches
  regs : HostRegs
  -- command processor
  queues : List Queue
  handles : List HandleEnt
  launches : List Launch
  ctxs : List Ctx
  asids : List AsidInfo
  jobs : List Job
  -- distributor
  blocks : List Block
  lastCluster : Nat
  lastQueue : Nat
  /-- a gang that waits for room: its launch and the distributor's priority (R436) -/
  gangs : List (Nat × Nat)
  -- issue
  runs : List CoreRun
  /-- the group and slot whose instruction is issuing -/
  cur : GroupKey
  curSlot : Nat
  turn : Nat
  /-- the group that issued last, the address of the instruction, and the step (R472) -/
  lastIssue : Option (GroupKey × DWord × Nat)
  -- work in flight
  ops : List Op
  walks : List Walk
  fails : List WalkFail
  tlb : List TlbEnt
  walkCache : List WalkCacheEnt
  cmds : List CopyCmd
  rays : List Ray
  accBins : List AccBin
  spilled : List AccBin
  replays : List Replay
  prefetches : List Prefetch
  listWalks : List ListWalk
  seqs : List Sequencer
  curSeq : SeqKey
  /-- the sequencer whose step each cluster's array worked on last (R266) -/
  arrays : List SeqKey
  resetting : List Nat
  /-- bins whose oldest ray timed out: partition, context, whether a shade bin, bin number (R215, R216) -/
  timedOut : List (Nat × Nat × Bool × Nat)
  samplers : List Sampler
  traces : List TraceRun
  -- what the host has asked for, and what leaves the device
  hostAcc : List HostAcc
  /-- records and words of the device that wait for their lines, oldest first (R60, R70) -/
  posted : List (List (Loc × Byte))
  /-- records that wait for the words of their write-back area, oldest first: context, whether a stop record, bytes (R60, R446) -/
  records : List (Nat × Bool × List Byte)
  /-- doorbell writes that wait for their queue's entry, oldest first: function, queue, TAIL (R60, R422) -/
  bells : List (Nat × Nat × Word)
  msix : List (Nat × Nat)
  resps : List Resp
  -- what comes next
  agenda : List Instr
  ids : Nat
  clk : Nat
  deriving DecidableEq, Repr

/-! ## Reset -/

/-- A format window after reset (R95). (DESIGN CHOICE, log 9.) -/
def Window.reset : Window :=
  { en := false, cfmt := 0, dfmt := false, vfn := 0, gen := 0, err := 0, busy := false, code := 0, scale := 0, view := 0,
    pages := 0, tbl := 0, held := Vector.replicate 256 0 }

/-- A CQALLOC entry after reset (R165). -/
def CqEnt.reset : CqEnt := { v := false, asid := 0, pool := 0, repl := 0, err := 0 }

/-- An error-log entry before anything is written. (DESIGN CHOICE, log 9.) -/
def ErrEnt.reset : ErrEnt := { addr := 0, fn := 0, kind := 0, asid := 0, corr := 0 }

/-- The registers after reset: PWAYS is 4 (R61), PAIRSTAT is 1 on a pair card (R522), every other field 0.
(DESIGN CHOICE, log 9; DEDUCED, log 11.) -/
def HostRegs.reset : HostRegs :=
  { ctxtBase := 0, qtab := 0, exctBase := 0, reproBase := 0,
    l2cfg := { tways := 0, pways := 4, mode := false, swp := false }, pclr := false,
    serr := Vector.replicate 8 { cnt := 0, thr := 0, int := false, ue := false, src := 0 },
    win := Vector.replicate 16 Window.reset, winPast := [],
    cq := Vector.replicate 8 (Vector.replicate 8 CqEnt.reset),
    vfrange := Vector.replicate 9 0, vfOn := 0,
    errlog := Vector.replicate 64 ErrEnt.reset, elhead := 0, elcons := 0, elovf := 0,
    fwDone := 0, fwstat := 0, images := [], nonce := Vector.replicate 8 0, attreq := 0, attBusy := false,
    sumPa := 0, sumBusy := false, sumBuf := 0, sumSeq := 0, pairstat := if Config.pairCard then 1 else 0, retraining := false,
    clkSteps := 0, clockStopped := false }

/-- Caches with nothing in them. -/
def Caches.reset : Caches :=
  { l1 := [], l2 := [], rdc := [], dir := [], homeTxn := [], peerAns := [], peerCopies := [], code := [], bad := [], peerBad := [], peerOwned := [] }

/-- The machine right after reset: nothing resident, nothing in flight, memory with nothing listed.
(DESIGN CHOICE, log 9; DESIGN CHOICE, log 60.) -/
def State.reset : State :=
  { dram := ⟨[]⟩, host := ⟨[]⟩, peer := ⟨[]⟩, mem := Caches.reset, regs := HostRegs.reset,
    queues := [], handles := [], launches := [], ctxs := [], asids := [], jobs := [],
    blocks := [], lastCluster := 0, lastQueue := 0, gangs := [],
    runs := [], cur := ⟨0, 0⟩, curSlot := 0, turn := 0, lastIssue := none,
    ops := [], walks := [], fails := [], tlb := [], walkCache := [], cmds := [], rays := [], accBins := [], spilled := [],
    replays := [], prefetches := [], listWalks := [], seqs := [], curSeq := ⟨0, 0⟩, arrays := [], resetting := [], timedOut := [],
    samplers := [], traces := [], hostAcc := [], posted := [], records := [], bells := [], msix := [], resps := [], agenda := [], ids := 1, clk := 0 }

end Sys2Proof.Machine
end

