-- ==== Sys2Proof/Machine/Mem.lean ====
section
/-! DEFINITION. Bytes, byte order and memory: the canonical byte memory, the interleave of R49, R57 and R63, the L2 slices,
the remote-data cache and the peer directory, and one read and one write that every agent uses. -/
namespace Sys2Proof.Machine

/-! ## Bytes and words (R7: little-endian) -/

/-- The number whose bytes, lowest address first, are given. -/
def leNat : List Byte → Nat
  | [] => 0
  | b :: r => b.toNat + 256 * leNat r

/-- The `n` low bytes of a number, lowest address first. -/
def leBytes : Nat → Nat → List Byte
  | 0, _ => []
  | n + 1, v => BitVec.ofNat 8 v :: leBytes n (v / 256)

/-- `n` consecutive numbers from `a`. -/
def upFrom (a n : Nat) : List Nat := (List.range n).map (a + ·)

/-- The byte field of a byte list at an offset, as a number. -/
def fieldAt (bs : List Byte) (off n : Nat) : Nat := leNat ((bs.drop off).take n)

/-- Place bytes into a record at an offset. -/
def putBytes (rec : List Byte) (off : Nat) (bs : List Byte) : List Byte :=
  rec.take off ++ bs ++ rec.drop (off + bs.length)

/-- A record of `n` zero bytes with the given fields: offset, size, value. (DEDUCED, log 94.) -/
def recordOf (n : Nat) (fields : List (Nat × Nat × Nat)) : List Byte :=
  fields.foldl (fun r f => putBytes r f.1 (leBytes f.2.1 f.2.2)) (List.replicate n 0)

/-- A bit field of a number: `w` bits from bit `lo`. -/
def bitsAt (v lo w : Nat) : Nat := v / 2 ^ lo % 2 ^ w

/-- A bit of a number. -/
def bitAt (v i : Nat) : Bool := bitsAt v i 1 == 1

/-- 1 for true. -/
def b2n (b : Bool) : Nat := if b then 1 else 0

/-! ## Byte memory -/

namespace Memory

/-- The byte a list of cells holds at an address; 0 where nothing is listed. (DESIGN CHOICE, log 10.) -/
def look : List Host.Cell → Nat → Byte
  | [], _ => 0
  | c :: r, a => if c.1 = a then c.2 else look r a

/-- Cells with the byte at an address replaced, in canonical form. -/
def put : List Host.Cell → Nat → Byte → List Host.Cell
  | [], a, b => if b = 0 then [] else [(a, b)]
  | c :: r, a, b =>
    if a < c.1 then (if b = 0 then c :: r else (a, b) :: c :: r)
    else if a = c.1 then (if b = 0 then r else (a, b) :: r)
    else c :: put r a b

/-- One byte. (DESIGN CHOICE, log 10.) -/
def get (m : Memory) (a : Nat) : Byte := look m.cells a

/-- Write one byte. -/
def set (m : Memory) (a : Nat) (b : Byte) : Memory := ⟨put m.cells a b⟩

/-- `n` bytes from an address. -/
def read (m : Memory) (a n : Nat) : List Byte := (upFrom a n).map m.get

/-- Write the bytes of a list in its order. -/
def writeAll (m : Memory) : List (Nat × Byte) → Memory
  | [] => m
  | (a, b) :: r => writeAll (m.set a b) r

/-- Write consecutive bytes. -/
def write (m : Memory) (a : Nat) (bs : List Byte) : Memory := m.writeAll ((upFrom a bs.length).zip bs)

/-- Cells above a bound, strictly rising, none 0. -/
def wfFrom : Nat → List Host.Cell → Bool
  | _, [] => true
  | lo, c :: r => decide (lo ≤ c.1) && decide (c.2 ≠ 0) && wfFrom (c.1 + 1) r

/-- The canonical form: addresses strictly rising and no byte equal to what an unlisted address reads as. -/
def wf (m : Memory) : Bool := wfFrom 0 m.cells

end Memory

/-! ## Interleave -/

/-- The home partition of a device-memory address (R49). -/
def partOf (pa : Nat) : Nat :=
  bitsAt pa 8 3 ^^^ bitsAt pa 13 3 ^^^ bitsAt pa 18 3 ^^^ bitsAt pa 23 3 ^^^ bitsAt pa 28 3 ^^^ bitsAt pa 33 3

/-- The slice of a line in shared mode (R57). -/
def sliceShared (pa : Nat) : Nat := 16 * partOf pa + (bitsAt pa 11 4 ^^^ bitsAt pa 18 4 ^^^ bitsAt pa 25 4)

/-- The slice of a line of a context confined to a partition (R63). -/
def sliceConfined (part pa : Nat) : Nat :=
  16 * part + (bitsAt pa 7 4 ^^^ bitsAt pa 11 4 ^^^ bitsAt pa 15 4 ^^^ bitsAt pa 19 4)

/-- Line number of an address. -/
def lineOf (pa : Nat) : Nat := pa / 128

/-- Sector of an address in its line (R48, R55). -/
def sectorOf (pa : Nat) : Nat := pa / 32 % 4

/-- The place of the line that holds a place. -/
def Loc.lineLoc (l : Loc) : Loc := { l with pa := 128 * lineOf l.pa }

/-- A place some bytes further. -/
def Loc.add (l : Loc) (n : Nat) : Loc := { l with pa := l.pa + n }

/-- Where a device-memory access is performed: a slice, or the memory controller (R57, R63, R64, R106). -/
inductive Via where
  | slice (n : Nat)
  | controller
  deriving DecidableEq, Repr

/-- Who accesses memory: the context, if it is one's, and whether the access is of system scope. -/
structure Agent where
  asid : Option Nat
  sys : Bool
  deriving DecidableEq, Repr

/-- The device's own agent: system scope, no context. -/
def Agent.device : Agent := ⟨none, true⟩

/-- A context's agent for plain and die-scope accesses. -/
def Agent.ctx (asid : Nat) : Agent := ⟨some asid, false⟩

/-- The resident context of an address-space identifier. -/
def State.ctx? (s : State) (asid : Nat) : Option Ctx := s.ctxs.find? (fun c => c.asid == asid)

/-- The partition that confines an agent in mode 1, none in shared mode. -/
def State.confine (s : State) (a : Agent) : Option Nat :=
  if s.regs.l2cfg.mode then (a.asid.bind s.ctx?).map (·.part) else none

/-- Where an agent's access to device memory is performed (R106). (DEDUCED, log 29.) -/
def State.viaOf (s : State) (a : Agent) (pa : Nat) : Via :=
  if s.regs.l2cfg.mode then
    match s.confine a with
    | some p => if a.sys then .controller else .slice (sliceConfined p pa)
    | none => .controller
  else .slice (sliceShared pa)

/-! ## L2 -/

/-- Whether an L2 line is the one of a slice, kind and line number. -/
def L2Line.is (l : L2Line) (sl : Nat) (k : MemKind) (ln : Nat) : Bool := l.slice == sl && l.kind == k && l.line == ln

/-- The L2 line that holds a place. -/
def Caches.l2Find (c : Caches) (sl : Nat) (k : MemKind) (ln : Nat) : Option L2Line := c.l2.find? (·.is sl k ln)

/-- Whether an L2 line and a line number fall into one set of a slice: 512 sets by a fixed hash (R55). (DESIGN CHOICE, log 14.) -/
def L2Line.sameSet (l : L2Line) (ln : Nat) : Bool := Config.l2SetOf l.line % 512 == Config.l2SetOf ln % 512

/-- The bytes of an L2 line's dirty, unpoisoned sectors with their addresses. -/
def L2Line.dirtyBytes (l : L2Line) : List (Nat × Byte) :=
  (List.finRange 128).filterMap fun i =>
    let sec := i.val / 32
    if l.valid.getLsbD sec && l.dirty.getLsbD sec && !l.poison.getLsbD sec then some (128 * l.line + i.val, l.data[i]) else none

/-- The sectors, by PA / 32, of an L2 line that are dirty and not poisoned. -/
def L2Line.dirtySectors (l : L2Line) : List Nat :=
  (List.range 4).filterMap fun sec =>
    if l.valid.getLsbD sec && l.dirty.getLsbD sec && !l.poison.getLsbD sec then some (4 * l.line + sec) else none

/-- Write an L2 line back to device memory: poisoned sectors never reach memory (R75); a sector that is written reads
as good again. -/
def State.writeBack (s : State) (l : L2Line) : State :=
  if l.kind == .device then
    { s with dram := s.dram.writeAll l.dirtyBytes,
             mem := { s.mem with bad := s.mem.bad.filter (fun x => !l.dirtySectors.contains x) } }
  else s

/-- What a slice keeps of a line that is written back and invalidated: its poisoned sectors (R75). (DEDUCED, log 105.) -/
def L2Line.rest (l : L2Line) : Option L2Line :=
  if l.kind == .device && l.poison != 0 then
    some { l with valid := l.poison, dirty := l.dirty &&& l.poison, persist := false, stream := false }
  else none

/-- Write back and drop every L2 line that a test picks (R43, R66, R119); what is poisoned stays. (DEDUCED, log 105.) -/
def State.flushL2 (s : State) (p : L2Line → Bool) : State :=
  let s' := (s.mem.l2.filter p).foldl State.writeBack s
  { s' with mem := { s'.mem with l2 := s'.mem.l2.filterMap (fun l => if p l then l.rest else some l) } }

/-- Write back the dirty sectors of every L2 line that a test picks; the lines stay, clean. -/
def State.cleanL2 (s : State) (p : L2Line → Bool) : State :=
  let s' := (s.mem.l2.filter p).foldl State.writeBack s
  { s' with mem := { s'.mem with l2 := s'.mem.l2.map (fun l => if p l then { l with dirty := l.dirty &&& l.poison } else l) } }

/-- Drop every L2 line that a test picks, its poison too (R75, R43). -/
def State.dropL2 (s : State) (p : L2Line → Bool) : State :=
  { s with mem := { s.mem with l2 := s.mem.l2.filter (fun l => !p l) } }

/-- How an access allocates in L2 (R52, R58, R59). -/
inductive L2Alloc where
  | normal | stream | persist | treelet
  deriving DecidableEq, Repr

/-- The allocation of a cache policy (R52). -/
def allocOf : CachePol → L2Alloc
  | .normal => .normal
  | .stream => .stream
  | .persist => .persist
  | .bypass => .normal

/-- Put a line into L2 as most recently used. -/
def Caches.l2Put (c : Caches) (l : L2Line) : Caches := { c with l2 := l :: c.l2.filter (fun x => !x.is l.slice l.kind l.line) }

/-- The persist line that gives way when a set that holds PWAYS of them gets one more: the least recently used (R58). -/
def State.persistOver (s : State) (sl ln : Nat) : Option L2Line :=
  let pw := s.regs.l2cfg.pways
  let here := s.mem.l2.filter (fun l => l.slice == sl && l.persist)
  if here.length < pw then none
  else
    let set := here.filter (·.sameSet ln)
    if set.length < pw then none else set.getLast?

/-- A set keeps at most PWAYS persist lines, also after a write that lowers PWAYS: the least recently used ones lose their
mark (R58, R61). (DEDUCED, log 105.) -/
def Caches.trimPersist (c : Caches) (pw : Nat) : Caches :=
  { c with l2 := c.l2.foldl (fun acc l =>
      let extra := l.persist && (
        let here := acc.filter (fun x => x.slice == l.slice && x.persist)
        if here.length < pw then false else pw ≤ (here.filter (·.sameSet l.line)).length)
      acc ++ [if extra then { l with persist := false } else l]) [] }

/-- Make room for one more persist mark in the set of a line: the line that gives way is written back and dropped; a poisoned
one stays and loses its mark. (DEDUCED, log 105.) -/
def State.persistRoom (s : State) (sl ln : Nat) : State :=
  match s.persistOver sl ln with
  | some v => if v.poison = 0 then s.flushL2 (·.is v.slice v.kind v.line) else { s with mem := s.mem.l2Put { v with persist := false } }
  | none => s

/-- The ways in which an allocation may put a line (R59): the first TWAYS, or the others. -/
def L2Cfg.ways (c : L2Cfg) (al : L2Alloc) : List Nat := if al == .treelet then upFrom 0 c.tways else upFrom c.tways (16 - c.tways)

/-- The line that an allocation displaces in a set whose ways are all taken (R52, R58, R59): a `stream` line first; for an
allocation outside the treelet ways only a line that is not persist. A poisoned line stays in its slice (R75).
(DESIGN CHOICE, log 14.) (DEDUCED, log 105.) -/
def State.l2Pick (s : State) (set : List L2Line) (al : L2Alloc) : Option L2Line :=
  let mine := set.filter (fun l => (s.regs.l2cfg.ways al).contains l.way && l.poison == 0)
  let plain := if al == .treelet then mine else mine.filter (fun l => !l.persist)
  match (plain.filter (·.stream)).getLast? with
  | some v => some v
  | none => plain[Config.victim s.clk plain.length % plain.length]?

/-- The way that an allocation gets and the line that it displaces there; none where every way that it may take holds a
poisoned line. The set of a line is a free value, so it is looked at only when the slice has no way that is free in every set.
(DESIGN CHOICE, log 14; DEDUCED, log 105.) -/
def State.l2Room (s : State) (sl ln : Nat) (al : L2Alloc) : Option (Nat × Option L2Line) :=
  let ways := s.regs.l2cfg.ways al
  let here := s.mem.l2.filter (fun l => l.slice == sl)
  let free := fun (ls : List L2Line) => ways.find? (fun w => !ls.any (fun l => l.way == w))
  match free here with
  | some w => some (w, none)
  | none =>
    let set := here.filter (·.sameSet ln)
    match free set with
    | some w => some (w, none)
    | none => (s.l2Pick set al).map (fun v => (v.way, some v))

/-- The kind of allocation that an access gets: without treelet ways, treelet reads allocate like loads (R59); with no
room for marks, a persist access allocates like a normal one. -/
def State.l2Kind (s : State) (al : L2Alloc) : L2Alloc :=
  match al with
  | .treelet => if s.regs.l2cfg.tways = 0 then .normal else .treelet
  | .persist => if s.regs.l2cfg.pways = 0 then .normal else .persist
  | x => x

/-- An L2 line without valid sectors. -/
def L2Line.empty (sl : Nat) (k : MemKind) (ln : Nat) : L2Line :=
  { slice := sl, kind := k, line := ln, way := 0, valid := 0, dirty := 0, poison := 0, persist := false, stream := false, win := 0,
    gen := 0, data := Vector.replicate 128 0 }

/-- Put a new line into a way of its slice, displacing what stands there; nothing where no way can be had. -/
def State.l2Install (s : State) (l : L2Line) (al0 : L2Alloc) : State :=
  let al := s.l2Kind al0
  let s := if al == .persist then s.persistRoom l.slice l.line else s
  match s.l2Room l.slice l.line al with
  | none => s
  | some (w, v) =>
    let s := match v with
      | some v => s.flushL2 (·.is v.slice v.kind v.line)
      | none => s
    { s with mem := s.mem.l2Put { l with way := w, persist := al == .persist, stream := al == .stream } }

/-- Whether a sector of device memory cannot be delivered: memory reports it uncorrectable (R50), or a slice holds it
poisoned (R75). (DEDUCED, log 105.) -/
def State.lostSector (s : State) (sec : Nat) : Bool :=
  s.mem.bad.contains sec || s.mem.l2.any (fun l => l.kind == .device && l.line == sec / 4 && l.poison.getLsbD (sec % 4))

/-- Fill the sectors of a mask that are not valid from device memory (R55); a sector that memory cannot deliver is
poisoned (R50, R75). -/
def State.l2Fill (s : State) (l : L2Line) (secs : BitVec 4) : L2Line :=
  let need := fun (sec : Nat) => secs.getLsbD sec && !l.valid.getLsbD sec
  { l with
    data := Vector.ofFn (fun (i : Fin 128) => if need (i.val / 32) then s.dram.get (128 * l.line + i.val) else l.data[i]),
    valid := l.valid ||| secs,
    poison := BitVec.ofFnLE (fun (i : Fin 4) => l.poison.getLsbD i.val || (need i.val && s.lostSector (4 * l.line + i.val))) }

/-- Make a line present in a slice with the sectors of a mask: a hit keeps its way and takes a persist mark; a miss allocates
(R52, R55, R58, R59). (DEDUCED, log 105.) -/
def State.l2Touch (s : State) (sl ln : Nat) (secs : BitVec 4) (al0 : L2Alloc) : State :=
  let al := s.l2Kind al0
  match s.mem.l2Find sl .device ln with
  | some l =>
    let s := if al == .persist && !l.persist then s.persistRoom sl ln else s
    let l := s.l2Fill l secs
    { s with mem := s.mem.l2Put { l with persist := l.persist || al == .persist, stream := l.stream && al == .stream } }
  | none => s.l2Install (s.l2Fill (L2Line.empty sl .device ln) secs) al0

/-- The sectors that a byte list touches in one line. -/
def sectorsOf (ln : Nat) (addrs : List Nat) : BitVec 4 :=
  BitVec.ofFnLE (fun (i : Fin 4) => addrs.any (fun a => lineOf a == ln && sectorOf a == i.val))

/-- The sectors of a line that a byte list covers whole. -/
def wholeSectors (ln : Nat) (addrs : List Nat) : BitVec 4 :=
  BitVec.ofFnLE (fun (i : Fin 4) => (List.range 32).all (fun k => addrs.contains (128 * ln + 32 * i.val + k)))

/-- The lines that a byte list touches, without repeats. -/
def linesOf (addrs : List Nat) : List Nat := (addrs.map lineOf).eraseDups

/-- The byte that a slice gives for an address: its valid sector, else device memory. -/
def State.sliceByte (s : State) (sl : Nat) (pa : Nat) : Byte :=
  match s.mem.l2Find sl .device (lineOf pa) with
  | some l => if l.valid.getLsbD (sectorOf pa) then l.data[pa % 128]'(Nat.mod_lt _ (by decide)) else s.dram.get pa
  | none => s.dram.get pa

/-- Whether reading an address at a slice delivers poison (R75). -/
def State.slicePoison (s : State) (sl : Nat) (pa : Nat) : Bool :=
  match s.mem.l2Find sl .device (lineOf pa) with
  | some l => if l.valid.getLsbD (sectorOf pa) then l.poison.getLsbD (sectorOf pa) else s.lostSector (pa / 32)
  | none => s.lostSector (pa / 32)

/-- A byte of device memory as an access sees it at its point of performance. -/
def State.devByte (s : State) (v : Via) (pa : Nat) : Byte :=
  match v with
  | .slice n => s.sliceByte n pa
  | .controller => s.dram.get pa

/-- Whether that byte is poisoned. -/
def State.devPoison (s : State) (v : Via) (pa : Nat) : Bool :=
  match v with
  | .slice n => s.slicePoison n pa
  | .controller => s.lostSector (pa / 32)

/-- Sectors that are written whole behind the slices are good again, in memory and in every slice (R75). -/
def Caches.heal (c : Caches) (ln : Nat) (secs : BitVec 4) : Caches :=
  { c with
    bad := c.bad.filter (fun x => !(x / 4 == ln && secs.getLsbD (x % 4))),
    l2 := c.l2.map (fun l => if l.kind == .device && l.line == ln then
      { l with valid := l.valid &&& ~~~(secs &&& l.poison), dirty := l.dirty &&& ~~~(secs &&& l.poison), poison := l.poison &&& ~~~secs }
      else l) }

/-- Write bytes of one line at its memory controller. -/
def State.dramWriteLine (s : State) (ln : Nat) (bs : List (Nat × Byte)) : State :=
  let mine := bs.filter (fun x => lineOf x.1 == ln)
  { s with dram := s.dram.writeAll mine, mem := s.mem.heal ln (wholeSectors ln (mine.map (·.1))) }

/-- Write bytes into one line of a slice: partial sectors are filled first, whole sectors lose their poison (R55, R75). Where
the slice has no way for the line, memory takes them. (DEDUCED, log 105.) -/
def State.sliceWriteLine (s : State) (sl ln : Nat) (bs : List (Nat × Byte)) (al : L2Alloc) : State :=
  let mine := bs.filter (fun x => lineOf x.1 == ln)
  let addrs := mine.map (·.1)
  let whole := wholeSectors ln addrs
  let s := s.l2Touch sl ln (sectorsOf ln addrs) al
  match s.mem.l2Find sl .device ln with
  | some l =>
    let data := mine.foldl (fun (d : Vector Byte 128) x => d.set (x.1 % 128) x.2 (Nat.mod_lt _ (by decide))) l.data
    { s with mem := s.mem.l2Put { l with data := data, dirty := l.dirty ||| sectorsOf ln addrs, poison := l.poison &&& ~~~whole } }
  | none => s.dramWriteLine ln bs

/-- Write bytes of device memory at their point of performance. (DEDUCED, log 50.) -/
def State.devWrite (s : State) (via : Nat → Via) (bs : List (Nat × Byte)) (al : L2Alloc) : State :=
  (linesOf (bs.map (·.1))).foldl (fun s ln =>
    match via (128 * ln) with
    | .slice n => s.sliceWriteLine n ln bs al
    | .controller => s.dramWriteLine ln bs) s

/-- In mode 1 a system-scope access first writes back and drops the line in the issuing partition's slice (R64). -/
def State.beforeSys (s : State) (a : Agent) (lines : List Nat) : State :=
  match s.confine a with
  | some p =>
    if a.sys then s.flushL2 (fun l => l.kind == .device && lines.contains l.line && l.slice == sliceConfined p (128 * l.line))
    else s
  | none => s

/-! ## The remote-data cache (R69, R70) -/

/-- In mode 1 a release at system scope takes what its context has written to the controllers (R106, R117): the dirty
sectors of its partition's slices are written back. (DEDUCED, log 106.) -/
def State.sysRelease (s : State) (a : Agent) : State :=
  match s.confine a with
  | some p => if a.sys then s.cleanL2 (fun l => l.slice / 16 == p && l.dirty != 0) else s
  | none => s

/-- The portion that holds a peer-kind line for an agent (R63, R69). -/
def State.rdcPart (s : State) (a : Agent) (pa : Nat) : Nat := (s.confine a).getD (partOf pa)

/-- The line of a portion, whatever its address-space identifier. (DEDUCED, log 30.) -/
def Caches.rdcFind (c : Caches) (part ln : Nat) : Option RdcLine := c.rdc.find? (fun l => l.part == part && l.line == ln)

/-- A byte of peer memory: the line this die holds, else the peer's home slice. -/
def State.peerByte (s : State) (part pa : Nat) : Byte :=
  match s.mem.rdcFind part (lineOf pa) with
  | some l => l.data[pa % 128]'(Nat.mod_lt _ (by decide))
  | none =>
    match s.mem.rdc.find? (fun l => l.line == lineOf pa && l.dirty) with
    | some l => l.data[pa % 128]'(Nat.mod_lt _ (by decide))
    | none => s.peer.get pa

/-- Whether a byte of peer memory is poisoned: in the line that this die holds, or, where it holds none, at home (R75). -/
def Caches.peerPoison (c : Caches) (part pa : Nat) : Bool :=
  match (c.rdcFind part (lineOf pa)).or (c.rdc.find? (fun l => l.line == lineOf pa && l.dirty)) with
  | some l => l.poison.getLsbD (sectorOf pa)
  | none => c.peerBad.contains (pa / 32)

/-- The sectors of a line, by PA / 32, that a mask picks. -/
def secNumbers (ln : Nat) (m : BitVec 4) : List Nat := (List.range 4).filterMap (fun i => if m.getLsbD i then some (4 * ln + i) else none)

/-- An M line goes home, as by the eviction of R70: the peer takes its good sectors, and learns which are lost (R75). A clean
line is only dropped. (DEDUCED, log 105.) -/
def State.rdcWriteBack (s : State) (l : RdcLine) : State :=
  if l.dirty then
    let good := (List.finRange 128).filter (fun i => !l.poison.getLsbD (i.val / 32))
    let kept := s.mem.peerBad.filter (fun x => !(secNumbers l.line (~~~l.poison)).contains x)
    { s with peer := s.peer.writeAll (good.map (fun i => (128 * l.line + i.val, l.data[i]))),
             mem := { s.mem with peerBad := secNumbers l.line l.poison ++ kept } }
  else s

/-- Give up the lines of the remote-data cache that a test picks, M lines going home. -/
def State.surrender (s : State) (p : RdcLine → Bool) : State :=
  let s' := (s.mem.rdc.filter p).foldl State.rdcWriteBack s
  { s' with mem := { s'.mem with rdc := s'.mem.rdc.filter (fun l => !p l) } }

/-- Write back and drop the lines of the slices and of the remote-data cache that lie in a range, discarding what is poisoned: home
keeps its data from before the lost writes (R43, R75). -/
def State.discardLines (s : State) (p : Nat → Bool) : State :=
  let s := (s.flushL2 (fun l => p l.line)).dropL2 (fun l => p l.line)
  let bad := s.mem.peerBad.filter (fun x => !p (x / 4))
  let s := s.surrender (fun l => p l.line)
  { s with mem := { s.mem with peerBad := bad } }

/-- Write back and drop the lines of the remote-data cache that a test picks; a poisoned line stays (R75). -/
def State.flushRdc (s : State) (p : RdcLine → Bool) : State := s.surrender (fun l => p l && l.poison == 0)

/-- The room that an allocation in a portion finds among 1,024 sets of 16 ways (R69): the line that it displaces, if one must go;
none where every way of the set holds a poisoned line, which stays (R75). (DESIGN CHOICE, log 14.) (DEDUCED, log 105.) -/
def State.rdcRoom (s : State) (part ln : Nat) : Option (Option RdcLine) :=
  let here := s.mem.rdc.filter (fun l => l.part == part)
  if here.length < 16 then some none
  else
    let set := here.filter (fun l => Config.rdcSetOf l.line % 1024 == Config.rdcSetOf ln % 1024)
    let cand := set.filter (fun l => l.poison == 0)
    if set.length < 16 then some none else (cand[Config.victim s.clk cand.length % cand.length]?).map some

/-- Hold a peer line, in S or in M, for an agent (R70: RdS, RdX and Upg answered by the peer). A copy that another portion
holds in M goes home first; an M line is the only copy of this die. Where the portion has no way for the line, nothing is held.
(DEDUCED, log 13; DEDUCED, log 30.) (DEDUCED, log 105.) -/
def State.rdcTouch (s : State) (a : Agent) (ln : Nat) (m : Bool) : State :=
  let part := s.rdcPart a (128 * ln)
  match s.mem.rdcFind part ln with
  | some l =>
    let new := { l with dirty := l.dirty || m }
    let gone := fun (x : RdcLine) => x.line == ln && (m || x.part == part)
    { s with mem := { s.mem with rdc := new :: s.mem.rdc.filter (fun x => !gone x) } }
  | none =>
    let s := s.surrender (fun l => l.line == ln && (m || l.dirty))
    match s.rdcRoom part ln with
    | none => s
    | some v =>
      let s := match v with
        | some v => s.flushRdc (fun l => l.part == v.part && l.line == v.line)
        | none => s
      let data := Vector.ofFn (fun (i : Fin 128) => s.peer.get (128 * ln + i.val))
      let poison := BitVec.ofFnLE (fun (i : Fin 4) => s.mem.peerBad.contains (4 * ln + i.val))
      { s with mem := { s.mem with rdc := { part := part, asid := a.asid.getD 0, line := ln, dirty := m, poison := poison, data := data } :: s.mem.rdc } }

/-- Write bytes of peer memory at the peer's home slices, giving up this die's copies: copy engines and atomics (R70).
(DESIGN CHOICE, log 12; DEDUCED, log 13.) -/
def State.peerHomeWrite (s : State) (bs : List (Nat × Byte)) : State :=
  let lines := linesOf (bs.map (·.1))
  let s := s.surrender (fun l => lines.contains l.line)
  let whole := lines.flatMap (fun ln => secNumbers ln (wholeSectors ln (bs.map (·.1))))
  { s with peer := s.peer.writeAll bs, mem := { s.mem with peerBad := s.mem.peerBad.filter (fun x => !whole.contains x) } }

/-- Write bytes of peer memory into lines held in M; whole sectors lose their poison (R70, R75, R106). What no portion can hold is
written at home. (DEDUCED, log 13.) (DEDUCED, log 105.) -/
def State.peerWrite (s : State) (a : Agent) (bs : List (Nat × Byte)) : State :=
  (linesOf (bs.map (·.1))).foldl (fun s ln =>
    let s := s.rdcTouch a ln true
    if !s.mem.rdc.any (fun l => l.line == ln) then s.peerHomeWrite (bs.filter (fun x => lineOf x.1 == ln)) else
    let upd := fun (l : RdcLine) => bs.foldl (fun (d : Vector Byte 128) x =>
      if lineOf x.1 == ln then d.set (x.1 % 128) x.2 (Nat.mod_lt _ (by decide)) else d) l.data
    let whole := wholeSectors ln (bs.map (·.1))
    let rdc := s.mem.rdc.map (fun l => if l.line == ln then { l with data := upd l, poison := l.poison &&& ~~~whole } else l)
    { s with mem := { s.mem with rdc := rdc } }) s

/-! ## Lines that cannot be reached at once -/

/-- Whether a copy command owns the line of a place and has not passed it (R126, R158). -/
def CopyCmd.owns (c : CopyCmd) (l : Loc) : Bool := c.owned.any (fun x => x.loc == l.lineLoc)

/-- Whether a copy engine of the peer die owns the line of a place (R60, R70). -/
def Caches.peerOwns (c : Caches) (l : Loc) : Bool := l.kind == .device && c.peerOwned.any (fun x => x.1 == lineOf l.pa)

/-- Whether a copy or a replay, of either die, owns the line of a place (R60, R126). -/
def State.owned (s : State) (l : Loc) : Bool :=
  s.cmds.any (·.owns l) || s.replays.any (fun r => r.owned.contains l.lineLoc) || s.mem.peerOwns l

/-- Whether a copy or a replay that was accepted before a stamp, or a copy of the peer die, owns the line of a place
(R159, R160). -/
def State.ownedBefore (s : State) (stamp : Nat) (l : Loc) : Bool :=
  s.cmds.any (fun c => c.stamp < stamp && c.owns l) || s.replays.any (fun r => r.stamp < stamp && r.owned.contains l.lineLoc) ||
    (l.kind == .device && s.mem.peerOwned.any (fun x => x.1 == lineOf l.pa && x.2 < stamp))

/-- The peer-directory state of a device line; none is PI (R70). -/
def Caches.dirOf (c : Caches) (ln : Nat) : Option DirState := (c.dir.find? (fun e => e.1 == ln)).map (·.2)

/-- Whether the Col link is up (R522: PAIRSTAT 2). -/
def State.linkUp (s : State) : Bool := s.regs.pairstat == 2 && !s.regs.retraining

/-- What an access finds at a line. -/
inductive LineStatus where
  | ok
  /-- a copy or a replay owns the line: the access waits (R126) -/
  | owned
  /-- the peer must answer first (R70), or the link retrains (R72) -/
  | busy
  /-- the line is lost, or the link is down: cause 0x25 (R70, R72) -/
  | lost
  /-- a decoded line that is not in L2 (R98) -/
  | viewMiss
  deriving DecidableEq, Repr

/-- Whether a window's view range holds an address (R95). -/
def Window.shows (w : Window) (pa : Nat) : Bool := w.view ≤ pa && pa < w.view + w.pages * 65536

/-- The windows by number. -/
def HostRegs.windows (r : HostRegs) : List (Nat × Window) := (List.range 16).zip r.win.toList

/-- Whether a view address lies in an enabled window of a function (R96). -/
def State.windowFor (s : State) (vfn pa : Nat) : Bool :=
  match s.regs.windows.find? (fun w => w.2.en && w.2.shows pa) with
  | some w => w.2.vfn.toNat == vfn
  | none => false

/-- The window through which an access that has been translated reads a view address: the enabled one, be it another one that was
enabled over the range meanwhile, else one disabled since (R96). (DEDUCED, log 112.) -/
def State.windowAt (s : State) (pa : Nat) : Option (Nat × Window) :=
  (s.regs.windows.find? (fun w => w.2.en && w.2.shows pa)).or (s.regs.winPast.find? (fun w => w.2.shows pa))

/-- The address of the code of an element (R97): CFMT 0 s4, 1 s8, 2 C8. -/
def Window.codePlace (w : Window) (e : Nat) : Nat := if w.cfmt = 0 then w.code + e / 2 else w.code + e

/-- The address of the scale of an element (R97). -/
def Window.scalePlace (w : Window) (e : Nat) : Nat := w.scale + 2 * (e / 32)

/-- The places that the fill of a view line reads: its codes and its scales (R98). -/
def Window.fillPlaces (w : Window) (ln : Nat) : List Loc :=
  let e0 := (128 * ln - w.view) / 2
  (((upFrom e0 64).map w.codePlace).eraseDups ++ ((upFrom e0 64).map w.scalePlace).eraseDups.flatMap (fun a => [a, a + 1])).map
    (fun a => ⟨.device, a⟩)

/-- The slice that holds a view line for an agent (R98): that of R57, or of R63 in mode 1. -/
def State.viewSlice (s : State) (a : Agent) (pa : Nat) : Option Nat :=
  match s.viaOf { a with sys := false } pa with
  | .slice n => some n
  | .controller => none

/-- The current generation of a window (R99). -/
def State.winGen (s : State) (i : Nat) : Nat := ((s.regs.win.toList[i]?).map (·.gen.toNat)).getD 0

/-- The decoded line of a view place, unless another window or an older generation of its window decoded it (R99, R100). -/
def State.viewLine (s : State) (a : Agent) (pa : Nat) : Option L2Line :=
  match s.viewSlice a pa, s.windowAt pa with
  | some n, some w => (s.mem.l2Find n .view (lineOf pa)).filter (fun l => l.win == w.1 && l.gen == s.winGen w.1)
  | _, _ => none

/-- Whether the fill of a view line would read a lost line (R70, R98). -/
def State.viewLost (s : State) (pa : Nat) : Bool :=
  match s.windowAt pa with
  | some w => (linesOf ((w.2.fillPlaces (lineOf pa)).map (·.pa))).any (fun ln => s.mem.dirOf ln == some .pl)
  | none => false

/-- What an access by an agent finds at the line of a place, copies and replays apart. -/
def State.lineFree (s : State) (a : Agent) (wr : Bool) (l : Loc) : LineStatus :=
  match l.kind with
  | .device =>
    if s.mem.homeTxn.any (fun t => t.1 == lineOf l.pa) then .busy
    else match s.mem.dirOf (lineOf l.pa) with
      | none => .ok
      | some .pl => .lost
      | some .pm => .busy
      | some .ps => if wr then .busy else .ok
  | .peer => if s.regs.pairstat == 3 then .lost else if s.linkUp then .ok else .busy
  | .view => if (s.viewLine a l.pa).isSome then .ok else if s.viewLost l.pa then .lost else .viewMiss
  | _ => .ok

/-- What an access by an agent finds at the line of a place. -/
def State.lineStatus (s : State) (a : Agent) (wr : Bool) (l : Loc) : LineStatus :=
  if s.owned l then .owned else s.lineFree a wr l

/-- What an engine, the Cirque or another agent accepted at a stamp finds at a line. -/
def State.lineAfter (s : State) (a : Agent) (wr : Bool) (stamp : Nat) (l : Loc) : LineStatus :=
  if s.ownedBefore stamp l then .owned else s.lineFree a wr l

/-- Send the peer an Inv or a recall for a line that it may hold (R70). -/
def State.askPeer (s : State) (ln : Nat) (wr : Bool) : State :=
  if s.mem.homeTxn.any (fun t => t.1 == ln) then s
  else match s.mem.dirOf ln with
    | some .pm => { s with mem := { s.mem with homeTxn := s.mem.homeTxn ++ [(ln, if wr then .recallInv else .recall)] } }
    | some .ps => if wr then { s with mem := { s.mem with homeTxn := s.mem.homeTxn ++ [(ln, .inv)] } } else s
    | _ => s

/-- Send the peer what an access to these places needs. -/
def State.askPeerFor (s : State) (wr : Bool) (ls : List Loc) : State :=
  ls.foldl (fun s l => if l.kind == .device then s.askPeer (lineOf l.pa) wr else s) s

/-! ## One read and one write for every agent -/

/-- A host kind (R15). -/
def MemKind.isHost : MemKind → Bool
  | .hostCoh => true
  | .hostUnc => true
  | _ => false

/-- The structure code of a poisoned place (R73). (DEDUCED, log 21.) -/
def State.poisonCode (s : State) (a : Agent) (l : Loc) : Nat :=
  match l.kind with
  | .peer => 4
  | .view => 2
  | _ => match s.viaOf a l.pa with
    | .slice n => match s.mem.l2Find n l.kind (lineOf l.pa) with
      | some x => if x.valid.getLsbD (sectorOf l.pa) then 2 else 0xB
      | none => 0xB
    | .controller => 0xB

/-- A byte as an agent reads it at the point of performance (R106). -/
def State.byteAt (s : State) (a : Agent) (l : Loc) : Byte :=
  match l.kind with
  | .device => s.devByte (s.viaOf a l.pa) l.pa
  | .peer => s.peerByte (s.rdcPart a l.pa) l.pa
  | .hostCoh => s.host.get l.pa
  | .hostUnc => s.host.get l.pa
  | .view => match s.viewLine a l.pa with
    | some x => x.data[l.pa % 128]'(Nat.mod_lt _ (by decide))
    | none => 0

/-- Whether a byte that an agent reads is poisoned (R75). -/
def State.poisonAt (s : State) (a : Agent) (l : Loc) : Bool :=
  match l.kind with
  | .device => s.devPoison (s.viaOf a l.pa) l.pa
  | .peer => s.mem.peerPoison (s.rdcPart a l.pa) l.pa
  | .view => match s.viewLine a l.pa with
    | some x => x.poison.getLsbD (sectorOf l.pa)
    | none => false
  | _ => false

/-- `n` bytes as an agent reads them. -/
def State.bytesAt (s : State) (a : Agent) (l : Loc) (n : Nat) : List Byte := (upFrom 0 n).map (fun k => s.byteAt a (l.add k))

/-- A little-endian number as an agent reads it. -/
def State.numAt (s : State) (a : Agent) (l : Loc) (n : Nat) : Nat := leNat (s.bytesAt a l n)

/-- Whether any of `n` bytes is poisoned. -/
def State.poisonIn (s : State) (a : Agent) (l : Loc) (n : Nat) : Bool := (upFrom 0 n).any (fun k => s.poisonAt a (l.add k))

/-- A read of a decoded line leaves the mark of its policy, as a read of any L2 line does (R52, R58, R98). -/
def State.viewTouch (s : State) (a : Agent) (pa : Nat) (al0 : L2Alloc) : State :=
  let al := s.l2Kind al0
  match s.viewLine a pa with
  | some l =>
    let s := if al == .persist && !l.persist then s.persistRoom l.slice l.line else s
    { s with mem := s.mem.l2Put { l with persist := l.persist || al == .persist, stream := l.stream && al == .stream } }
  | none => s

/-- What reading leaves in the caches: the sectors of the places are present (R55, R69). `whole` fetches whole lines. -/
def State.touchFor (s : State) (a : Agent) (ls : List Loc) (al : L2Alloc) (whole : Bool) : State :=
  let dev := (ls.filter (fun l => l.kind == .device)).map (·.pa)
  let s := s.beforeSys a (linesOf dev)
  let s := (linesOf dev).foldl (fun s ln =>
    match s.viaOf a (128 * ln) with
    | .slice n => s.l2Touch n ln (if whole then 0xF#4 else sectorsOf ln dev) al
    | .controller => s) s
  let s := (linesOf ((ls.filter (fun l => l.kind == .view)).map (·.pa))).foldl (fun s ln => s.viewTouch a (128 * ln) al) s
  (linesOf ((ls.filter (fun l => l.kind == .peer)).map (·.pa))).foldl (fun s ln => s.rdcTouch a ln false) s

/-- Write bytes at their point of performance, in the order of the list (R54). -/
def State.writeAt (s : State) (a : Agent) (bs : List (Loc × Byte)) (al : L2Alloc) : State :=
  let of := fun (k : MemKind) => bs.filterMap (fun x => if x.1.kind == k then some (x.1.pa, x.2) else none)
  let s := s.beforeSys a (linesOf ((of .device).map (·.1)))
  let s := s.devWrite (s.viaOf a) (of .device) al
  let s := s.peerWrite a (of .peer)
  { s with host := s.host.writeAll (bs.filterMap (fun x => if x.1.kind.isHost then some (x.1.pa, x.2) else none)) }

/-- Write consecutive bytes. -/
def State.writeBytes (s : State) (a : Agent) (l : Loc) (bs : List Byte) : State :=
  s.writeAt a ((upFrom 0 bs.length).zip bs |>.map (fun x => (l.add x.1, x.2))) .normal

/-- Write a little-endian number. -/
def State.writeNum (s : State) (a : Agent) (l : Loc) (n v : Nat) : State := s.writeBytes a l (leBytes n v)

/-! ## Accesses that may have to wait -/

/-- The distinct lines of a list of places. -/
def linesOfLocs (ls : List Loc) : List Loc := (ls.map Loc.lineLoc).eraseDups

/-- What an access finds at its lines, the worst first. (DEDUCED, log 102.) -/
def State.statusOf (s : State) (a : Agent) (wr : Bool) (ls : List Loc) : LineStatus :=
  let sts := (linesOfLocs ls).map (s.lineStatus a wr)
  if sts.contains .lost then .lost
  else if sts.contains .owned then .owned
  else if sts.contains .busy then .busy
  else if sts.contains .viewMiss then .viewMiss
  else .ok

/-- Ask the peer for the lines that hold an access back, unless it has been asked (R70). -/
def State.askOnce (s : State) (wr : Bool) (ls : List Loc) : Option State :=
  let asks := fun (l : Loc) => l.kind == .device && !s.mem.homeTxn.any (fun t => t.1 == lineOf l.pa) &&
    (match s.mem.dirOf (lineOf l.pa) with
      | some .pm => true
      | some .ps => wr
      | _ => false)
  if ls.any asks then some (s.askPeerFor wr ls) else none

/-- Go on waiting, or ask the peer. -/
def progress (s s' : State) : Option State := if s'.mem.homeTxn.length = s.mem.homeTxn.length then none else some s'

/-- What the device finds where it reads a word or an entry of its own: it can read, it has to wait, or what stands there cannot be
had, poisoned or lost (R60, R70, R75). -/
inductive TableRead where
  | ok
  | wait (s : State)
  | bad (l : Loc)

/-- Look at places that the device is to read, each with its bytes in one line. -/
def State.tableRead (s : State) (ps : List (Loc × Nat)) : TableRead :=
  let ls := ps.map (·.1)
  match s.statusOf .device false ls with
  | .ok => match ps.find? (fun x => s.poisonIn .device x.1 x.2) with
    | some x => .bad x.1
    | none => .ok
  | .lost => .bad ((ls.find? (fun l => s.lineStatus .device false l == .lost)).getD ⟨.device, 0⟩)
  | _ => .wait (s.askPeerFor false ls)

/-- Whether they can be read. -/
def TableRead.isOk : TableRead → Bool
  | .ok => true
  | _ => false

/-- Whether they have to be waited for. -/
def TableRead.waits : TableRead → Bool
  | .wait _ => true
  | _ => false

/-- The device writes a record or a word of its own: at once where nothing of the device waits and its lines can be had, else
after what waits before it (R60, R70). (DEDUCED, log 108.) -/
def State.post (s : State) (bs : List (Loc × Byte)) : State :=
  let ls := linesOfLocs (bs.map (·.1))
  if s.posted = [] && s.statusOf .device true ls == .ok then s.writeAt .device bs .normal
  else { s.askPeerFor true ls with posted := s.posted ++ [bs] }

/-- Write consecutive bytes as the device. -/
def State.postBytes (s : State) (l : Loc) (bs : List Byte) : State := s.post ((upFrom 0 bs.length).zip bs |>.map (fun x => (l.add x.1, x.2)))

/-- Write a little-endian number as the device. -/
def State.postNum (s : State) (l : Loc) (n v : Nat) : State := s.postBytes l (leBytes n v)

/-- The oldest write of the device that waits is made once its lines can be had; a lost line is not written (R70).
(DEDUCED, log 108.) -/
def State.postNext? (s : State) : Option State :=
  match s.posted with
  | [] => none
  | bs :: r =>
    let ls := linesOfLocs (bs.map (·.1))
    match s.statusOf .device true ls with
    | .ok => some ({ s with posted := r }.writeAt .device bs .normal)
    | .lost => some { s with posted := r }
    | .busy => s.askOnce true ls
    | _ => none

/-! ## L1 (R51 to R53) -/

/-- The L1 line of a core that holds a place. -/
def Caches.l1Find (c : Caches) (core : Nat) (k : MemKind) (ln : Nat) : Option L1Line :=
  c.l1.find? (fun l => l.core == core && l.kind == k && l.line == ln)

/-- The L1 line that an allocation displaces: 64 sets of 4 ways, a `stream` line first (R51, R52). (DESIGN CHOICE, log 14.) -/
def State.l1Victim (s : State) (core : Nat) (k : MemKind) (ln : Nat) : Option L1Line :=
  let here := s.mem.l1.filter (fun l => l.core == core)
  if here.length < 4 then none
  else
    let set := here.filter (fun l => Config.l1SetOf l.line % 64 == Config.l1SetOf ln % 64 && !(l.kind == k && l.line == ln))
    if set.length < 4 then none
    else match (set.filter (·.stream)).getLast? with
      | some v => some v
      | none => set[Config.victim s.clk set.length % set.length]?

/-- Bring the sectors of a line into a core's L1, as the point of performance gives them. -/
def State.l1Fill (s : State) (a : Agent) (core : Nat) (k : MemKind) (ln : Nat) (secs : BitVec 4) (stream : Bool) : State :=
  let old := match s.mem.l1Find core k ln with
    | some l => l
    | none => { core := core, kind := k, line := ln, valid := 0, stream := stream, data := Vector.replicate 128 0 }
  let data := Vector.ofFn (fun (i : Fin 128) =>
    if secs.getLsbD (i.val / 32) && !old.valid.getLsbD (i.val / 32) then s.byteAt a ⟨k, 128 * ln + i.val⟩ else old.data[i])
  let drop := s.l1Victim core k ln
  let rest := s.mem.l1.filter (fun l => !(l.core == core && l.kind == k && l.line == ln) && some l != drop)
  { s with mem := { s.mem with l1 := { old with valid := old.valid ||| secs, data := data } :: rest } }

/-- Drop the L1 lines that a test picks. -/
def State.l1Drop (s : State) (p : L1Line → Bool) : State :=
  { s with mem := { s.mem with l1 := s.mem.l1.filter (fun l => !p l) } }

/-- Write bytes through to the L1 lines of a core that they hit; a bypassing store drops the lines (R51, R52). -/
def State.l1Store (s : State) (core : Nat) (bs : List (Loc × Byte)) (bypass : Bool) : State :=
  if bypass then s.l1Drop (fun l => l.core == core && bs.any (fun x => x.1.kind == l.kind && lineOf x.1.pa == l.line))
  else
    let upd := fun (l : L1Line) => bs.foldl (fun (d : Vector Byte 128) x =>
      if x.1.kind == l.kind && lineOf x.1.pa == l.line && l.valid.getLsbD (sectorOf x.1.pa)
      then d.set (x.1.pa % 128) x.2 (Nat.mod_lt _ (by decide)) else d) l.data
    { s with mem := { s.mem with l1 := s.mem.l1.map (fun l => if l.core == core then { l with data := upd l } else l) } }

/-- A byte as a load with an L1 lookup reads it: a valid L1 sector, else the point of performance. -/
def State.l1Byte (s : State) (a : Agent) (core : Nat) (l : Loc) : Byte :=
  match s.mem.l1Find core l.kind (lineOf l.pa) with
  | some x => if x.valid.getLsbD (sectorOf l.pa) then x.data[l.pa % 128]'(Nat.mod_lt _ (by decide)) else s.byteAt a l
  | none => s.byteAt a l

/-- Whether a place hits in a core's L1. -/
def Caches.l1Hit (c : Caches) (core : Nat) (l : Loc) : Bool :=
  match c.l1Find core l.kind (lineOf l.pa) with
  | some x => x.valid.getLsbD (sectorOf l.pa)
  | none => false

/-- Whether L1 caches a kind (R16, R51). -/
def MemKind.inL1 : MemKind → Bool
  | .device => true
  | .peer => true
  | _ => false

end Sys2Proof.Machine
end

