-- ==== Sys2Proof/Machine/Float.lean ====
section
/-! DEFINITION. Floating point (R81 to R85, R326): exact values as integers at a fixed scale, rounding of exact quotients into
any format, correctly rounded sums, the approximations of R333, and the C8 tables (R87 to R93). -/
namespace Sys2Proof.Machine

/-! ## Formats and rounding (R82, R85) -/

/-- A floating format: exponent bits, fraction bits, bias (R82). -/
structure FFmt where
  ebits : Nat
  fbits : Nat
  bias : Nat
  deriving DecidableEq, Repr

/-- FP32 (R82). -/
def fp32 : FFmt := ⟨8, 23, 127⟩
/-- FP16 (R82). -/
def fp16 : FFmt := ⟨5, 10, 15⟩
/-- BF16 (R82). -/
def bf16 : FFmt := ⟨8, 7, 127⟩
/-- FP32G without its two zero bits (R333). -/
def fp32g : FFmt := ⟨8, 21, 127⟩

/-- The rounding modes of R85. -/
inductive Mode where
  | ne | z | dn | up
  deriving DecidableEq, Repr

/-- The pattern of +∞. -/
def FFmt.inf (f : FFmt) : Nat := (2 ^ f.ebits - 1) * 2 ^ f.fbits
/-- The pattern of the canonical NaN (R83). -/
def FFmt.canon (f : FFmt) : Nat := f.inf + 2 ^ (f.fbits - 1)
/-- The sign bit. -/
def FFmt.signBit (f : FFmt) : Nat := 2 ^ (f.ebits + f.fbits)
/-- A magnitude pattern with a sign. -/
def FFmt.signed (f : FFmt) (neg : Bool) (mag : Nat) : Nat := if neg then f.signBit + mag else mag

/-- Whether rounding goes away from zero, from the kept integer and what is left of it (R85). -/
def roundsAway (m : Mode) (neg : Bool) (kept rest den : Nat) : Bool :=
  match m with
  | .ne => den < 2 * rest || (2 * rest = den && kept % 2 = 1)
  | .z => false
  | .dn => neg && 0 < rest
  | .up => !neg && 0 < rest

/-- Round the magnitude num ÷ den to an integer. -/
def roundMag (m : Mode) (neg : Bool) (num den : Nat) : Nat :=
  num / den + b2n (roundsAway m neg (num / den) (num % den) den)

/-- rnd(x, INT, m) for x = num ÷ den (R81, R85). -/
def rndInt (m : Mode) (num : Int) (den : Nat) : Int :=
  if num < 0 then -(roundMag m true num.natAbs den : Int) else roundMag m false num.natAbs den

/-- The exponent of num ÷ den, both positive: the largest e with 2^e ≤ num ÷ den. -/
def exponentOf (num den : Nat) : Int :=
  let e : Int := (Nat.log2 num : Int) - Nat.log2 den
  if 0 ≤ e then (if num < den * 2 ^ e.toNat then e - 1 else e) else (if num * 2 ^ (-e).toNat < den then e - 1 else e)

/-- The magnitude pattern of num ÷ den in a format, before overflow is judged. -/
def magOf (f : FFmt) (m : Mode) (neg : Bool) (num den : Nat) : Nat :=
  let e := exponentOf num den
  let lo : Int := 1 - (f.bias : Int)
  let q : Int := max e lo - f.fbits
  let k := if 0 ≤ q then roundMag m neg num (den * 2 ^ q.toNat) else roundMag m neg (num * 2 ^ (-q).toNat) den
  if e < lo then k else (e + f.bias).toNat * 2 ^ f.fbits + k - 2 ^ f.fbits

/-- rnd(x, F, m) for x = num ÷ den (R85): an exact zero gives +0, a value that rounds to zero keeps its sign. -/
def rnd (f : FFmt) (m : Mode) (num : Int) (den : Nat) : Nat :=
  if num = 0 then 0
  else
    let neg := decide (num < 0)
    let k := magOf f m neg num.natAbs den
    let ovf := match m with
      | .ne => f.inf
      | .z => f.inf - 1
      | .dn => if neg then f.inf else f.inf - 1
      | .up => if neg then f.inf - 1 else f.inf
    f.signed neg (if f.inf ≤ k then ovf else k)

/-! ## Values (R81) -/

/-- A value: a finite one is its sign and its magnitude in units of 2^-149, the smallest FP32 subnormal, of which every
FP16 and BF16 value is a multiple. -/
inductive FVal where
  | nan
  | inf (neg : Bool)
  | fin (neg : Bool) (mag : Nat)
  deriving DecidableEq, Repr

/-- val(b, F) (R81). -/
def valOf (f : FFmt) (b : Nat) : FVal :=
  let neg := decide (f.signBit ≤ b)
  let mag := b % f.signBit
  let e := mag / 2 ^ f.fbits
  let fr := mag % 2 ^ f.fbits
  if f.inf < mag then .nan
  else if mag = f.inf then .inf neg
  else
    -- the unit of the fraction is 2^(max e 1 - bias - fbits)
    let sh : Int := (max e 1 : Nat) - (f.bias : Int) - f.fbits + 149
    let sig := if e = 0 then fr else fr + 2 ^ f.fbits
    .fin neg (if 0 ≤ sh then sig * 2 ^ sh.toNat else sig / 2 ^ (-sh).toNat)

/-- The signed integer of a finite value in units of 2^-149. -/
def FVal.num : FVal → Int
  | .fin neg m => if neg then -(m : Int) else m
  | _ => 0

/-- Sign of a value. -/
def FVal.isNeg : FVal → Bool
  | .nan => false
  | .inf n => n
  | .fin n _ => n

/-- The negated value. -/
def FVal.negate : FVal → FVal
  | .nan => .nan
  | .inf n => .inf (!n)
  | .fin n m => .fin (!n) m

/-- Units of 2^-149 in 1. -/
def one149 : Nat := 2 ^ 149
/-- Units of 2^-298 in 1. -/
def one298 : Nat := one149 * one149

/-- A term of a sum, exact, in units of 2^-298: a product of two values (R326). -/
def prodTerm (x y : FVal) : FVal :=
  match x, y with
  | .nan, _ => .nan
  | _, .nan => .nan
  | .fin n m, .fin k l => .fin (n != k) (m * l)
  | .inf n, .inf k => .inf (n != k)
  | .inf n, .fin k l => if l = 0 then .nan else .inf (n != k)
  | .fin n m, .inf k => if m = 0 then .nan else .inf (n != k)

/-- A single value as a term. -/
def soleTerm (x : FVal) : FVal :=
  match x with
  | .fin n m => .fin n (m * one149)
  | v => v

/-- fsum(F, terms, zsigns) of R326, the terms in units of 2^-298. -/
def fsum (f : FFmt) (ts : List FVal) : Nat :=
  if ts.contains .nan then f.canon
  else if ts.contains (.inf true) && ts.contains (.inf false) then f.canon
  else if ts.contains (.inf true) then f.signed true f.inf
  else if ts.contains (.inf false) then f.inf
  else
    let total := (ts.map FVal.num).sum
    if ts.any (fun t => t.num != 0) then rnd f .ne total one298
    else if ts.all FVal.isNeg then f.signed true 0 else 0

/-- A 32-bit pattern. -/
def toWord (n : Nat) : Word := BitVec.ofNat 32 n

/-- val of an FP32 word. -/
def val32 (w : Word) : FVal := valOf fp32 w.toNat

/-- fadd (R327). (DEDUCED, log 39.) -/
def fAdd (x y : Word) : Word := toWord (fsum fp32 [soleTerm (val32 x), soleTerm (val32 y)])
/-- fsub (R326, R327): Y is negated first. -/
def fSub (x y : Word) : Word := toWord (fsum fp32 [soleTerm (val32 x), soleTerm (val32 y).negate])
/-- fmul (R327). -/
def fMul (x y : Word) : Word := toWord (fsum fp32 [prodTerm (val32 x) (val32 y)])
/-- ffma (R327). -/
def fFma (x y d : Word) : Word := toWord (fsum fp32 [soleTerm (val32 d), prodTerm (val32 x) (val32 y)])

/-- Whether an FP32 word is a NaN. -/
def isNan (w : Word) : Bool := val32 w == .nan
/-- The canonical form of an FP32 word: a NaN becomes the canonical NaN (R84, R90, R96). -/
def canonWord (x : Word) : Word := if isNan x then toWord fp32.canon else x

/-- A total order on the values of FP32 words that are not NaN, zeros ordered −0 before +0 (R84). -/
def fKey (w : Word) : Int :=
  if w.msb then -((w.toNat - 2 ^ 31 : Nat) : Int) - 1 else w.toNat

/-- fmin (R328). -/
def fMin (x y : Word) : Word :=
  if isNan x then (if isNan y then toWord fp32.canon else y) else if isNan y then x else if fKey y < fKey x then y else x
/-- fmax (R328). -/
def fMax (x y : Word) : Word :=
  if isNan x then (if isNan y then toWord fp32.canon else y) else if isNan y then x else if fKey x < fKey y then y else x

/-- One element of a packed operation. -/
def el16 (w : Word) (k : Nat) : Nat := bitsAt w.toNat (16 * k) 16

/-- A packed operation by element (R329). -/
def pack2 (g : Nat → Nat) : Word := toWord (g 0 + 65536 * g 1)

/-- hadd2 (R329). -/
def hAdd2 (x y : Word) : Word :=
  pack2 (fun k => fsum fp16 [soleTerm (valOf fp16 (el16 x k)), soleTerm (valOf fp16 (el16 y k))])
/-- hmul2 (R329). -/
def hMul2 (x y : Word) : Word := pack2 (fun k => fsum fp16 [prodTerm (valOf fp16 (el16 x k)) (valOf fp16 (el16 y k))])
/-- hfma2 and bfma2 (R329). -/
def xFma2 (f : FFmt) (x y d : Word) : Word :=
  pack2 (fun k => fsum f [soleTerm (valOf f (el16 d k)), prodTerm (valOf f (el16 x k)) (valOf f (el16 y k))])

/-! ## Widening and narrowing (R338) -/

/-- A value rounded to a format; the sign of a zero stays. -/
def FVal.to (f : FFmt) : FVal → Nat
  | .nan => f.canon
  | .inf n => f.signed n f.inf
  | .fin n m => if m = 0 then f.signed n 0 else rnd f .ne (if n then -(m : Int) else m) one149

/-! ## Square roots and the approximations (R333, R334) -/

/-- The integer square root by bits, from bit i − 1 down. -/
def isqrtBits (n : Nat) : Nat → Nat → Nat
  | 0, r => r
  | i + 1, r => if (r + 2 ^ i) * (r + 2 ^ i) ≤ n then isqrtBits n i (r + 2 ^ i) else isqrtBits n i r

/-- ⌊√n⌋. -/
def isqrt (n : Nat) : Nat := isqrtBits n (Nat.log2 n / 2 + 1) 0

/-- √(num ÷ den) as a quotient that rounds as the exact root does: 2^-k units with a sticky half. -/
def sqrtQ (num den : Nat) : Int × Nat :=
  let k := 2 ^ 200 * 2 ^ 200
  let q := num * (k * k) / den
  let r := isqrt q
  let exact := r * r * den = num * (k * k)
  ((2 * r + b2n (!exact) : Nat), 2 * k)

/-- fsqrt (R334). -/
def fSqrt (x : Word) : Word :=
  match val32 x with
  | .nan => toWord fp32.canon
  | .inf n => if n then toWord fp32.canon else x
  | .fin n m =>
    if m = 0 then x else if n then toWord fp32.canon
    else
      let r := sqrtQ m one149
      toWord (rnd fp32 .ne r.1 r.2)

/-- rne(x, FP32G) as an FP32 pattern (R333). (DESIGN CHOICE, log 101.) -/
def rndG (num : Int) (den : Nat) : Word := toWord (4 * rnd fp32g .ne num den)

/-- 1 as a fixed-point number of 384 fraction bits. -/
def fixOne : Nat := 2 ^ 192 * 2 ^ 192
/-- ln 2 in units of 2^-384, rounded down. -/
def ln2Fix : Nat := 27311389503436327984859642001965014295881604093268141717219425985154158335678826923825841039545353940567474963094288
/-- 2π in units of 2^-384, rounded down. -/
def twoPiFix : Nat := 247570106406584815639107402078274368870884753423439489855688203052222622844665237388474223661096704572374474478983385

/-- Product of two fixed-point numbers. -/
def fixMul (a b : Int) : Int := a * b / (fixOne : Int)

/-- Σ x^k ÷ k! from a term on: the Taylor series of the exponential, n more terms. (DESIGN CHOICE, log 101.) -/
def expSeries (x : Int) : Nat → Nat → Int → Int
  | 0, _, t => t
  | n + 1, k, t => t + expSeries x n (k + 1) (fixMul t x / (k : Int))

/-- Σ (−1)^k x^2k ÷ (2k)! or its sine form, from the term t of order k on. -/
def trigSeries (x2 : Int) : Nat → Nat → Int → Int
  | 0, _, t => t
  | n + 1, k, t => t + trigSeries x2 n (k + 2) (-(fixMul t x2) / ((k + 1) * (k + 2) : Int))

/-- sin of a fixed-point angle in [0, π/4]. (DESIGN CHOICE, log 101.) -/
def sinFix (t : Int) : Int := trigSeries (fixMul t t) 40 1 t
/-- cos of a fixed-point angle in [0, π/4]. -/
def cosFix (t : Int) : Int := trigSeries (fixMul t t) 40 0 fixOne

/-- sin(2πx) for x = num ÷ 2^149 with 0 ≤ x < 1, as a fixed-point number; the multiples of a quarter are exact. -/
def sinTurn (num : Nat) : Int :=
  let q := num * 8 / one149
  let ang := fun (r : Nat) => ((r * twoPiFix / one149 : Nat) : Int)
  match q with
  | 0 => sinFix (ang num)
  | 1 => cosFix (ang (one149 / 4 - num))
  | 2 => cosFix (ang (num - one149 / 4))
  | 3 => sinFix (ang (one149 / 2 - num))
  | 4 => -sinFix (ang (num - one149 / 2))
  | 5 => -cosFix (ang (3 * one149 / 4 - num))
  | 6 => -cosFix (ang (num - 3 * one149 / 4))
  | _ => -sinFix (ang (one149 - num))

/-- The fraction of a turn of a value, in units of 2^-149. -/
def turnOf (neg : Bool) (m : Nat) : Nat := if neg then (one149 - m % one149) % one149 else m % one149

/-- fsin (R333). -/
def fSin (x : Word) : Word :=
  match val32 x with
  | .fin n m =>
    let t := turnOf n m
    if t = 0 || t = one149 / 2 then (if n then 0x80000000#32 else 0) else rndG (sinTurn t) fixOne
  | _ => toWord fp32.canon

/-- fcos (R333). -/
def fCos (x : Word) : Word :=
  match val32 x with
  | .fin n m =>
    let t := (turnOf n m + one149 / 4) % one149
    if t = 0 || t = one149 / 2 then 0 else rndG (sinTurn t) fixOne
  | _ => toWord fp32.canon

/-- fex2 (R333). -/
def fEx2 (x : Word) : Word :=
  match val32 x with
  | .nan => toWord fp32.canon
  | .inf n => if n then 0 else x
  | .fin n m =>
    let v : Int := if n then -(m : Int) else m
    if v < -160 * (one149 : Int) then 0
    else if 130 * (one149 : Int) ≤ v then toWord fp32.inf
    else
      let e := v / (one149 : Int)
      let fr := (v % (one149 : Int)).toNat
      let r := if fr = 0 then (fixOne : Int)
        else expSeries ((fr * ln2Fix / one149 : Nat) : Int) 80 1 fixOne
      if 0 ≤ e then rndG (r * 2 ^ e.toNat) fixOne else rndG r (fixOne * 2 ^ (-e).toNat)

/-- Bits of log2 of a fixed-point number in [1, 2), highest first: square, and halve when 2 is reached.
(DESIGN CHOICE, log 101.) -/
def logBits : Nat → Nat → Nat → Nat
  | 0, _, acc => acc
  | n + 1, y, acc =>
    let y2 := y * y / fixOne
    if 2 * fixOne ≤ y2 then logBits n (y2 / 2) (2 * acc + 1) else logBits n y2 (2 * acc)

/-- flg2 (R333). -/
def fLg2 (x : Word) : Word :=
  match val32 x with
  | .nan => toWord fp32.canon
  | .inf n => if n then toWord fp32.canon else x
  | .fin n m =>
    if m = 0 then 0xFF800000#32
    else if n then toWord fp32.canon
    else
      let l := Nat.log2 m
      let e : Int := (l : Int) - 149
      let y := m * fixOne / 2 ^ l
      rndG (e * 2 ^ 128 + (logBits 128 y 0 : Nat)) (2 ^ 128)

/-- frcp (R333). (DESIGN CHOICE, log 101.) -/
def fRcp (x : Word) : Word :=
  match val32 x with
  | .nan => toWord fp32.canon
  | .inf n => if n then 0x80000000#32 else 0
  | .fin n m =>
    if m = 0 then toWord (fp32.signed n fp32.inf)
    else rndG (if n then -(one149 : Int) else one149) m

/-- frsq (R333). (DESIGN CHOICE, log 101.) -/
def fRsq (x : Word) : Word :=
  match val32 x with
  | .nan => toWord fp32.canon
  | .inf n => if n then toWord fp32.canon else 0
  | .fin n m =>
    if m = 0 then toWord (fp32.signed n fp32.inf)
    else if n then toWord fp32.canon
    else
      let r := sqrtQ one149 m
      rndG r.1 r.2

/-! ## Rounding to integers, fraction, saturation, class (R335, R336, R337) -/

/-- frint (R335): the sign of X when the result is 0. -/
def fRint (md : Mode) (x : Word) : Word :=
  match val32 x with
  | .nan => toWord fp32.canon
  | .inf _ => x
  | .fin n m =>
    let k := rndInt md (if n then -(m : Int) else m) one149
    if k = 0 then toWord (fp32.signed n 0) else toWord (rnd fp32 .ne k 1)

/-- ffrac (R335). -/
def fFrac (x : Word) : Word :=
  match val32 x with
  | .fin n m => toWord (rnd fp32 .ne ((if n then -(m : Int) else m) % (one149 : Int)) one149)
  | _ => toWord fp32.canon

/-- fsat (R335). -/
def fSat (x : Word) : Word :=
  match val32 x with
  | .nan => 0
  | .inf n => if n then 0 else 0x3F800000#32
  | .fin n m => if n || m = 0 then 0 else if one149 ≤ m then 0x3F800000#32 else x

/-- fclass (R336). -/
def fClass (x : Word) : Word :=
  let mag := x.toNat % 2 ^ 31
  let neg := x.msb
  let k := if fp32.inf < mag then (if bitAt mag 22 then 9 else 8)
    else if mag = fp32.inf then (if neg then 0 else 7)
    else if mag = 0 then (if neg then 3 else 4)
    else if mag < 2 ^ 23 then (if neg then 2 else 5)
    else (if neg then 1 else 6)
  toWord (2 ^ k)

/-- Conversion of an FP32 value to an integer with saturation (R337). -/
def fToInt (md : Mode) (lo hi : Int) (x : Word) : Word :=
  match val32 x with
  | .nan => 0
  | .inf n => BitVec.ofInt 32 (if n then lo else hi)
  | .fin n m =>
    let k := rndInt md (if n then -(m : Int) else m) one149
    BitVec.ofInt 32 (if k < lo then lo else if hi < k then hi else k)

/-- Conversion of an integer to FP32 (R337). -/
def intToF (k : Int) : Word := toWord (rnd fp32 .ne k 1)

/-! ## C8 tables (R87 to R93) -/

/-- The linear table (R91). -/
def linearTable : CTable :=
  let xs : Vector Word 17 := Vector.ofFn (fun k => toWord (rnd fp32 .ne (-1016 + 127 * (k.val : Int)) 8))
  let code : Fin 256 → Int := fun c => if c.val = 128 then -127 else if c.val < 128 then c.val else (c.val : Int) - 256
  { fx := xs, fy := xs, inv12 := Vector.ofFn (fun c => BitVec.ofInt 12 (code c)),
    inv32 := Vector.ofFn (fun c => intToF (code c)) }

/-- The slope S_k of a forward table, rounded once (R90). -/
def CTable.slope (t : CTable) (k : Fin 16) : Word :=
  let x0 := (val32 (t.fx[k.val])).num
  let x1 := (val32 (t.fx[k.val + 1])).num
  let y0 := (val32 (t.fy[k.val])).num
  let y1 := (val32 (t.fy[k.val + 1])).num
  toWord (rnd fp32 .ne (y1 - y0) (x1 - x0).toNat)

/-- c8_fwd (R92): the code as an integer from −127 to 127. -/
def c8Fwd (t : CTable) (x : Word) : Int :=
  let clampInt := fun (k : Int) => if k < -127 then -127 else if 127 < k then 127 else k
  let at1 := fun (w : Word) => clampInt (rndInt .ne (val32 w).num one149)
  match val32 x with
  | .nan => 0
  | .inf n => if n then at1 t.fy[0] else at1 t.fy[16]
  | .fin n m =>
    let v : Int := if n then -(m : Int) else m
    if v ≤ (val32 t.fx[0]).num then at1 t.fy[0]
    else if (val32 t.fx[16]).num ≤ v then at1 t.fy[16]
    else
      let k := ((List.finRange 16).reverse.find? (fun k => decide ((val32 (t.fx[k.val])).num ≤ v))).getD 0
      let y := (val32 (t.fy[k.val])).num * (one149 : Int) + (v - (val32 (t.fx[k.val])).num) * (val32 (t.slope k)).num
      clampInt (rndInt .ne y one298)

/-- A code with 0x80 read as 0x81 (R87). -/
def c8Code (c : Byte) : Byte := if c = 0x80#8 then 0x81#8 else c

/-- c8_inv32 (R93). -/
def c8Inv32 (t : CTable) (c : Byte) : Word := t.inv32[(c8Code c).toNat]'((c8Code c).isLt)

/-- c8_inv12 (R93). -/
def c8Inv12 (t : CTable) (c : Byte) : Int := (t.inv12[(c8Code c).toNat]'((c8Code c).isLt)).toInt

/-- Table j of a launch: the held copy, or the linear table when its mask bit is clear (R90, R91). -/
def Launch.table (l : Launch) (j : Nat) : CTable :=
  match l.tables[j]? with
  | some (some t) => t
  | _ => linearTable

/-- The checks of R90 on a table as read. -/
def CTable.accepted (t : CTable) : Bool :=
  let fin := fun (w : Word) => match val32 w with
    | .fin _ _ => true
    | _ => false
  (List.finRange 17).all (fun k => fin t.fx[k] && fin t.fy[k] &&
    decide (-127 * (one149 : Int) ≤ (val32 t.fy[k]).num ∧ (val32 t.fy[k]).num ≤ 127 * (one149 : Int))) &&
  (List.finRange 16).all (fun k =>
    decide ((val32 (t.fx[k.val])).num < (val32 (t.fx[k.val + 1])).num) &&
    decide ((val32 (t.fy[k.val])).num ≤ (val32 (t.fy[k.val + 1])).num) && fin (t.slope k))

/-- The canonical NaN in place of any NaN (R90). -/
def canonNan (w : Word) : Word := if isNan w then toWord fp32.canon else w

/-- A companding table read from its 2,048 bytes (R89, R90). -/
def tableOf (bs : List Byte) : CTable :=
  { fx := Vector.ofFn (fun k => toWord (fieldAt bs (8 * k.val) 4)),
    fy := Vector.ofFn (fun k => toWord (fieldAt bs (8 * k.val + 4) 4)),
    inv12 := Vector.ofFn (fun c => BitVec.ofNat 12 (fieldAt bs (0x100 + 2 * c.val) 2)),
    inv32 := Vector.ofFn (fun c => canonNan (toWord (fieldAt bs (0x400 + 4 * c.val) 4))) }

/-! ## Window decoding (R97) -/

/-- decode(code, scale) of R97 in the format F: the product of two exact values, rounded once. (DESIGN CHOICE, log 117.) -/
def windowDecode (f : FFmt) (q s : FVal) : Nat :=
  match q, s with
  | .fin _ _, .fin _ _ => rnd f .ne (q.num * s.num) one298
  | _, _ => fsum f [prodTerm q s]

end Sys2Proof.Machine
end

