-- ==== Sys2Proof/Machine/Flags.lean ====
section
/-! DEFINITION. The status registers with fields (R369), the identifiers and codes of records, and the state of the block
barrier and the stage barriers (R263, R363). -/
namespace Sys2Proof.Machine

/-! ## Slot states (R194, R369) -/

/-- The STATE field of a slot state (R369). -/
def SlotState.code : SlotState → BitVec 2
  | .free => 0
  | .ready => 1
  | .wait => 2
  | .join => 3

/-- The slot state of a STATE field (R369). -/
def SlotState.ofCode (c : BitVec 2) : SlotState :=
  if c = 0 then .free else if c = 1 then .ready else if c = 2 then .wait else .join

/-- A slot that holds lanes (R194). -/
def SlotState.live : SlotState → Bool
  | .free => false
  | _ => true

/-- A free slot. -/
def Slot.free : Slot :=
  { pc := 0, mask := 0, st := .free, gmask := 0, gleft := 0, gpend := none, latch := none, wait := none, age := 0,
    yielded := false, lastIssue := 0, bpSkip := false, turned := false }

/-- A slot that continues at a PC with a mask. -/
def Slot.readyAt (pc : DWord) (m : Mask) : Slot := { Slot.free with pc := pc, mask := m, st := .ready }

/-- The ST0 and ST1 registers (R369): three bits of the guard count. (DEDUCED, log 107.) -/
def SavedSlot.stWord (x : SavedSlot) : Word := BitVec.setWidth 32 (x.gleft.extractLsb' 0 3 ++ 0#1 ++ x.st)

/-- The state and guard count that a write of ST0 or ST1 leaves (R369). (DEDUCED, log 107.) -/
def SavedSlot.withSt (x : SavedSlot) (w : Word) : SavedSlot := { x with st := w.extractLsb' 0 2, gleft := (w.extractLsb' 3 3).setWidth 4 }

/-- A slot as handler entry saves it (R447). (DEDUCED, log 107.) -/
def Slot.saved (x : Slot) : SavedSlot :=
  { pc := x.pc, mask := x.mask, st := x.st.code, gleft := BitVec.ofNat 4 x.gleft, gmask := x.gmask }

/-- Bits 7:0 of ST0 or ST1 for a running slot, as stop records give them (R455). -/
def Slot.stByte (x : Slot) : Nat := (x.saved.stWord).toNat

/-- A slot reloaded by `rte` (R366): on reload, Wait acts as Ready (R369). -/
def SavedSlot.reload (x : SavedSlot) : Slot :=
  let st := SlotState.ofCode x.st
  { Slot.free with pc := x.pc, mask := x.mask, st := if st = .wait then .ready else st, gmask := x.gmask,
                   gleft := x.gleft.toNat, turned := true }

/-! ## Status words (R369) -/

/-- GSTAT: AFX, HM, SSTEP, REPRO. -/
def Group.gstat (g : Group) (repro : Bool) : Word :=
  BitVec.setWidth 32 (BitVec.ofBool repro ++ BitVec.ofBool g.sstep ++ BitVec.ofBool g.hm ++ BitVec.ofBool g.afx)

/-- CAUSE: CODE, SUB, SLOT. -/
def causeWord (c : Cause) : Word :=
  BitVec.setWidth 32 (BitVec.ofNat 1 c.slot ++ BitVec.ofNat 8 c.sub ++ BitVec.ofNat 8 c.code)

/-- DSTK: SD in bits 4:0, SC in bits 31:8. -/
def dstkWord (sd sc : Nat) : Word := BitVec.ofNat 24 sc ++ 0#3 ++ BitVec.ofNat 5 sd

/-- BAR: PEND in bits 5:0, PH in bit 8. -/
def Block.barWord (b : Block) : Word := BitVec.setWidth 32 (BitVec.ofBool b.barPh ++ 0#2 ++ BitVec.ofNat 6 b.barPend)

/-- SBARn: COUNT in bits 5:0, PEND in bits 13:8, PH in bit 16. -/
def StageBar.word (x : StageBar) : Word :=
  BitVec.setWidth 32 (BitVec.ofBool x.ph ++ 0#2 ++ BitVec.ofNat 6 x.pend ++ 0#2 ++ BitVec.ofNat 6 x.count)

/-- A stage barrier at block start (R263). -/
def StageBar.reset : StageBar := { count := 1, pend := 0, ph := false }

/-! ## Barriers -/

/-- NLIVE: the groups of the block whose entry mask is not 0 (R363). -/
def Block.nlive (b : Block) : Nat := (b.groups.filter (fun g => !g.ended)).length

/-- The completion test of R363: PEND ≥ NLIVE completes the phase. -/
def Block.barTest (b : Block) : Block :=
  if b.barPend ≠ 0 && b.nlive ≤ b.barPend then { b with barPend := 0, barPh := !b.barPh } else b

/-- The completion test of R264: PEND = COUNT completes the phase. -/
def StageBar.test (x : StageBar) : StageBar :=
  if x.count ≤ x.pend then { x with pend := 0, ph := !x.ph } else x

/-- An arrival becomes visible (R264). -/
def StageBar.arrive (x : StageBar) : StageBar := StageBar.test { x with pend := x.pend + 1 }

/-! ## Causes (R442, R443) -/

/-- The classes of R443. -/
inductive CauseClass where
  | trap | group | context
  deriving DecidableEq, Repr

/-- The class of a cause code (R442). -/
def causeClass (code : Nat) : CauseClass :=
  if code < 0x10 then .trap else if code < 0x20 then .group else .context

/-- A group fault or trap without subcode or TVAL. -/
def Cause.plain (code slot : Nat) : Cause := { code := code, sub := 0, tval := 0, slot := slot }

/-! ## Identifiers -/

/-- The correlation number of packet n of queue q (R426). -/
def corrOf (q n : Nat) : Word := BitVec.ofNat 32 (q * 2 ^ 20 + n % 2 ^ 20)

/-- The group identifier of a group of a grid launch (R455). -/
def gidOf (b g : Nat) : Word := BitVec.ofNat 32 (b % 2 ^ 27 * 32 + g % 32)

/-- The cluster of a core of the die. -/
def clusterOfCore (core : Nat) : Nat := core / Config.coresPerCluster

/-- The partition of a cluster (R3). -/
def partOfCluster (cl : Nat) : Nat := cl / Config.clustersPerPartition

/-- The ACC code of a fault record (R37). -/
def Acc.code : Acc → Nat
  | .load => 0
  | .store => 1
  | .atomic => 2
  | .fetch => 3
  | .copyRead => 4
  | .copyWrite => 5
  | .travRead => 6
  | .cirqueWrite => 7

/-- The number of a sequencer state in a stop record (R456). -/
def SeqState.code : SeqState → Nat
  | .idle => 0
  | .run => 1
  | .wait => 2
  | .stall => 3
  | .trapped => 4
  | .stopped => 5

/-- The kind code of R15. -/
def MemKind.code : MemKind → Nat
  | .device => 0
  | .peer => 1
  | .hostCoh => 2
  | .hostUnc => 3
  | .view => 4

end Sys2Proof.Machine
end

