-- ==== Sys2Proof/Machine/Translate.lean ====
section
/-! DEFINITION. Translation (R13 to R36): the TLBs, the walk caches, the three-level walk and the checks of R29. -/
namespace Sys2Proof.Machine

/-- The device-memory range of a function: first byte and end (R516, R23). The physical function has all of it. -/
def State.fnRange (s : State) (vfn : Nat) : Nat × Nat :=
  if vfn = 0 then (0, Config.deviceEnd)
  else
    let r := (s.regs.vfrange.toList.getD vfn 0).toNat
    let base := bitsAt r 16 22 * 65536
    let size := bitsAt r 38 8
    if size > 192 || base + size * 2 ^ 30 > Config.deviceEnd then (0, 0) else (base, base + size * 2 ^ 30)

/-- Whether a place lies in a function's range. -/
def State.inRange (s : State) (vfn pa : Nat) : Bool := (s.fnRange vfn).1 ≤ pa && pa < (s.fnRange vfn).2

/-- Bytes that a TLB entry maps (R34). -/
def PageSize.bytes : PageSize → Nat
  | .k64 => 65536
  | .m2 => 2097152
  | .m512 => 536870912

/-- Whether a TLB entry maps a VA of an address space. -/
def TlbEnt.covers (e : TlbEnt) (asid va : Nat) : Bool := e.asid == asid && e.vbase ≤ va && va < e.vbase + e.size.bytes

/-- The physical address a TLB entry gives. -/
def TlbEnt.paOf (e : TlbEnt) (va : Nat) : Nat := e.pbase + (va - e.vbase)

/-- The TLB entry that serves a VA: the core's TLB, then the partition's (R34). (DEDUCED, log 24.) -/
def State.tlbFind (s : State) (core : Option Nat) (part asid va : Nat) : Option TlbEnt :=
  let own : Option TlbEnt := match core with
    | some c => s.tlb.find? (fun e => e.at_ == .core c && e.covers asid va)
    | none => none
  own.or (s.tlb.find? (fun e => e.at_ == .part part && e.covers asid va))

/-- One translated use of memory: who, what for, in handler mode or not; `hostAtom` says that an atomic is one that
host coherent memory supports (R16). -/
structure Use where
  acc : Acc
  hm : Bool
  hostAtom : Bool
  deriving DecidableEq, Repr

/-- A write of some kind: store, atomic or copy write. -/
def Use.writes (u : Use) : Bool :=
  match u.acc with
  | .store => true
  | .atomic => true
  | .copyWrite => true
  | .cirqueWrite => true
  | _ => false

/-- The memory kind of a code (R15). -/
def kindOf : Nat → Option MemKind
  | 0 => some .device
  | 1 => some .peer
  | 2 => some .hostCoh
  | 3 => some .hostUnc
  | 4 => some .view
  | _ => none

/-- What a translation answers. -/
inductive XRes where
  | ok (l : Loc)
  | fault (f : XFault)
  | miss
  deriving DecidableEq, Repr

/-- Steps 5 to 9 of R29 on a mapping: kind, range, link, rights, window. `ent` is the last entry the walk read. -/
def State.checkMapping (s : State) (vfn : Nat) (e : TlbEnt) (va : Nat) (u : Use) (ent : DWord) : XRes :=
  let pa := e.paOf va
  let bad := fun c sub => XRes.fault { cause := c, sub := sub, level := 3, ent := ent }
  match kindOf e.kind with
  | none => bad 0x20 0x04
  | some k =>
    let ours := k == .device || k == .view
    if ours && vfn ≠ 0 && !s.inRange vfn pa then .fault { cause := 0x20, sub := 0x07, level := 3, ent := ent, pa := pa }
    else if (k == .device || k == .peer) && Config.deviceEnd ≤ pa then bad 0x20 0x06
    else if k == .peer && s.regs.pairstat == 0 then bad 0x20 0x08
    else if k == .peer && s.regs.pairstat == 3 then bad 0x25 0
    else if e.p && !u.hm then bad 0x21 0x03
    else if u.writes && !e.w then bad 0x21 0x01
    else if u.acc == .fetch && !e.x then bad 0x21 0x02
    else if u.acc == .fetch && !(k == .device || k == .peer) then bad 0x21 0x04
    else if u.acc == .atomic && (k == .hostUnc || (k == .hostCoh && !u.hostAtom)) then bad 0x21 0x05
    else if u.writes && k == .view then bad 0x22 0x01
    else if k == .view && !s.windowFor vfn pa then bad 0x20 0x09
    else .ok ⟨k, pa⟩

/-- Translate one access with what the TLBs hold (R29, R34). `ent` is what a fault record gives as the last entry read: 0
on a TLB hit (R37). -/
def State.translate (s : State) (core : Option Nat) (part asid : Nat) (va : DWord) (u : Use) (ent : DWord := 0) : XRes :=
  if va.toNat / 2 ^ 54 ≠ 0 then .fault { cause := 0x20, sub := 0x01, level := 3, ent := 0 }
  else
    match s.tlbFind core part asid va.toNat with
    | none => .miss
    | some e => s.checkMapping (((s.ctx? asid).map (·.vfn)).getD 0) e va.toNat u ent

/-! ## The walk -/

/-- An entry read by a walk: level, address and value. -/
structure WalkRead where
  level : Nat
  pa : Nat
  ent : DWord
  deriving DecidableEq, Repr

/-- What a walk answers: a mapping, a fault, poison met on the way, or a line that it must wait for. -/
inductive WalkRes where
  | ok (e : TlbEnt)
  | fault (f : XFault)
  | poison (pa : Nat)
  | wait (pa : Nat)
  deriving DecidableEq, Repr

/-- The checks on a table's address (R24, R29 step 4). -/
def State.tableFault (s : State) (vfn base level : Nat) (last : DWord) : Option XFault :=
  if base % 65536 ≠ 0 || Config.deviceEnd ≤ base then some { cause := 0x20, sub := 0x05, level := level, ent := last }
  else if vfn ≠ 0 && !(s.inRange vfn base) then some { cause := 0x20, sub := 0x07, level := level, ent := last, pa := base }
  else none

/-- The ADDR field of an entry: PA<51:16> (R25). -/
def entAddr (e : DWord) : Nat := bitsAt e.toNat 16 36 * 65536

/-- Read one entry of a table, or say why not. -/
def State.readEntry (s : State) (a : Agent) (pa : Nat) : Sum WalkRes DWord :=
  match s.lineStatus a false ⟨.device, pa⟩ with
  | .ok => if s.poisonIn a ⟨.device, pa⟩ 8 then .inl (.poison pa) else .inr (BitVec.ofNat 64 (s.numAt a ⟨.device, pa⟩ 8))
  | .lost => .inl (.fault { cause := 0x25, sub := 0, level := 3, ent := 0 })
  | _ => .inl (.wait pa)

/-- The TLB entry of a mapping. -/
def mapEnt (asid : Nat) (size : PageSize) (va pbase : Nat) (e : DWord) : TlbEnt :=
  { at_ := .part 0, asid := asid, vbase := va / size.bytes * size.bytes, size := size, kind := bitsAt e.toNat 2 3,
    w := bitAt e.toNat 5, x := bitAt e.toNat 6, p := bitAt e.toNat 7, pbase := pbase, ent := e }

/-- The 32 leaf entries of the run that holds a VA, read as the walk reads (R27, R35), or what stops the reading. -/
def State.readRun (s : State) (a : Agent) (leafBase va : Nat) : Sum WalkRes (List Nat) :=
  (upFrom (bitsAt va 16 13 / 32 * 32) 32).foldl (fun acc j => match acc with
    | .inl r => .inl r
    | .inr es => match s.readEntry a (leafBase + 8 * j) with
      | .inl r => .inl r
      | .inr e => .inr (es ++ [e.toNat])) (.inr [])

/-- Whether 32 leaf entries meet every condition of R27. -/
def runOk (ents : List Nat) : Bool :=
  let e0 := ents.headD 0
  bitsAt e0 16 5 == 0 &&
    (List.range 32).all (fun j =>
      let e := ents.getD j 0
      bitAt e 0 && bitAt e 8 && e % 65536 == e0 % 65536 && bitsAt e 16 36 == bitsAt e0 16 36 + j)

/-- The leaf level of a walk (R26, R27). -/
def State.walkLeaf (s : State) (a : Agent) (vfn asid base va : Nat) (last : DWord) : WalkRes × List WalkRead :=
  match s.tableFault vfn base 2 last with
  | some f => (.fault f, [])
  | none =>
    let pa := base + 8 * bitsAt va 16 13
    match s.readEntry a pa with
    | .inl r => (r, [])
    | .inr e =>
      let rd := [{ level := 2, pa := pa, ent := e : WalkRead }]
      let one := (WalkRes.ok (mapEnt asid .k64 va (entAddr e) e), rd)
      if !bitAt e.toNat 0 then (.fault { cause := 0x20, sub := 0x02, level := 2, ent := e }, rd)
      else if bitAt e.toNat 1 then (.fault { cause := 0x20, sub := 0x03, level := 2, ent := e }, rd)
      else if !bitAt e.toNat 8 then one
      else match s.readRun a base va with
        | .inl r => (r, rd)
        | .inr es =>
          let run := base + 8 * (bitsAt va 16 13 / 32 * 32)
          let rds := [{ level := 2, pa := run, ent := e }, { level := 2, pa := run + 128, ent := e }] ++ rd
          if runOk es then (.ok (mapEnt asid .m2 va (bitsAt (es.headD 0) 16 36 * 65536) e), rds) else (one.1, rds)

/-- The middle level (R26). -/
def State.walkMiddle (s : State) (a : Agent) (vfn asid base va : Nat) (last : DWord) (cached : Option DWord) :
    WalkRes × List WalkRead :=
  match (if cached.isSome then none else s.tableFault vfn base 1 last) with
  | some f => (.fault f, [])
  | none =>
    let pa := base + 8 * bitsAt va 29 13
    match (match cached with | some e => Sum.inr e | none => s.readEntry a pa) with
    | .inl r => (r, [])
    | .inr e =>
      let rd := if cached.isSome then [] else [{ level := 1, pa := pa, ent := e : WalkRead }]
      if !bitAt e.toNat 0 then (.fault { cause := 0x20, sub := 0x02, level := 1, ent := e }, rd)
      else if bitAt e.toNat 1 then
        let r := s.walkLeaf a vfn asid (entAddr e) va e
        (r.1, rd ++ r.2)
      else if bitsAt e.toNat 16 13 ≠ 0 then (.fault { cause := 0x20, sub := 0x03, level := 1, ent := e }, rd)
      else (.ok (mapEnt asid .m512 va (entAddr e) e), rd)

/-- The top level (R26). -/
def State.walkTop (s : State) (a : Agent) (vfn asid base va : Nat) (cached : Option DWord) : WalkRes × List WalkRead :=
  match (if cached.isSome then none else s.tableFault vfn base 0 0) with
  | some f => (.fault f, [])
  | none =>
    let pa := base + 8 * bitsAt va 42 12
    match (match cached with | some e => Sum.inr e | none => s.readEntry a pa) with
    | .inl r => (r, [])
    | .inr e =>
      let rd := if cached.isSome then [] else [{ level := 0, pa := pa, ent := e : WalkRead }]
      if !bitAt e.toNat 0 then (.fault { cause := 0x20, sub := 0x02, level := 0, ent := e }, rd)
      else if !bitAt e.toNat 1 then (.fault { cause := 0x20, sub := 0x03, level := 0, ent := e }, rd)
      else
        let r := s.walkMiddle a vfn asid (entAddr e) va e none
        (r.1, rd ++ r.2)

/-- The walk-cache entry of a partition (R34). -/
def State.walkCached (s : State) (part asid level index : Nat) : Option DWord :=
  (s.walkCache.find? (fun e => e.part == part && e.asid == asid && e.level == level && e.index == index)).map (·.ent)

/-- A whole walk for a context: it starts at the deepest entry that the walk cache holds (R34), under the held ROOT (R22). -/
def State.walkFor (s : State) (part : Nat) (c : Ctx) (va : Nat) : WalkRes × List WalkRead :=
  let a : Agent := ⟨some c.asid, false⟩
  match s.walkCached part c.asid 1 (bitsAt va 29 25) with
  | some e => s.walkMiddle a c.vfn c.asid 0 va 0 (some e)
  | none => s.walkTop a c.vfn c.asid c.root va (s.walkCached part c.asid 0 (bitsAt va 42 12))

/-- The set of a partition TLB that holds an entry: 512 sets of 8 ways (R34). (DESIGN CHOICE, log 14.) -/
def TlbEnt.set (e : TlbEnt) : Nat := Config.tlbSetOf e.asid (e.vbase / 65536) % 512

/-- Keep at most `n` entries for which a test holds, dropping one that a free value picks, before others are added.
(DESIGN CHOICE, log 14.) -/
def capDrop {α : Type} [DecidableEq α] (clk n : Nat) (p : α → Bool) (l : List α) : List α :=
  let mine := l.filter p
  if mine.length ≤ n then l
  else match mine[Config.victim clk mine.length % mine.length]? with
    | some v => l.erase v
    | none => l

/-- Install a walk's result in the partition TLB and, for a core's access, in the core's TLB (R34), and the table
entries it read in the walk cache. A hit in the partition TLB installs nothing. (DEDUCED, log 24.) -/
def State.installWalk (s : State) (core : Option Nat) (part : Nat) (c : Ctx) (va : Nat) (e : TlbEnt) (rds : List WalkRead) :
    State :=
  let drop := s.tlb.filter (fun x => !(x.covers c.asid va && (x.at_ == .part part || some x.at_ == core.map TlbWhere.core)))
  let t := if (drop.filter (fun x => x.at_ == .part part)).length < 8 then drop
    else capDrop s.clk 7 (fun x => x.at_ == .part part && x.set == e.set) drop
  let t := { e with at_ := TlbWhere.part part } :: t
  let t := match core with
    | some n => { e with at_ := .core n } :: capDrop s.clk 63 (fun x => x.at_ == .core n) t
    | none => t
  let w := rds.filterMap (fun r =>
    if r.level = 0 then some { part := part, asid := c.asid, level := 0, index := bitsAt va 42 12, ent := r.ent : WalkCacheEnt }
    else if r.level = 1 && bitAt r.ent.toNat 1 then
      some { part := part, asid := c.asid, level := 1, index := bitsAt va 29 25, ent := r.ent }
    else none)
  let cap := capDrop s.clk (64 - w.length) (fun (x : WalkCacheEnt) => x.part == part)
  { s with tlb := t, walkCache := w ++ cap (cap s.walkCache) }

/-- What the reads of a walk leave in the L2 (R35). -/
def State.walkTouch (s : State) (c : Ctx) (rds : List WalkRead) : State :=
  s.touchFor ⟨some c.asid, false⟩ (rds.map (fun r => ⟨.device, r.pa⟩)) .normal false

/-- What a walk that meets poison answers: cause 0x23 with the structure and the line (R75, R76). -/
def State.walkPoison (s : State) (c : Ctx) (pa : Nat) : XFault :=
  let l : Loc := ⟨.device, pa⟩
  { cause := 0x23, sub := s.poisonCode ⟨some c.asid, false⟩ l, level := 3, ent := BitVec.ofNat 64 l.lineLoc.pa }

/-- Whether a miss of an engine has to wait: it joins a walk for the same leaf-table line that is under way, or its partition runs
its 32 walks (R35). (DEDUCED, log 25.) -/
def State.walkBusy (s : State) (part asid va : Nat) : Bool :=
  let ws := s.walks.filter (fun x => x.part == part && x.lead.isNone)
  ws.any (fun x => x.asid == asid && x.va.toNat / 2 ^ 20 == va / 2 ^ 20) || 32 ≤ ws.length

/-- An engine's translation: the partition TLB, else a walk that completes at once where the partition can run it (R34, R35, R41).
The walk's timing is left out; what it reads, and leaves in the L2, and what it installs are not. (DEDUCED, log 25.) -/
def State.engineXlate (s : State) (part asid : Nat) (va : DWord) (u : Use) : XRes × State :=
  match s.translate none part asid va u with
  | .miss =>
    match s.ctx? asid with
    | none => (.miss, s)
    | some c =>
      if s.walkBusy part asid va.toNat then (.miss, s)
      else match s.walkFor part c va.toNat with
      | (.ok e, rds) =>
        (s.checkMapping c.vfn e va.toNat u (((rds.getLast?).map (·.ent)).getD e.ent),
          (s.walkTouch c rds).installWalk none part c va.toNat e rds)
      | (.fault f, rds) => (.fault f, s.walkTouch c rds)
      | (.poison pa, rds) => (.fault (s.walkPoison c pa), s.walkTouch c rds)
      | (.wait pa, _) => (.miss, s.askPeer (lineOf pa) false)
  | r => (r, s)

/-- Whether a TLB entry of an address space overlaps a VA range (R43). -/
def TlbEnt.meets (e : TlbEnt) (asid lo hi : Nat) : Bool := e.asid == asid && e.vbase < hi && lo < e.vbase + e.size.bytes

/-- Drop the entries of an address space that overlap a VA range, a large entry whole (R43). -/
def State.shootdown (s : State) (asid lo hi : Nat) : State :=
  { s with
    tlb := s.tlb.filter (fun e => !e.meets asid lo hi),
    walkCache := s.walkCache.filter (fun e =>
      let span := if e.level = 0 then 2 ^ 42 else 2 ^ 29
      !(e.asid == asid && e.index * span < hi && lo < (e.index + 1) * span)) }

end Sys2Proof.Machine
end

