-- ==== Sys2Proof/Machine/Ops.lean ====
section
/-! DEFINITION. The named operations over the state: finding and replacing blocks, groups, launches and contexts; records
and rings; halts; taking an exception and returning from one; the end of a group and of a block. -/
namespace Sys2Proof.Machine

/-! ## Finding and replacing -/

/-- The block with a serial number. -/
def State.block? (s : State) (serial : Nat) : Option Block := s.blocks.find? (fun b => b.serial == serial)

/-- Change the block with a serial number. -/
def State.modBlock (s : State) (serial : Nat) (f : Block → Block) : State :=
  { s with blocks := s.blocks.map (fun b => if b.serial = serial then f b else b) }

/-- The group with a key. -/
def State.group? (s : State) (k : GroupKey) : Option Group := (s.block? k.block).bind (fun b => b.groups[k.index]?)

/-- Replace a group. -/
def State.putGroup (s : State) (k : GroupKey) (g : Group) : State :=
  s.modBlock k.block (fun b => { b with groups := b.groups.set k.index g })

/-- Change a group where it exists. -/
def State.modGroup (s : State) (k : GroupKey) (f : Group → Group) : State :=
  match s.group? k with
  | some g => s.putGroup k (f g)
  | none => s

/-- The launch with an identifier. -/
def State.launch? (s : State) (id : Nat) : Option Launch := s.launches.find? (fun l => l.id == id)

/-- Change a launch. -/
def State.modLaunch (s : State) (id : Nat) (f : Launch → Launch) : State :=
  { s with launches := s.launches.map (fun l => if l.id = id then f l else l) }

/-- The launch of a block. -/
def State.launchOf (s : State) (b : Block) : Option Launch := s.launch? b.launch

/-- Change a resident context. -/
def State.modCtx (s : State) (asid : Nat) (f : Ctx → Ctx) : State :=
  { s with ctxs := s.ctxs.map (fun c => if c.asid = asid then f c else c) }

/-- What the device keeps for an address-space identifier that has nothing yet: zero debug registers (R370).
(DESIGN CHOICE, log 9.) -/
def AsidInfo.new (asid : Nat) : AsidInfo :=
  { asid := asid, dbg := Vector.replicate 160 0, hseq := 0, lseq := 0, ended := false, linkFault := false, left := none }

/-- What the device keeps for an address-space identifier. -/
def State.asidInfo (s : State) (asid : Nat) : AsidInfo :=
  (s.asids.find? (fun a => a.asid == asid)).getD (AsidInfo.new asid)

/-- Replace what the device keeps for an address-space identifier. -/
def State.putAsid (s : State) (a : AsidInfo) : State :=
  { s with asids := a :: s.asids.filter (fun x => !(x.asid == a.asid)) }

/-- The queue with a number. -/
def State.queue? (s : State) (q : Nat) : Option Queue := s.queues.find? (fun x => x.q == q)

/-- Replace a queue. -/
def State.putQueue (s : State) (x : Queue) : State :=
  { s with queues := x :: s.queues.filter (fun y => !(y.q == x.q)) }

/-- A sequencer by its key. -/
def State.seq? (s : State) (k : SeqKey) : Option Sequencer := s.seqs.find? (fun x => x.key == k)

/-- Change a sequencer. -/
def State.modSeq (s : State) (k : SeqKey) (f : Sequencer → Sequencer) : State :=
  { s with seqs := s.seqs.map (fun x => if x.key = k then f x else x) }

/-- The sequencer bound to a block (R265). -/
def State.seqOfBlock (s : State) (serial : Nat) : Option Sequencer := s.seqs.find? (fun x => x.blk == serial)

/-- An issued piece of work by its identifier. -/
def State.op? (s : State) (id : Nat) : Option Op := s.ops.find? (fun o => o.id == id)


/-- Whether a copy command that is outstanding names the local store of a block (R157, R185). -/
def State.copyNames (s : State) (serial : Nat) : Bool :=
  s.cmds.any (fun c => c.gk.block == serial && (c.dls || c.sls || c.ils))

/-- Forget ended blocks: the local store is released once no copy names it (R185); the record of an ended block stays
while work that it issued is still under way. -/
def State.releaseBlocks (s : State) : State :=
  { s with blocks := s.blocks.filter (fun b => !(b.st == .ended && !s.cmds.any (fun c => c.gk.block == b.serial) &&
      !s.ops.any (fun o => o.gk.block == b.serial))) }

/-- Take a piece of work out; its block may then be forgotten. -/
def State.dropOp (s : State) (id : Nat) : State := { s with ops := s.ops.filter (fun o => !(o.id == id)) }.releaseBlocks

/-- Change the body of a piece of work. -/
def State.setOp (s : State) (id : Nat) (b : OpBody) : State :=
  { s with ops := s.ops.map (fun o => if o.id = id then { o with body := b } else o) }

/-- Add a piece of work at the end of program order, under a fresh identifier. (DESIGN CHOICE, log 99.) -/
def State.addOp (s : State) (k : GroupKey) (slot : Nat) (b : OpBody) : State :=
  { s with ops := s.ops ++ [{ id := s.ids, gk := k, slot := slot, seen := ((s.group? k).map (·.seen)).getD 0, body := b }],
           ids := s.ids + 1 }

/-- Slot 0 or slot 1 of a group. -/
def Group.slot (g : Group) (n : Nat) : Slot := if n = 0 then g.slot0 else g.slot1

/-- Replace slot 0 or slot 1. -/
def Group.setSlot (g : Group) (n : Nat) (x : Slot) : Group := if n = 0 then { g with slot0 := x } else { g with slot1 := x }

/-- The sibling of a slot. -/
def sib (n : Nat) : Nat := if n = 0 then 1 else 0

/-! ## Interrupts, the error log -/

/-- Signal a message of a function's table (R517). (DESIGN CHOICE, log 104.) -/
def State.signal (s : State) (fn vec : Nat) : State := { s with msix := s.msix ++ [(fn, vec)] }

/-- Enter an event in the error log, or count the overflow (R518). -/
def State.logError (s : State) (addr fn kind asid corr : Nat) : State :=
  let r := s.regs
  if r.elhead - r.elcons = 64#32 then
    { s with regs := { r with elovf := if r.elovf = 0xFFFFFFFF#32 then r.elovf else r.elovf + 1 } }
  else
    let e : ErrEnt := { addr := BitVec.ofNat 64 addr, fn := fn, kind := kind, asid := asid, corr := BitVec.ofNat 32 corr }
    { s with regs := { r with errlog := r.errlog.set (r.elhead.toNat % 64) e (Nat.mod_lt _ (by decide)),
                              elhead := r.elhead + 1 } }.signal 0 1

/-! ## Record rings (R445, R446) -/

/-- Count a dropped record while the write-back area is present; the count saturates (R445, R446). -/
def State.dropRecord (s : State) (asid : Nat) : State :=
  match s.ctx? asid with
  | none => s
  | some c =>
    let n := min (c.drops + 1) 0xFFFFFFFF
    match c.wbArea with
    | some l => (s.modCtx asid (fun c => { c with drops := n })).postNum (l.add 32) 4 n
    | none => s

/-- Write bytes around a ring of 2^log bytes at an offset. -/
def State.writeRing (s : State) (ring : Loc) (log off : Nat) (bs : List Byte) : State :=
  s.post ((upFrom off bs.length).zip bs |>.map (fun x => (ring.add (x.1 % 2 ^ log), x.2)))

/-- Write a record to a ring of a context whose CONS can be read, at its head where there is room, else drop it (R446). -/
def State.putRecord (s : State) (c : Ctx) (ring wb : Loc) (stop : Bool) (bs : List Byte) : State :=
  let head := if stop then c.shead else c.fhead
  let log := if stop then c.slog else c.flog
  let cons := s.numAt .device (wb.add (if stop then 24 else 8)) 8
  if head - cons + bs.length ≤ 2 ^ log then
    let s := s.writeRing ring log head bs
    let s := s.modCtx c.asid (fun c => if stop then { c with shead := head + bs.length } else { c with fhead := head + bs.length })
    s.postNum (wb.add (if stop then 16 else 0)) 8 (head + bs.length)
  else s.dropRecord c.asid

/-- The CONS word of a context's ring, as the device reads it. -/
def consWord (wb : Loc) (stop : Bool) : List (Loc × Nat) := [(wb.add (if stop then 24 else 8), 8)]

/-- Append a record to the stop ring (`stop`) or the fault ring of a context, or drop it (R446). While its CONS cannot be read the
record waits, and the context's later ones behind it (R60, R70); one whose CONS is lost or poisoned is dropped.
(DEDUCED, log 121.) -/
def State.pushRecord (s : State) (asid : Nat) (stop : Bool) (bs : List Byte) : State :=
  match s.ctx? asid with
  | none => s
  | some c =>
    match (if stop then c.sring else c.fring), c.wbArea with
    | some ring, some wb =>
      let late := fun (s : State) => { s with records := s.records ++ [(asid, stop, bs)] }
      if s.records.any (fun r => r.1 == asid) then late s
      else match s.tableRead (consWord wb stop) with
      | .ok => s.putRecord c ring wb stop bs
      | .wait s' => late s'
      | .bad _ => s.dropRecord asid
    | _, _ => s.dropRecord asid

/-- The oldest record that waits is written once its CONS can be read. (DEDUCED, log 121.) -/
def State.recordNext? (s : State) : Option State :=
  match s.records with
  | [] => none
  | (asid, stop, bs) :: r =>
    let t := { s with records := r }
    match s.ctx? asid with
    | none => some t
    | some c =>
      match (if stop then c.sring else c.fring), c.wbArea with
      | some ring, some wb => match s.tableRead (consWord wb stop) with
        | .ok => some (t.putRecord c ring wb stop bs)
        | .wait s' => progress s s'
        | .bad _ => some (t.dropRecord asid)
      | _, _ => some (t.dropRecord asid)

/-! ## Halts (R450) -/

/-- An event that halts a context: the halt line is on its way; a second event joins the halt (R450).
(DEDUCED, log 17; DEDUCED, log 88.) -/
def State.raiseHalt (s : State) (asid : Nat) : State :=
  s.modCtx asid (fun c => if c.halt = .running then { c with halt := .raised } else c)

/-- Give a running context's halt its number and its line. -/
def State.haltContext (s : State) (asid : Nat) : State :=
  match s.ctx? asid with
  | some c =>
    if c.halt = .running then
      let a := s.asidInfo asid
      (s.putAsid { a with hseq := a.hseq + 1 }).raiseHalt asid
    else s
  | none => s

/-- Stop a group and halt its context, the group's stop record to carry a cause (R443, R450). (DEDUCED, log 17.) -/
def State.haltGroup (s : State) (k : GroupKey) (asid : Nat) (c : Cause) : State :=
  (s.modGroup k (fun g => { g with stopped := true, stopCause := some c })).haltContext asid

/-- The translation fault record (R37), and the error-log entry of R23 for subcode 0x07. (DEDUCED, log 22.) -/
def State.faultRecord (s : State) (asid : Nat) (f : XFault) (va : DWord) (acc : Acc) (hm : Bool) (part agent : Nat) (corr : Word)
    (lanes : Word) (fn : Nat) : State :=
  let r := recordOf 32 [(0, 8, va.toNat), (8, 2, asid % 1024), (10, 1, f.cause), (11, 1, f.sub),
    (12, 1, acc.code + 8 * b2n hm + 16 * f.level), (13, 1, part), (14, 2, agent), (16, 4, corr.toNat), (20, 4, lanes.toNat),
    (24, 8, f.ent.toNat)]
  let s := s.pushRecord asid false r
  if f.cause = 0x20 && f.sub = 0x07 then s.logError f.pa fn 4 asid corr.toNat else s

/-- The soft-error record (R76). -/
def State.softRecord (s : State) (asid code : Nat) (addr : Nat) (agent : Nat) (corr lanes : Word) : State :=
  s.pushRecord asid false (recordOf 32 [(0, 8, addr), (8, 2, asid % 1024), (10, 1, 0x23), (11, 1, code), (12, 2, agent),
    (16, 4, corr.toNat), (20, 4, lanes.toNat)])

/-- An engine's context fault: its record, and the halt (R37, R450). (DEDUCED, log 88.) -/
def State.engineFault (s : State) (asid : Nat) (f : XFault) (va : DWord) (acc : Acc) (hm : Bool) (part agent : Nat) (corr : Word) :
    State :=
  let vfn := ((s.ctx? asid).map (·.vfn)).getD 0
  let s := if f.cause = 0x23 then s.softRecord asid f.sub f.ent.toNat agent corr 0
    else if f.cause = 0x25 then s.modCtx asid (fun c => { c with linkFault := true })
    else s.faultRecord asid f va acc hm part agent corr 0 vfn
  s.haltContext asid

/-- An error that no context is charged with is logged (R80). (DEDUCED, log 52.) -/
def State.logUe (s : State) (addr : Nat) : State := s.logError addr 0 5 0xFFFF 0

/-- Cause 0x23 to a context: the record and the halt (R73, R76). -/
def State.charge (s : State) (asid code addr agent : Nat) (corr lanes : Word) : State :=
  (s.softRecord asid code addr agent corr lanes).haltContext asid

/-- Charge a resident context, or log the error where there is none (R80). -/
def State.chargeOr (s : State) (asid : Option Nat) (code addr agent : Nat) (corr lanes : Word) : State :=
  match asid with
  | some a => if (s.ctx? a).isSome then s.charge a code addr agent corr lanes else s.logUe addr
  | none => s.logUe addr

/-! ## Guards (R290 to R292) -/

/-- The lanes in which a predicate holds (R283). -/
def Group.predMask (g : Group) : Pred → Mask
  | .p n => g.p[n]
  | .tru => fullMask
  | _ => 0

/-- One instruction of the guard's span has been consumed (R290, R292). -/
def Slot.consume (x : Slot) : Slot := { x with gleft := x.gleft - 1, gmask := if x.gleft ≤ 1 then 0 else x.gmask }

/-- The slot leaves its span early (R292). -/
def Slot.noGuard (x : Slot) : Slot := { x with gleft := 0, gmask := 0, gpend := none }

/-- The slot with the mask of its guard fixed (R291). -/
def Group.fixGuard (g : Group) (x : Slot) : Slot :=
  match x.gpend with
  | some (p, neg) => { x with gpend := none, gmask := if neg then ~~~(g.predMask p) else g.predMask p }
  | none => x

/-! ## Handler entry and return (R447, R366) -/

/-- Enter the handler: one step that saves both slots and leaves slot 0 at HPC with the entry mask (R447). A group's
fixed-latency writes have arrived. The guard mask of a slot that has passed its `grd` and not yet issued an instruction of the span is
fixed from the predicate as it stands then (R291). (DESIGN CHOICE, log 130.) -/
def Group.enter (g : Group) (hpc : DWord) (c : Cause) : Group :=
  { g with
    cause := causeWord c, tval := c.tval, save0 := (g.fixGuard g.slot0).saved,
    save1 := (g.fixGuard g.slot1).saved,
    slot0 := { Slot.readyAt hpc g.emask with turned := true }, slot1 := Slot.free, hm := true,
    pend := g.pend.filter (fun p => !(p.kind == .fixed)) }

/-- The masks that `rte` reloads: the live slots and the stack (R366). -/
def Group.reloadMasks (g : Group) : List Mask :=
  (if (SlotState.ofCode g.save0.st).live then [g.save0.mask] else []) ++
  (if (SlotState.ofCode g.save1.st).live then [g.save1.mask] else []) ++
  (g.stack.toList.take g.sd).map (·.mask)

/-- No lane lies in two of the masks. -/
def disjointMasks : List Mask → Bool
  | [] => true
  | m :: r => r.all (fun x => m &&& x == 0) && disjointMasks r

/-- The checks of `rte` before anything is reloaded (R366), and that of R449 for a stack-refill entry. -/
def Group.rteOk (g : Group) : Bool :=
  let free0 := SlotState.ofCode g.save0.st == .free
  let free1 := SlotState.ofCode g.save1.st == .free
  let masks := g.reloadMasks
  let all := masks.foldl (· ||| ·) 0#32
  g.sd ≤ 16 && !g.save0.pc.getLsbD 0 && !g.save1.pc.getLsbD 0 &&
    (g.stack.toList.take g.sd).all (fun e => !e.pc.getLsbD 0) &&
    (!free0 || (g.save0.mask == 0 && g.save0.gleft == 0)) && (!free1 || (g.save1.mask == 0 && g.save1.gleft == 0)) &&
    disjointMasks masks && (all &&& ~~~g.emask == 0) && (g.sc != 0 || all == g.emask) &&
    (!(g.cause.extractLsb' 0 8 == 0x05#8) || (g.sd != 0 && (free0 || free1)))

/-- Pop the top of the stack into a Free slot (R194); nothing when the stack is empty. -/
def Group.popInto (g : Group) (n : Nat) : Group :=
  if h : 0 < g.sd ∧ g.sd ≤ 16 then
    let e := g.stack[g.sd - 1]'(by omega)
    { g.setSlot n (Slot.readyAt e.pc e.mask) with sd := g.sd - 1 }
  else g

/-- What `rte` leaves once its checks pass (R366, R449, R464); a stack refill pops into the slot that made the entry where it
is Free (R195). -/
def Group.returned (g : Group) : Group :=
  let code := (g.cause.extractLsb' 0 8).toNat
  let from1 := g.cause.getLsbD 16
  let mark := fun (n : Bool) (x : Slot) => if code = 1 && n == from1 then { x with bpSkip := true } else x
  let g : Group := { g with slot0 := mark false g.save0.reload, slot1 := mark true g.save1.reload, hm := false }
  let n := if from1 then 1 else 0
  if code = 5 then (if (g.slot n).st = .free then g.popInto n else g.popInto (sib n)) else g

/-- A waiting slot becomes Ready at the next instruction: what it waited for has come about. -/
def Slot.pass (x : Slot) (len : Nat) : Slot :=
  if x.st = .wait then { x.consume with st := .ready, wait := none, latch := none, pc := x.pc + BitVec.ofNat 64 len } else x

/-- Let the instruction that one slot waits at complete: the slot goes on behind it, the instruction counts (R279), and
a step trap is due where the group steps (R465). -/
def Group.passSlot (g : Group) (n len : Nat) : Group :=
  let g := { g.setSlot n ((g.slot n).pass len) with icnt := g.icnt + 1 }
  if g.sstep && !g.hm then { g with deferred := g.deferred ++ [Cause.plain 3 n] } else g

/-- The slots of a group withdraw from the task queues they wait at when the group enters the handler (R448): the request goes, and
its token is pending no more. (DEDUCED, log 109.) -/
def State.withdrawPop (s : State) (k : GroupKey) : State :=
  let one := fun (s : State) (n : Nat) => match s.group? k with
    | some g => match (g.slot n).wait with
      | some (.tqPop op) => (s.putGroup k { g with pend := g.pend.filter (fun p => !(p.op == op)) }).dropOp op
      | _ => s
    | none => s
  one (one s 0) 1

/-- A double fault: the group stops at once, never to resume, and its context halts (R454). -/
def State.doubleFault (s : State) (k : GroupKey) (asid : Nat) (c : Cause) : State :=
  (s.modGroup k (fun g => { g with dbl := true })).haltGroup k asid { c with code := 0x26, sub := c.code }

/-- Whether a cause that a group raises is taken by its handler (R443). -/
def State.handled (s : State) (k : GroupKey) (asid : Nat) (c : Cause) : Bool :=
  match s.group? k, s.ctx? asid with
  | some g, some x => causeClass c.code != .context && !g.hm && x.hpc != 0 && (causeClass c.code == .trap || x.fth)
  | _, _ => false

/-- The end code of the run that a cause ends: handler entry, or the halt of the context (R474). -/
def State.causeEnd (s : State) (k : GroupKey) (asid : Nat) (c : Cause) : Nat := if s.handled k asid c then 5 else 6

/-- Whether a slot of a group waits at a pop to which a record has been assigned (R448). (DEDUCED, log 109.) -/
def State.popBusy (s : State) (k : GroupKey) : Bool :=
  match s.group? k with
  | some g => [0, 1].any (fun n => match (g.slot n).wait with
    | some (.tqPop op) => match s.op? op with
      | some { body := .slice _ t, .. } => t.started
      | _ => false
    | _ => false)
  | none => false

/-- Whether a cause has to wait: a pop with a record completes before its group enters the handler (R448).
(DEDUCED, log 109.) -/
def State.entryHeld (s : State) (k : GroupKey) (asid : Nat) (c : Cause) : Bool := s.handled k asid c && s.popBusy k

/-- An entry waits for the pop: until it completes the group issues nothing (R448). (DEDUCED, log 109.) -/
def State.holdEntry (s : State) (k : GroupKey) (c : Cause) : State := s.modGroup k (fun g => { g with entering := some c })

/-- Take a cause raised by a group (R443): the handler, the double fault, or the halt of the context. (DEDUCED, log 17.) -/
def State.raise (s : State) (k : GroupKey) (asid : Nat) (c : Cause) : State :=
  match s.group? k, s.ctx? asid with
  | some g, some x =>
    match causeClass c.code with
    | .context => s.haltGroup k asid c
    | cls =>
      if g.hm then s.doubleFault k asid c
      else if x.hpc ≠ 0 && (cls == .trap || x.fth) then
        let s := s.withdrawPop k
        { s with fails := s.fails.filter (fun y => !(y.gk == k)) }.modGroup k (fun g => g.enter x.hpc c)
      else s.haltGroup k asid c
  | _, _ => s

/-! ## The end of a group and of a block (R185, R457) -/

/-- The address-space identifier of a block. -/
def State.asidOf (s : State) (k : GroupKey) : Nat := ((s.block? k.block).map (·.asid)).getD 0

/-- The correlation number of a block's launch (R426). -/
def State.corrOfBlock (s : State) (b : Block) : Word := ((s.launchOf b).map (·.corr)).getD 0

/-- The block-exit record (R457). -/
def blockExitRecord (b : Block) (corr : Word) (aborted : Bool) : List Byte :=
  recordOf 256 ([(0, 1, 2), (3, 1, b2n aborted), (4, 2, b.asid), (8, 4, corr.toNat),
    (12, 4, ((b.groups.head?).map (·.gid.toNat)).getD 0), (16, 4, b.groups.length)] ++
    (b.groups.map (fun g => (0x20 + 4 * g.index, 4, g.lfmask.toNat))))

/-- A Talus entry as software sees it (R256): CNT, COL, ROW, TILE, V. -/
def TalusEnt.word (e : TalusEnt) : Word := 1#1 ++ BitVec.ofNat 3 e.tile ++ BitVec.ofNat 6 e.row ++ BitVec.ofNat 6 e.col ++ BitVec.ofInt 16 e.cnt

/-- The entries of a sequencer's Talus share as the debugger reports them (R256); the stop records of R455 and R456 have a place for
their number only. -/
def Sequencer.talusWords (x : Sequencer) : List Word := x.talus.map (·.word)

/-- The stream PC, stream word, tile and k-slice that records give, and the Talus entries in use (R455). (DEDUCED, log 79.) -/
def Sequencer.stopFields (x : Sequencer) : List (Nat × Nat × Nat) :=
  let w := x.word.toNat
  let named := if 16 ≤ w % 64 || w % 64 = 4 then bitsAt w 6 3 else 0
  let r := match x.step with
    | some t => (t.pc, t.word, t.m.tile.val, t.slice)
    | none => (x.pc, x.word, named, 0)
  [(0x58, 8, r.1.toNat), (0x60, 4, r.2.1.toNat), (0x64, 1, r.2.2.1), (0x65, 1, r.2.2.2), (0x66, 2, x.talus.length)]

/-- The record of a fault whose issuer or starter has ended (R175, R247, R455), with the stream fields of a sequencer's fault.
(DEDUCED, log 41.) -/
def State.goneRecord (s : State) (asid code sub : Nat) (corr gid tval : Word) (seq : Option (List (Nat × Nat × Nat))) : State :=
  let s := s.haltContext asid
  s.pushRecord asid true (recordOf 128 ([(0, 1, 1), (1, 1, code), (2, 1, sub), (3, 1, if seq.isSome then 0x14 else 4), (4, 2, asid),
    (6, 2, 0xFFFF), (8, 4, corr.toNat), (12, 4, gid.toNat), (0x3C, 4, tval.toNat), (0x68, 8, (s.asidInfo asid).hseq.toNat)] ++
    (seq.getD [])))

/-- Work of a group on its block's engine: it is performed in program order. (DEDUCED, log 80.) -/
def OpBody.onEngine : OpBody → Bool
  | .accld .. => true
  | .acczero .. => true
  | .mcfg .. => true
  | _ => false

/-- Work on the engine or the stage barriers of a block: it ends with the block. -/
def OpBody.ofBlock (x : OpBody) : Bool :=
  x.onEngine || (match x with
    | .stageArr .. => true
    | _ => false)

/-- End a block: its record when one is due (R457), its sequencer and its residency given back. (DEDUCED, log 80.) -/
def State.endBlock (s : State) (b : Block) (aborted : Bool) : State :=
  let bxall := ((s.ctx? b.asid).map (·.bxall)).getD false
  let due := bxall || aborted || b.groups.any (fun g => g.lfmask != 0)
  let s := if due then s.pushRecord b.asid true (blockExitRecord b (s.corrOfBlock b) aborted) else s
  let s := { s with seqs := s.seqs.filter (fun x => !(x.blk == b.serial)),
                    ops := s.ops.filter (fun o => !(o.gk.block == b.serial && o.body.ofBlock)) }
  (s.modBlock b.serial (fun b => { b with st := .ended, seq := none })).releaseBlocks

/-- Whether a context is reproducible (R475). -/
def State.isRepro (s : State) (asid : Nat) : Bool := ((s.ctx? asid).map (·.repro)).getD false

/-- LSEQ as records give it: 0 outside reproducible contexts (R469). (DEDUCED, log 85.) -/
def State.lseqOf (s : State) (asid : Nat) (l : Option Launch) : Nat := if s.isRepro asid then (l.map (·.lseq)).getD 0 else 0

/-! ## Debug records (R469, R470) -/

/-- A debug register of a context as a number. -/
def AsidInfo.reg (a : AsidInfo) (n : Nat) : Nat := (a.dbg.toList.getD n 0).toNat

/-- Set a debug register. -/
def AsidInfo.setReg (a : AsidInfo) (n v : Nat) : AsidInfo :=
  if h : n < 160 then { a with dbg := a.dbg.set n (BitVec.ofNat 32 v) h } else a

/-- The place that a ring or buffer field names, when it lies in the function's range (R445, R470). -/
def State.placeOf (s : State) (vfn field lo : Nat) : Option Loc :=
  let kind := bitsAt field 0 2
  let pa := bitsAt field lo (52 - lo) * 2 ^ lo
  if kind = 0 && s.inRange vfn pa then some ⟨.device, pa⟩
  else if kind = 2 then some ⟨.hostCoh, pa⟩
  else none

/-- The place of a ring or buffer of some bytes, when all of it lies in the function's range (R445, R470). -/
def State.ringPlace (s : State) (vfn field lo bytes : Nat) : Option Loc :=
  match s.placeOf vfn field lo with
  | some l => if l.kind == .device && !s.inRange vfn (l.pa + bytes - 1) then none else some l
  | none => none

/-- Append a record to the sample buffer (base 0x81) or the trace buffer (base 0x88), or count the drop (R470). -/
def State.dbgAppend (s : State) (asid base : Nat) (bs : List Byte) : State :=
  let a := s.asidInfo asid
  let vfn := ((s.ctx? asid).map (·.vfn)).getD 0
  let log := a.reg (base + 2) % 32
  let head := a.reg (base + 3)
  let cons := a.reg (base + 4)
  let drop := s.putAsid (a.setReg 0x98 (min (a.reg 0x98 + 1) 0xFFFFFFFF))
  match s.ringPlace vfn (a.reg base + a.reg (base + 1) * 2 ^ 32) 12 (2 ^ log) with
  | some buf =>
    if log < 12 || 24 < log then drop
    else if (head + 2 ^ 32 - cons) % 2 ^ 32 + bs.length ≤ 2 ^ log then
      (s.writeRing buf log head bs).putAsid (a.setReg (base + 3) ((head + bs.length) % 2 ^ 32))
    else drop
  | none => drop

/-- Append a kind-3 record, and signal DVEC when DIRQ is set (R468, R469). -/
def State.debugRecord (s : State) (asid evt sub flags agent : Nat) (corr gid : Word) (va src lseq : Nat) : State :=
  let s := s.pushRecord asid true (recordOf 128 [(0, 1, 3), (1, 1, evt), (2, 1, sub), (3, 1, flags), (4, 2, asid), (6, 2, agent),
    (8, 4, corr.toNat), (12, 4, gid.toNat), (0x10, 8, va), (0x18, 1, src), (0x20, 4, lseq)])
  let dctl := (s.asidInfo asid).reg 0x80
  if bitAt dctl 6 then s.signal (((s.ctx? asid).map (·.vfn)).getD 0) (bitsAt dctl 7 11) else s

/-- Whether a watchpoint of a context matches engine writes to a byte range; its number (R468). -/
def State.engineWatch (s : State) (asid va n : Nat) (seen : List Nat) : List Nat :=
  let a := s.asidInfo asid
  (List.range 8).filter (fun w =>
    let wk := a.reg (8 * w + 0x44)
    let lo := a.reg (8 * w + 0x40) + a.reg (8 * w + 0x41) * 2 ^ 32
    let hi := a.reg (8 * w + 0x42) + a.reg (8 * w + 0x43) * 2 ^ 32
    bitAt wk 31 && bitAt wk 3 && lo < hi && va < hi && lo < va + n && !seen.contains w)

/-- The first byte of [va, va + n) that a watchpoint covers. -/
def State.watchByte (s : State) (asid w va : Nat) : Nat :=
  max va ((s.asidInfo asid).reg (8 * w + 0x40) + (s.asidInfo asid).reg (8 * w + 0x41) * 2 ^ 32)

/-- Compare one engine line with the watchpoints and write the records that are due (R468). -/
def State.watchWrite (s : State) (asid va n : Nat) (seen : List Nat) (flags agent : Nat) (corr gid : Word) (src lseq : Nat) :
    State × List Nat :=
  let ws := s.engineWatch asid va n seen
  (ws.foldl (fun s w => s.debugRecord asid 1 w flags agent corr gid (s.watchByte asid w va) src lseq) s, seen ++ ws)

/-! ## Runs and their records (R197, R474) -/

/-- Write the run record of a traced group when a run of it ends (R474). -/
def State.traceRunEnd (s : State) (k : GroupKey) (why : Nat) : State :=
  match s.traces.find? (fun t => t.gk == k), s.group? k with
  | some t, some g =>
    if t.count = 0 then s
    else
      let r := recordOf 32 [(0, 1, 1), (1, 1, t.slot), (2, 1, t.count), (3, 1, why), (4, 4, g.gid.toNat), (8, 8, t.pc.toNat),
        (0x10, 4, t.mask.toNat), (0x18, 8, t.clk.toNat)]
      let s := s.dbgAppend (s.asidOf k) 0x88 r
      { s with traces := s.traces.map (fun x => if x.gk = k then { x with count := 0 } else x) }
  | _, _ => s

/-- End the run in progress on a core: the slot's latch becomes invalid (R197, R199). -/
def State.endRun (s : State) (core : Nat) (k : GroupKey) (slot why : Nat) : State :=
  let s := s.traceRunEnd k why
  let s := s.modGroup k (fun g => g.setSlot slot { g.slot slot with latch := none })
  { s with runs := s.runs.filter (fun r => !(r.core == core)) }

/-- The summary record of a group that ends untraced while TEN = 1 (R474). -/
def State.traceSummary (s : State) (k : GroupKey) (g : Group) : State :=
  let asid := s.asidOf k
  if bitAt ((s.asidInfo asid).reg 0x80) 5 && !s.traces.any (fun t => t.gk == k) then
    let corr := ((s.block? k.block).map s.corrOfBlock).getD 0
    s.dbgAppend asid 0x88 (recordOf 32 [(0, 1, 2), (4, 4, g.gid.toNat), (8, 4, corr.toNat), (12, 4, g.core), (0x10, 8, g.icnt.toNat),
      (0x18, 4, (Config.deviceClk g.born).toNat), (0x1C, 4, (Config.deviceClk s.clk).toNat)])
  else s

/-- Implicit retires (R211): the rays of lanes that leave the entry mask are handed back and counted in IMPL. -/
def State.retireLanes (s : State) (k : GroupKey) (x : Mask) : State :=
  match s.group? k, s.block? k.block with
  | some g, some b =>
    let mine := x.lanes.filter (fun i => g.handle[i] != 0xFFFFFFFF#32)
    if mine = [] then s
    else
      let n := mine.length
      let s := s.modLaunch b.launch (fun l =>
        { l with ctr := { l.ctr with impl := BitVec.ofNat 32 (min (l.ctr.impl.toNat + n) 0xFFFFFFFF) } })
      let s := s.addOp k 0 (.handoff .retire (mine.map (fun i => g.handle[i])) false)
      s.putGroup k { g with handle := Vector.ofFn (fun i => if x.getLsbD i.val then 0xFFFFFFFF#32 else g.handle[i]) }
  | _, _ => s

/-- The tail of whatever empties a group's entry mask: the group ends, its tokens are discarded, its reservation returns
to the pool, its waiting siblings may pass the block barrier, and the block may end (R185, R217, R361, R363). `why` is
the end code of the run in progress. (DEDUCED, log 41.) -/
def State.endIfEmpty (s : State) (k : GroupKey) (why : Nat) : State :=
  match s.group? k with
  | none => s
  | some g =>
    if g.emask ≠ 0 || g.ended then s
    else
      let s := (s.traceRunEnd k why).traceSummary k g
      let s := { s with traces := s.traces.filter (fun t => !(t.gk == k)), runs := s.runs.filter (fun r => !(r.gk == k)) }
      let late := g.deferred.filter (fun c => c.code != 3)
      let asid := s.asidOf k
      let corr := ((s.block? k.block).map s.corrOfBlock).getD 0
      let s := late.foldl (fun s c => s.goneRecord asid c.code c.sub corr g.gid c.tval c.strm) s
      let g := { g with ended := true, slot0 := Slot.free, slot1 := Slot.free, pend := [], tokNew := [], rsv := 0, deferred := [],
                           entering := none }
      let s := (s.putGroup k g).modBlock k.block Block.barTest
      match s.block? k.block with
      | some b => if b.groups.all (·.ended) then s.endBlock b false else s
      | none => s

/-! ## Wakes -/

/-- Change one slot of a group. -/
def State.modSlot (s : State) (k : GroupKey) (n : Nat) (f : Slot → Slot) : State :=
  s.modGroup k (fun g => g.setSlot n (f (g.slot n)))

/-- A waiting slot becomes Ready where it stands: its instruction issues again. -/
def Slot.wake (x : Slot) : Slot := if x.st = .wait then { x with st := .ready, wait := none, latch := none } else x

/-- Wake the slots of a group whose reason satisfies a test. -/
def Group.wakeIf (g : Group) (p : WaitReason → Bool) : Group :=
  let f := fun (x : Slot) => match x.wait with
    | some r => if p r then x.wake else x
    | none => x
  { g with slot0 := f g.slot0, slot1 := f g.slot1 }

/-- The slots of a group whose wait reason satisfies a test. -/
def Group.slotsFor (g : Group) (p : WaitReason → Bool) : List Nat :=
  [0, 1].filter (fun n => (g.slot n).st == .wait && (match (g.slot n).wait with
    | some r => p r
    | none => false))

/-- Let pass the slots of a group whose reason satisfies a test, over a 4-byte instruction. -/
def Group.passIf (g : Group) (p : WaitReason → Bool) : Group := (g.slotsFor p).foldl (fun g n => g.passSlot n 4) g

/-- The wait reasons that a group's own registers and counts decide, to be issued again (R198, R385). -/
def Group.canWake (g : Group) : WaitReason → Bool
  | .regs rs => rs.all (fun x => !g.pend.any (fun p => p.reg == x && !(p.kind == .fixed)))
  | .count c => ([g.ldCnt, g.stCnt, g.cpCnt, g.tlCnt].getD c 0) < 63
  | _ => false

/-- A `wait` whose counts are satisfied (R386). -/
def Group.countsMet (g : Group) : WaitReason → Bool
  | .counts l st c t => g.ldCnt ≤ l && g.stCnt ≤ st && g.cpCnt ≤ c && g.tlCnt ≤ t
  | _ => false

/-! ## Save slots (R461, R462) -/

/-- The operand code of a register. -/
def RegId.code : RegId → Nat
  | .v n => n.val
  | .s n => 0x80 + n.val
  | .a n => 0xC0 + n.val
  | .p n => n.val
  | .k n => 0xB8 + n.val

/-- The wake condition of a slot that waits at a blocking point (R460, R462): type, expected phase, barrier, VA or register. A pop
waits at one once it has found its queue empty (R397); a `wait`, while its load count holds it and a result of peer or host
kind is pending (R381). (DEDUCED, log 110.) -/
def State.wakeCond (s : State) (g : Group) (x : Slot) : Option (Nat × Nat × Nat × Nat) :=
  let far := fun (rs : List RegId) => match g.pend.find? (fun p => p.far && rs.contains p.reg) with
    | some p => some (4, 0, 0, p.reg.code)
    | none => none
  match x.wait with
  | some (.barBlk ph) => some (1, b2n ph, 0, 0)
  | some (.stage n e) => some (2, b2n e, n.val, 0)
  | some (.tqPop op) => match s.op? op with
    | some { body := .slice (.pop _ _ (some _)) t, .. } => if t.started then none else some (3, 0, 0, t.va.toNat)
    | _ => none
  | some (.regs rs) => far rs
  | some (.counts l _ _ _) => if l < g.ldCnt then far (g.pend.map (·.reg)) else none
  | _ => none

/-- The pending-token map of 32 S registers from a number. -/
def Group.tokenMap (g : Group) (lo : Nat) : Nat :=
  ((List.range 32).filter (fun i => g.pend.any (fun p => p.kind == .token && (match p.reg with
    | .s n => n.val == lo + i
    | _ => false)))).foldl (fun acc i => acc + 2 ^ i) 0

/-- The wake fields of a save slot (R462): offset, size, value. -/
def State.wakeFields (s : State) (g : Group) : List (Nat × Nat × Nat) :=
  match [0, 1].findSome? (fun n => (s.wakeCond g (g.slot n)).map (fun c => (n, c))) with
  | some (n, t, ph, b, v) => [(0x4470, 1, t), (0x4471, 1, n), (0x4472, 1, ph), (0x4473, 1, b), (0x4474, 4, 0), (0x4478, 8, v)]
  | none => [(0x4470, 8, 0), (0x4478, 8, 0)]

/-- The other fields of a save slot above the V registers (R462): offset, size, value. -/
def Group.slotFields (g : Group) (corr : Word) (repro : Bool) : List (Nat × Nat × Nat) :=
  (List.finRange 96).map (fun i => (0x4000 + 4 * i.val, 4, (g.p[i]).toNat)) ++
  (List.finRange 64).map (fun i => (0x4180 + 4 * i.val, 4, (g.s[i]).toNat)) ++
  (List.finRange 32).flatMap (fun i => [(0x4280 + 12 * i.val, 8, (g.a[i]).base.toNat), (0x4288 + 12 * i.val, 4, (g.a[i]).stride.toNat)]) ++
  (List.finRange 8).map (fun i => (0x4400 + 4 * i.val, 4, (g.k[i]).toNat)) ++
  [(0x4420, 8, g.slot0.pc.toNat), (0x4428, 8, g.slot1.pc.toNat), (0x4430, 4, g.slot0.mask.toNat), (0x4434, 4, g.slot1.mask.toNat),
   (0x4438, 4, g.slot0.stByte), (0x443C, 4, g.slot1.stByte), (0x4440, 4, g.slot0.gmask.toNat), (0x4444, 4, g.slot1.gmask.toNat),
   (0x4448, 4, g.emask.toNat), (0x444C, 4, g.lfmask.toNat), (0x4450, 4, (dstkWord g.sd g.sc).toNat), (0x4454, 4, (g.gstat repro).toNat),
   (0x4458, 8, g.spill.toNat), (0x4460, 8, g.icnt.toNat),
   (0x4468, 4, g.ldCnt + 2 ^ 6 * g.stCnt + 2 ^ 12 * g.cpCnt + 2 ^ 18 * g.tlCnt), (0x446C, 4, g.rbt.toNat)] ++
  (List.finRange 32).map (fun i => (0x4480 + 4 * i.val, 4, (g.rbp[i]).toNat)) ++
  (List.finRange 16).flatMap (fun i => [(0x4500 + 16 * i.val, 8, (g.stack[i]).pc.toNat), (0x4508 + 16 * i.val, 4, (g.stack[i]).mask.toNat),
    (0x450C + 16 * i.val, 4, 0)]) ++
  [(0x4600, 4, g.gid.toNat), (0x4604, 4, corr.toNat), (0x4608, 4, g.tokenMap 0), (0x460C, 4, g.tokenMap 32)]

/-- The address of a group's save slot (R461). -/
def Group.saveSlot (g : Group) (save : Nat) : Nat := save + 18432 * (16 * g.core + g.res)

/-- Write what a group's save slot holds of its registers, counts and slots (R462). -/
def State.saveRegs (s : State) (g : Group) (save : Nat) (corr : Word) (repro : Bool) : State :=
  let at_ : Nat → Loc := fun off => ⟨.device, g.saveSlot save + off⟩
  let vs := (List.finRange 128).filter (fun i => i.val + 2 < g.vregs || 126 ≤ i.val)
  let s := vs.foldl (fun s i => s.postBytes (at_ (128 * i.val)) ((g.v[i]).toList.flatMap (fun w => leBytes 4 w.toNat))) s
  (g.slotFields corr repro).foldl (fun s f => s.postNum (at_ f.1) f.2.1 f.2.2) s

/-- Write a group's save slot (R462): its registers and slots, its wake condition, and zeros. -/
def State.saveGroup (s : State) (g : Group) (save : Nat) (corr : Word) (repro : Bool) : State :=
  let at_ : Nat → Loc := fun off => ⟨.device, g.saveSlot save + off⟩
  let s := (s.wakeFields g).foldl (fun s f => s.postNum (at_ f.1) f.2.1 f.2.2) (s.saveRegs g save corr repro)
  s.postBytes (at_ 0x4610) (List.replicate 496 0)

/-- Bring a saved group's image up to date with what reached it (R463); the wake fields stay as they were saved. -/
def State.syncImage (s : State) (k : GroupKey) : State :=
  match s.block? k.block, s.group? k with
  | some b, some g =>
    if b.st = .saved then
      match s.ctx? b.asid with
      | some c => s.saveRegs g c.save (s.corrOfBlock b) c.repro
      | none => s
    else s
  | _, _ => s

/-- Wake the slots whose registers or counts have arrived; a `wait` that passes acquires (R128): the core's L1 goes. A
group of a block that is being saved, or is saved, keeps its waits (R463). -/
def State.wakeGroup (s : State) (k : GroupKey) : State :=
  match s.block? k.block, s.group? k with
  | some b, some g =>
    if b.st = .resident then
      let s' := s.putGroup k ((g.wakeIf g.canWake).passIf g.countsMet)
      if g.slotsFor g.countsMet = [] then s' else s'.l1Drop (fun l => l.core == g.core)
    else s.syncImage k
  | _, _ => s

/-! ## Writing registers -/

/-- A V register. -/
def Group.vreg (g : Group) (n : Fin 128) : Lanes := g.v[n]

/-- One lane of a V register by number; registers beyond v127 read as 0. -/
def Group.vlane (g : Group) (n : Nat) (i : Fin 32) : Word := if h : n < 128 then (g.v[n]'h)[i] else 0

/-- An S register by number. -/
def Group.sreg (g : Group) (n : Nat) : Word := if h : n < 64 then g.s[n]'h else 0

/-- The lanes of a mask take new values; the others keep theirs (R186). -/
def mergeLanes (m : Mask) (old new : Lanes) : Lanes := Vector.ofFn (fun i => if m.getLsbD i.val then new[i] else old[i])

/-- Write a register as a result brings it. -/
def Group.writeReg (g : Group) (w : RegWrite) : Group :=
  match w.reg, w.val with
  | .v n, .v l => { g with v := g.v.set n.val (mergeLanes w.mask g.v[n] l) n.isLt }
  | .v n, .s x => { g with v := g.v.set n.val (mergeLanes w.mask g.v[n] (Lanes.splat x)) n.isLt }
  | .s n, .s x => { g with s := g.s.set n.val x n.isLt }
  | .k n, .s x => { g with k := g.k.set n.val x n.isLt }
  | .a n, .a x => { g with a := g.a.set n.val x n.isLt }
  | .p n, .s x => { g with p := g.p.set n.val ((g.p[n] &&& ~~~w.mask) ||| (x &&& w.mask)) n.isLt }
  | _, _ => g

/-- The registers of a piece of work are no longer pending (R198). -/
def Group.unpend (g : Group) (op : Nat) : Group := { g with pend := g.pend.filter (fun p => !(p.op == op)) }

/-- The tokens of a piece of work have arrived, and nothing has read them yet (R128). (DEDUCED, log 43.) -/
def Group.noteTokens (g : Group) (op : Nat) : Group :=
  { g with tokNew := g.tokNew ++ (g.pend.filter (fun p => p.op == op && p.kind == .token)).map (·.reg) }

/-- Whether a result is the one at which a slot waits at a blocking point (R381, R460). -/
def State.awaited (s : State) (o : Op) : Bool :=
  match s.group? o.gk with
  | some g => [0, 1].any (fun n => (g.slot n).st == .wait && (match s.wakeCond g (g.slot n) with
    | some (4, _, _, r) => g.pend.any (fun p => p.op == o.id && p.reg.code == r)
    | _ => false))
  | none => false

/-- A result reaches its registers: they are written, the pending marks go, and the slots that waited for them wake.
An ended group takes no result; of a block that is not on its core the wake is latched (R463). (DEDUCED, log 110.) -/
def State.land (s : State) (o : Op) (ws : List RegWrite) : State :=
  let latch := s.awaited o
  let s := s.modBlock o.gk.block (fun b => { b with woken := b.woken || (b.st != .resident && latch) })
  (s.modGroup o.gk (fun g => if g.ended then g else ((ws.foldl Group.writeReg g).noteTokens o.id).unpend o.id)).wakeGroup o.gk

/-! ## Stage barriers (R263, R264) -/

/-- The line that holds a stream address. -/
def lineBase (pc : DWord) : DWord := pc &&& ~~~127#64

/-- A sequencer at another word of its stream: of its lines it holds that of the word and the next one, and none where it does
not hold the word's (R246). -/
def Sequencer.goto (x : Sequencer) (pc : DWord) : Sequencer :=
  let here := lineBase pc
  { x with pc := pc, lines := if x.lines.any (fun l => l.1 == here) then x.lines.filter (fun l => l.1 == here || l.1 == here + 128) else [] }

/-- Let what waits on the stage barriers of a block see their phases: groups' `mbar.wait` returns, an acquire (R135), and
sequencers return to Run; of a block that is not on its core the wake is latched (R463). (DEDUCED, log 80.) -/
def State.stageWake (s : State) (serial : Nat) : State :=
  match s.block? serial with
  | none => s
  | some b =>
    let met := fun (r : WaitReason) => match r with
      | .stage n e => b.sbar[n].ph != e
      | _ => false
    if b.st != .resident then
      s.modBlock serial (fun b => { b with woken := b.woken || b.groups.any (fun g => g.slotsFor met != []) })
    else
    let cores := (b.groups.filter (fun g => g.slotsFor met != [])).map (·.core)
    let s := s.modBlock serial (fun b => { b with groups := b.groups.map (fun g => g.passIf met) })
    let go := fun (x : Sequencer) => match x.waitOn with
      | some (n, e) => if b.sbar[n].ph != e then { x.goto (x.pc + 4) with st := .run, waitOn := none } else x
      | none => x
    let s := { s with seqs := s.seqs.map (fun (x : Sequencer) => if x.blk = serial ∧ x.st = SeqState.wait then go x else x) }
    s.l1Drop (fun l => cores.contains l.core)

end Sys2Proof.Machine
end

