-- ==== Sys2Proof/Machine/Operands.lean ====
section
/-! DEFINITION. Operands and issue: what each operand code reads (R187, R279 to R283), the checks of R192 in their order, the
scoreboard (R198), guards (R290 to R292), and the one operation through which every group instruction issues. -/
namespace Sys2Proof.Machine

/-! ## The issuing group as an instruction sees it -/

/-- The group, slot, block and context that an issuing instruction belongs to. `act` is the set of lanes i with
lane_active(i): the slot's mask less the lanes that the guard removes (R81, R291). -/
structure View where
  s : State
  k : GroupKey
  n : Nat
  g : Group
  sl : Slot
  b : Block
  c : Ctx
  l : Launch
  act : Mask
  deriving DecidableEq, Repr

/-- The classes of registers (R186), ordered S < A < V (R187). -/
inductive Cls where
  | s | a | v
  deriving DecidableEq, Repr

/-- Rank of a class in S < A < V. -/
def Cls.rank : Cls → Nat
  | .s => 0
  | .a => 1
  | .v => 2

/-- The class of the latch (R199). -/
def LatchVal.cls : LatchVal → Cls
  | .s _ => .s
  | .a _ => .a
  | .v _ => .v

/-- The class of an operand (R279); none for 0xFF and for an invalid latch, whose fault comes later (R192). (DEDUCED, log 31.) -/
def View.cls (w : View) : Opnd → Option Cls
  | .v _ => some .v
  | .ray => some .v
  | .a _ => some .a
  | .lane => some .a
  | .latch => w.sl.latch.map LatchVal.cls
  | .none => none
  | _ => some .s

/-- Whether an operand's class is at most a class. -/
def View.atMost (w : View) (c : Cls) (x : Opnd) : Bool :=
  match w.cls x with
  | some k => k.rank ≤ c.rank
  | none => true

/-- The register an operand names; in handler mode S codes from 56 name the shadow registers (R365), also as the later registers of a
pair or run that starts below. (DESIGN CHOICE, log 131.) -/
def regOf (hm : Bool) : Opnd → Option RegId
  | .v n => some (.v n)
  | .a n => some (.a n)
  | .s n =>
    if h : hm = true ∧ 56 ≤ n.val then some (.k ⟨n.val - 56, by omega⟩) else some (.s n)
  | _ => none

/-- Whether a register lies in the group's allocation (R183, R365). -/
def Group.allocated (g : Group) : RegId → Bool
  | .v n => n.val + 2 < g.vregs || (126 ≤ n.val && 2 ≤ g.vregs)
  | .s n => n.val < g.sregs
  | .a n => n.val < g.aregs
  | .p _ => true
  | .k _ => true

/-- Whether every register that an operand names is allocated. -/
def Group.hasOpnd (g : Group) (x : Opnd) : Bool :=
  match regOf g.hm x with
  | some r => g.allocated r
  | none => true

/-- The operand `j` places after a register code; none past the end of its class (R317). -/
def opndPlus (x : Opnd) (j : Nat) : Option Opnd :=
  match x with
  | .v n => if h : n.val + j < 128 then some (.v ⟨n.val + j, h⟩) else none
  | .s n => if h : n.val + j < 64 then some (.s ⟨n.val + j, h⟩) else none
  | .a n => if h : n.val + j < 32 then some (.a ⟨n.val + j, h⟩) else none
  | _ => if j = 0 then some x else none

/-- The run of `n` operands from a register code, as far as its class goes. -/
def opndRun (x : Opnd) (n : Nat) : List Opnd := (List.range n).filterMap (opndPlus x)

/-- Whether a run of `n` registers from a code stays inside its class (R317). -/
def opndRunOk (x : Opnd) (n : Nat) : Bool := x == .none || (opndPlus x (n - 1)).isSome

/-! ## Reading -/

/-- The bits of an inline constant (R281). -/
def inlineBits : Fin 15 → Word
  | 0 => 1
  | 1 => 2
  | 2 => 4
  | 3 => 8
  | 4 => 16
  | 5 => 0xFFFFFFFF
  | 6 => 0x3F000000
  | 7 => 0x3F800000
  | 8 => 0x40000000
  | 9 => 0xBF800000
  | 10 => 0x3E800000
  | 11 => 0x40800000
  | 12 => 0x3C003C00
  | 13 => 0x0000FFFF
  | 14 => 0x00FF00FF

/-- Lane i of an affine value: base + i × sext(stride) (R186, R187). -/
def Affine.at (x : Affine) (i : Nat) : DWord := x.base + BitVec.ofNat 64 i * x.stride.signExtend 64

/-- An S value in the A datapath (R187). -/
def Affine.ofS (w : Word) : Affine := ⟨w.signExtend 64, 0⟩

/-- Lane i of a latch value in the V datapath (R187). -/
def LatchVal.lane : LatchVal → Fin 32 → Word
  | .s w, _ => w
  | .a x, i => (x.at i.val).setWidth 32
  | .v l, i => l[i]

/-- An S-class special in a group of a grid launch; 0 in ray groups (R210, R279). -/
def View.grid (w : View) (x : Word) : Word := if w.b.isRay then 0 else x

/-- An operand in the S datapath (R187, R279, R280). -/
def View.sval (w : View) : Opnd → Word
  | .s n => if h : w.g.hm = true ∧ 56 ≤ n.val then w.g.k[n.val - 56]'(by omega) else w.g.s[n]
  | .latch => match w.sl.latch with
    | some (.s x) => x
    | _ => 0
  | .lit32 x => x
  | .lit64 x => x.setWidth 32
  | .quad => w.grid (BitVec.ofNat 32 (8 * w.g.index))
  | .grp => w.grid (BitVec.ofNat 32 w.g.index)
  | .bx => w.grid w.b.bx
  | .by_ => w.grid w.b.by_
  | .bz => w.grid w.b.bz
  | .launch => w.l.corr
  | .emask => w.g.emask
  | .amask => w.sl.mask
  | .icnt => w.g.icnt.setWidth 32
  | .core => BitVec.ofNat 32 w.g.core
  | .inl k => inlineBits k
  | _ => 0

/-- An operand in the A datapath (R187, R279). -/
def View.aval (w : View) : Opnd → Affine
  | .a n => w.g.a[n]
  | .lane => ⟨0, 1⟩
  | .lit64 x => ⟨x, 0⟩
  | .latch => match w.sl.latch with
    | some (.a x) => x
    | some (.s x) => Affine.ofS x
    | _ => ⟨0, 0⟩
  | x => Affine.ofS (w.sval x)

/-- Lane i of an operand in the V datapath (R187, R279). -/
def View.lane (w : View) (x : Opnd) (i : Fin 32) : Word :=
  match x with
  | .v n => w.g.v[n][i]
  | .a n => (w.g.a[n].at i.val).setWidth 32
  | .lane => BitVec.ofNat 32 i.val
  | .ray => w.g.handle[i]
  | .latch => match w.sl.latch with
    | some l => l.lane i
    | none => 0
  | x => w.sval x

/-- All lanes of an operand in the V datapath. -/
def View.lanes (w : View) (x : Opnd) : Lanes := Vector.ofFn (w.lane x)

/-! ## What an instruction names -/

/-- The kinds of instruction that the roles tell apart (R193). -/
inductive Kind where
  /-- any role may issue it, a `cpy` group if it names no V register and no predicate -/
  | plain
  /-- copy commands -/
  | copy
  /-- major 0x3D -/
  | ray
  /-- `brv` -/
  | brv
  /-- `mstart` and `mcfg` -/
  | seqCtl
  /-- `accld` and `acczero` -/
  | tile
  /-- stage-barrier instructions -/
  | stage
  deriving DecidableEq, Repr

/-- What an instruction names, for the checks of R192 and the scoreboard. -/
structure Form where
  /-- bytes of the word and its literals (R271) -/
  len : Nat
  /-- the run-end bit -/
  e : Bool
  srcs : List Opnd := []
  preds : List Pred := []
  /-- registers written at issue or by the result, runs in full -/
  dsts : List Opnd := []
  /-- registers that an engine or a transaction writes at completion: tokens and statuses, which R191 exempts -/
  toks : List Opnd := []
  pdst : Option Pred := none
  /-- registers read or written without being named: v126 and v127 (R355, R359) -/
  impl : List RegId := []
  /-- the predicate of a `grd` word, which is read later (R291) -/
  guardOf : Option Pred := none
  kind : Kind := .plain
  /-- arrives at a barrier: R191 raises 0x15 -/
  barrier : Bool := false
  /-- ends the run whatever E (R197) -/
  ends : Bool := false
  /-- makes an access or a command: what a fence holds back (R119) -/
  access : Bool := false

/-- The length of an instruction with the given operands (R271). -/
def opLen (xs : List Opnd) : Nat := 4 + (xs.map Opnd.litBytes).sum

/-- The registers that an instruction reads. -/
def Form.reads (f : Form) (hm : Bool) : List RegId :=
  f.impl ++ f.srcs.filterMap (regOf hm) ++ f.preds.filterMap (fun p => match p with
    | .p n => some (.p n)
    | _ => none)

/-- The registers that an instruction writes. -/
def Form.writes (f : Form) (hm : Bool) : List RegId :=
  f.impl ++ (f.dsts ++ f.toks).filterMap (regOf hm) ++ (match f.pdst with
    | some (.p n) => [.p n]
    | _ => [])

/-- Whether an instruction names a V register or a predicate register (R193). -/
def Form.namesV (f : Form) : Bool :=
  (f.srcs ++ f.dsts ++ f.toks).any (fun x => match x with
    | .v _ => true
    | _ => false) ||
  (f.preds ++ f.guardOf.toList).any (fun p => match p with
    | .p _ => true
    | _ => false) || f.pdst.isSome

/-- The role check (R193). -/
def roleOk (role : Role) (mx : Bool) (f : Form) : Bool :=
  let needsMx := f.kind == .seqCtl || f.kind == .tile || f.kind == .stage
  (!needsMx || mx) &&
  match role with
  | .gen => true
  | .vec => !(f.kind == .copy || f.kind == .seqCtl)
  | .cpy => !(f.namesV || f.kind == .brv || f.kind == .ray || f.kind == .seqCtl || f.kind == .tile)

/-- An S or A destination that R191 guards: not a shadow register. (DEDUCED, log 31.) -/
def uniformDst (hm : Bool) (x : Opnd) : Bool :=
  match regOf hm x with
  | some (.s _) => true
  | some (.a _) => true
  | _ => false

/-! ## The gate -/

/-- What stands between an instruction and its effect. -/
inductive Gate where
  /-- no such group, or it may not issue -/
  | shut
  /-- a deferred cause is delivered in its place (R448) -/
  | deliver (w : View) (c : Cause)
  /-- a cause is raised before it issues: a breakpoint (R464) or a failed check (R192) -/
  | raise (w : View) (c : Cause)
  /-- the run is cut and the slot waits for registers (R198) -/
  | cut (w : View) (rs : List RegId)
  /-- the run stalls in place until fixed-latency writes arrive (R198) -/
  | stall (w : View) (rs : List RegId)
  /-- the instruction issues -/
  | go (w : View)
  deriving DecidableEq, Repr

/-- Whether agents of a context may still start work: no halt line has arrived (R450). -/
def Ctx.runs (c : Ctx) : Bool := c.halt == .running || c.halt == .raised

/-- The view of the issuing group, its guard resolved (R291). -/
def State.view? (s : State) : Option View :=
  match s.group? s.cur, s.block? s.cur.block with
  | some g, some b =>
    match s.ctx? b.asid, s.launch? b.launch with
    | some c, some l =>
      let x := g.slot s.curSlot
      let gm := match x.gpend with
        | some (p, neg) => if neg then ~~~(g.predMask p) else g.predMask p
        | none => x.gmask
      let x := { x with gmask := if x.gleft = 0 then 0 else gm }
      some { s := s, k := s.cur, n := s.curSlot, g := g, sl := x, b := b, c := c, l := l,
             act := if x.gleft = 0 then x.mask else x.mask &&& gm }
    | _, _ => none
  | _, _ => none

/-- Whether a group's slot may issue at all (R194, R450, R463): not while an entry waits for a pop (R448). -/
def View.open (w : View) : Bool :=
  w.sl.st == .ready && (w.g.hm || w.g.entering.isNone || !w.s.popBusy w.k) && !w.g.stopped && !w.g.ended && w.c.runs && w.b.st == .resident

/-- The lowest breakpoint that matches the instruction of a slot (R464). -/
def View.breakpoint (w : View) : Option Nat :=
  if w.g.hm || w.sl.bpSkip then none
  else
    let a := w.s.asidInfo w.b.asid
    (List.range 16).find? (fun b =>
      let hi := a.reg (4 * b + 1)
      bitAt hi 31 && w.sl.pc.toNat == a.reg (4 * b) + bitsAt hi 0 22 * 2 ^ 32 &&
      (!bitAt hi 30 || a.reg (4 * b + 2) == w.g.gid.toNat) &&
      (a.reg (4 * b + 3) == 0 || (BitVec.ofNat 32 (a.reg (4 * b + 3)) &&& w.act) != 0))

/-- The registers of a list that are pending, with variable latency or with fixed (R198). -/
def Group.pendingOf (g : Group) (fixed : Bool) (rs : List RegId) : List RegId :=
  rs.filter (fun r => g.pend.any (fun p => p.reg == r && (p.kind == .fixed) == fixed))

/-- The cause that this boundary delivers: that of an entry that had to wait, else the oldest deferred one (R448); a step trap belongs
to its own slot (R465). (DEDUCED, log 18; DEDUCED, log 40; DEDUCED, log 109.) -/
def View.dueCause (w : View) : Option Cause :=
  if w.g.hm then none else w.g.entering.or <| w.g.deferred.find? (fun c => c.code != 3 || c.slot == w.n)

/-- Whether a fence of the group has not completed yet (R119). -/
def View.fenced (w : View) : Bool :=
  w.s.ops.any (fun o => o.gk == w.k && (match o.body with
    | .fence _ => true
    | _ => false))

/-- The predicate that a slot's guard has still to read (R291). -/
def Slot.guardRegs (x : Slot) : List RegId :=
  match x.gpend with
  | some (.p p, _) => [.p p]
  | _ => []

/-- Everything between the choice of a slot and the effect of its instruction, in the order of R192: `bad` is a further
illegal-encoding check, `clsBad` the class check of the instruction. -/
def State.gate (s : State) (f : Form) (bad clsBad : View → Bool) : Gate :=
  match s.view? with
  | none => .shut
  | some w =>
    if !w.open then .shut
    else match w.dueCause with
    | some c => .deliver w c
    | none =>
      let gp := w.sl.guardRegs
      let wait0 := w.g.pendingOf false gp
      if wait0 ≠ [] then .cut w wait0
      else match (if f.guardOf.isSome then none else w.breakpoint) with
      | some b => .raise w { code := 1, sub := b, tval := 0, slot := w.n }
      | none =>
        let all := f.srcs ++ f.dsts ++ f.toks
        if all.any (fun x => !w.g.hasOpnd x) || bad w then .raise w (.plain 0x10 w.n)
        else if !roleOk w.g.role w.b.mx f then .raise w (.plain 0x18 w.n)
        else if clsBad w then .raise w (.plain 0x11 w.n)
        else
          let reads := f.reads w.g.hm ++ gp
          let slow := w.g.pendingOf false (reads ++ f.writes w.g.hm)
          if slow ≠ [] then .cut w slow
          else if f.srcs.contains .latch && w.sl.latch.isNone then .raise w (.plain 0x12 w.n)
          else if f.dsts.any (uniformDst w.g.hm) && w.act ≠ w.g.emask then .raise w (.plain 0x13 w.n)
          else if f.barrier && w.act ≠ w.g.emask then .raise w (.plain 0x15 w.n)
          else
            let quick := w.g.pendingOf true reads
            if quick ≠ [] || (f.access && w.fenced) then .stall w quick else .go w

/-! ## Issue -/

/-- Where a slot goes after an instruction. -/
inductive Flow where
  /-- the next instruction in memory -/
  | fall
  /-- a taken branch (R197) -/
  | jump (pc : DWord)
  /-- the slot waits at the instruction -/
  | stay (r : WaitReason)
  /-- the meaning has placed the slots itself; with a code, the run ends (R474) -/
  | placed (why : Option Nat)
  deriving DecidableEq, Repr

/-- What an instruction does once it issues: the group it leaves (the slots as `flow` says), the latch, the rest of the
machine, and a trap that follows it (R467). -/
structure Done where
  g : Group
  flow : Flow := .fall
  latch : Option LatchVal := none
  post : State → State := id
  after : Option Cause := none

/-- The outcome of a meaning: done, a cause raised at the instruction with nothing changed, or a wait. -/
inductive Res where
  | done (d : Done)
  | raise (c : Cause)
  /-- a cause raised after a change that stands: lanes switched off (R33) -/
  | raiseAfter (f : State → State) (c : Cause)
  | fault (f : XFault) (va : DWord) (acc : Acc) (lanes : Mask)
  | walk (va : DWord)
  | wait (r : WaitReason)
  /-- the run stalls in place: earlier local-store accesses come first (R149) -/
  | hold
  /-- the run stalls in place, after a change that stands: the peer is asked for a line (R70, R480) -/
  | ask (f : State → State)

/-- The core's run in progress as the issuing slot finds it: its instruction count, 0 when the slot starts a run. -/
def State.runCount (s : State) (core : Nat) (k : GroupKey) (n : Nat) : Nat :=
  match s.runs.find? (fun r => r.core == core) with
  | some r => if r.gk = k ∧ r.slot = n then r.count else 0
  | none => 0

/-- The issuing slot with its guard fixed (R291), its wait ages reset and its marks cleared (R440, R464). -/
def View.issued (w : View) : Slot :=
  { w.sl with gpend := none, age := 0, yielded := false, bpSkip := false, turned := false, lastIssue := w.s.turn }

/-- Place the issuing slot as the flow says (R197, R292). -/
def Flow.apply (fl : Flow) (w : View) (len : Nat) (latch : Option LatchVal) (g : Group) : Group :=
  match fl with
  | .fall => g.setSlot w.n { w.issued.consume with pc := w.sl.pc + BitVec.ofNat 64 len, latch := latch }
  | .jump pc => g.setSlot w.n
      { w.issued.noGuard with pc := pc &&& ~~~1#64, st := .wait, wait := some .refill, latch := none }
  | .stay r => g.setSlot w.n { w.issued with st := .wait, wait := some r, latch := none }
  | .placed _ => g

/-- Whether the flow ends the run by itself, with the reason code of R474. -/
def Flow.why : Flow → Option Nat
  | .fall => none
  | .jump _ => some 2
  | .stay _ => some 3
  | .placed y => y

/-- Whether the instruction has completed: a slot that stays has not (R279). -/
def Flow.counts : Flow → Bool
  | .stay _ => false
  | _ => true

/-- Note an instruction in the run in progress on its core (R197) and in the trace of its group (R474). -/
def State.noteIssue (s : State) (w : View) : State :=
  let n := s.runCount w.g.core w.k w.n + 1
  let runs := { core := w.g.core, gk := w.k, slot := w.n, count := n : CoreRun } :: s.runs.filter (fun r => !(r.core == w.g.core))
  let traces := s.traces.map (fun t =>
    if t.gk = w.k then
      (if t.count = 0 then { t with slot := w.n, count := 1, pc := w.sl.pc, mask := w.sl.mask, clk := Config.deviceClk s.clk }
       else { t with count := t.count + 1 })
    else t)
  { s with runs := runs, traces := traces, turn := s.turn + 1, lastIssue := some (w.k, w.sl.pc, s.clk) }

/-- The trap that follows a completed instruction (R465 to R467): a watchpoint, which absorbs a step trap, or the step.
(DEDUCED, log 18.) -/
def View.trapAfter (w : View) (d : Done) : Option Cause :=
  match d.after with
  | some c => some { c with sub := if c.code = 2 && w.g.sstep then c.sub + 8 else c.sub }
  | none => if w.g.sstep && !w.g.hm && d.flow.counts then some (.plain 3 w.n) else none

/-- Deliver the trap that follows an instruction: at once when the slot is Ready, else at its next boundary (R465); where the entry
has to wait for a pop, as soon as that completes (R448). (DEDUCED, log 18.) (DEDUCED, log 109.) -/
def State.trapNow (s : State) (k : GroupKey) (asid : Nat) (n : Nat) (c : Cause) : State :=
  match s.group? k with
  | some g =>
    if (g.slot n).st = .ready || c.code ≠ 3 then
      (if s.entryHeld k asid c then s.holdEntry k c else s.raise k asid c).endRun g.core k n (s.causeEnd k asid c)
    else s.modGroup k (fun g => { g with deferred := g.deferred ++ [c] })
  | none => s

/-- The effect of an instruction on the state, its slot placed, the count of completed instructions advanced (R279), its
run noted and ended where R197 ends it. -/
def State.commit (s : State) (w : View) (f : Form) (d : Done) : State :=
  let g := d.flow.apply w f.len d.latch d.g
  let g := if d.flow.counts then { g with icnt := g.icnt + 1 } else g
  let s := (s.putGroup w.k g).noteIssue w
  let s := d.post { s with fails := s.fails.filter (fun x => !(x.gk == w.k && x.slot == w.n)) }
  let count := s.runCount w.g.core w.k w.n
  let why := match d.flow.why with
    | some y => some y
    | none => if f.ends then some 3 else if f.e then some 0 else if count = 24 then some 1 else none
  let s := match why with
    | some y => s.endRun w.g.core w.k w.n y
    | none => s
  match w.trapAfter d with
  | some c => s.trapNow w.k w.b.asid w.n c
  | none => s

/-- The slot waits; its run is cut and its latch is invalid (R198). -/
def State.cutRun (s : State) (w : View) (r : WaitReason) : State :=
  let s := s.modSlot w.k w.n (fun x => { x with st := .wait, wait := some r, latch := none, gmask := x.gmask })
  s.endRun w.g.core w.k w.n 4

/-- A cause found at issue or during execution: the instruction is not performed, and the guard it met is fixed. Where the entry
has to wait for a pop, it follows as soon as that completes (R448). (DEDUCED, log 109.) -/
def State.raiseAt (s : State) (w : View) (c : Cause) : State :=
  let s := s.modSlot w.k w.n (fun x => { x with gpend := none, gmask := w.sl.gmask, latch := none })
  (if s.entryHeld w.k w.b.asid c then s.holdEntry w.k c else s.raise w.k w.b.asid c).endRun w.g.core w.k w.n (s.causeEnd w.k w.b.asid c)

/-- A deferred cause at a boundary of a slot: a double resolve goes to the slot that issued the `fres`, where it is live
(R394). -/
def Group.delivered (g : Group) (n : Nat) (c : Cause) : Cause :=
  { c with slot := if c.code = 0x19 && (g.slot c.slot).st.live then c.slot else n }

/-- Make an entry that had to wait: the slots are saved as they stand, the popping one behind its `tq.pop` (R448).
(DEDUCED, log 109.) -/
def State.enterNow (s : State) (k : GroupKey) (asid core : Nat) (c : Cause) : State :=
  ((s.modGroup k (fun g => { g with entering := none })).raise k asid c).endRun core k c.slot (s.causeEnd k asid c)

/-- Deliver at an instruction boundary the cause of an entry that had to wait, or the oldest deferred cause (R448). -/
def State.deliver (s : State) (w : View) (c : Cause) : State :=
  if w.g.entering = some c then s.enterNow w.k w.b.asid w.g.core c
  else (s.modGroup w.k (fun g => { g with deferred := g.deferred.erase c })).raiseAt w (w.g.delivered w.n c)

/-- A core's translation fault: the record with its lanes, and the halt (R37 to R39). -/
def State.coreFault (s : State) (w : View) (f : XFault) (va : DWord) (acc : Acc) (lanes : Mask) : State :=
  let part := partOfCluster (clusterOfCore w.g.core)
  let corr := w.l.corr
  let s := if f.cause = 0x25 then s.modCtx w.b.asid (fun c => { c with linkFault := true })
    else if f.cause = 0x23 then s.softRecord w.b.asid f.sub f.ent.toNat w.g.core corr lanes
    else s.faultRecord w.b.asid f va acc w.g.hm part w.g.core corr lanes w.c.vfn
  let s := { s with fails := s.fails.filter (fun x => !(x.gk == w.k && x.slot == w.n)) }
  s.raiseAt w { code := f.cause, sub := f.sub, tval := 0, slot := w.n }

/-- The walks of a partition, each request that joined one left out (R35). -/
def State.walksOf (s : State) (part : Nat) : List Walk := s.walks.filter (fun x => x.part == part && x.lead.isNone)

/-- Walks of a partition that run or wait in its miss queue: 32 and 256 (R35). -/
def walkLimit : Nat := 288

/-- Ask for a walk of a page: a request for the same leaf-table line joins the walk in flight; with the miss queue full the slot
waits for room (R34, R35). (DEDUCED, log 24.) -/
def State.askWalk (s : State) (w : View) (va : DWord) : State :=
  let part := partOfCluster (clusterOfCore w.g.core)
  let lead := ((s.walksOf part).find? (fun x => x.asid == w.b.asid && x.va.toNat / 2 ^ 20 == va.toNat / 2 ^ 20)).map (·.id)
  let full := lead.isNone && walkLimit ≤ (s.walksOf part).length
  let walk : Walk := { id := s.ids, asid := w.b.asid, va := va, part := part, core := w.g.core, gk := w.k, slot := w.n, lead := lead }
  (if full then s else { s with walks := s.walks ++ [walk], ids := s.ids + 1 }).modSlot w.k w.n
    (fun x => { x with st := .wait, wait := some (if full then .walkRoom else .walk), latch := none })

/-- The run that a stall in place begins or goes on with: the core issues nothing else (R441). -/
def State.holdRun (s : State) (w : View) : State :=
  if s.runs.any (fun r => r.core == w.g.core && r.gk == w.k && r.slot == w.n) then s
  else { s with runs := { core := w.g.core, gk := w.k, slot := w.n, count := 0 } :: s.runs.filter (fun r => !(r.core == w.g.core)) }

/-- The acquire that the first instruction to read a token makes (R128): the core's L1 goes; a token that is written over is
not read; without an active lane nothing is written over (R388). (DEDUCED, log 43.) -/
def View.acquired (w : View) (f : Form) : View :=
  if w.g.tokNew = [] then w
  else
    let reads := f.reads w.g.hm
    let written := if w.act = 0 then [] else f.writes w.g.hm
    let left := w.g.tokNew.filter (fun r => !(reads.contains r || written.contains r))
    let s := w.s.modGroup w.k (fun g => { g with tokNew := left })
    { w with g := { w.g with tokNew := left },
             s := if w.g.tokNew.any (fun r => reads.contains r) then s.l1Drop (fun l => l.core == w.g.core) else s }

/-- Go through the gate and do one thing behind it. -/
def State.through (s : State) (f : Form) (bad clsBad : View → Bool) (go : View → State) : State :=
  match s.gate f bad clsBad with
  | .shut => s
  | .deliver w c => s.deliver w c
  | .raise w c => s.raiseAt w c
  | .cut w rs => s.cutRun w (.regs rs)
  | .stall w rs =>
    (s.holdRun w).modGroup w.k (fun g => { g with pend := g.pend.filter (fun p => !(p.kind == .fixed && rs.contains p.reg)) })
  | .go w => go (w.acquired f)

/-- What the result of a meaning does to the state. (DEDUCED, log 22.) -/
def State.settle (s : State) (w : View) (f : Form) : Res → State
  | .done d => s.commit w f d
  | .raise c => s.raiseAt w c
  | .raiseAfter f c => (f s).raiseAt w c
  | .fault x va acc lanes => s.coreFault w x va acc lanes
  | .walk va => (s.askWalk w va).endRun w.g.core w.k w.n 4
  | .wait r => s.cutRun w r
  | .hold => s.holdRun w
  | .ask f => (f s).holdRun w

/-- Issue one instruction of a group: every group instruction's meaning is this operation applied to what it names and
what it does. -/
def State.issue (s : State) (f : Form) (bad clsBad : View → Bool) (body : View → Res) : State :=
  s.through f bad clsBad (fun w => w.s.settle w f (body w))

/-- No further check. -/
def noCheck : View → Bool := fun _ => false

/-- The class rule of R188 for a destination and its sources; `aOk` says whether an A destination is legal here.
(DEDUCED, log 31.) -/
def View.clsRule (w : View) (d : Opnd) (xs : List Opnd) (aOk : Bool) : Bool :=
  match d with
  | .s _ => xs.all (w.atMost .s)
  | .a _ => aOk && xs.all (w.atMost .a)
  | _ => true

/-! ## Writing results -/

/-- The pending mark of a fixed-latency result (R198). (DEDUCED, log 16.) -/
def Group.markFixed (g : Group) (r : RegId) : Group :=
  { g with pend := g.pend.filter (fun p => !(p.reg == r)) ++ [{ reg := r, kind := .fixed, op := 0, far := false }] }

/-- Mark registers as pending from a piece of work (R198, R387). -/
def Group.markOp (g : Group) (rs : List RegId) (kind : PendKind) (op : Nat) (far : Bool) : Group :=
  { g with pend := g.pend ++ rs.map (fun r => { reg := r, kind := kind, op := op, far := far : Pending }) }

/-- Write the active lanes of a V register (R306). -/
def View.putV (w : View) (g : Group) (n : Fin 128) (l : Lanes) : Group :=
  (g.writeReg ⟨.v n, w.act, .v l⟩).markFixed (.v n)

/-- Write an S register, or a shadow register in handler mode (R365). -/
def View.putS (_w : View) (g : Group) (n : Fin 64) (x : Word) : Group :=
  if h : g.hm = true ∧ 56 ≤ n.val then (g.writeReg ⟨.k ⟨n.val - 56, by omega⟩, 0, .s x⟩).markFixed (.k ⟨n.val - 56, by omega⟩)
  else (g.writeReg ⟨.s n, 0, .s x⟩).markFixed (.s n)

/-- Write an A register. -/
def View.putA (_w : View) (g : Group) (n : Fin 32) (x : Affine) : Group := (g.writeReg ⟨.a n, 0, .a x⟩).markFixed (.a n)

/-- Done, with a V result: the latch holds the whole register, kept lanes included (R199, R308). (DEDUCED, log 16.) -/
def View.doneV (w : View) (n : Fin 128) (l : Lanes) : Done :=
  let g := w.putV w.g n l
  { g := g, latch := some (.v g.v[n]) }

/-- Done, with an S result. -/
def View.doneS (w : View) (n : Fin 64) (x : Word) : Done := { g := w.putS w.g n x, latch := some (.s x) }

/-- Done, with an A result. -/
def View.doneA (w : View) (n : Fin 32) (x : Affine) : Done := { g := w.putA w.g n x, latch := some (.a x) }

/-- Done, with nothing written: the latch is invalid for the next instruction (R199). -/
def View.doneNone (w : View) : Done := { g := w.g }

/-- Write predicate bits in the active lanes (R186). -/
def View.doneP (w : View) (p : Pred) (m : Mask) : Done :=
  match p with
  | .p n => { g := (w.g.writeReg ⟨.p n, w.act, .s m⟩).markFixed (.p n) }
  | _ => { g := w.g }

/-- A result that reaches its registers later, by its own event (R198). -/
def View.later (w : View) (g : Group) (kind : VarKind) (ws : List RegWrite) : Done :=
  { g := g.markOp (ws.map (·.reg)) .var w.s.ids false, post := fun s => s.addOp w.k w.n (.regs kind ws) }

/-- The register writes that a value per lane, or one value, makes to a destination. -/
def View.resultFor (w : View) (d : Opnd) (vs : Fin 32 → Word) (x : Word) : List RegWrite :=
  match d, regOf w.g.hm d with
  | .v n, _ => [⟨.v n, w.act, .v (Vector.ofFn vs)⟩]
  | _, some r => [⟨r, 0, .s x⟩]
  | _, none => []

/-- The predicate that sends every instruction of a kind through in the state: it issues and meets no check. -/
def State.ready (s : State) (f : Form) (bad clsBad : View → Bool) : Bool :=
  match s.gate f bad clsBad with
  | .go _ => true
  | _ => false

end Sys2Proof.Machine
end

