-- ==== Sys2Proof/Machine/Control.lean ====
section
/-! DEFINITION. Control instructions: branches, divergence, barriers, traps, the status and debug registers, fences and
waits (R119, R195, R290, R355 to R373, R386, R398). -/
namespace Sys2Proof.Machine

/-! ## Shared operations -/

/-- A check that holds in handler mode: what R361 and R357 refuse there. -/
def View.inHandler (w : View) : Bool := w.g.hm

/-- The trap of a pop that finds the stack empty and entries in the spill area (R195). -/
def Group.refillTrap (g : Group) (n : Nat) : Option Cause := if g.sd = 0 && g.sc ≠ 0 then some (.plain 5 n) else none

/-- A slot that goes on behind its instruction without a guard. -/
def Slot.goOn (x : Slot) (pc : DWord) : Slot := { x.noGuard with pc := pc, st := .ready, wait := none, latch := none }

/-- The slots once slot `n` has lost its last lane (R195): a sibling at its `join` goes on, and a Free slot pops. -/
def Group.freed (g : Group) (n : Nat) : Group × Option Cause :=
  let g := g.setSlot n Slot.free
  let o := g.slot (sib n)
  match o.st with
  | .join => ((g.setSlot (sib n) (o.goOn (o.pc + 4))).popInto n, g.refillTrap n)
  | .free => (g.popInto n, g.refillTrap n)
  | _ => (g, none)

/-- Lanes leave the masks that a handler holds aside (R33, R190). -/
def Group.leaveSaved (g : Group) (x : Mask) : Group :=
  if g.hm then
    { g with save0 := { g.save0 with mask := g.save0.mask &&& ~~~x }, save1 := { g.save1 with mask := g.save1.mask &&& ~~~x },
             stack := g.stack.map (fun e => { e with mask := e.mask &&& ~~~x }) }
  else g

/-- Lanes leave the entry mask and the acting slot (R195, R33); `next` is the slot behind the instruction. -/
def Group.leave (g : Group) (n : Nat) (x : Mask) (next : Slot) : Group × Option Cause :=
  let g := { g with emask := g.emask &&& ~~~x }.leaveSaved x
  let m := next.mask &&& ~~~x
  if m = 0 then (if g.emask = 0 then (g.setSlot n Slot.free, none) else g.freed n)
  else (g.setSlot n { next with mask := m }, none)

/-- The issuing slot behind an instruction of a length, its guard consumed. -/
def View.behind (w : View) (len : Nat) (latch : Option LatchVal) : Slot :=
  { w.issued.consume with pc := w.sl.pc + BitVec.ofNat 64 len, latch := latch }

/-- `call` and `call.i` write the return address into v126 and v127 of every lane of the slot (R355). -/
def View.link (w : View) (ret : DWord) : Group :=
  let put := fun (g : Group) (n : Fin 128) (x : Word) => (g.writeReg ⟨.v n, w.sl.mask, .s x⟩).markFixed (.v n)
  put (put w.g 126 (ret.setWidth 32)) 127 ((ret >>> 32).setWidth 32)

/-- The registers that hold a return address. -/
def linkRegs : List RegId := [.v 126, .v 127]

/-- The target of a branch with a displacement in halfwords (R277). -/
def View.target (w : View) (disp : DWord) : DWord := w.sl.pc + 2 * disp

/-! ## `nop`, `exit`, `join`, `yield` (R360 to R362) -/

/-- `nop` (R360). -/
def execNop (e : Bool) (s : State) : Host.Outcome State Fault Refusal :=
  .next (s.issue { len := 4, e := e } noCheck noCheck (fun w => .done w.doneNone))

/-- `exit` (R361, R195). -/
def execExit (e : Bool) (s : State) : Host.Outcome State Fault Refusal :=
  .next (s.issue { len := 4, e := e, ends := true } View.inHandler noCheck (fun w =>
    if w.act = 0 then .done w.doneNone
    else
      let r := w.g.leave w.n w.act (w.behind 4 none)
      .done { g := r.1, flow := .placed (some 3), after := r.2, post := fun s => (s.retireLanes w.k w.act).endIfEmpty w.k 3 }))

/-- `join` (R195). -/
def execJoin (e : Bool) (s : State) : Host.Outcome State Fault Refusal :=
  .next (s.issue { len := 4, e := e, ends := true } View.inHandler noCheck (fun w =>
    let o := w.g.slot (sib w.n)
    match o.st with
    | .free => .done { g := w.g.popInto (sib w.n), after := w.g.refillTrap w.n }
    | .join =>
      if o.pc = w.sl.pc then
        let one := (Slot.readyAt (w.sl.pc + 4) (w.sl.mask ||| o.mask))
        let g := ({ w.g with slot0 := { one with lastIssue := w.s.turn }, slot1 := Slot.free }).popInto 1
        .done { g := g, flow := .placed (some 3), after := w.g.refillTrap w.n }
      else .raise (.plain 0x16 w.n)
    | _ => .done { g := w.g.setSlot w.n { w.issued.noGuard with st := .join, latch := none }, flow := .placed (some 3) }))

/-- `yield` (R362). -/
def execYield (e : Bool) (s : State) : Host.Outcome State Fault Refusal :=
  .next (s.issue { len := 4, e := e, ends := true } noCheck noCheck (fun w =>
    .done { g := w.g, post := fun s => s.modSlot w.k w.n (fun x => { x with yielded := true, age := 0 }) }))

/-! ## Branches (R355 to R359) -/

/-- `bra` (R355). -/
def execBra (e : Bool) (disp : BitVec 23) (s : State) : Host.Outcome State Fault Refusal :=
  .next (s.issue { len := 4, e := e } noCheck noCheck (fun w =>
    .done { g := w.g, flow := .jump (w.target (disp.signExtend 64)) }))

/-- `call` (R355). -/
def execCall (e : Bool) (disp : BitVec 23) (s : State) : Host.Outcome State Fault Refusal :=
  .next (s.issue { len := 4, e := e, impl := linkRegs } noCheck noCheck (fun w =>
    .done { g := w.link (w.sl.pc + 4), flow := .jump (w.target (disp.signExtend 64)) }))

/-- `brs` (R356): taken when `t` holds of S[SI]. -/
def State.brs (s : State) (e : Bool) (si : Fin 64) (disp : BitVec 16) (t : Word → Bool) : State :=
  s.issue { len := 4, e := e, srcs := [.s si] } noCheck noCheck (fun w =>
    .done { g := w.g, flow := if t (w.sval (.s si)) then .jump (w.target (disp.signExtend 64)) else .fall })

/-- `brs.z` (R356). -/
def execBrsZ (e : Bool) (si : Fin 64) (disp : BitVec 16) (s : State) : Host.Outcome State Fault Refusal :=
  .next (s.brs e si disp (fun x => x == 0))

/-- `brs.nz` (R356). -/
def execBrsNz (e : Bool) (si : Fin 64) (disp : BitVec 16) (s : State) : Host.Outcome State Fault Refusal :=
  .next (s.brs e si disp (fun x => x != 0))

/-- The group after a mixed `brv` (R195): the sibling takes the target, pushed first where it is live. -/
def View.split (w : View) (t : Mask) (target : DWord) : Group :=
  let o := w.g.slot (sib w.n)
  let stay : Slot := { w.issued.noGuard with pc := w.sl.pc + 4, mask := w.sl.mask &&& ~~~t, latch := none }
  let go : Slot := { Slot.readyAt (target &&& ~~~1#64) t with st := .wait, wait := some .refill }
  let g := if h : o.st.live = true ∧ w.g.sd < 16 then
      { w.g with stack := w.g.stack.set w.g.sd ⟨o.pc, o.mask⟩ h.2, sd := w.g.sd + 1 }
    else w.g
  (g.setSlot w.n stay).setSlot (sib w.n) go

/-- `brv` (R357, R195). -/
def execBrv (e : Bool) (pr : Pred) (sns : Bool) (disp : BitVec 16) (s : State) : Host.Outcome State Fault Refusal :=
  .next (s.issue { len := 4, e := e, preds := [pr], kind := .brv } View.inHandler noCheck (fun w =>
    let p := w.g.predMask pr
    let t := w.act &&& (if sns then ~~~p else p)
    let target := w.target (disp.signExtend 64)
    if t = w.sl.mask then .done { g := w.g, flow := .jump target }
    else if t = 0 then .done w.doneNone
    else if (w.g.slot (sib w.n)).st.live && 16 ≤ w.g.sd then .raise (.plain 4 w.n)
    else .done { g := w.split t target, flow := .placed (some 2) }))

/-- The target of `call.i` and `jmp.i` (R358). -/
def View.indirect (w : View) : Opnd → DWord
  | .a n => (w.g.a[n]).base
  | .lit64 x => x
  | x => (match opndPlus x 1 with
    | some y => w.sval y
    | none => 0) ++ w.sval x

/-- What `call.i` and `jmp.i` read (R358). -/
def indirectSrcs (x : Opnd) : List Opnd :=
  match x with
  | .s _ => opndRun x 2
  | _ => [x]

/-- An X code that is neither a register nor a literal64, or a pair that leaves the S registers (R358). -/
def badTarget : Opnd → Bool
  | .s n => n.val == 63
  | .a _ => false
  | .v _ => false
  | .lit64 _ => false
  | _ => true

/-- A V source. -/
def isV : Opnd → Bool
  | .v _ => true
  | _ => false

/-- `call.i` (R358). -/
def execCallI (e : Bool) (x : Opnd) (s : State) : Host.Outcome State Fault Refusal :=
  .next (s.issue { len := opLen [x], e := e, srcs := indirectSrcs x, impl := linkRegs } (fun _ => badTarget x)
    (fun _ => isV x) (fun w =>
      .done { g := w.link (w.sl.pc + BitVec.ofNat 64 (opLen [x])), flow := .jump (w.indirect x) }))

/-- `jmp.i` (R358). -/
def execJmpI (e : Bool) (x : Opnd) (s : State) : Host.Outcome State Fault Refusal :=
  .next (s.issue { len := opLen [x], e := e, srcs := indirectSrcs x } (fun _ => badTarget x) (fun _ => isV x) (fun w =>
    .done { g := w.g, flow := .jump (w.indirect x) }))

/-- The return address that a lane holds (R359). -/
def Group.retAddr (g : Group) (i : Fin 32) : DWord := g.v[127][i] ++ g.v[126][i]

/-- `ret` (R359). -/
def execRet (e : Bool) (s : State) : Host.Outcome State Fault Refusal :=
  .next (s.issue { len := 4, e := e, impl := linkRegs } noCheck noCheck (fun w =>
    match w.sl.mask.lanes with
    | [] => .done w.doneNone
    | i :: r =>
      if r.all (fun j => w.g.retAddr j == w.g.retAddr i) then .done { g := w.g, flow := .jump (w.g.retAddr i) }
      else .raise (.plain 0x17 w.n)))

/-! ## The block barrier (R363) -/

/-- A group arrives at the block barrier (R363). -/
def Block.arrive (b : Block) : Block := { b with barPend := b.barPend + 1 }.barTest

/-- `bar.blk` (R363): the group arrives, and its slot waits for the phase to change. -/
def execBarBlk (e : Bool) (s : State) : Host.Outcome State Fault Refusal :=
  .next (s.issue { len := 4, e := e, barrier := true, ends := true } View.inHandler noCheck (fun w =>
    .done { g := w.g, flow := .stay (.barBlk w.b.barPh), post := fun s => s.modBlock w.k.block Block.arrive }))

/-! ## Traps and the return from the handler (R364, R366) -/

/-- `trap` (R364). -/
def execTrap (e : Bool) (x : Opnd) (s : State) : Host.Outcome State Fault Refusal :=
  .next (s.issue { len := opLen [x], e := e, srcs := [x] } noCheck (fun w => !w.atMost .s x) (fun w =>
    if w.act = 0 then .done w.doneNone
    else .done { g := w.g, after := some { code := 6, sub := 0, tval := w.sval x, slot := w.n } }))

/-- `brk` (R364). -/
def execBrk (e : Bool) (s : State) : Host.Outcome State Fault Refusal :=
  .next (s.issue { len := 4, e := e } noCheck noCheck (fun w => .raise (.plain 7 w.n)))

/-- A Trapped sequencer goes on when the handler that its starter group entered for cause 0x1A returns (R245, R247). -/
def State.seqReturn (s : State) (w : View) : State :=
  if w.g.cause.extractLsb' 0 16 == 0x011A#16 then
    { s with seqs := s.seqs.map (fun (x : Sequencer) =>
        if x.blk = w.k.block ∧ x.starter = w.k ∧ x.st = SeqState.trapped then { x with st := .run } else x) }
  else s

/-- `rte` (R366): a check that fails is a double fault. -/
def execRte (e : Bool) (s : State) : Host.Outcome State Fault Refusal :=
  .next (s.issue { len := 4, e := e, ends := true } (fun w => !w.g.hm) noCheck (fun w =>
    if w.g.rteOk then .done { g := w.g.returned, flow := .placed (some 3), post := fun s => s.seqReturn w } else .raise (.plain 0 w.n)))

/-! ## Status registers (R367 to R369) -/

/-- The low or high part of a PC, the high one in bits 21:0 (R368). -/
def pcHigh (pc : DWord) : Word := (pc.extractLsb' 32 22).setWidth 32

/-- Replace the low half of a PC. -/
def withPcLow (pc : DWord) (x : Word) : DWord := pc.extractLsb' 32 32 ++ x

/-- Replace bits 53:32 of a PC; the upper bits are RsvdZ. -/
def withPcHigh (pc : DWord) (x : Word) : DWord := (x.extractLsb' 0 22).setWidth 32 ++ pc.extractLsb' 0 32

/-- The numbers that the map of R368 lists. -/
def srListed (n : Nat) : Bool :=
  n ≤ 2 || (4 ≤ n && n ≤ 0x12) || n == 0x14 || n == 0x15 || (0x18 ≤ n && n ≤ 0x1A) || (0x20 ≤ n && n ≤ 0x80)

/-- The registers of mode U (R368). -/
def srUser (n : Nat) : Bool := n == 0 || n == 0x18 || (0x60 ≤ n && n ≤ 0x80)

/-- A stack entry by number. -/
def Group.entry (g : Group) (n : Nat) : StackEntry := g.stack.toList.getD n ⟨0, 0⟩

/-- Change a stack entry. -/
def Group.setEntry (g : Group) (n : Nat) (f : StackEntry → StackEntry) : Group :=
  if h : n < 16 then { g with stack := g.stack.set n (f g.stack[n]) h } else g

/-- A register of a saved slot by its place in the map: PC low and high, mask, state, guard mask. -/
def SavedSlot.reg (x : SavedSlot) : Nat → Word
  | 0 => x.pc.setWidth 32
  | 1 => pcHigh x.pc
  | 2 => x.mask
  | 3 => x.stWord
  | _ => x.gmask

/-- A write of a register of a saved slot. -/
def SavedSlot.setReg (x : SavedSlot) (w : Word) : Nat → SavedSlot
  | 0 => { x with pc := withPcLow x.pc w }
  | 1 => { x with pc := withPcHigh x.pc w }
  | 2 => { x with mask := w }
  | 3 => x.withSt w
  | _ => { x with gmask := w }

/-- The value of a status register (R368). -/
def View.statusReg (w : View) (n : Nat) : Word :=
  let wall := if w.c.repro then 0#64 else Config.wallNs w.s.clk
  if n = 0 then w.g.gstat w.c.repro
  else if n = 1 then w.g.cause
  else if n = 2 then w.g.tval
  else if 4 ≤ n ∧ n ≤ 8 then w.g.save0.reg (n - 4)
  else if 9 ≤ n ∧ n ≤ 0xD then w.g.save1.reg (n - 9)
  else if n = 0xE then w.g.emask
  else if n = 0xF then w.g.lfmask
  else if n = 0x10 then dstkWord w.g.sd w.g.sc
  else if n = 0x11 then w.g.spill.setWidth 32
  else if n = 0x12 then w.g.spill.extractLsb' 32 32
  else if n = 0x14 then w.b.barWord
  else if n = 0x15 then BitVec.ofNat 32 w.b.nlive
  else if n = 0x18 then w.g.icnt.extractLsb' 32 32
  else if n = 0x19 then wall.setWidth 32
  else if n = 0x1A then wall.extractLsb' 32 32
  else if 0x20 ≤ n ∧ n < 0x30 then (w.g.entry (n - 0x20)).pc.setWidth 32
  else if 0x30 ≤ n ∧ n < 0x40 then pcHigh (w.g.entry (n - 0x30)).pc
  else if 0x40 ≤ n ∧ n < 0x50 then (w.g.entry (n - 0x40)).mask
  else if 0x50 ≤ n ∧ n < 0x60 then (w.b.sbar.toList.getD (n - 0x50) StageBar.reset).word
  else if 0x60 ≤ n ∧ n < 0x80 then w.g.rbp.toList.getD (n - 0x60) 0
  else w.g.rbt

/-- The group after a write of one of its own status registers; read-only fields keep their values (R367 to R369). -/
def Group.withStatus (g : Group) (n : Nat) (x : Word) : Group :=
  if n = 0 then { g with afx := x.getLsbD 0, sstep := if g.hm then x.getLsbD 2 else g.sstep }
  else if 4 ≤ n ∧ n ≤ 8 then { g with save0 := g.save0.setReg x (n - 4) }
  else if 9 ≤ n ∧ n ≤ 0xD then { g with save1 := g.save1.setReg x (n - 9) }
  else if n = 0x10 then { g with sd := (x.extractLsb' 0 5).toNat, sc := (x.extractLsb' 8 24).toNat }
  else if n = 0x11 then { g with spill := withPcLow g.spill x }
  else if n = 0x12 then { g with spill := x ++ g.spill.extractLsb' 0 32 }
  else if 0x20 ≤ n ∧ n < 0x30 then g.setEntry (n - 0x20) (fun e => { e with pc := withPcLow e.pc x })
  else if 0x30 ≤ n ∧ n < 0x40 then g.setEntry (n - 0x30) (fun e => { e with pc := withPcHigh e.pc x })
  else if 0x40 ≤ n ∧ n < 0x50 then g.setEntry (n - 0x40) (fun e => { e with mask := x })
  else g

/-- A write of BAR: PEND and PH, then the test of R363. -/
def Block.withBar (b : Block) (x : Word) : Block :=
  { b with barPend := (x.extractLsb' 0 6).toNat, barPh := x.getLsbD 8 }.barTest

/-- A write of SBARn (R369): a COUNT of 0 leaves COUNT unchanged; the phase completes where R264 says so. -/
def StageBar.withWord (y : StageBar) (x : Word) : StageBar :=
  let c := (x.extractLsb' 0 6).toNat
  StageBar.test { count := if c = 0 then y.count else c, pend := (x.extractLsb' 8 6).toNat, ph := x.getLsbD 16 }

/-- A write of a status register that the block shares: at once, for every group of the block (R367). -/
def State.withBlockStatus (s : State) (serial n : Nat) (x : Word) : State :=
  if n = 0x14 then s.modBlock serial (fun b => b.withBar x)
  else if h : 0x50 ≤ n ∧ n < 0x60 then
    (s.modBlock serial (fun b =>
      { b with sbar := b.sbar.set (n - 0x50) ((b.sbar[n - 0x50]'(by omega)).withWord x) (by omega) })).stageWake serial
  else s

/-- A status register that R367 does not allow here: not listed, or of mode H outside the handler. -/
def View.badStatus (w : View) (n : Nat) : Bool := !srListed n || !(w.g.hm || srUser n)

/-- The destination is an S register or a shadow register (R367). -/
def isS : Opnd → Bool
  | .s _ => true
  | _ => false

/-- `rdsr` (R367). -/
def execRdsr (e : Bool) (d : Opnd) (n : BitVec 8) (s : State) : Host.Outcome State Fault Refusal :=
  .next (s.issue { len := 4, e := e, dsts := [d] } (fun w => w.badStatus n.toNat) (fun _ => !isS d && d != .none) (fun w =>
    .done (w.later w.g .rdsr (w.resultFor d (fun _ => 0) (w.statusReg n.toNat)))))

/-- `wrsr` (R367). -/
def execWrsr (e : Bool) (n : BitVec 8) (x : Opnd) (s : State) : Host.Outcome State Fault Refusal :=
  .next (s.issue { len := opLen [x], e := e, srcs := [x] } (fun w => w.badStatus n.toNat) (fun w => !w.atMost .s x) (fun w =>
    .done { g := w.g.withStatus n.toNat (w.sval x), post := fun s => s.withBlockStatus w.k.block n.toNat (w.sval x) }))

/-! ## Debug registers (R370, R371, R470) -/

/-- The writable bits of a debug register (R371, R470). -/
def dbgMask (n : Nat) : Nat :=
  if n < 0x40 then (if n % 4 = 1 then 0xC03FFFFF else 0xFFFFFFFF)
  else if n < 0x80 then (if n % 8 = 4 then 0x8000000F else if n % 8 = 6 ∨ n % 8 = 7 then 0 else 0xFFFFFFFF)
  else if n = 0x80 then 0x3FFFF
  else if n = 0x81 ∨ n = 0x88 then 0xFFFFF003
  else if n = 0x82 ∨ n = 0x89 then 0xFFFFF
  else if n = 0x83 ∨ n = 0x8A then 0x1F
  else if n = 0x85 ∨ n = 0x8C ∨ n = 0x90 ∨ n = 0x91 then 0xFFFFFFFF
  else if n = 0x92 then 0x80000FFF
  else 0

/-- Whether a debug register may be written: SHEAD, THEAD and DDROP are read-only (R470). -/
def dbgWritable (n : Nat) : Bool := !(n == 0x84 || n == 0x8B || n == 0x98)

/-- A write of a debug register; an SK of 9 to 15 leaves SK unchanged (R470). -/
def AsidInfo.dbgWrite (a : AsidInfo) (n : Nat) (x : Word) : AsidInfo :=
  if !dbgWritable n then a
  else
    let v := (x &&& BitVec.ofNat 32 (dbgMask n)).toNat
    if n = 0x80 ∧ 8 < bitsAt v 1 4 then a.setReg n (v - 2 * bitsAt v 1 4 + 2 * bitsAt (a.reg n) 1 4) else a.setReg n v

/-- A debug register that `dsrd` and `dswr` may not name: every one is of mode H (R370). -/
def View.badDebug (w : View) (n : Nat) : Bool := 0xA0 ≤ n || !w.g.hm

/-- `dsrd` (R370). -/
def execDsrd (e : Bool) (d : Opnd) (n : BitVec 8) (s : State) : Host.Outcome State Fault Refusal :=
  .next (s.issue { len := 4, e := e, dsts := [d] } (fun w => w.badDebug n.toNat) (fun _ => !isS d && d != .none) (fun w =>
    .done (w.later w.g .dsrd (w.resultFor d (fun _ => 0) (BitVec.ofNat 32 ((w.s.asidInfo w.b.asid).reg n.toNat))))))

/-- `dswr` (R370). -/
def execDswr (e : Bool) (n : BitVec 8) (x : Opnd) (s : State) : Host.Outcome State Fault Refusal :=
  .next (s.issue { len := opLen [x], e := e, srcs := [x] } (fun w => w.badDebug n.toNat) (fun w => !w.atMost .s x) (fun w =>
    .done { g := w.g, post := fun s => s.putAsid ((s.asidInfo w.b.asid).dbgWrite n.toNat (w.sval x)) }))

/-- `clk` (R372). -/
def execClk (e : Bool) (d : Opnd) (s : State) : Host.Outcome State Fault Refusal :=
  .next (s.issue { len := 4, e := e, dsts := opndRun d 2 } (fun _ => !opndRunOk d 2)
    (fun _ => match d with
      | .a _ => true
      | _ => false)
    (fun w =>
      let lo := w.g.icnt.setWidth 32
      let hi := w.g.icnt.extractLsb' 32 32
      .done (w.later w.g .clk (w.resultFor d (fun _ => lo) lo ++ (match opndPlus d 1 with
        | some d1 => w.resultFor d1 (fun _ => hi) hi
        | none => [])))))

/-! ## Fences, `wait`, `endphase` (R119, R386, R398) -/

/-- Whether a piece of work holds back a fence of a scope (R119, R106): a store is performed at core scope once it has
left the FIFO. -/
def OpBody.holdsFence (sc : Scope) : OpBody → Bool
  | .load .. => true
  | .store _ _ _ left _ => !(sc == .core && left.isSome)
  | .atomic .. => true
  | .ldl .. => true
  | .stl .. => true
  | .atoml .. => true
  | .tex .. => true
  | .binp .. => true
  | .slice (.push ..) _ => true
  | .slice (.fres ..) _ => true
  | _ => false

/-- The core of a group. -/
def State.coreOf (s : State) (k : GroupKey) : Nat := ((s.group? k).map (·.core)).getD 0

/-- Whether the stores of other groups of a core that a group may have observed, those that left a FIFO before `seen`, are all
performed: they come before the group's later releases (R111, R124). (DEDUCED, log 111.) -/
def State.observedDone (s : State) (k : GroupKey) (seen : Nat) : Bool :=
  seen = 0 || !s.ops.any (fun x => x.gk != k && s.coreOf x.gk == s.coreOf k && (match x.body with
    | .store _ _ _ (some t) _ => t < seen
    | _ => false))

/-- Whether the wait conditions of a fence of a group hold for the work issued before it (R119, R124). -/
def State.fenceHolds (s : State) (k : GroupKey) (sc : Scope) (ops : List Op) : Bool :=
  !(ops.any (fun o => o.gk == k && o.body.holdsFence sc)) && !(s.cmds.any (fun c => c.gk == k && !c.accepted)) &&
    (sc == .core || s.observedDone k (((s.group? k).map (·.seen)).getD 0))

/-- What a fence does once its conditions hold: the writeback of R64 in mode 1, and the L1 of the core. -/
def State.fenceEffect (s : State) (core : Nat) (sc : Scope) : State :=
  let part := partOfCluster (clusterOfCore core)
  let s := if sc == .sys && s.regs.l2cfg.mode then s.flushL2 (fun l => l.slice / 16 == part && l.dirty != 0) else s
  if sc == .core then s else s.l1Drop (fun l => l.core == core)

/-- A fence (R119): complete at issue where its conditions hold, else the slot waits. -/
def State.fence (s : State) (e : Bool) (sc : Scope) : State :=
  s.issue { len := 4, e := e } noCheck noCheck (fun w =>
    if w.s.fenceHolds w.k sc w.s.ops && !(sc == .sys && w.s.regs.l2cfg.mode) then
      .done { g := w.g, post := fun s => s.fenceEffect w.g.core sc }
    else .done { g := w.g, flow := .stay (.fence w.s.ids), post := fun s => s.addOp w.k w.n (.fence sc) })

/-- `fence.core` (R119). -/
def execFenceCore (e : Bool) (s : State) : Host.Outcome State Fault Refusal := .next (s.fence e .core)

/-- `fence.clu` (R119). -/
def execFenceClu (e : Bool) (s : State) : Host.Outcome State Fault Refusal := .next (s.fence e .clu)

/-- `fence.die` (R119). -/
def execFenceDie (e : Bool) (s : State) : Host.Outcome State Fault Refusal := .next (s.fence e .die)

/-- `fence.pair` (R119). -/
def execFencePair (e : Bool) (s : State) : Host.Outcome State Fault Refusal := .next (s.fence e .pair)

/-- `fence.sys` (R119, R64). -/
def execFenceSys (e : Bool) (s : State) : Host.Outcome State Fault Refusal := .next (s.fence e .sys)

/-- `wait` (R386). -/
def execWait (e : Bool) (ldc stc cpc tlc : BitVec 6) (s : State) : Host.Outcome State Fault Refusal :=
  .next (s.issue { len := 4, e := e, ends := true } noCheck noCheck (fun w =>
    let r := WaitReason.counts ldc.toNat stc.toNat cpc.toNat tlc.toNat
    if w.g.countsMet r then .done { g := w.g, post := fun s => s.l1Drop (fun l => l.core == w.g.core) }
    else .done { g := w.g, flow := .stay r }))

/-- `endphase` (R398). -/
def execEndphase (e : Bool) (x : Opnd) (s : State) : Host.Outcome State Fault Refusal :=
  .next (s.issue { len := opLen [x], e := e, srcs := [x] } noCheck (fun w => !w.atMost .s x) (fun w =>
    if w.act = 0 then .done w.doneNone
    else .done { g := w.g, post := fun s => s.modLaunch w.b.launch (fun l => { l with result := l.result ||| w.sval x }) }))

/-! ## `grd` (R290 to R292) -/

/-- `grd` (R290): a word before an instruction, which is no instruction itself: the run, its count, the latch and the
count of retired instructions stay as they are. -/
def execGrd (gp : Pred) (neg : Bool) (gcnt : Fin 8) (s : State) : Host.Outcome State Fault Refusal :=
  .next (s.through { len := 4, e := false, guardOf := some gp } (fun w => w.sl.gleft != 0) noCheck (fun w =>
    let run : CoreRun := { core := w.g.core, gk := w.k, slot := w.n, count := w.s.runCount w.g.core w.k w.n }
    let s := w.s.modSlot w.k w.n (fun x =>
      { x with pc := x.pc + 4, gleft := gcnt.val + 1, gmask := 0, gpend := some (gp, neg) })
    { s with runs := run :: s.runs.filter (fun r => !(r.core == w.g.core)) }))

end Sys2Proof.Machine
end

