-- ==== Sys2Proof/Machine/MemInstr.lean ====
section
/-! DEFINITION. Loads, stores and atomics as a core issues them (R375 to R385): addresses, the local range, alignment,
translation, reproducible ownership (R480) and watchpoints (R467). What is issued is performed by its own events. -/
namespace Sys2Proof.Machine

/-! ## Addresses (R375) -/

/-- Bytes of a width (R278). -/
def widthBytes : Width → Nat
  | .z8 => 1
  | .s8 => 1
  | .z16 => 2
  | .s16 => 2
  | .w32 => 4
  | .w64 => 8
  | .w128 => 16
  | .rsvd => 4

/-- Registers of the run that a width takes (R377). -/
def widthRegs (wid : Width) : Nat := max 1 (widthBytes wid / 4)

/-- Lane i's 64-bit address before the offset (R375). -/
def View.addr (w : View) (x : Opnd) (i : Fin 32) : DWord :=
  match x with
  | .a n => w.g.a[n].at i.val
  | .lane => BitVec.ofNat 64 i.val
  | .v n => w.g.vlane (n.val + 1) i ++ w.g.v[n][i]
  | .s _ => w.indirect x
  | .lit64 y => y
  | y => (w.sval y).signExtend 64

/-- Lane i's local address before the offset (R375). -/
def View.localAddr (w : View) (x : Opnd) (i : Fin 32) : Word :=
  match x with
  | .s _ => w.sval x
  | .v n => w.g.v[n][i]
  | _ => (w.addr x i).setWidth 32

/-- The registers of a memory address: pairs for S and V codes (R375). -/
def addrSrcs (x : Opnd) : List Opnd :=
  match x with
  | .s _ => opndRun x 2
  | .v _ => opndRun x 2
  | _ => [x]

/-- An address code that R375 does not allow. -/
def badAddr (pair : Bool) (x : Opnd) : Bool :=
  match x with
  | .latch => true
  | .ray => true
  | .none => true
  | _ => pair && (x.isReg && (opndPlus x 1).isNone && (match x with
    | .a _ => false
    | _ => true))

/-- Whether the shape is a broadcast: one access for every lane (R375). -/
def isBroadcast : Opnd → Bool
  | .a _ => false
  | .lane => false
  | .v _ => false
  | _ => true

/-- The offset of a memory instruction (R375). -/
def offOf (m : MemFields) : Word := m.off.getD 0

/-- Each active lane's address with the offset. -/
def View.addrs (w : View) (x : Opnd) (off : Word) : List (Nat × DWord) :=
  w.act.lanes.map (fun i => (i.val, w.addr x i + off.signExtend 64))

/-- Each active lane's local address with the offset. -/
def View.localAddrs (w : View) (x : Opnd) (off : Word) : List (Nat × Nat) :=
  w.act.lanes.map (fun i => (i.val, (w.localAddr x i + off).toNat))

/-- The mask of the lanes of a list. -/
def laneMask (ls : List Nat) : Mask := maskOf (fun i => ls.contains i.val)

/-! ## Checks during execution (R380) -/

/-- The misaligned-access fault of the lowest lane that is not aligned to a number of bytes (R14, R442). -/
def View.misaligned (w : View) (n : Nat) (as : List (Nat × Nat)) : Option Cause :=
  match as.find? (fun a => a.2 % n ≠ 0) with
  | some a => some { code := 0x1C, sub := 0, tval := BitVec.ofNat 32 a.2, slot := w.n }
  | none => none

/-- The partition of the issuing core. -/
def View.part (w : View) : Nat := partOfCluster (clusterOfCore w.g.core)

/-- What a walk answered to this slot about a page. (DEDUCED, log 24.) -/
def View.walked (w : View) (va : DWord) : Option WalkFail :=
  w.s.fails.find? (fun x => x.gk == w.k && x.slot == w.n && x.vpage == va.toNat / 65536)

/-- Translate one address (R29). -/
def View.xlate (w : View) (va : DWord) (u : Use) : XRes :=
  let ent := match w.walked va with
    | some x => x.fault.ent
    | none => 0
  match w.s.translate (some w.g.core) w.part w.b.asid va u ent with
  | .miss => match w.walked va with
    | some x => if x.fault.cause = 0 then .miss else .fault x.fault
    | none => .miss
  | r => r

/-- Translate every lane before any effect (R38, R39): the places, or why not. -/
def View.xlateAll (w : View) (u : Use) (as : List (Nat × DWord)) : Sum Res (List LaneAcc) :=
  let rs := as.map (fun a => (a, w.xlate a.2 u))
  match rs.find? (fun r => r.2 == .miss) with
  | some r => .inl (.walk r.1.2)
  | none =>
    let bad := rs.filterMap (fun r => match r.2 with
      | .fault f => some (r.1, f)
      | _ => none)
    match bad with
    | b :: _ => .inl (.fault b.2 b.1.2 u.acc (laneMask (bad.map (·.1.1))))
    | [] => .inr (rs.filterMap (fun r => match r.2 with
      | .ok l => some { lane := r.1.1, va := r.1.2, loc := l : LaneAcc }
      | _ => none))

/-- The block key of R480. -/
def Block.ownKey (b : Block) : Nat :=
  if b.isRay then 2 ^ 31 + 2 ^ 27 * partOfCluster b.cluster + b.formation else b.b + 1

/-- Claim the lines of a byte range of the reproducible range for a launch and a block key; none on a conflict (R480). -/
def State.claimLines (s : State) (c : Ctx) (lseq key : Nat) (lines : List Nat) : Option State :=
  lines.foldl (fun acc ln => acc.bind (fun s =>
    let l : Loc := ⟨.device, c.own + 8 * ln⟩
    let word := s.numAt (Agent.ctx c.asid) l 8
    if word % 2 ^ 32 ≠ lseq then some (s.writeNum (Agent.ctx c.asid) l 8 (lseq + 2 ^ 32 * key))
    else if word / 2 ^ 32 = key then some s else none)) (some s)

/-- The lines of the reproducible range that addresses lie in. -/
def Ctx.ownLines (c : Ctx) (vas : List Nat) : List Nat :=
  if c.repro && c.rlen ≠ 0 then
    ((vas.filter (fun a => c.rva.toNat ≤ a && a < c.rva.toNat + c.rlen)).map (fun a => (a - c.rva.toNat) / 128)).eraseDups
  else []

/-- The claims of an instruction's lanes; none when one conflicts (R480). -/
def View.claims (w : View) (s : State) (as : List LaneAcc) : Option State :=
  s.claimLines w.c w.l.lseq w.b.ownKey (w.c.ownLines (as.map (·.va.toNat)))

/-- Why the words of R480 cannot be read and written now: an engine owns a line of them or the peer holds it; or a line is lost or
poisoned (R60, R70, R75). -/
inductive ClaimStop where
  | wait (ls : List Loc)
  | fault (f : XFault)

/-- What stands in the way of claiming some lines. -/
def State.claimStop (s : State) (c : Ctx) (lines : List Nat) : Option ClaimStop :=
  let a := Agent.ctx c.asid
  let ls := lines.map (fun ln => (⟨.device, c.own + 8 * ln⟩ : Loc))
  match s.statusOf a true ls with
  | .ok => (ls.find? (fun l => s.poisonIn a l 8)).map (fun l =>
      .fault { cause := 0x23, sub := s.poisonCode a l, level := 3, ent := BitVec.ofNat 64 l.lineLoc.pa })
  | .lost => some (.fault { cause := 0x25, sub := 0, level := 3, ent := 0 })
  | _ => some (.wait ls)

/-- What stands in the way of the claims of an instruction's lanes (R480), as the instruction meets it. -/
def View.claimStop (w : View) (acc : Acc) (as : List LaneAcc) : Option Res :=
  (w.s.claimStop w.c (w.c.ownLines (as.map (·.va.toNat)))).map (fun st => match st with
    | .wait ls => .ask (fun s => s.askPeerFor true ls)
    | .fault f => .fault f (((as.head?).map (·.va)).getD 0) acc (laneMask (as.map (·.lane))))

/-- Whether watchpoint `n` covers a lane's bytes for an access of a kind bit (R467). (DEDUCED, log 19.) -/
def AsidInfo.watches (a : AsidInfo) (n bit lane va bytes : Nat) : Bool :=
  let r := fun k => a.reg (8 * n + 0x40 + k)
  let lo := r 0 + r 1 * 2 ^ 32
  let hi := r 2 + r 3 * 2 ^ 32
  bitAt (r 4) 31 && bitAt (r 4) bit && (r 5 == 0 || bitAt (r 5) lane) && lo < hi && va < hi && lo < va + bytes

/-- The watchpoint trap that follows an access (R467, R466): the lowest matching watchpoint, the lowest matching lane.
(DEDUCED, log 19.) -/
def View.watch (w : View) (bit bytes : Nat) (as : List LaneAcc) : Option Cause :=
  if w.g.hm then none
  else
    let a := w.s.asidInfo w.b.asid
    match (List.range 8).find? (fun n => as.any (fun x => a.watches n bit x.lane x.va.toNat bytes)),
        as.find? (fun x => (List.range 8).any (fun n => a.watches n bit x.lane x.va.toNat bytes)) with
    | some n, some x => some { code := 2, sub := n, tval := x.va.setWidth 32, slot := w.n }
    | _, _ => none

/-- Whether an access is of peer or host kind: a wait for its result is a blocking point (R381). -/
def farAcc (as : List LaneAcc) : Bool := as.any (fun x => x.loc.kind == .peer || x.loc.kind == .hostCoh || x.loc.kind == .hostUnc)

/-- A memory access that passes every check: R14, R29, R480, R467, in that order. -/
def View.access (w : View) (bytes bit : Nat) (u : Use) (as : List (Nat × DWord)) (ok : List LaneAcc → Done) : Res :=
  match w.misaligned bytes (as.map (fun a => (a.1, a.2.toNat))) with
  | some c => .raise c
  | none =>
    match w.xlateAll u as with
    | .inl r => r
    | .inr accs => match w.claimStop u.acc accs with
    | some r => r
    | none =>
      match w.claims w.s accs with
      | none => .raise (.plain 0x1B w.n)
      | some _ =>
        let d := ok accs
        .done { d with after := w.watch bit bytes accs, post := fun s => d.post ((w.claims s accs).getD s) }

/-- The registers that a list of operands names. -/
def regsOf (hm : Bool) (ds : List Opnd) : List RegId := ds.filterMap (regOf hm)

/-! ## `ld`, `st`, `atom` -/

/-- `ld` (R377, R378). -/
def execLd (e : Bool) (d x : Opnd) (m : MemFields) (s : State) : Host.Outcome State Fault Refusal :=
  let run := opndRun d (widthRegs m.wid)
  .next (s.issue { len := opLen [x] + (if m.off.isSome then 4 else 0), e := e, srcs := addrSrcs x, dsts := run, access := true }
    (fun _ => badAddr true x || !opndRunOk d (widthRegs m.wid) || m.wid == .rsvd || (x.isLit && m.off.isSome))
    (fun w => !w.clsRule d [x] false) (fun w =>
      if w.act = 0 then .done w.doneNone
      else if 63 ≤ w.g.ldCnt then .wait (.count 0)
      else w.access (widthBytes m.wid) 0 ⟨.load, w.g.hm, false⟩ (w.addrs x (offOf m)) (fun accs =>
        { g := { w.g with ldCnt := w.g.ldCnt + 1 }.markOp (regsOf w.g.hm run) .var w.s.ids (farAcc accs),
          post := fun s => s.addOp w.k w.n (.load accs m.wid d m.cache m.ord (isBroadcast x) false) })))

/-- The data of a store in lane i: the run of words from D, or the whole 64-bit value of an A register (R377, R379). -/
def View.storeVal (w : View) (d : Opnd) (wid : Width) (i : Fin 32) : Nat :=
  match d, wid with
  | .a n, .w64 => (w.g.a[n].at i.val).toNat
  | _, _ => (List.range (widthRegs wid)).foldl (fun acc k =>
      acc + (match opndPlus d k with
        | some y => (w.lane y i).toNat
        | none => 0) * 2 ^ (32 * k)) 0

/-- Whether a data operand has no run of the width's length (R317, R377). -/
def badStoreData (d : Opnd) (wid : Width) : Bool :=
  match d, wid with
  | .a _, _ => false
  | _, _ => d == .none || d.isLit || (opndPlus d (widthRegs wid - 1)).isNone

/-- The data registers of a store. -/
def storeSrcs (d : Opnd) (wid : Width) : List Opnd :=
  match d with
  | .a _ => [d]
  | _ => opndRun d (widthRegs wid)

/-- The bytes that the lanes of a store write, in ascending lane order: the higher lane wins (R54). -/
def View.storeBytes (w : View) (d : Opnd) (wid : Width) (accs : List LaneAcc) : List (Loc × Byte) :=
  accs.flatMap (fun x =>
    let bs := if h : x.lane < 32 then leBytes (widthBytes wid) (w.storeVal d wid ⟨x.lane, h⟩) else []
    (upFrom 0 bs.length).zip bs |>.map (fun y => (x.loc.add y.1, y.2)))

/-- A 128-bit store takes no A register (R377). -/
def wideA (d : Opnd) (wid : Width) : Bool :=
  match d with
  | .a _ => wid == .w128
  | _ => false

/-- `st` (R377, R379). -/
def execSt (e : Bool) (d x : Opnd) (m : MemFields) (s : State) : Host.Outcome State Fault Refusal :=
  .next (s.issue { len := opLen [x] + (if m.off.isSome then 4 else 0), e := e, srcs := addrSrcs x ++ storeSrcs d m.wid, access := true }
    (fun _ => badAddr true x || badStoreData d m.wid || m.wid == .rsvd || m.wid == .s8 || m.wid == .s16 || (x.isLit && m.off.isSome))
    (fun _ => wideA d m.wid) (fun w =>
      if w.act = 0 then .done w.doneNone
      else if 63 ≤ w.g.stCnt then .wait (.count 1)
      else w.access (widthBytes m.wid) 1 ⟨.store, w.g.hm, false⟩ (w.addrs x (offOf m)) (fun accs =>
        { g := { w.g with stCnt := w.g.stCnt + 1 },
          post := fun s => s.addOp w.k w.n (.store (w.storeBytes d m.wid accs) m.cache m.ord none false) })))

/-- Whether an atomic operates on 64 bits (R383). -/
def atomWide : AtomOp → Bool
  | .add64 => true
  | .swap64 => true
  | .cas64 => true
  | _ => false

/-- Whether an atomic compares (R383). -/
def atomCas : AtomOp → Bool
  | .cas => true
  | .cas64 => true
  | _ => false

/-- Bytes of an atomic (R383). -/
def atomBytes (op : AtomOp) : Nat := if atomWide op then 8 else 4

/-- Registers of an atomic's data run (R383). -/
def atomRegs (op : AtomOp) : Nat := (if atomWide op then 2 else 1) * (if atomCas op then 2 else 1)

/-- The operations that host coherent memory allows (R384). -/
def atomOnHost : AtomOp → Bool
  | .add => true
  | .add64 => true
  | .swap => true
  | .swap64 => true
  | .cas => true
  | .cas64 => true
  | _ => false

/-- The registers that an atomic reads as data. -/
def atomSrcs (d : Opnd) (op : AtomOp) : List Opnd := opndRun d (atomRegs op)

/-- The registers that a returning atomic writes (R384). -/
def atomDsts (d : Opnd) (f : AtomFields) : List Opnd := if f.ret then opndRun d (if atomWide f.op then 2 else 1) else []

/-- The data and the new value of an atomic in lane i (R383). -/
def View.atomData (w : View) (d : Opnd) (op : AtomOp) (i : Fin 32) : DWord × DWord :=
  let word := fun k => match opndPlus d k with
    | some y => w.lane y i
    | none => 0
  if atomWide op then (word 1 ++ word 0, word 3 ++ word 2) else ((word 0).setWidth 64, (word 1).setWidth 64)

/-- The class check of an atomic (R384). -/
def atomCls (d : Opnd) (f : AtomFields) : Bool :=
  match d with
  | .v _ => false
  | .a _ => f.ret || atomRegs f.op != 1
  | _ => f.ret

/-- An atomic's data run that leaves its class, or is no register (R278, R317). -/
def badAtomData (d : Opnd) (op : AtomOp) : Bool :=
  match d with
  | .a _ => false
  | _ => !d.isReg || (opndPlus d (atomRegs op - 1)).isNone

/-- The group behind an atomic: a count raised and, with a return, its registers pending (R385). -/
def View.atomGroup (w : View) (d : Opnd) (f : AtomFields) (far : Bool) : Group :=
  if f.ret then { w.g with ldCnt := w.g.ldCnt + 1 }.markOp (regsOf w.g.hm (atomDsts d f)) .var w.s.ids far
  else { w.g with stCnt := w.g.stCnt + 1 }

/-- The count that an atomic raises is full (R385). -/
def View.atomFull (w : View) (f : AtomFields) : Bool := if f.ret then 63 ≤ w.g.ldCnt else 63 ≤ w.g.stCnt

/-- `atom` (R382 to R384). -/
def execAtom (e : Bool) (d x : Opnd) (f : AtomFields) (s : State) : Host.Outcome State Fault Refusal :=
  .next (s.issue { len := opLen [x], e := e, srcs := addrSrcs x ++ atomSrcs d f.op, dsts := atomDsts d f, access := true }
    (fun _ => badAddr true x || badAtomData d f.op) (fun _ => atomCls d f) (fun w =>
      if w.act = 0 then .done w.doneNone
      else if w.atomFull f then .wait (.count (if f.ret then 0 else 1))
      else w.access (atomBytes f.op) 2 ⟨.atomic, w.g.hm, atomOnHost f.op⟩ (w.addrs x 0) (fun accs =>
        { g := w.atomGroup d f (farAcc accs),
          post := fun s => s.addOp w.k w.n (.atomic (accs.filterMap (fun a =>
            if h : a.lane < 32 then
              some { lane := a.lane, loc := a.loc, d := (w.atomData d f.op ⟨a.lane, h⟩).1, n := (w.atomData d f.op ⟨a.lane, h⟩).2 }
            else none)) f.op f.ret f.scope d none false) })))

/-! ## `ldl`, `stl`, `atoml` (R33) -/

/-- Lanes are switched off for the rest of the block (R33): their bits go to the local-fault mask and leave the entry
mask. (DEDUCED, log 20.) -/
def Group.switchOff (g : Group) (n : Nat) (x : Mask) (next : Slot) : Group × Option Cause :=
  { g with lfmask := g.lfmask ||| x }.leave n x next

/-- A local access (R380): the range first, which switches lanes off, then alignment, then the access of the rest.
(DEDUCED, log 20.) -/
def View.localAccess (w : View) (f : Form) (bytes : Nat) (as : List (Nat × Nat)) (ok : List (Nat × Nat) → Done) : Res :=
  let off := laneMask ((as.filter (fun a => w.b.alloc < a.2 + bytes)).map (·.1))
  let rest := as.filter (fun a => a.2 + bytes ≤ w.b.alloc)
  if off = 0 then
    match w.misaligned bytes rest with
    | some c => .raise c
    | none => .done (ok rest)
  else
    let out := fun (s : State) => (s.retireLanes w.k off).endIfEmpty w.k 4
    match w.misaligned bytes rest with
    | some c => .raiseAfter (fun s => (s.putGroup w.k (w.g.switchOff w.n off w.sl).1).retireLanes w.k off) c
    | none =>
      if rest = [] then
        let r := w.g.switchOff w.n off (w.behind f.len none)
        .done { g := r.1, flow := .placed (if (w.sl.mask &&& ~~~off) = 0 then some 4 else none), after := r.2, post := out }
      else
        let d := ok rest
        let r := d.g.switchOff w.n off (w.behind f.len none)
        .done { d with g := r.1, flow := .placed none, after := r.2, post := fun s => (d.post s).retireLanes w.k off }

/-- What `ldl` names. -/
def formLdl (e : Bool) (d x : Opnd) (m : MemFields) : Form :=
  { len := opLen [x] + (if m.off.isSome then 4 else 0), e := e, srcs := [x], dsts := opndRun d (widthRegs m.wid), access := true }

/-- `ldl` (R377, R378). -/
def execLdl (e : Bool) (d x : Opnd) (m : MemFields) (s : State) : Host.Outcome State Fault Refusal :=
  .next (s.issue (formLdl e d x m)
    (fun _ => badAddr false x || !opndRunOk d (widthRegs m.wid) || m.wid == .rsvd || m.cache != .normal || (x.isLit && m.off.isSome))
    (fun w => !w.clsRule d [x] false) (fun w =>
      if w.act = 0 then .done w.doneNone
      else if 63 ≤ w.g.ldCnt then .wait (.count 0)
      else w.localAccess (formLdl e d x m) (widthBytes m.wid) (w.localAddrs x (offOf m)) (fun as =>
        { g := { w.g with ldCnt := w.g.ldCnt + 1 }.markOp (regsOf w.g.hm (opndRun d (widthRegs m.wid))) .var w.s.ids false,
          post := fun s => s.addOp w.k w.n (.ldl as m.wid d m.ord (isBroadcast x) false) })))

/-- What `stl` names. -/
def formStl (e : Bool) (d x : Opnd) (m : MemFields) : Form :=
  { len := opLen [x] + (if m.off.isSome then 4 else 0), e := e, srcs := x :: storeSrcs d m.wid, access := true }

/-- The bytes that the lanes of an `stl` write. -/
def View.stlBytes (w : View) (d : Opnd) (wid : Width) (as : List (Nat × Nat)) : List (Nat × Byte) :=
  as.flatMap (fun x => if h : x.1 < 32 then (upFrom x.2 (widthBytes wid)).zip (leBytes (widthBytes wid) (w.storeVal d wid ⟨x.1, h⟩)) else [])

/-- `stl` (R377, R379). -/
def execStl (e : Bool) (d x : Opnd) (m : MemFields) (s : State) : Host.Outcome State Fault Refusal :=
  .next (s.issue (formStl e d x m)
    (fun _ => badAddr false x || badStoreData d m.wid || m.wid == .rsvd || m.wid == .s8 || m.wid == .s16 || m.cache != .normal ||
      (x.isLit && m.off.isSome))
    (fun _ => wideA d m.wid) (fun w =>
      if w.act = 0 then .done w.doneNone
      else if 63 ≤ w.g.stCnt then .wait (.count 1)
      else w.localAccess (formStl e d x m) (widthBytes m.wid) (w.localAddrs x (offOf m)) (fun as =>
        { g := { w.g with stCnt := w.g.stCnt + 1 },
          post := fun s => s.addOp w.k w.n (.stl (w.stlBytes d m.wid as) m.ord false) })))

/-- What `atoml` names. -/
def formAtoml (e : Bool) (d x : Opnd) (f : AtomFields) : Form :=
  { len := opLen [x], e := e, srcs := x :: atomSrcs d f.op, dsts := atomDsts d f, access := true }

/-- `atoml` (R382 to R384). -/
def execAtoml (e : Bool) (d x : Opnd) (f : AtomFields) (s : State) : Host.Outcome State Fault Refusal :=
  .next (s.issue (formAtoml e d x f) (fun _ => badAddr false x || badAtomData d f.op) (fun _ => atomCls d f) (fun w =>
    if w.act = 0 then .done w.doneNone
    else if w.atomFull f then .wait (.count (if f.ret then 0 else 1))
    else w.localAccess (formAtoml e d x f) (atomBytes f.op) (w.localAddrs x 0) (fun as =>
      { g := w.atomGroup d f false,
        post := fun s => s.addOp w.k w.n (.atoml (as.filterMap (fun a =>
          if h : a.1 < 32 then some (a.1, a.2, w.atomData d f.op ⟨a.1, h⟩) else none)) f.op f.ret f.scope d false) })))

end Sys2Proof.Machine
end

