-- ==== Sys2Proof/Machine/Complete.lean ====
section
/-! DEFINITION. How issued work of a core is performed: the store FIFO and the point of performance (R106 to R122, R524,
R525), results that reach their registers (R198, R378, R384), walks, fences and the block barrier. An event that is not
enabled leaves the state as it is. -/
namespace Sys2Proof.Machine

/-! ## Program order -/

/-- The work that a group issued before a piece of work and that is still under way. -/
def State.before (s : State) (o : Op) : List Op := (s.ops.takeWhile (fun x => x.id != o.id)).filter (fun x => x.gk == o.gk)

/-- Whether an order field asks for acquire or release (R115). -/
def isOrdered (o : Order) : Bool := o != .plain

/-- Whether an operation of the slice logic may turn out an acquire (R132, R133): `freg` and `fpoll` until they return; a pop, unless
it has looked at its queue and has to wait, until it has taken a record. (DEDUCED, log 125.) -/
def SliceOp.mayAcquire : SliceOp → SliceTxn → Bool
  | .freg _ _, _ => true
  | .fpoll, _ => true
  | .pop _ _ _, x => x.started || !x.tried
  | _, _ => false

/-- Earlier work of a group that a later access waits for until it has returned (R116, R121, R132, R133). (DEDUCED, log 125.) -/
def OpBody.acquires : OpBody → Bool
  | .load _ _ _ _ ord _ _ => isOrdered ord
  | .atomic .. => true
  | .ldl _ _ _ ord _ _ => isOrdered ord
  | .atoml .. => true
  | .fence _ => true
  | .slice op x => op.mayAcquire x
  | _ => false

/-- Work that later memory accesses of the group wait for: loads, atomics, acquires, fences (R111, R116, R121). -/
def OpBody.holdsMemory : OpBody → Bool
  | .load .. => true
  | .atomic .. => true
  | .ldl _ _ _ ord _ _ => isOrdered ord
  | .atoml .. => true
  | .tex .. => true
  | .fence _ => true
  | .slice op x => op.mayAcquire x
  | _ => false

/-- Work that later local-store accesses of the group wait for (R112, R116, R121). -/
def OpBody.holdsLocal : OpBody → Bool
  | .load _ _ _ _ ord _ _ => isOrdered ord
  | .atomic .. => true
  | .ldl .. => true
  | .stl .. => true
  | .atoml .. => true
  | .fence _ => true
  | .slice op x => op.mayAcquire x
  | _ => false

/-- Whether the copies that a group issued before a piece of work have all been accepted (R117). (DEDUCED, log 33.) -/
def State.copiesAccepted (s : State) (o : Op) : Bool := s.cmds.all (fun c => !(c.gk == o.gk && c.id < o.id && !c.accepted))

/-- The conditions of a release at a scope (R117, R121, R124): everything earlier of the group is performed, and what it may
have observed of its core's stores. (DEDUCED, log 111.) -/
def State.released (s : State) (o : Op) (sc : Scope) : Bool :=
  !((s.before o).any (fun x => x.body.holdsFence sc)) && s.copiesAccepted o && (sc == .core || s.observedDone o.gk o.seen)

/-- A load or atomic of a group has read: what has left the FIFOs of its core may have been observed, by what the group issued
after it and by what it will issue (R124). (DEDUCED, log 111.) -/
def State.observe (s : State) (o : Op) : State :=
  if s.observedDone o.gk s.ids then s
  else { s.modGroup o.gk (fun g => { g with seen := s.ids }) with
         ops := s.ops.map (fun x => if x.gk = o.gk ∧ o.id < x.id then { x with seen := s.ids } else x),
         cmds := s.cmds.map (fun x => if x.gk = o.gk ∧ o.id < x.id then { x with seen := s.ids } else x) }

/-- Lower a count of a group and let its waiting slots look at the counts again (R385). -/
def State.lower (s : State) (k : GroupKey) (f : Group → Group) : State := (s.modGroup k f).wakeGroup k

/-- The load count falls. -/
def Group.ldDone (g : Group) : Group := { g with ldCnt := g.ldCnt - 1 }
/-- The store count falls. -/
def Group.stDone (g : Group) : Group := { g with stCnt := g.stCnt - 1 }
/-- The copy count falls. -/
def Group.cpDone (g : Group) : Group := { g with cpCnt := g.cpCnt - 1 }
/-- The tile count falls. -/
def Group.tlDone (g : Group) : Group := { g with tlCnt := g.tlCnt - 1 }

/-- A load-like piece of work ends: its registers are written and the load count falls (R385). -/
def State.endLoad (s : State) (o : Op) (ws : List RegWrite) : State :=
  ((s.land o ws).lower o.gk Group.ldDone).dropOp o.id

/-- A store-like piece of work ends: the store count falls (R385). -/
def State.endStore (s : State) (o : Op) : State := (s.lower o.gk Group.stDone).dropOp o.id

/-! ## What an access finds -/

/-- The correlation number of a group's launch. -/
def State.corrOfGroup (s : State) (k : GroupKey) : Word := ((s.block? k.block).map s.corrOfBlock).getD 0

/-- Cause 0x23 for a group's access (R75, R76): the record, and the halt. (DEDUCED, log 21.) -/
def State.takePoison (s : State) (k : GroupKey) (slot : Nat) (a : Agent) (l : Loc) (lanes : Word) : State :=
  let code := s.poisonCode a l
  (s.softRecord (s.asidOf k) code l.lineLoc.pa (s.coreOf k) (s.corrOfGroup k) lanes).haltGroup k (s.asidOf k)
    { code := 0x23, sub := code, tval := 0, slot := slot }

/-- Cause 0x25 for a group's access (R72, R522). -/
def State.takeLinkDown (s : State) (k : GroupKey) (slot : Nat) : State :=
  (s.modCtx (s.asidOf k) (fun c => { c with linkFault := true })).haltGroup k (s.asidOf k) (.plain 0x25 slot)

/-- The registers of a piece of work stay unwritten and are pending no more. -/
def State.unland (s : State) (o : Op) : State := (s.modGroup o.gk (fun g => g.unpend o.id)).wakeGroup o.gk

/-! ## Stores -/

/-- The byte that a store writes to a place: the last lane's (R54). -/
def storedByte (bs : List (Loc × Byte)) (l : Loc) : Option Byte := (bs.reverse.find? (fun x => x.1 == l)).map (·.2)

/-- Whether a store may leave the FIFO: earlier loads, atomics, acquires and fences of the group are done, earlier stores
have left (R111), earlier copy commands, which sit in the FIFO too, are accepted (R125), and a release has its conditions (R117): the
groups of the core see it from then on. -/
def State.mayLeave (s : State) (o : Op) : Bool :=
  s.copiesAccepted o && (match o.body with
    | .store _ _ ord _ _ => !isOrdered ord || s.released o .die
    | _ => true) &&
  (s.before o).all (fun x => !x.body.holdsMemory && (match x.body with
    | .store _ _ _ none _ => false
    | _ => true))

/-- The oldest store of a group leaves its FIFO: performed at core scope, the core's L1 written through (R51, R111).
(DEDUCED, log 33; DEDUCED, log 103.) -/
def State.fifoLeave? (s : State) (k : GroupKey) : Option State :=
  match s.ops.find? (fun o => o.gk == k && (match o.body with
    | .store _ _ _ none _ => true
    | _ => false)) with
  | some o =>
    match o.body with
    | .store bs c ord none pk =>
      if s.mayLeave o then
        let s := { s.setOp o.id (.store bs c ord (some s.ids) pk) with ids := s.ids + 1 }
        some (s.l1Store (s.coreOf k) bs (c == .bypass))
      else none
    | _ => none
  | none => none

/-- `storeFifoLeave`. -/
def execStoreFifoLeave (g : GroupKey) (s : State) : Host.Outcome State Fault Refusal := .next ((s.fifoLeave? g).getD s)

/-- Whether a store that left a core's FIFO before a stamp still has to be performed on one of the lines (R111). -/
def State.earlierLeft (s : State) (core id stamp : Nat) (lines : List Loc) : Bool :=
  s.ops.any (fun x => x.id != id && s.coreOf x.gk == core && (match x.body with
    | .store bs _ _ (some t) _ => t < stamp && bs.any (fun y => lines.contains y.1.lineLoc)
    | _ => false))

/-- Stores of one group to host kinds leave the device in issue order (R16). -/
def State.hostInOrder (s : State) (o : Op) (ls : List Loc) : Bool :=
  !(ls.any (fun l => l.kind.isHost)) || (s.before o).all (fun x => match x.body with
    | .store bs _ _ _ _ => bs.all (fun y => !y.1.kind.isHost)
    | _ => true)

/-- The agent of a group's access. -/
def State.agentFor (s : State) (k : GroupKey) (sys : Bool) : Agent := ⟨some (s.asidOf k), sys⟩

/-- Write a store at its point of performance (R106); a release at system scope takes what came before it to the controllers
(R117). -/
def State.putStore (s : State) (o : Op) (bs : List (Loc × Byte)) (c : CachePol) (ord : Order) : State :=
  let a := s.agentFor o.gk (ord == .sys)
  let s := (s.sysRelease a).writeAt a bs (allocOf c)
  (s.l1Store (s.coreOf o.gk) bs (c == .bypass)).endStore o

/-- A store that has left the FIFO reaches its point of performance (R524): it waits for its turn on its lines, for the
conditions of a release, at an owned line, and for the peer. `again` is the event of R525. -/
def State.store? (s : State) (o : Op) (again : Bool) : Option State :=
  match o.body with
  | .store bs c ord (some t) pk =>
    let ls := linesOfLocs (bs.map (·.1))
    let a := s.agentFor o.gk (ord == .sys)
    if pk != again || s.earlierLeft (s.coreOf o.gk) o.id t ls || !s.hostInOrder o ls || (isOrdered ord && !s.released o .die) then none
    else match s.statusOf a true ls with
      | .ok => some (s.putStore o bs c ord)
      | .owned => if pk then none else some (s.setOp o.id (.store bs c ord (some t) true))
      | .busy => s.askOnce true ls
      | .lost => some ((s.takeLinkDown o.gk o.slot).endStore o)
      | .viewMiss => none
  | _ => none

/-- `storePerformed`. (DEDUCED, log 6.) -/
def execStorePerformed (op : Nat) (s : State) : Host.Outcome State Fault Refusal :=
  .next (((s.op? op).bind (fun o => s.store? o false)).getD s)

/-! ## Loads -/

/-- The youngest store of the group's FIFO, older than a load, that covers a byte (R111). -/
def State.fifoByte (s : State) (o : Op) (l : Loc) : Option Byte :=
  (s.before o).reverse.findSome? (fun x => match x.body with
    | .store bs _ _ none _ => storedByte bs l
    | _ => none)

/-- The byte of the store of a core that left last and is not performed yet (R111: one order of the core's stores). -/
def State.leftByte (s : State) (core : Nat) (l : Loc) : Option Byte :=
  let c := s.ops.filterMap (fun x => if s.coreOf x.gk == core then (match x.body with
    | .store bs _ _ (some t) _ => (storedByte bs l).map (fun b => (t, b))
    | _ => none) else none)
  (c.foldl (fun acc y => match acc with
    | some z => if z.1 < y.1 then some y else acc
    | none => some y) none).map (·.2)

/-- Whether a load looks into the L1 (R51, R52, R116). -/
def usesL1 (l : Loc) (c : CachePol) (ord : Order) : Bool := l.kind.inL1 && c != .bypass && !isOrdered ord

/-- Whether an acquire load can read its lines at their point of performance: no store of its core that has left, and no earlier
store of its group, is still to be performed on them (R108, R116). (DEDUCED, log 111.) -/
def State.acquireClear (s : State) (o : Op) (lines : List Loc) : Bool :=
  !s.earlierLeft (s.coreOf o.gk) o.id s.ids lines && !(s.before o).any (fun x => match x.body with
    | .store bs _ _ none _ => bs.any (fun y => lines.contains y.1.lineLoc)
    | _ => false)

/-- A byte as a load of a group reads it (R111, R116). -/
def State.loadByte (s : State) (o : Op) (a : Agent) (c : CachePol) (ord : Order) (l : Loc) : Byte :=
  match s.fifoByte o l with
  | some b => b
  | none => match s.leftByte (s.coreOf o.gk) l with
    | some b => b
    | none => if usesL1 l c ord then s.l1Byte a (s.coreOf o.gk) l else s.byteAt a l

/-- The words that a load puts into its run from the bytes of one lane (R378). -/
def loadWords (wid : Width) (bs : List Byte) : List Word :=
  let v := leNat bs
  match wid with
  | .s8 => [(BitVec.ofNat 8 v).signExtend 32]
  | .s16 => [(BitVec.ofNat 16 v).signExtend 32]
  | .w64 => [BitVec.ofNat 32 v, BitVec.ofNat 32 (v / 2 ^ 32)]
  | .w128 => (List.range 4).map (fun k => BitVec.ofNat 32 (v / 2 ^ (32 * k)))
  | _ => [BitVec.ofNat 32 v]

/-- The register writes that per-lane words make to the run from D (R378): a V run lane by lane, an S run from the first. -/
def Group.runWrites (g : Group) (d : Opnd) (n : Nat) (vals : List (Nat × List Word)) : List RegWrite :=
  (List.range n).filterMap (fun k => match opndPlus d k with
    | some (.v r) =>
      let word := fun (i : Fin 32) => match vals.find? (fun x => x.1 == i.val) with
        | some x => x.2.getD k 0
        | none => 0
      some ⟨.v r, laneMask (vals.map (·.1)), .v (Vector.ofFn word)⟩
    | some y => (regOf g.hm y).map (fun r => ⟨r, 0, .s (match vals.head? with
        | some x => x.2.getD k 0
        | none => 0)⟩)
    | none => none)

/-- The registers that a piece of work has pending, as register writes need them: the run was named in the mode of issue,
so a shadow register stays one. -/
def Group.runFor (g : Group) (o : Op) (d : Opnd) (n : Nat) (vals : List (Nat × List Word)) : List RegWrite :=
  let shadow := g.pend.any (fun p => p.op == o.id && (match p.reg with
    | .k _ => true
    | _ => false))
  { g with hm := shadow }.runWrites d n vals

/-- The places of a load that its L1 does not serve. -/
def State.missLocs (s : State) (o : Op) (accs : List LaneAcc) (n : Nat) (c : CachePol) (ord : Order) : List Loc :=
  (accs.map (·.loc)).filter (fun l => !(usesL1 l c ord && (upFrom 0 n).all (fun k => s.mem.l1Hit (s.coreOf o.gk) (l.add k))))

/-- What reading leaves in L2, the remote-data cache and the L1 (R51, R52, R55, R69): a load past the L1 drops the lines that it
read, which later loads of the group may not find older (R108). (DEDUCED, log 111.) -/
def State.fillFor (s : State) (a : Agent) (core : Nat) (locs : List Loc) (n : Nat) (c : CachePol) (ord : Order) : State :=
  let all := locs.flatMap (fun l => [l, l.add (n - 1)])
  let s := s.touchFor a all (allocOf c) false
  let s := if c == .bypass then s.l1Drop (fun l => l.core == core && all.any (fun x => x.kind == l.kind && lineOf x.pa == l.line)) else s
  (linesOfLocs (locs.filter (fun l => usesL1 l c ord))).foldl (fun s ln =>
    let mine := (all.filter (fun l => l.kind == ln.kind)).map (·.pa)
    s.l1Fill a core ln.kind (lineOf ln.pa) (sectorsOf (lineOf ln.pa) mine) (c == .stream)) s

/-- A load's data returns (R378): its registers are written, or cause 0x23 is taken on poisoned data. -/
def State.load? (s : State) (o : Op) (again : Bool) : Option State :=
  match o.body with
  | .load accs wid d c ord bcast pk =>
    let a := s.agentFor o.gk (ord == .sys)
    let core := s.coreOf o.gk
    let n := widthBytes wid
    let miss := s.missLocs o accs n c ord
    if pk != again || (s.before o).any (fun x => x.body.holdsMemory) || (isOrdered ord && !s.acquireClear o (linesOfLocs miss)) then none
    else match s.statusOf a false miss with
      | .owned => if pk then none else some (s.setOp o.id (.load accs wid d c ord bcast true))
      | .busy => s.askOnce false miss
      | .viewMiss => none
      | .lost => some (((s.takeLinkDown o.gk o.slot).unland o).lower o.gk Group.ldDone |>.dropOp o.id)
      | .ok =>
        let s := s.beforeSys a (linesOf ((miss.filter (fun l => l.kind == .device)).map (·.pa)))
        match miss.find? (fun l => s.poisonIn a l n) with
        | some l =>
          let lanes := laneMask ((accs.filter (fun x => s.poisonIn a x.loc n)).map (·.lane))
          some (((s.takePoison o.gk o.slot a l lanes).unland o).lower o.gk Group.ldDone |>.dropOp o.id)
        | none =>
          let vals := accs.map (fun x => (x.lane, loadWords wid ((upFrom 0 n).map (fun k => s.loadByte o a c ord (x.loc.add k)))))
          let ws := match s.group? o.gk with
            | some g => g.runFor o d (widthRegs wid) vals
            | none => []
          let s := ((s.fillFor a core miss n c ord).observe o).endLoad o ws
          some (if isOrdered ord then s.l1Drop (fun l => l.core == core) else s)
  | _ => none

/-- `loadResultReturn`. (DEDUCED, log 6.) -/
def execLoadResultReturn (op : Nat) (s : State) : Host.Outcome State Fault Refusal :=
  .next (((s.op? op).bind (fun o => s.load? o false)).getD s)

/-! ## Atomics (R383, R384) -/

/-- The value an atomic writes back (R383): the old value, the data and, for a compare, the new value. -/
def atomNew (op : AtomOp) (old d n : DWord) : DWord :=
  let lo := fun (x : DWord) => x.extractLsb' 0 32
  let w := fun (x : Word) => x.setWidth 64
  match op with
  | .add => w (lo old + lo d)
  | .add64 => old + d
  | .mins => w (if (lo d).slt (lo old) then lo d else lo old)
  | .maxs => w (if (lo old).slt (lo d) then lo d else lo old)
  | .minu => w (if (lo d).ult (lo old) then lo d else lo old)
  | .maxu => w (if (lo old).ult (lo d) then lo d else lo old)
  | .and => w (lo old &&& lo d)
  | .or => w (lo old ||| lo d)
  | .xor => w (lo old ^^^ lo d)
  | .swap => w (lo d)
  | .swap64 => d
  | .cas => if lo old = lo d then w (lo n) else old
  | .cas64 => if old = d then n else old
  | .fadd => w (fAdd (lo old) (lo d))

/-- The words of an old value. -/
def oldWords (op : AtomOp) (old : DWord) : List Word :=
  if atomWide op then [old.extractLsb' 0 32, old.extractLsb' 32 32] else [old.extractLsb' 0 32]

/-- Write an atomic's new value at the point of R106: peer memory at its home slice (R122). -/
def State.putAtomic (s : State) (a : Agent) (l : Loc) (n : Nat) (v : DWord) : State :=
  match l.kind with
  | .peer => s.peerHomeWrite ((upFrom l.pa n).zip (leBytes n v.toNat))
  | _ => s.writeNum a l n v.toNat

/-- The lanes of an atomic one after the other (R56, R384): the state and each lane's old value. -/
def State.atomLanes (s : State) (a : Agent) (op : AtomOp) (ls : List LaneAtom) : State × List (Nat × List Word) :=
  ls.foldl (fun acc x =>
    let n := atomBytes op
    let old := BitVec.ofNat 64 (acc.1.numAt a x.loc n)
    (acc.1.putAtomic a x.loc n (atomNew op old x.d x.n), acc.2 ++ [(x.lane, oldWords op old)])) (s, [])

/-- The scope at which an atomic orders: host coherent memory takes it to system scope whatever it names (R16). -/
def atomScope (lanes : List LaneAtom) (sc : Scope) : Scope := if lanes.any (fun x => x.loc.kind.isHost) then .sys else sc

/-- An atomic is performed (R121, R122, R384): acquire and release at its scope. -/
def State.atomic? (s : State) (o : Op) (again : Bool) : Option State :=
  match o.body with
  | .atomic lanes op ret sc d left pk =>
    let ls := linesOfLocs (lanes.map (·.loc))
    let at_ := atomScope lanes sc
    let a := s.agentFor o.gk (sc == .sys)
    let core := s.coreOf o.gk
    if pk != again || (s.before o).any (fun x => x.body.holdsMemory) || !s.released o at_ || s.earlierLeft core o.id s.ids ls ||
        !s.hostInOrder o ls then none
    else match s.statusOf a true ls with
      | .owned => if pk then none else some (s.setOp o.id (.atomic lanes op ret sc d left true))
      | .busy => s.askOnce true ls
      | .viewMiss => none
      | .lost => some (((s.takeLinkDown o.gk o.slot).unland o).lower o.gk (if ret then Group.ldDone else Group.stDone) |>.dropOp o.id)
      | .ok =>
        let s := s.beforeSys a (linesOf ((lanes.filter (fun x => x.loc.kind == .device)).map (·.loc.pa)))
        match lanes.find? (fun x => s.poisonIn a x.loc (atomBytes op)) with
        | some x =>
          let m := laneMask ((lanes.filter (fun x => s.poisonIn a x.loc (atomBytes op))).map (·.lane))
          some (((s.takePoison o.gk o.slot a x.loc m).unland o).lower o.gk (if ret then Group.ldDone else Group.stDone) |>.dropOp o.id)
        | none =>
          let s := (s.sysRelease (s.agentFor o.gk (at_ == .sys))).observe o
          let s := s.l1Drop (fun l => l.core == core && (at_ != .core || ls.any (fun y => y.kind == l.kind && lineOf y.pa == l.line)))
          let r := s.atomLanes a op lanes
          if ret then
            let ws := match r.1.group? o.gk with
              | some g => g.runFor o d (if atomWide op then 2 else 1) r.2
              | none => []
            some (r.1.endLoad o ws)
          else some (r.1.endStore o)
  | _ => none

/-- `atomicPerformed`. -/
def execAtomicPerformed (op : Nat) (s : State) : Host.Outcome State Fault Refusal :=
  .next (((s.op? op).bind (fun o => s.atomic? o false)).getD s)

/-! ## Local store (R67, R68, R112) -/

/-- Change the local store of a group's block. -/
def State.modLocal (s : State) (k : GroupKey) (f : Memory → Memory) : State := s.modBlock k.block (fun b => { b with loc := f b.loc })

/-- The local addresses that a local access touches, its width in bytes known. -/
def OpBody.localAddrs : OpBody → List Nat
  | .ldl accs wid _ _ _ _ => accs.flatMap (fun x => upFrom x.2 (widthBytes wid))
  | .stl bs _ _ => bs.map (·.1)
  | .atoml ls op _ _ _ _ => ls.flatMap (fun x => upFrom x.2.1 (atomBytes op))
  | _ => []

/-- The order that a local access carries for the group's other accesses (R115, R121). -/
def OpBody.localRelease : OpBody → Option Scope
  | .stl _ .plain _ => none
  | .stl _ .sys _ => some .sys
  | .stl .. => some .die
  | .atoml _ _ _ sc _ _ => some sc
  | _ => none

/-- A local access waits on a locked line (R68). (DEDUCED, log 102.) -/
def OpBody.park : OpBody → OpBody
  | .ldl a w d o b _ => .ldl a w d o b true
  | .stl b o _ => .stl b o true
  | .atoml l o r s d _ => .atoml l o r s d true
  | b => b

/-- Whether it waits. -/
def OpBody.isParked : OpBody → Bool
  | .load _ _ _ _ _ _ p => p
  | .store _ _ _ _ p => p
  | .atomic _ _ _ _ _ _ p => p
  | .ldl _ _ _ _ _ p => p
  | .stl _ _ p => p
  | .atoml _ _ _ _ _ p => p
  | _ => false

/-- The lanes of a local atomic one after the other. -/
def atomLocal (m : Memory) (op : AtomOp) (ls : List (Nat × Nat × DWord × DWord)) : Memory × List (Nat × List Word) :=
  ls.foldl (fun acc x =>
    let n := atomBytes op
    let old := BitVec.ofNat 64 (leNat (acc.1.read x.2.1 n))
    (acc.1.write x.2.1 (leBytes n (atomNew op old x.2.2.1 x.2.2.2).toNat), acc.2 ++ [(x.1, oldWords op old)])) (m, [])

/-- A local access that reads. -/
def OpBody.readsLocal : OpBody → Bool
  | .ldl .. => true
  | .atoml .. => true
  | _ => false

/-- What a local access does in its banks; a release at system scope takes what came before it to the controllers (R117, R121), and
what is read may tell of stores of other groups of the core (R124). (DEDUCED, log 111.) -/
def State.putLocal (s : State) (o : Op) (b : Block) : State :=
  let core := s.coreOf o.gk
  let acq := fun (c : Bool) (s : State) => if c then s.l1Drop (fun l => l.core == core) else s
  let ws := fun (d : Opnd) (n : Nat) (vals : List (Nat × List Word)) => match s.group? o.gk with
    | some g => g.runFor o d n vals
    | none => []
  let s := s.sysRelease (s.agentFor o.gk (o.body.localRelease == some .sys))
  let s := if o.body.readsLocal then s.observe o else s
  match o.body with
  | .ldl accs wid d ord _ _ =>
    let vals := accs.map (fun x => (x.1, loadWords wid (b.loc.read x.2 (widthBytes wid))))
    acq (isOrdered ord) (s.endLoad o (ws d (widthRegs wid) vals))
  | .stl bs _ _ => (s.modLocal o.gk (fun m => m.writeAll bs)).endStore o
  | .atoml ls op ret sc d _ =>
    let r := atomLocal b.loc op ls
    let s := s.modLocal o.gk (fun _ => r.1)
    acq (sc != .core) (if ret then s.endLoad o (ws d (if atomWide op then 2 else 1) r.2) else s.endStore o)
  | _ => s

/-- A local access is performed in its banks, in program order (R112), unless a copy has locked a line (R68). -/
def State.local? (s : State) (o : Op) (again : Bool) : Option State :=
  match o.body.localAddrs, s.block? o.gk.block with
  | _ :: _, some b =>
    let held := match o.body.localRelease with
      | some sc => !s.released o sc
      | none => false
    if o.body.isParked != again || (s.before o).any (fun x => x.body.holdsLocal) || held then none
    else if o.body.localAddrs.any (fun a => b.locks.contains (lineOf a)) then
      (if again then none else some (s.setOp o.id o.body.park))
    else some (s.putLocal o b)
  | _, _ => none

/-- `localAccessPerformed`. -/
def execLocalAccessPerformed (op : Nat) (s : State) : Host.Outcome State Fault Refusal :=
  .next (((s.op? op).bind (fun o => s.local? o false)).getD s)

/-- An access that waited on an owned or locked line is performed (R525). (DEDUCED, log 102.) -/
def State.proceed? (s : State) (o : Op) : Option State :=
  ((s.store? o true).or (s.load? o true)).or ((s.atomic? o true).or (s.local? o true))

/-- `ownedAccessProceed`. -/
def execOwnedAccessProceed (op : Nat) (s : State) : Host.Outcome State Fault Refusal :=
  .next (((s.op? op).bind s.proceed?).getD s)

/-! ## Results, refills, walks -/

/-- The result of `rebal`, `rdsr`, `clk` or `dsrd` reaches its registers (R198). -/
def State.varWrite? (s : State) (o : Op) : Option State :=
  match o.body with
  | .regs k ws => if k == .spawn || k == .rng then none else some ((s.land o ws).dropOp o.id)
  | _ => none

/-- `varLatencyWrite`. -/
def execVarLatencyWrite (op : Nat) (s : State) : Host.Outcome State Fault Refusal :=
  .next (((s.op? op).bind s.varWrite?).getD s)

/-- The oldest fixed-latency write of a group arrives (R198). (DEDUCED, log 16.) -/
def State.fixedWrite? (s : State) (k : GroupKey) : Option State :=
  match s.group? k with
  | some g => match g.pend.find? (fun p => p.kind == .fixed) with
    | some p => some (s.putGroup k { g with pend := g.pend.erase p })
    | none => none
  | none => none

/-- `fixedLatencyWrite`. -/
def execFixedLatencyWrite (g : GroupKey) (s : State) : Host.Outcome State Fault Refusal := .next ((s.fixedWrite? g).getD s)

/-- The slot that continues at a branch target becomes Ready (R197). -/
def State.refill? (s : State) (k : GroupKey) (n : Nat) : Option State :=
  match s.group? k with
  | some g => if (g.slot n).st == .wait && (g.slot n).wait == some .refill then some (s.modSlot k n Slot.wake) else none
  | none => none

/-- `branchRefillDone`. -/
def execBranchRefillDone (g : GroupKey) (slot : Fin 2) (s : State) : Host.Outcome State Fault Refusal :=
  .next ((s.refill? g slot.val).getD s)

/-- The slot that waits for a walk issues again. -/
def State.wakeWalk (s : State) (k : GroupKey) (n : Nat) : State :=
  s.modSlot k n (fun x => if x.wait = some .walk then x.wake else x)

/-- Whether a walk is one of the 32 that its partition runs; a request that joined a walk waits for it (R35). -/
def State.walkRuns (s : State) (x : Walk) : Bool :=
  match x.lead with
  | some n => !s.walks.any (fun y => y.id == n)
  | none => ((s.walksOf x.part).take 32).any (fun y => y.id == x.id)

/-- What a walk answered is left to the slot that waits for it, which issues again. -/
def State.tellWalk (s : State) (x : Walk) (f : XFault) : State :=
  { s with fails := { gk := x.gk, slot := x.slot, vpage := x.va.toNat / 65536, fault := f : WalkFail } ::
      s.fails.filter (fun y => !(y.gk == x.gk && y.slot == x.slot && y.vpage == x.va.toNat / 65536)) }.wakeWalk x.gk x.slot

/-- What a finished walk, whose reads are those of the state `s0`, gives one of the requests that it served: the entry is installed,
or the first failing check is left to its slot; what the walk has read is in the L2 (R34, R35). (DEDUCED, log 24.) -/
def State.walkAnswer (s0 : State) (c : Ctx) (s : State) (y : Walk) : State :=
  let (r, rds) := s0.walkFor y.part c y.va.toNat
  let s := s.walkTouch c rds
  match r with
  | .ok e =>
    (s.installWalk (some y.core) y.part c y.va.toNat e rds).tellWalk y
      { cause := 0, sub := 0, level := 3, ent := ((rds.getLast?).map (·.ent)).getD e.ent }
  | .fault f => s.tellWalk y f
  | .poison pa => s.tellWalk y (s0.walkPoison c pa)
  | .wait _ => s.wakeWalk y.gk y.slot

/-- A page walk returns (R34), to the slot that asked for it and to those whose requests joined it (R35). (DEDUCED, log 24.) -/
def State.walkDone? (s : State) (id : Nat) : Option State :=
  match s.walks.find? (fun x => x.id == id) with
  | none => none
  | some x =>
    let team := x :: s.walks.filter (fun y => y.lead == some x.id)
    let s' := { s with walks := s.walks.filter (fun y => !(y.id == id) && y.lead != some x.id) }
    if !s.walkRuns x then none
    else match s.ctx? x.asid with
    | none => some (team.foldl (fun s y => s.wakeWalk y.gk y.slot) s')
    | some c =>
      match (s.walkFor x.part c x.va.toNat).1 with
      | .wait pa => s.askOnce false [⟨.device, pa⟩]
      | _ => some (team.foldl (s.walkAnswer c) s')

/-- The slots of a partition's cores that wait for room in the miss queue issue again once there is room (R35).
(DEDUCED, log 24.) -/
def State.walkRoom? (s : State) : Option State :=
  let inPart := fun (p : Nat) (g : Group) => partOfCluster (clusterOfCore g.core) == p
  match (List.range 8).find? (fun p => decide ((s.walksOf p).length < walkLimit) &&
      s.blocks.any (fun b => b.groups.any (fun g => inPart p g && g.slotsFor (· == .walkRoom) != []))) with
  | some p => some { s with blocks := s.blocks.map (fun b =>
      { b with groups := b.groups.map (fun g => if inPart p g then g.wakeIf (· == .walkRoom) else g) }) }
  | none => none

/-- `translationWalkDone`. -/
def execTranslationWalkDone (walk : Nat) (s : State) : Host.Outcome State Fault Refusal := .next ((s.walkDone? walk).getD s)

/-! ## Fences and the block barrier -/

/-- A fence completes once its conditions hold (R119): its writebacks, its invalidation, and the slot goes on. -/
def State.fenceDone? (s : State) (o : Op) : Option State :=
  match o.body with
  | .fence sc =>
    if s.released o sc then
      let s := (s.fenceEffect (s.coreOf o.gk) sc).dropOp o.id
      some (s.modGroup o.gk (fun g => g.passIf (fun r => r == .fence o.id)))
    else none
  | _ => none

/-- `fenceComplete`. -/
def execFenceComplete (op : Nat) (s : State) : Host.Outcome State Fault Refusal :=
  .next (((s.op? op).bind s.fenceDone?).getD s)

/-- Whether a slot waits at a barrier phase that is over (R363). -/
def Block.phaseOver (b : Block) : WaitReason → Bool
  | .barBlk ph => ph != b.barPh
  | _ => false

/-- The block barrier releases its waiters (R363, R134): the arrivals' accesses are performed, and the cores' L1s go. -/
def State.barRelease? (s : State) (serial : Nat) : Option State :=
  match s.block? serial with
  | none => none
  | some b =>
    let gs := b.groups.filter (fun g => g.slotsFor b.phaseOver != [])
    let quiet := gs.all (fun g => s.observedDone ⟨serial, g.index⟩ g.seen && !s.ops.any (fun o => o.gk == ⟨serial, g.index⟩ && o.body.holdsFence .clu) &&
      !s.cmds.any (fun c => c.gk == ⟨serial, g.index⟩ && !c.accepted))
    if gs = [] || !quiet then none
    else if b.st != .resident then (if b.woken then none else some (s.modBlock serial (fun b => { b with woken := true })))
    else
      let cores := gs.map (·.core)
      some ((s.modBlock serial (fun b => { b with groups := b.groups.map (fun g => g.passIf b.phaseOver) })).l1Drop
        (fun l => cores.contains l.core))

/-- `barBlkRelease`. -/
def execBarBlkRelease (blk : Nat) (s : State) : Host.Outcome State Fault Refusal := .next ((s.barRelease? blk).getD s)

/-! ## Deferred causes (R448) -/

/-- A deferred cause is delivered at the boundary of a Ready slot; before it, the entry that has waited for a pop is made.
(DEDUCED, log 40.) -/
def State.deferred? (s : State) (k : GroupKey) : Option State :=
  match s.group? k, s.block? k.block with
  | some g, some b =>
    let ok := fun (c : Cause) => !g.hm && !g.stopped && !g.ended && b.st == .resident && ((s.ctx? b.asid).map Ctx.runs).getD false &&
      !s.entryHeld k b.asid c
    if let some c := g.entering then (if ok c then some (s.enterNow k b.asid g.core c) else none)
    else match [0, 1].find? (fun n => (g.slot n).st == .ready && g.deferred.any (fun c => c.code != 3 || c.slot == n)) with
    | some n =>
      match g.deferred.find? (fun c => c.code != 3 || c.slot == n) with
      | some c =>
        if ok c then
          some (((s.modGroup k (fun g => { g with deferred := g.deferred.erase c })).raise k b.asid (g.delivered n c)).endRun g.core k n
            (s.causeEnd k b.asid c))
        else none
      | none => none
    | none => none
  | _, _ => none

/-- `deferredCauseDelivery`. -/
def execDeferredCauseDelivery (g : GroupKey) (s : State) : Host.Outcome State Fault Refusal := .next ((s.deferred? g).getD s)

end Sys2Proof.Machine
end

