-- ==== Sys2Proof/Machine/Fetch.lean ====
section
/-! DEFINITION. Which slot issues next (R440), the fetch of its instruction (R14, R271, R273) and the code cache. -/
namespace Sys2Proof.Machine

/-! ## Arbitration (R440) -/

/-- A slot that may issue. -/
structure Cand where
  core : Nat
  k : GroupKey
  n : Nat
  prio : Nat
  res : Nat
  x : Slot
  deriving DecidableEq, Repr

/-- The Ready slots of a group. -/
def Group.readySlots (g : Group) : List Nat := [0, 1].filter (fun n => (g.slot n).st == .ready)

/-- The Ready slots of a block's groups, where the context runs. -/
def State.cands (s : State) (b : Block) : List Cand :=
  if b.st == .resident && ((s.ctx? b.asid).map Ctx.runs).getD false then
    (b.groups.filter (fun g => !g.stopped && !g.ended)).flatMap (fun g =>
      g.readySlots.map (fun n =>
        { core := g.core, k := ⟨b.serial, g.index⟩, n := n, prio := ((s.launchOf b).map (·.prio)).getD 0, res := g.res, x := g.slot n }))
  else []

/-- Whether a slot goes before another at a run boundary (R440). (DEDUCED, log 23.) -/
def Cand.before (a b : Cand) : Bool :=
  let old := fun (c : Cand) => 64 ≤ c.x.age
  if old a != old b then old a
  else if old a && a.x.age != b.x.age then b.x.age < a.x.age
  else if a.x.yielded != b.x.yielded then !a.x.yielded
  else if a.prio != b.prio then b.prio < a.prio
  else if a.x.lastIssue != b.x.lastIssue then a.x.lastIssue < b.x.lastIssue
  else if a.res != b.res then a.res < b.res
  else a.n < b.n

/-- The slot of a core that issues: the one whose run goes on, else the first by rank. -/
def State.chooseOn (s : State) (cs : List Cand) (core : Nat) : Option Cand :=
  let mine := cs.filter (fun c => c.core == core)
  let running := mine.find? (fun c => s.runs.any (fun r => r.core == core && r.gk == c.k && r.slot == c.n))
  running.or (mine.foldl (fun acc c => match acc with
    | some d => if c.before d then some c else acc
    | none => some c) none)

/-- The slot that issues at this step: cores take turns after the core that issued last. (DESIGN CHOICE, log 5.) -/
def State.choose (s : State) : Option Cand :=
  let cs := s.blocks.flatMap s.cands
  let cur := s.coreOf s.cur
  let cores := cs.map (·.core)
  let low := fun (l : List Nat) => l.foldl (fun acc c => match acc with
    | some d => some (min c d)
    | none => some c) (none : Option Nat)
  match (low (cores.filter (fun c => cur < c))).or (low cores) with
  | some core => s.chooseOn cs core
  | none => none

/-- The other Ready slots of the core have waited (R440). (DEDUCED, log 23.) -/
def State.ageOthers (s : State) (c : Cand) : State :=
  { s with blocks := s.blocks.map (fun b => { b with groups := b.groups.map (fun g =>
    if g.core = c.core then
      let up := fun (n : Nat) (x : Slot) =>
        if x.st = .ready ∧ ¬(c.k = ⟨b.serial, g.index⟩ ∧ c.n = n) then { x with age := x.age + 1 } else x
      { g with slot0 := up 0 g.slot0, slot1 := up 1 g.slot1 }
    else g) }) }

/-! ## The code cache (R273) -/

/-- A line of a cluster's code cache, by the line number of its virtual address. (DESIGN CHOICE, log 15.) -/
def State.codeLine (s : State) (cluster asid line : Nat) : Option (Vector Byte 128) :=
  (s.mem.code.find? (fun c => c.1 == cluster && c.2.1 == asid && c.2.2.1 == line)).map (·.2.2.2)

/-- A halfword of code, where its line is held. -/
def State.codeHalf (s : State) (cluster asid va : Nat) : Option Half :=
  (s.codeLine cluster asid (va / 128)).map (fun d =>
    (d[(va + 1) % 128]'(Nat.mod_lt _ (by decide))) ++ (d[va % 128]'(Nat.mod_lt _ (by decide))))

/-- The halfwords from a PC on, as far as the code cache holds them, up to the longest instruction. -/
def State.codeHalves (s : State) (cluster asid pc : Nat) : List Half :=
  ((List.range 6).map (fun j => s.codeHalf cluster asid (pc + 2 * j))).takeWhile Option.isSome |>.filterMap id

/-- What the fetch of a slot's instruction gives. -/
inductive Fetched where
  | ok (i : Instr)
  /-- no instruction: 0x10 -/
  | bad
  /-- a code-cache line is missing -/
  | line
  | walk (va : DWord)
  | fault (f : XFault) (va : DWord)

/-- The first byte of the page that holds an instruction's last byte, where that is another page (R273). -/
def nextPage (pc : DWord) (len : Nat) : Option DWord :=
  let p := (pc.toNat + len - 1) / 65536
  if p = pc.toNat / 65536 then none else some (BitVec.ofNat 64 (p * 65536))

/-- The bytes of an instruction that its halfwords, as far as they are held, tell of (R271). -/
def fetchLen (hs : List Half) : Nat :=
  match decode hs with
  | .ok _ len => len
  | .reject .short => 2 * hs.length + 2
  | .reject _ => if (hs.headD 0).getLsbD 0 then 4 else 2

/-- Fetch the instruction at a slot's PC (R14, R273): both pages of an instruction that spans two are translated before anything else
comes of it, and a fault names the failing page. One whose halfwords are not held, so that its length is not known, is taken to lie in
its first page when that page fails. (DEDUCED, log 127.) -/
def View.fetch (w : View) : Fetched :=
  let u : Use := ⟨.fetch, w.g.hm, false⟩
  let pc := w.sl.pc
  let hs := w.s.codeHalves (clusterOfCore w.g.core) w.b.asid pc.toNat
  let next := nextPage pc (fetchLen hs)
  let r := match decode hs with
    | .ok i _ => Fetched.ok i
    | .reject .short => .line
    | .reject _ => .bad
  match w.xlate pc u, next with
  | .miss, _ => .walk pc
  | .fault f, none => .fault f pc
  | .fault f, some _ => .fault f (BitVec.ofNat 64 (pc.toNat / 65536 * 65536))
  | .ok _, none => r
  | .ok _, some va => match w.xlate va u with
    | .miss => .walk va
    | .fault f => .fault f va
    | .ok _ => r

/-- An encoding that the decoder rejects: 0x10 (R11, R289). -/
def State.issueBad (s : State) : State := s.issue { len := 2, e := false } (fun _ => true) noCheck (fun w => .done w.doneNone)

/-- The line of code that a waiting slot needs: the one of its PC, or the one after it. -/
def State.lineWanted (s : State) (cluster asid : Nat) (pc : DWord) : Nat :=
  let line := pc.toNat / 128
  if (s.codeLine cluster asid line).isNone then line else line + 1

/-- The slots of a cluster that wait for a line of an address space. -/
def State.lineWaiters (s : State) (cluster asid : Nat) : List (GroupKey × Nat × Nat) :=
  (s.blocks.filter (fun b => b.cluster == cluster && b.asid == asid && b.st == .resident)).flatMap (fun b =>
    b.groups.flatMap (fun g => (g.slotsFor (fun r => r == .fetch)).map (fun n =>
      (⟨b.serial, g.index⟩, n, s.lineWanted cluster asid (g.slot n).pc))))

/-- The lines that the code caches keep when a cluster fills one: it may lose any other line, but not the two beside it, which
one instruction may span (R273; DESIGN CHOICE, log 15). -/
def State.keptCode (s : State) (cluster asid line : Nat) : List (Nat × Nat × Nat × Vector Byte 128) :=
  s.mem.code.filter (fun e => e.1 != cluster || (e.2.1 == asid && (e.2.2.1 == line + 1 || e.2.2.1 + 1 == line)) ||
    !Config.codeDrop s.clk e.2.1 e.2.2.1)

/-- The lanes of a slot: those that its fetch is for (R76). -/
def State.slotMask (s : State) (k : GroupKey) (n : Nat) : Mask := ((s.group? k).map (fun g => (g.slot n).mask)).getD 0

/-- A line of the code cache is filled (R273), and the slots that waited issue again. (DESIGN CHOICE, log 15.) -/
def State.codeFill? (s : State) (cluster asid line : Nat) : Option State :=
  let who := (s.lineWaiters cluster asid).filter (fun x => x.2.2 == line)
  let wake := fun (s : State) => who.foldl (fun s x => s.modSlot x.1 x.2.1 Slot.wake) s
  if who = [] then none
  else
    let part := partOfCluster cluster
    match s.engineXlate part asid (BitVec.ofNat 64 (128 * line)) ⟨.fetch, true, false⟩ with
    | (.miss, s') => if s'.mem.homeTxn = s.mem.homeTxn then none else some s'
    | (.fault _, s') => some (wake s')
    | (.ok l, s') =>
      let a : Agent := ⟨some asid, false⟩
      match s'.lineStatus a false l with
      | .ok =>
        if s'.poisonIn a l 128 then some (who.foldl (fun s x =>
          (s.takePoison x.1 x.2.1 a l (s.slotMask x.1 x.2.1)).modSlot x.1 x.2.1 Slot.wake) s')
        else
          let d : Vector Byte 128 := Vector.ofFn (fun i => s'.byteAt a (l.add i.val))
          let s' := s'.touchFor a [l, l.add 32, l.add 64, l.add 96] .normal false
          some (wake { s' with mem := { s'.mem with code := (cluster, asid, line, d) :: s'.keptCode cluster asid line } })
      | .busy => s'.askOnce false [l]
      | .lost => some (who.foldl (fun s x => (s.takeLinkDown x.1 x.2.1).modSlot x.1 x.2.1 Slot.wake) s')
      | _ => none

/-- `codeCacheFill`. (DEDUCED, log 6.) -/
def execCodeCacheFill (cluster asid line : Nat) (s : State) : Host.Outcome State Fault Refusal :=
  .next ((s.codeFill? cluster asid line).getD s)

end Sys2Proof.Machine
end

