-- ==== Sys2Proof/Machine/Quant.lean ====
section
/-! DEFINITION. The arithmetic of quantising copies (R101, R164). -/
namespace Sys2Proof.Machine

/-- The formats of a quantising copy (R163): 0 s8, 1 s4, 2 C8 through a table. -/
structure QFmt where
  fmt : Nat
  table : CTable

/-- D of R101, as a number in units of 2^-149. -/
def QFmt.bound (q : QFmt) : Nat :=
  if q.fmt = 0 then 127 * one149
  else if q.fmt = 1 then 7 * one149
  else max (val32 q.table.fx[0]).num.natAbs (val32 q.table.fx[16]).num.natAbs

/-- An integer as a value. -/
def intVal (k : Int) : FVal := .fin (decide (k < 0)) (k.natAbs * one149)

/-- dec(code) of R94. -/
def QFmt.dec (q : QFmt) (k : Int) : FVal :=
  if q.fmt = 2 then val32 (c8Inv32 q.table (BitVec.ofInt 8 k)) else intVal k

/-- rne(dec(code) × val(scale), FP32), with the canonical NaN for a NaN scale (R101, R164). -/
def QFmt.value (q : QFmt) (k : Int) (scale : Nat) : Word := toWord (windowDecode fp32 (q.dec k) (valOf fp16 scale))

/-- The code of one element under a scale (R101). -/
def QFmt.code (q : QFmt) (v : Word) (scale : Nat) : Int :=
  let x := (val32 v).num
  let s := (valOf fp16 scale).num.toNat
  if scale = 0 then 0
  else if q.fmt = 2 then c8Fwd q.table (toWord (rnd fp32 .ne x s))
  else
    let d : Int := if q.fmt = 0 then 127 else 7
    max (-d) (min d (rndInt .ne x s))

/-- Whether a word is a NaN or infinite. -/
def notFinite (w : Word) : Bool :=
  match val32 w with
  | .fin _ _ => false
  | _ => true

/-- One scale group of R101: the scale, and each element's code and new residual. -/
def QFmt.group (q : QFmt) (xs res : List Word) : Nat × List (Int × Word) :=
  let vs := (xs.zip res).map (fun x => fAdd x.1 x.2)
  if vs.any notFinite then (0x7E00, vs.map (fun _ => (0, 0)))
  else
    let m := (vs.map (fun v => (val32 v).num.natAbs)).foldl max 0
    let sc := if m = 0 then 0 else rnd fp16 .up (m : Int) q.bound
    let sc := if sc = fp16.inf then fp16.inf - 1 else sc
    (sc, vs.map (fun v =>
      let k := q.code v sc
      (k, fSub v (q.value k sc))))

/-- The bytes of a group's codes (R86, R164): an odd last nibble of s4 is written with 0 above it. -/
def QFmt.pack (q : QFmt) (ks : List Int) : List Byte :=
  if q.fmt = 1 then
    (List.range ((ks.length + 1) / 2)).map (fun i =>
      let n := fun (j : Nat) => (BitVec.ofInt 4 (ks.getD j 0)).toNat
      BitVec.ofNat 8 (n (2 * i) + 16 * n (2 * i + 1)))
  else ks.map (BitVec.ofInt 8)

/-- Element k of packed codes, as an integer. -/
def QFmt.unpack (q : QFmt) (bs : List Byte) (k : Nat) : Int :=
  if q.fmt = 1 then (BitVec.ofNat 4 ((bs.getD (k / 2) 0).toNat / 16 ^ (k % 2))).toInt
  else (bs.getD k 0).toInt

/-- Bytes of `n` codes. -/
def QFmt.bytes (q : QFmt) (n : Nat) : Nat := if q.fmt = 1 then (n + 1) / 2 else n

end Sys2Proof.Machine
end

