-- ==== Sys2Proof/Machine/Windows.lean ====
section
/-! DEFINITION. Format windows: the decoding of a view line (R97 to R99). -/
namespace Sys2Proof.Machine

/-- The value of a code byte for an element (R97): s4 nibbles, s8, or C8 through the held table, which a CFMT of 3 that is written
while EN = 1 reads as well. (DESIGN CHOICE, log 124.) -/
def Window.codeVal (w : Window) (e : Nat) (c : Byte) : FVal :=
  if w.cfmt = 0 then
    let n := bitsAt c.toNat (if e % 2 = 0 then 0 else 4) 4
    .fin (8 ≤ n) ((if 8 ≤ n then 16 - n else n) * one149)
  else if w.cfmt = 1 then
    .fin c.msb (c.toInt.natAbs * one149)
  else val32 (w.held[(c8Code c).toNat]'((c8Code c).isLt))

/-- The 16-bit pattern of an element from its code byte and scale (R97). -/
def Window.decodeElem (w : Window) (e : Nat) (c : Byte) (sc : Nat) : Nat :=
  windowDecode (if w.dfmt then bf16 else fp16) (w.codeVal e c) (valOf fp16 sc)

/-- The 16-bit patterns of the 64 elements of a view line, from the code and scale bytes as the window logic reads them (R98). -/
def State.viewElems (s : State) (w : Window) (ln : Nat) : List Nat :=
  let e0 := (128 * ln - w.view) / 2
  let byte := fun (a : Nat) => s.byteAt .device ⟨.device, a⟩
  (List.range 64).map (fun k => w.decodeElem (e0 + k) (byte (w.codePlace (e0 + k)))
    (leNat [byte (w.scalePlace (e0 + k)), byte (w.scalePlace (e0 + k) + 1)]))

/-- Decode a view line and install it clean in its slice, as the policy of the access says (R52, R98); none while a code or scale
line is not to be had. -/
def State.viewFill? (s : State) (a : Agent) (ln : Nat) (al : L2Alloc) : Option State :=
  match s.windowAt (128 * ln), s.viewSlice a (128 * ln) with
  | some (i, w), some sl =>
    if (s.viewLine a (128 * ln)).isSome then none
    else
      let ps := w.fillPlaces ln
      match s.statusOf .device false ps with
      | .ok =>
        let elems := s.viewElems w ln
        let bad := ps.any (fun l => s.poisonAt .device l)
        let l : L2Line := { L2Line.empty sl .view ln with
          valid := 0xF, poison := if bad then 0xF else 0, win := i, gen := s.winGen i,
          data := Vector.ofFn (fun (i : Fin 128) => BitVec.ofNat 8 (elems.getD (i.val / 2) 0 / 256 ^ (i.val % 2))) }
        let s := (s.touchFor .device ps .normal false).dropL2 (·.is sl .view ln)
        some (s.l2Install l al)
      | .busy => s.askOnce false ps
      | _ => none
  | _, _ => none

/-- The view lines that issued loads and texture reads name: the agents that want them and how they allocate. -/
def State.viewNeeds (s : State) : List (Agent × Nat × L2Alloc) :=
  s.ops.flatMap (fun o =>
    let want := fun (a : Agent) (al : L2Alloc) (ls : List Loc) =>
      (linesOf ((ls.filter (fun l => l.kind == .view)).map (·.pa))).map (fun ln => (a, ln, al))
    match o.body with
    | .load accs wid _ c ord _ _ => want (s.agentFor o.gk (ord == .sys)) (allocOf c) (accs.flatMap (fun x => [x.loc, x.loc.add (widthBytes wid - 1)]))
    | .tex _ _ _ locs => want (s.agentFor o.gk false) .normal (locs.map (·.2))
    | _ => [])

/-- The view lines that those accesses wait for. -/
def State.viewWants (s : State) : List (Agent × Nat × L2Alloc) := s.viewNeeds.filter (fun x => (s.viewLine x.1 (128 * x.2.1)).isNone)

/-- A view line that an access waits for is filled (R98). -/
def State.viewFillFor? (s : State) (ln : Nat) : Option State :=
  (s.viewWants.filter (fun x => x.2.1 == ln)).findSome? (fun x => s.viewFill? x.1 x.2.1 x.2.2)

/-- `viewLineFill`. -/
def execViewLineFill (line : Nat) (s : State) : Host.Outcome State Fault Refusal := .next ((s.viewFillFor? line).getD s)

/-- Fill the view lines of some places for an engine that reads them. (DEDUCED, log 39.) -/
def State.fillViews (s : State) (a : Agent) (ls : List Loc) (al : L2Alloc) : State :=
  (linesOfLocs (ls.filter (fun l => l.kind == .view))).foldl (fun s l => (s.viewFill? a (lineOf l.pa) al).getD s) s

/-- Drop the decoded lines that a test on their window's number picks. -/
def State.dropViews (s : State) (p : Nat → Bool) : State := s.dropL2 (fun l => l.kind == .view && p l.win)

/-- Change a window's registers. -/
def State.putWindow (s : State) (i : Fin 16) (w : Window) : State :=
  { s with regs := { s.regs with win := s.regs.win.set i.val w i.isLt } }

/-- A new generation of a window; when it wraps, its decoded lines go (R99). (DEDUCED, log 54.) -/
def State.bumpWindow (s : State) (i : Fin 16) : State :=
  let w := s.regs.win[i]
  let s' := s.putWindow i { w with gen := w.gen + 1 }
  if w.gen = 0xFF#8 then s'.dropViews (· == i.val) else s'

/-- The generations of a function's windows advance when a launch of one of its contexts is accepted (R99).
(DEDUCED, log 112.) -/
def State.bumpWindows (s : State) (vfn : Nat) : State :=
  (List.finRange 16).foldl (fun s i => if s.regs.win[i].vfn.toNat = vfn then s.bumpWindow i else s) s

/-- A launch that starts reads nothing that was decoded before launches it waited for had written (R100): the decoded lines of its
function's windows go. (DEDUCED, log 112.) -/
def State.freshViews (s : State) (vfn : Nat) : State :=
  s.dropViews (fun i => match s.regs.win[i]? with
    | some w => w.vfn.toNat == vfn
    | none => false)

/-- Whether issued work, or an engine's command, names a view place of a window. -/
def State.windowNamed (s : State) (w : Window) : Bool :=
  s.viewNeeds.any (fun x => w.shows (128 * x.2.1)) ||
    s.cmds.any (fun c => c.spages.any (fun p => p.2.kind == .view && w.shows p.2.pa))

/-- A window is disabled at once, with a new generation; what was translated through it completes (R96, R99). -/
def State.disableWindow (s : State) (i : Fin 16) : State :=
  let w := s.regs.win[i]
  let past := s.regs.winPast.filter (fun x => s.windowNamed x.2)
  let s := if s.windowNamed w then { s with regs := { s.regs with winPast := (i.val, { w with en := false }) :: past } } else s
  (s.putWindow i { w with en := false }).bumpWindow i

end Sys2Proof.Machine
end

