-- ==== Sys2Proof/Machine/Copy.lean ====
section
/-! DEFINITION. Copy commands (R148 to R164, R389, R390): issue, acceptance, the reads and writes of their lines, completion. -/
namespace Sys2Proof.Machine

/-! ## Shapes -/

/-- Byte ranges at a fixed pitch: start, length, count, pitch. -/
structure Rows where
  start : Nat
  len : Nat
  count : Nat
  pitch : Nat
  deriving DecidableEq, Repr

/-- The single ranges. -/
def Rows.list (r : Rows) : List (Nat × Nat) := (List.range r.count).map (fun i => (r.start + i * r.pitch, r.len))

/-- Whether some range shares a byte with [a, a + n). -/
def Rows.hits (r : Rows) (a n : Nat) : Bool :=
  let i := if a < r.start + r.len then 0 else if r.pitch = 0 then 0 else (a - r.start - r.len) / r.pitch + 1
  0 < n && 0 < r.len && i < r.count && r.start + i * r.pitch < a + n && a < r.start + i * r.pitch + r.len

/-- The byte after the last one; 0 when there is none. (DEDUCED, log 34.) -/
def Rows.stop (r : Rows) : Nat := if r.count = 0 || r.len = 0 then 0 else r.start + (r.count - 1) * r.pitch + r.len

/-- One range. -/
def Rows.one (a n : Nat) : Rows := ⟨a, n, 1, 0⟩

/-- Whether two lists of ranges share a byte. -/
def rowsMeet (xs ys : List Rows) : Bool := xs.any (fun x => ys.any (fun y => y.list.any (fun z => x.hits z.1 z.2)))

/-- The geometry of `copy.win` (R162): the height and the width of the output that is written. -/
def winOut (h fh dil pad str o0 oh : Nat) : Int :=
  let out : Int := ((h : Int) + 2 * pad - dil * ((fh : Int) - 1) - 1) / (str : Int) + 1
  if out ≤ 0 then 0 else min (oh : Int) (out - o0)

/-- Rows and pixels per row that `copy.win` writes; none when its output is empty. -/
def CopyBody.winSize : CopyBody → Option (Nat × Nat)
  | .win h w _ _ fh fw dily dilx stry strx pady padx _ _ oy0 ox0 oh ow =>
    let a := winOut h fh dily pady stry oy0 oh
    let b := winOut w fw dilx padx strx ox0 ow
    if a ≤ 0 || b ≤ 0 then none else some (a.toNat, b.toNat)
  | _ => none

/-- Where the bytes of a destination come from. -/
inductive SrcRef where
  | zero
  | lit (b : Byte)
  | at_ (addr : Nat)
  /-- byte x of the row that index i names (R155) -/
  | row (i x : Nat)
  deriving DecidableEq, Repr

/-- The destination address: a VA, or a local address (R151). -/
def CopyCmd.dstAt (c : CopyCmd) : Nat := if c.dls then c.dst.toNat % 2 ^ 32 else c.dst.toNat
/-- The source address. -/
def CopyCmd.srcAt (c : CopyCmd) : Nat := if c.sls then c.src.toNat % 2 ^ 32 else c.src.toNat

/-- The format and table of a `copy.red` (R163, R164). -/
def CopyCmd.qfmt (s : State) (c : CopyCmd) : QFmt :=
  match c.body with
  | .red _ _ fmt tbl _ _ => ⟨fmt, match s.launch? c.launch with
    | some l => l.table tbl
    | none => linearTable⟩
  | _ => ⟨0, linearTable⟩

/-- Code bytes of n elements in a format (R164). -/
def codeBytes (fmt n : Nat) : Nat := if fmt = 1 then (n + 1) / 2 else n

/-- Destination ranges by number: 0 DST, 1 SCL, 2 RES (R158). -/
def CopyCmd.dests (c : CopyCmd) : List (Nat × List Rows) :=
  let d := c.dstAt
  match c.body with
  | .lin n => [(0, [.one d n])]
  | .fill n _ => [(0, [.one d n])]
  | .rect w h dep _ dp _ dpl => [(0, (List.range dep).map (fun z => ⟨d + z * dpl, w, h, dp⟩))]
  | .gath n _ rb _ _ => [(0, [.one d (n * rb)])]
  | .win _ _ ch esz fh fw .. => match c.body.winSize with
    | some (a, b) => [(0, [.one d (a * b * fh * fw * ch * 2 ^ esz)])]
    | none => [(0, [])]
  | .red n op fmt _ res scl =>
    if op = 0 then [(0, [.one d (codeBytes fmt n)]), (1, [.one scl.toNat (2 * ((n + 31) / 32))]), (2, [.one res.toNat (4 * n)])]
    else [(0, [.one d (4 * n)])]
  | .bad _ => [(0, [])]

/-- Source pixels that `copy.win` reads. -/
def CopyBody.winRows (src : Nat) : CopyBody → List Rows
  | .win h w ch esz fh fw dily dilx stry strx pady padx srow spix oy0 ox0 oh ow =>
    match (CopyBody.win h w ch esz fh fw dily dilx stry strx pady padx srow spix oy0 ox0 oh ow).winSize with
    | some (a, b) =>
      let ys := ((List.range a).flatMap (fun o => (List.range fh).map (fun f => ((oy0 + o) * stry + f * dily, pady)))).filterMap
        (fun p => if p.2 ≤ p.1 && p.1 - p.2 < h then some (p.1 - p.2) else none)
      let xs := ((List.range b).flatMap (fun o => (List.range fw).map (fun f => ((ox0 + o) * strx + f * dilx, padx)))).filterMap
        (fun p => if p.2 ≤ p.1 && p.1 - p.2 < w then some (p.1 - p.2) else none)
      ys.eraseDups.flatMap (fun y => xs.eraseDups.map (fun x => .one (src + y * srow + x * spix) (ch * 2 ^ esz)))
    | none => []
  | _ => []

/-- Source ranges: whether in local store, and the ranges, for a gather the rows that its indices name; the buffers that one operation reads and writes by design are
not among them (R530). (DEDUCED, log 35.) -/
def CopyCmd.sources (c : CopyCmd) : List (Bool × List Rows) :=
  let a := c.srcAt
  match c.body with
  | .lin n => [(c.sls, [.one a n])]
  | .rect w h dep sp _ spl _ => [(c.sls, (List.range dep).map (fun z => ⟨a + z * spl, w, h, sp⟩))]
  | .gath _ _ rb sp _ => [(c.sls, c.rows.map (fun i => .one (a + i * sp) rb))]
  | .win .. => [(c.sls, c.body.winRows a)]
  | .red n op fmt _ _ scl =>
    if op = 1 then [(c.sls, [.one a (codeBytes fmt n)]), (false, [.one scl.toNat (2 * ((n + 31) / 32))])]
    else [(c.sls, [.one a (4 * n)])]
  | _ => []

/-- Whether a destination lies in local store. -/
def CopyCmd.destLocal (c : CopyCmd) (d : Nat) : Bool := d = 0 && c.dls

/-! ## Statuses (R156, R530) -/

/-- Whether every local endpoint lies in the block's allocation (R33, R156). -/
def CopyCmd.inLocal (c : CopyCmd) (alloc : Nat) : Bool :=
  c.dests.all (fun d => !c.destLocal d.1 || d.2.all (fun r => r.stop ≤ alloc)) &&
  c.sources.all (fun x => !x.1 || x.2.all (fun r => r.stop ≤ alloc)) &&
  (match c.body with
    | .gath n idx .. => !c.ils || n = 0 || idx % 2 ^ 32 + 4 * n ≤ alloc
    | _ => true)

/-- Whether a field lies outside its limits (R151, R152, R154, R155, R161, R163). (DEDUCED, log 35; DEDUCED, log 36.) -/
def CopyCmd.badField (c : CopyCmd) : Bool :=
  c.dcache = 3 ||
  match c.body with
  | .lin _ => false
  | .fill n _ => c.dstAt % 4 ≠ 0 || n % 4 ≠ 0
  | .rect w h dep _ dp _ dpl =>
    2 ^ 24 < w || 65535 < h || (1 < h && dp < w) || (1 < dep && (dpl : Int) < dp * ((h : Int) - 1) + w)
  | .gath _ idx rb _ _ => idx % 4 ≠ 0 || rb % 4 ≠ 0 || rb < 4 || 65536 < rb
  | .win h w ch esz fh fw dily dilx stry strx _ _ _ spix _ _ oh ow =>
    h = 0 || w = 0 || ch = 0 || esz = 3 || fh = 0 || 31 < fh || fw = 0 || 31 < fw || dily = 0 || 64 < dily || dilx = 0 || 64 < dilx ||
    stry = 0 || 64 < stry || strx = 0 || 64 < strx || spix < ch * 2 ^ esz || oh = 0 || ow = 0
  | .red n op fmt tbl res scl =>
    2 ^ 28 < n || 2 < op || (op < 2 && 2 < fmt) || (op < 2 && fmt = 2 && 7 < tbl) || (op = 0 && res.toNat % 4 ≠ 0) ||
    (op < 2 && scl.toNat % 2 ≠ 0)
  | .bad _ => false

/-- Whether a source byte is a destination byte, or two destinations share a byte (R530). -/
def CopyCmd.overlaps (c : CopyCmd) : Bool :=
  let ds := c.dests
  ds.any (fun d => c.sources.any (fun x => x.1 == c.destLocal d.1 && rowsMeet x.2 d.2)) ||
  ds.any (fun d => ds.any (fun e => d.1 < e.1 && c.destLocal d.1 == c.destLocal e.1 && rowsMeet d.2 e.2))

/-- Whether the command writes nothing (R152, R154, R155, R162, R163). (DEDUCED, log 34.) -/
def CopyCmd.empty (c : CopyCmd) : Bool := c.dests.all (fun d => d.2.all (fun r => r.stop = 0))

/-- The status of R156 that the command is refused with, but for 0x06 and 0x01; 0 for none. (DEDUCED, log 34.) -/
def CopyCmd.refusal (c : CopyCmd) (alloc : Nat) : Nat :=
  match c.body with
  | .bad st => st
  | _ => if !c.inLocal alloc then 2 else if c.badField then 3 else if c.overlaps then 4 else 0

/-! ## Lines -/

/-- The lines of ranges in ascending order. -/
def rowsLines (rs : List Rows) : List Nat :=
  (rs.flatMap (fun r => r.list.flatMap (fun x =>
    if x.2 = 0 then [] else (List.range ((x.1 + x.2 - 1) / 128 - x.1 / 128 + 1)).map (x.1 / 128 + ·)))).foldr
    (fun ln acc => if acc.head? = some ln then acc else ln :: acc) []

/-- What the command has to do, in order: destination lines, or groups of 32 elements for `copy.red` (R101, R158).
(DEDUCED, log 38.) -/
def CopyCmd.units (c : CopyCmd) : List Nat :=
  match c.body with
  | .red n .. => List.range ((n + 31) / 32)
  | _ => rowsLines ((c.dests.map (·.2)).flatten)

/-- Where a destination byte comes from; none where the command writes no byte. -/
def CopyCmd.srcOf (c : CopyCmd) (addr : Nat) : Option SrcRef :=
  let d := c.dstAt
  let o := addr - d
  if addr < d then none
  else match c.body with
  | .lin n => if o < n then some (.at_ (c.srcAt + o)) else none
  | .fill n pat => if o < n then some (.lit (BitVec.ofNat 8 (pat.toNat / 256 ^ (o % 4)))) else none
  | .rect w h dep sp dp spl dpl =>
    let z := if dep ≤ 1 then 0 else o / dpl
    let o' := o - z * dpl
    let y := if h ≤ 1 then 0 else o' / dp
    let x := o' - y * dp
    if z < dep && y < h && x < w then some (.at_ (c.srcAt + z * spl + y * sp + x)) else none
  | .gath n _ rb _ _ => if o < n * rb then some (.row (o / rb) (o % rb)) else none
  | .win h w ch esz fh fw dily dilx stry strx pady padx srow spix oy0 ox0 oh ow =>
    match (CopyBody.win h w ch esz fh fw dily dilx stry strx pady padx srow spix oy0 ox0 oh ow).winSize with
    | none => none
    | some (a, b) =>
      let e := 2 ^ esz
      let el := o / e
      let cc := el % ch
      let fx := el / ch % fw
      let fy := el / ch / fw % fh
      let px := el / ch / fw / fh
      let y := (oy0 + px / b) * stry + fy * dily
      let x := (ox0 + px % b) * strx + fx * dilx
      if px < a * b then
        some (if pady ≤ y && y - pady < h && padx ≤ x && x - padx < w
          then .at_ (c.srcAt + (y - pady) * srow + (x - padx) * spix + cc * e + o % e) else .zero)
      else none
  | _ => none

/-- The destination bytes of a line with their sources. -/
def CopyCmd.lineRefs (c : CopyCmd) (ln : Nat) : List (Nat × SrcRef) :=
  (upFrom (128 * ln) 128).filterMap (fun a => (c.srcOf a).map (fun r => (a, r)))

/-! ## Issue (R149 to R153, R389, R390) -/

/-- The engine of a cluster (R148). -/
def engineOf (cluster : Nat) : Nat :=
  Config.enginesPerPartition * partOfCluster cluster + cluster % Config.clustersPerPartition % Config.enginesPerPartition

/-- A command with its flags word (R151) and nothing else yet. -/
def View.command (w : View) (kind : Nat) (t : Opnd) (dst src : DWord) (flags : Nat) (fut : DWord) (body : CopyBody) : CopyCmd :=
  { id := w.s.ids, gk := w.k, gid := w.g.gid, launch := w.b.launch, corr := w.l.corr, asid := w.b.asid, cluster := w.b.cluster,
    engine := engineOf w.b.cluster, hm := w.g.hm, kind := kind, dst := dst, src := src, dls := bitAt flags 0, sls := bitAt flags 1,
    fr := bitAt flags 2, sba := bitAt flags 3, sb := ⟨bitsAt flags 4 4, Nat.mod_lt _ (by decide)⟩, dcache := bitsAt flags 8 2,
    ils := bitAt flags 10, fut := fut, tok := t, body := body, slot := w.n, accepted := false, stamp := 0, status := 0, entries := 0,
    todo := [], buf := none, held := [], skip := 0, seen := w.g.seen, dpages := [], spages := [], owned := [], llines := [], stopped := false, rows := [],
    idxBad := false,
    watched := [] }

/-- S register `k` of a parameter run. -/
def View.param (w : View) (b : Opnd) (k : Nat) : Word :=
  match opndPlus b k with
  | some x => w.sval x
  | none => 0

/-- A 64-bit parameter: low half first. -/
def View.param64 (w : View) (b : Opnd) (k : Nat) : DWord := w.param b (k + 1) ++ w.param b k

/-- `copy.lin` from its parameter run (R152). -/
def View.linCommand (w : View) (t b : Opnd) : CopyCmd :=
  w.command 0 t (w.param64 b 0) (w.param64 b 2) (w.param b 5).toNat (w.param64 b 6) (.lin (w.param b 4).toNat)

/-- `copy.fill` from its parameter run (R152). -/
def View.fillCommand (w : View) (t b : Opnd) : CopyCmd :=
  { w.command 5 t (w.param64 b 0) 0 (w.param b 3).toNat (w.param64 b 5) (.fill (w.param b 2).toNat (w.param b 4)) with sls := false }

/-- The kind-specific fields of a parameter record (R154, R155, R161, R163). -/
def bodyOf (kind : Nat) (r : List Byte) : CopyBody :=
  let f := fun (o n : Nat) => fieldAt r o n
  if kind = 1 then .rect (f 0x14 4) (f 0x18 4) (f 0x1C 2) (f 0x20 4) (f 0x24 4) (f 0x28 8) (f 0x30 8)
  else if kind = 2 then
    .win (f 0x14 2) (f 0x16 2) (f 0x18 2) (min (f 0x1A 1) 3) (f 0x1C 1) (f 0x1D 1) (f 0x1E 1) (f 0x1F 1) (f 0x20 1) (f 0x21 1)
      (f 0x22 1) (f 0x23 1) (f 0x24 4) (f 0x28 4) (f 0x2C 2) (f 0x2E 2) (f 0x30 2) (f 0x32 2)
  else if kind = 3 then .gath (f 0x14 4) (f 0x18 8) (f 0x20 4) (f 0x24 4) (f 0x28 4)
  else .red (f 0x14 4) (f 0x18 1) (f 0x19 1) (f 0x1A 1) (BitVec.ofNat 64 (f 0x20 8)) (BitVec.ofNat 64 (f 0x28 8))

/-- A record command from its parameter record (R149, R153). Of a record that is refused for where it lies nothing is read, its flags
neither. (DESIGN CHOICE, log 123.) -/
def View.recordCommand (w : View) (kind : Nat) (t b : Opnd) : CopyCmd :=
  let a := (w.param b 0).toNat
  if w.b.alloc < a + 64 then w.command kind t 0 0 0 0 (.bad 2)
  else if a % 64 ≠ 0 then w.command kind t 0 0 0 0 (.bad 3)
  else
    let r := w.b.loc.read a 64
    w.command kind t (BitVec.ofNat 64 (fieldAt r 0 8)) (BitVec.ofNat 64 (fieldAt r 8 8)) (fieldAt r 0x10 4)
      (BitVec.ofNat 64 (fieldAt r 0x38 8)) (bodyOf kind r)

/-- Whether the group's local store may be read at issue in program order (R149): earlier local accesses are performed, and
no copy has locked the bytes. -/
def View.localReady (w : View) (a n : Nat) : Bool :=
  !(w.s.ops.any (fun o => o.gk == w.k && o.body.holdsLocal)) && !(w.b.locks.any (fun ln => a < 128 * ln + 128 && 128 * ln < a + n))

/-- Commands that an engine holds. (DEDUCED, log 32.) -/
def State.engineLoad (s : State) (e : Nat) : Nat := (s.cmds.filter (fun c => c.engine == e)).length

/-- What a copy command's registers are (R276, R387, R389). -/
def copyForm (e : Bool) (t b : Opnd) (n : Nat) : Form :=
  { len := 4, e := e, srcs := opndRun b n, toks := [t], kind := .copy, access := true }

/-- Issue a copy command: nothing with no lane active (R388); a stall at 63 commands (R150) or a full engine (R148).
(DEDUCED, log 32.) -/
def State.copyIssue (s : State) (e : Bool) (t b : Opnd) (n : Nat) (byRecord : Bool) (cmd : View → CopyCmd) : State :=
  s.issue (copyForm e t b n) (fun _ => !opndRunOk b n) noCheck (fun w =>
    if w.act = 0 then .done w.doneNone
    else if 63 ≤ w.g.cpCnt then .wait (.count 2)
    else if 32 ≤ w.s.engineLoad (engineOf w.b.cluster) then .wait .engine
    else if byRecord && !w.localReady (w.param b 0).toNat 64 then .hold
    else
      .done { g := { w.g with cpCnt := w.g.cpCnt + 1 }.markOp (regsOf w.g.hm [t]) .token w.s.ids false,
              post := fun s => { s with cmds := s.cmds ++ [cmd w], ids := s.ids + 1 } })

/-- `copy.lin` (R152, R389). -/
def execCopyLin (e : Bool) (t b : Opnd) (s : State) : Host.Outcome State Fault Refusal :=
  .next (s.copyIssue e t b 8 false (fun w => w.linCommand t b))
/-- `copy.rect` (R154, R389). -/
def execCopyRect (e : Bool) (t b : Opnd) (s : State) : Host.Outcome State Fault Refusal :=
  .next (s.copyIssue e t b 1 true (fun w => w.recordCommand 1 t b))
/-- `copy.win` (R161, R389). -/
def execCopyWin (e : Bool) (t b : Opnd) (s : State) : Host.Outcome State Fault Refusal :=
  .next (s.copyIssue e t b 1 true (fun w => w.recordCommand 2 t b))
/-- `copy.gath` (R155, R389). -/
def execCopyGath (e : Bool) (t b : Opnd) (s : State) : Host.Outcome State Fault Refusal :=
  .next (s.copyIssue e t b 1 true (fun w => w.recordCommand 3 t b))
/-- `copy.red` (R163, R389). -/
def execCopyRed (e : Bool) (t b : Opnd) (s : State) : Host.Outcome State Fault Refusal :=
  .next (s.copyIssue e t b 1 true (fun w => w.recordCommand 4 t b))
/-- `copy.fill` (R152, R389). -/
def execCopyFill (e : Bool) (t b : Opnd) (s : State) : Host.Outcome State Fault Refusal :=
  .next (s.copyIssue e t b 7 false (fun w => w.fillCommand t b))

/-! ## The engine's memory -/

/-- The command with an identifier. -/
def State.cmd? (s : State) (id : Nat) : Option CopyCmd := s.cmds.find? (fun c => c.id == id)

/-- Replace a command. -/
def State.putCmd (s : State) (c : CopyCmd) : State := { s with cmds := s.cmds.map (fun x => if x.id = c.id then c else x) }

/-- What translating a list of pages for an engine answers (R41). -/
inductive Pages where
  | ok (s : State) (ps : List (Nat × Loc))
  | fault (s : State) (f : XFault) (va : Nat)
  | wait (s : State)

/-- Translate the page of each address once, in order, keeping those that are known (R41). -/
def State.enginePages (s : State) (part asid : Nat) (u : Use) (known : List (Nat × Loc)) : List Nat → Pages
  | [] => .ok s known
  | va :: r =>
    if known.any (fun p => p.1 == va / 65536) then s.enginePages part asid u known r
    else
      match s.engineXlate part asid (BitVec.ofNat 64 va) u with
      | (.ok l, s') => s'.enginePages part asid u (known ++ [(va / 65536, { l with pa := l.pa - va % 65536 })]) r
      | (.fault f, s') => .fault s' f va
      | (.miss, s') => .wait s'

/-- The place of an address through translated pages. -/
def pageLoc (ps : List (Nat × Loc)) (va : Nat) : Option Loc := (ps.find? (fun p => p.1 == va / 65536)).map (fun p => p.2.add (va % 65536))

/-- The partition of a command's engine. -/
def CopyCmd.part (c : CopyCmd) : Nat := c.engine / Config.enginesPerPartition

/-- The agent of an engine's accesses: die scope (R125). -/
def CopyCmd.agent (c : CopyCmd) : Agent := ⟨some c.asid, false⟩

/-- The context fault of an engine (R41): it stops, and the context halts. -/
def State.copyFault (s : State) (c : CopyCmd) (f : XFault) (va : Nat) (acc : Acc) : State :=
  (s.putCmd { c with stopped := true }).engineFault c.asid f (BitVec.ofNat 64 va) acc c.hm c.part (0x8000 + c.engine) c.corr

/-- The worst of what an engine accepted at a stamp finds at some places. -/
def State.statusAfter (s : State) (a : Agent) (wr : Bool) (stamp : Nat) (ls : List Loc) : LineStatus :=
  let sts := (linesOfLocs ls).map (s.lineAfter a wr stamp)
  if sts.contains .lost then .lost
  else if sts.contains .owned then .owned
  else if sts.contains .busy then .busy
  else if sts.contains .viewMiss then .viewMiss
  else .ok

/-- Whether a local-store line is locked by a command accepted before a stamp (R68, R159). -/
def State.localOwned (s : State) (serial stamp addr : Nat) : Bool :=
  s.cmds.any (fun c => c.gk.block == serial && c.stamp < stamp && c.llines.contains (lineOf addr))

/-! ## Acceptance (R148, R156, R158) -/

/-- The lines of a destination's translated pages, of device or peer kind, from its first line to its last (R158). -/
def CopyCmd.linesOwned (c : CopyCmd) (pages : List (Nat × Loc)) : List OwnedLine :=
  c.dests.flatMap (fun d =>
    if c.destLocal d.1 then []
    else
      let lns := rowsLines d.2
      match lns.head?, lns.getLast? with
      | some lo, some hi =>
        pages.flatMap (fun p =>
          if (p.2.kind == .device || p.2.kind == .peer) && lns.any (fun ln => ln / 512 == p.1) then
            (upFrom (512 * p.1) 512).filterMap (fun ln =>
              if lo ≤ ln && ln ≤ hi then some ⟨d.1, 128 * ln, p.2.add (128 * (ln % 512))⟩ else none)
          else [])
      | _, _ => [])

/-- The first byte of every destination line in memory. -/
def CopyCmd.destVas (c : CopyCmd) : List Nat :=
  c.dests.flatMap (fun d => if c.destLocal d.1 then [] else (rowsLines d.2).map (128 * ·))

/-- The first byte of every source line in memory, but for the rows that indices choose. -/
def CopyCmd.srcVas (c : CopyCmd) : List Nat :=
  c.sources.flatMap (fun x => if x.1 then [] else (rowsLines x.2).map (128 * ·))

/-- Translate the destination pages at acceptance; a page that fails is left for later (R41). -/
def State.acceptPages (s : State) (c : CopyCmd) (known : List (Nat × Loc)) : List Nat → Sum State (State × List (Nat × Loc))
  | [] => .inr (s, known)
  | va :: r =>
    if known.any (fun p => p.1 == va / 65536) then s.acceptPages c known r
    else
      match s.engineXlate c.part c.asid (BitVec.ofNat 64 va) ⟨.copyWrite, c.hm, false⟩ with
      | (.ok l, s') => s'.acceptPages c (known ++ [(va / 65536, { l with pa := l.pa - va % 65536 })]) r
      | (.fault _, s') => s'.acceptPages c known r
      | (.miss, s') => .inl s'

/-- Ownership entries: for each destination, one in each die's table where it has pages (R158). -/
def CopyCmd.entriesFor (c : CopyCmd) (own : List OwnedLine) : Nat :=
  (c.dests.map (fun d => b2n (own.any (fun o => o.dest == d.1 && o.loc.kind == .device)) +
    b2n (own.any (fun o => o.dest == d.1 && o.loc.kind == .peer)))).sum

/-- Take ownership of lines (R53, R60, R68, R70): the L1s of the issuing cluster drop them, and the remote-data cache gives
up its copies. -/
def State.takeLines (s : State) (cluster : Nat) (own : List OwnedLine) : State :=
  let has := fun (k : MemKind) (ln : Nat) => own.any (fun o => o.loc.kind == k && lineOf o.loc.pa == ln)
  (s.surrender (fun l => has .peer l.line)).l1Drop (fun l => clusterOfCore l.core == cluster && has l.kind l.line)

/-- A cause that an engine or the slice logic finds for a group after issue (R394, R448): deferred, or, when the group has
ended, the halt of its context (R175). (DEDUCED, log 40; DEDUCED, log 41.) -/
def State.laterCause (s : State) (k : GroupKey) (asid : Nat) (corr gid : Word) (c : Cause) : State :=
  match s.group? k with
  | some g => if g.ended then s.goneRecord asid c.code c.sub corr gid c.tval none else s.putGroup k { g with deferred := g.deferred ++ [c] }
  | none => s.goneRecord asid c.code c.sub corr gid c.tval none

/-! ## Future words (R171, R173) -/

/-- Place of the 64-bit word of a future. -/
def State.wordAt (s : State) (a : Agent) (l : Loc) : DWord := BitVec.ofNat 64 (s.numAt a l 8)

/-- Write 64 bits at a home slice (R106, R122): peer memory at its home. -/
def State.homeWrite (s : State) (a : Agent) (l : Loc) (bs : List Byte) : State :=
  match l.kind with
  | .peer => s.peerHomeWrite ((upFrom l.pa bs.length).zip bs)
  | _ => s.writeBytes a l bs

/-- The slice whose logic serves a place (R528). -/
def State.sliceFor (s : State) (asid : Nat) (l : Loc) : Nat :=
  match s.viaOf ⟨some asid, false⟩ l.pa with
  | .slice n => n
  | .controller => sliceShared l.pa

/-- Start the walk of a wait list after a resolution (R174). -/
def State.startWalk (s : State) (asid launch slice : Nat) (val : Word) (old : DWord) : State :=
  let x : ListWalk := { id := s.ids, asid := asid, launch := launch, slice := slice, val := val,
                        next := BitVec.ofNat 64 (bitsAt old.toNat 2 48 * 64 + bitsAt old.toNat 50 3), acts := [], data := [], stopped := false }
  { s with listWalks := s.listWalks ++ [x], ids := s.ids + 1 }

/-- Whether a transaction under way still has to write a word or a descriptor: others on it wait (R171, R176). -/
def State.queueHeld (s : State) (id : Nat) (l : Loc) : Bool :=
  let has := fun (acts : List SliceAct) => acts.any (fun a => match a with
    | .store x _ => x.lineLoc == l.lineLoc
    | _ => false)
  s.ops.any (fun o => o.id != id && (match o.body with
    | .slice _ x => has x.acts
    | _ => false)) || s.listWalks.any (fun x => x.id != id && has x.acts)

/-- Resolve a future (R173): none when the word is resolved already. -/
def State.resolve? (s : State) (asid launch : Nat) (l : Loc) (val : Word) : Option State :=
  let a := Agent.ctx asid
  let old := s.wordAt a l
  let st := bitsAt old.toNat 0 2
  if 2 ≤ st then none
  else
    let s' := s.homeWrite a l (leBytes 8 (2 + val.toNat * 2 ^ 32))
    some (if st = 1 then s'.startWalk asid launch (s.sliceFor asid l) val old else s')

/-- An address of a structure that must be aligned; another address gives a free value. (DESIGN CHOICE, log 37.) -/
def alignedTo (n a : Nat) : Nat := if a % n = 0 then a else n * Config.alignedUnit (a / n)

/-! ## Completion (R157) -/

/-- The token word of a status (R156). -/
def tokenOf (status : Nat) : Word := 0x80000000#32 ||| BitVec.ofNat 32 (status % 256)

/-- The register of a token as it was named at issue (R365). -/
def tokReg (hm : Bool) (t : Opnd) : List RegId := regsOf hm [t]

/-- Slots of the clusters of an engine that wait for room there issue again (R148). -/
def State.wakeEngine (s : State) (engine : Nat) : State :=
  { s with blocks := s.blocks.map (fun b =>
      if engineOf b.cluster = engine then { b with groups := b.groups.map (fun g => g.wakeIf (fun r => r == .engine)) } else b) }

/-- Write a token word to its register, lower a count and drop the pending mark; an ended group takes nothing (R157). Reading the
token acquires (R128). (DEDUCED, log 43.) -/
def State.giveToken (s : State) (k : GroupKey) (id : Nat) (ws : List RegWrite) (f : Group → Group) : State :=
  (s.modGroup k (fun g => if g.ended then g else f (((ws.foldl Group.writeReg g).noteTokens id).unpend id))).wakeGroup k

/-- The last steps of a command, its future resolved: the stage barrier, the token, the count (R157). -/
def State.copyEnd (s : State) (c : CopyCmd) : State :=
  let s := if c.sba then s.addOp ⟨c.gk.block, 33⟩ c.slot (.stageArr c.gk.block c.sb) else s
  let ws : List RegWrite := (tokReg c.hm c.tok).map (fun r => ⟨r, 0, .s (tokenOf c.status)⟩)
  let s := s.giveToken c.gk c.id ws Group.cpDone
  (({ s with cmds := s.cmds.filter (fun x => !(x.id == c.id)) }).wakeEngine c.engine).releaseBlocks

/-- Complete a command that has written its last line (R157, R175): the future first, which the engine translates; a future in host
memory makes the completion a release at system scope (R132, R133). -/
def State.copyFinish (s : State) (c : CopyCmd) : Option State :=
  let c := { c with owned := [], llines := [], entries := 0, todo := [], buf := none }
  let s := s.putCmd c
  if !c.fr then some (s.copyEnd c)
  else
    let fut := alignedTo 8 c.fut.toNat
    match s.engineXlate c.part c.asid (BitVec.ofNat 64 fut) ⟨.atomic, c.hm, true⟩ with
    | (.fault f, s') => some (s'.copyFault c f fut .atomic)
    | (.miss, s') => progress s s'
    | (.ok l, s') =>
      if s'.queueHeld c.id l then none
      else match s'.lineStatus c.agent true l with
      | .ok =>
        if s'.poisonIn c.agent l 8 then
          some (s'.copyFault c { cause := 0x23, sub := s'.poisonCode c.agent l, level := 3, ent := BitVec.ofNat 64 l.lineLoc.pa } fut .atomic)
        else
        match (s'.sysRelease ⟨some c.asid, l.kind.isHost⟩).resolve? c.asid c.launch l (tokenOf c.status) with
        | some t => some (t.copyEnd c)
        | none => some ((s'.laterCause c.gk c.asid c.corr c.gid { code := 0x19, sub := 0, tval := 0, slot := c.slot }).copyEnd c)
      | .busy => s'.askOnce true [l]
      | .lost => some (s'.copyFault c { cause := 0x25, sub := 0, level := 3, ent := 0 } fut .atomic)
      | _ => none

/-- Whether the work of a group issued before an identifier is performed, as a copy command needs, and what the group may have
observed of its core's stores (R124, R125). (DEDUCED, log 33.) -/
def State.groupDone (s : State) (k : GroupKey) (id seen : Nat) : Bool :=
  !(s.ops.any (fun o => o.gk == k && o.id < id && (o.body.holdsFence .die || o.body.acquires))) && s.observedDone k seen

/-- Whether the agents of a context may work: it is resident and no halt line has arrived (R450). -/
def State.ctxRuns (s : State) (asid : Nat) : Bool := ((s.ctx? asid).map Ctx.runs).getD false

/-- Whether pages of an address space are being moved: until they have been, its context begins nothing (R46). -/
def State.moving (s : State) (asid : Nat) : Bool := s.jobs.any (fun j => j.asid == asid && j.move.isSome && j.phase == 0)

/-- Whether a context is resident and not halting: a traversal unit and the Cirque begin nothing between the event and the
halt line, so that what has faulted is made again only after a resume (R232, R450). (DEDUCED, log 96.) -/
def State.ctxOpen (s : State) (asid : Nat) : Bool := ((s.ctx? asid).map (fun c => c.halt == .running)).getD false && !s.moving asid

/-- What reading the indices of a gather at acceptance gives. -/
inductive IndexRes where
  | ok (s : State) (rows : List Nat)
  | fault (s : State) (f : XFault) (va : Nat)
  | wait (s : Option State)

/-- The rows that the indices of a gather name, read as a die-scope plain load reads (R155, R530): what is compared with the
destination has to be known before the command is accepted, so a list that cannot be read stops the engine there.
(DEDUCED, log 35.) -/
def State.gathRows (s : State) (c : CopyCmd) (alloc : Nat) : IndexRes :=
  match c.body with
  | .gath n idx _ _ nr =>
    let base := if c.ils then idx % 2 ^ 32 else idx
    let named := fun (byte : Nat → Byte) =>
      (((List.range n).map (fun i => leNat ((upFrom (base + 4 * i) 4).map byte))).filter (· < nr)).eraseDups
    if n = 0 || base % 4 ≠ 0 || (c.ils && alloc < base + 4 * n) then .ok s []
    else if c.ils then
      (if (upFrom (lineOf base) (lineOf (base + 4 * n - 1) - lineOf base + 1)).any (fun ln => s.localOwned c.gk.block s.ids (128 * ln))
       then .wait none else .ok s (named (fun a => ((s.block? c.gk.block).map (fun b => b.loc.get a)).getD 0)))
    else
      let vas := (upFrom (lineOf base) (lineOf (base + 4 * n - 1) - lineOf base + 1)).map (128 * ·)
      match s.enginePages c.part c.asid ⟨.copyRead, c.hm, false⟩ [] vas with
      | .fault s' f va => .fault s' f va
      | .wait s' => .wait (progress s s')
      | .ok s1 ps =>
        let ls := vas.filterMap (pageLoc ps)
        let s2 := s1.fillViews c.agent ls .normal
        match s2.statusAfter c.agent false s2.ids ls with
        | .ok => match ls.find? (fun l => s2.poisonIn c.agent l 128) with
          | some l => .fault s2 { cause := 0x23, sub := s2.poisonCode c.agent l, level := 3, ent := BitVec.ofNat 64 l.lineLoc.pa } base
          | none => .ok s2 (named (fun a => match pageLoc ps a with
            | some l => s2.byteAt c.agent l
            | none => 0))
        | .lost => .fault s2 { cause := 0x25, sub := 0, level := 3, ent := 0 } base
        | .busy => .wait (s2.askOnce false ls)
        | .viewMiss => .wait (progress s s2)
        | _ => .wait none
  | _ => .ok s []

/-- The claims of a command in the reproducible range (R480); none on a conflict. -/
def State.copyClaims (s : State) (c : CopyCmd) : Option State :=
  match s.ctx? c.asid, s.block? c.gk.block, s.launch? c.launch with
  | some x, some b, some l => s.claimLines x l.lseq b.ownKey (x.ownLines (c.destVas ++ c.srcVas))
  | _, _, _ => some s

/-- A command is refused with a status: no ownership, and it completes at once (R156). (DEDUCED, log 34.) -/
def State.copyRefuse (s : State) (c : CopyCmd) (st : Nat) : Option State :=
  let c := { c with accepted := true, status := st, stamp := s.ids }
  ({ s with ids := s.ids + 1 }.putCmd c).copyFinish c

/-- An accepted command takes ownership of its lines (R126, R158); with a peer or host destination it comes after the group's
earlier accesses at system scope (R125). -/
def State.copyOwn (s : State) (c : CopyCmd) (pages : List (Nat × Loc)) (own : List OwnedLine) (need : Nat) : State :=
  let ll := if c.dls then c.dests.flatMap (fun d => if d.1 = 0 then rowsLines d.2 else []) else []
  let c := { c with accepted := true, stamp := s.ids, entries := need, todo := c.units, dpages := pages, owned := own, llines := ll }
  let s := s.sysRelease ⟨some c.asid, pages.any (fun p => p.2.kind != .device)⟩
  let s := { s with ids := s.ids + 1 }.takeLines c.cluster own
  (s.modBlock c.gk.block (fun b => { b with locks := b.locks ++ ll })).putCmd c

/-- Take the ownership of a command that nothing refuses (R41, R158), once its entries and its lines are to be had. -/
def State.copyTake? (s : State) (c : CopyCmd) : Option State :=
  match s.acceptPages c [] c.destVas with
  | .inl s' => progress s s'
  | .inr (s2, pages) =>
    let all := c.linesOwned pages
    let need := c.entriesFor all
    let used := ((s.cmds.filter (fun x => x.engine == c.engine)).map (·.entries)).sum
    let own := all.filter (fun o => s.lineFree c.agent true o.loc != .lost)
    if 8 < used + need then none
    else if own.any (fun o => s.lineFree c.agent true o.loc == .busy) then s.askOnce true (own.map (·.loc))
    else some (s2.copyOwn c pages own need)

/-- What stands in the way of a command's claims (R480): its words of the side table are read and written as its group's are. -/
def State.copyClaimStop (s : State) (c : CopyCmd) : Option ClaimStop :=
  (s.ctx? c.asid).bind (fun x => s.claimStop x (x.ownLines (c.destVas ++ c.srcVas)))

/-- Accept a command whose indices have been read: refused with the first status that holds, in the order of R156, or taken. -/
def State.copyDecide? (s : State) (c : CopyCmd) (alloc : Nat) : Option State :=
  let st := c.refusal alloc
  if st ≠ 0 then s.copyRefuse c st
  else match s.copyClaimStop c with
  | some (.wait ls) => s.askOnce true ls
  | some (.fault f) => some (s.copyFault c f c.dstAt .copyWrite)
  | none => match s.copyClaims c with
  | none => (s.laterCause c.gk c.asid c.corr c.gid (.plain 0x1B c.slot)).copyRefuse c 6
  | some s1 => if c.empty then s1.copyRefuse c 1 else s1.copyTake? c

/-- Accept a command (R148, R156, R158, R160): engines take their commands in issue order. (DEDUCED, log 33.) -/
def State.copyAccept? (s : State) (id : Nat) : Option State :=
  match s.cmd? id with
  | none => none
  | some c =>
    let first := s.cmds.all (fun x => !(x.engine == c.engine && x.id < id && !x.accepted))
    if c.accepted || !first || !s.ctxRuns c.asid || !s.groupDone c.gk id c.seen then none
    else
      let alloc := ((s.block? c.gk.block).map (·.alloc)).getD 0
      match s.gathRows c alloc with
      | .wait s' => s'
      | .fault s' f va => some (s'.copyFault c f va .copyRead)
      | .ok s' rows => s'.copyDecide? { c with rows := rows } alloc

/-- A command of an engine of the peer die is accepted for some lines of this die (R60, R70): the peer's copies of them go first.
(DESIGN CHOICE, log 12.) -/
def State.peerOwn? (s : State) (lines : List Nat) : Option State :=
  let ls := lines.map (fun ln => (⟨.device, 128 * ln⟩ : Loc))
  if !s.linkUp || ls.any (fun l => s.lineFree .device true l == .lost) then none
  else if ls.any (fun l => s.lineFree .device true l == .busy) then s.askOnce true ls
  else some { s with mem := { s.mem with peerOwned := s.mem.peerOwned ++ lines.map (fun ln => (ln, s.ids)) }, ids := s.ids + 1 }

/-- `copyAccept`, for a command of this die or of the peer die. -/
def execCopyAccept (by_ : CopyTaker) (s : State) : Host.Outcome State Fault Refusal :=
  .next ((match by_ with
    | .own cmd => s.copyAccept? cmd
    | .peer lines => s.peerOwn? lines).getD s)

/-! ## Reads (R41, R101, R159, R164) -/

/-- The addresses that a unit reads and writes: writes by destination, reads through the source pages, reads through the
destination pages, reads of local store; all as single bytes. -/
structure UnitRefs where
  writes : List (Nat × Nat)
  src : List Nat
  dst : List Nat
  loc : List Nat

/-- Elements of a scale group. -/
def groupLen (n g : Nat) : Nat := min 32 (n - 32 * g)

/-- What group g of a `copy.red` touches (R164). -/
def CopyCmd.redRefs (c : CopyCmd) (n op fmt : Nat) (res scl : DWord) (g : Nat) : UnitRefs :=
  let len := groupLen n g
  let codes := upFrom (codeBytes fmt (32 * g)) (codeBytes fmt len)
  let vals := upFrom (4 * 32 * g) (4 * len)
  let srcOf := fun (os : List Nat) => os.map (c.srcAt + ·)
  let dstOf := fun (os : List Nat) => os.map (c.dstAt + ·)
  let sc := [scl.toNat + 2 * g, scl.toNat + 2 * g + 1]
  let rs := vals.map (res.toNat + ·)
  let at_ := fun (d : Nat) (as : List Nat) => as.map (fun a => (d, a))
  if op = 0 then
    { writes := at_ 0 (dstOf codes) ++ at_ 1 sc ++ at_ 2 rs, src := if c.sls then [] else srcOf vals, dst := rs,
      loc := if c.sls then srcOf vals else [] }
  else if op = 1 then
    { writes := at_ 0 (dstOf vals), src := (if c.sls then [] else srcOf codes) ++ sc, dst := if c.dls then [] else dstOf vals,
      loc := (if c.sls then srcOf codes else []) ++ (if c.dls then dstOf vals else []) }
  else
    { writes := at_ 0 (dstOf vals), src := if c.sls then [] else srcOf vals, dst := if c.dls then [] else dstOf vals,
      loc := (if c.sls then srcOf vals else []) ++ (if c.dls then dstOf vals else []) }

/-- The byte of a place through pages, or of local store. -/
def State.engineByte (s : State) (c : CopyCmd) (isLocal : Bool) (pages : List (Nat × Loc)) (addr : Nat) : Byte :=
  if isLocal then ((s.block? c.gk.block).map (fun b => b.loc.get addr)).getD 0
  else match pageLoc pages addr with
    | some l => s.byteAt c.agent l
    | none => 0

/-- Little-endian words of bytes. -/
def wordsOf (bs : List Byte) : List Word := (List.range (bs.length / 4)).map (fun k => BitVec.ofNat 32 (fieldAt bs (4 * k) 4))

/-- The bytes that group g of a `copy.red` writes, from what it reads (R101, R164). (DEDUCED, log 39.) -/
def State.redBytes (s : State) (c : CopyCmd) (n op fmt : Nat) (res scl : DWord) (g : Nat) : List (Nat × Nat × Byte) :=
  let q := CopyCmd.qfmt s c
  let len := groupLen n g
  let srcB := fun (o n : Nat) => (upFrom o n).map (fun o => s.engineByte c c.sls c.spages (c.srcAt + o))
  let dstB := fun (o n : Nat) => (upFrom o n).map (fun o => s.engineByte c c.dls c.dpages (c.dstAt + o))
  let place := fun (d a : Nat) (bs : List Byte) => (upFrom a bs.length).zip bs |>.map (fun x => (d, x.1, x.2))
  let words := fun (ws : List Word) => ws.flatMap (fun w => leBytes 4 w.toNat)
  let old := wordsOf (dstB (128 * g) (4 * len))
  if op = 0 then
    let rs := wordsOf ((upFrom (res.toNat + 128 * g) (4 * len)).map (fun a => s.engineByte c false c.dpages a))
    let r := q.group (wordsOf (srcB (128 * g) (4 * len))) rs
    place 0 (c.dstAt + codeBytes fmt (32 * g)) (q.pack (r.2.map (·.1))) ++ place 1 (scl.toNat + 2 * g) (leBytes 2 r.1) ++
      place 2 (res.toNat + 128 * g) (words (r.2.map (·.2)))
  else if op = 1 then
    let cs := srcB (codeBytes fmt (32 * g)) (codeBytes fmt len)
    let sc := leNat ((upFrom (scl.toNat + 2 * g) 2).map (fun a => s.engineByte c false c.spages a))
    place 0 (c.dstAt + 128 * g) (words ((List.range len).map (fun k => fAdd (old.getD k 0) (q.value (q.unpack cs k) sc))))
  else
    let xs := wordsOf (srcB (128 * g) (4 * len))
    place 0 (c.dstAt + 128 * g) (words ((List.range len).map (fun k => fAdd (old.getD k 0) (xs.getD k 0))))

/-- The index of row i of a `copy.gath` (R155), its list's pages known. -/
def State.gathIndex (s : State) (c : CopyCmd) (idx i : Nat) : Nat :=
  leNat ((upFrom ((if c.ils then idx % 2 ^ 32 else idx) + 4 * i) 4).map (fun a => s.engineByte c c.ils c.spages a))

/-- A source address with the row of an index filled in: none where a zero is written instead. -/
def State.refAddr (s : State) (c : CopyCmd) : SrcRef → Option Nat
  | .at_ a => some a
  | .row i x => match c.body with
    | .gath _ idx _ sp nr => if s.gathIndex c idx i < nr then some (c.srcAt + s.gathIndex c idx i * sp + x) else none
    | _ => none
  | _ => none

/-- The index words that a line of a `copy.gath` needs. -/
def CopyCmd.indexAddrs (c : CopyCmd) (refs : List (Nat × SrcRef)) : List Nat :=
  match c.body with
  | .gath _ idx .. =>
    let base := if c.ils then idx % 2 ^ 32 else idx
    (refs.filterMap (fun r => match r.2 with
      | .row i _ => some i
      | _ => none)).eraseDups.flatMap (fun i => upFrom (base + 4 * i) 4)
  | _ => []

/-- What stands before the read of a unit. -/
inductive UnitRes where
  | ok (s : State) (c : CopyCmd)
  | stop (s : State)
  | wait (s : Option State)

/-- Translate the pages of a unit's accesses and look at its lines (R41, R159): source pages are translated when first
reached, destination pages left unowned are tried again. A source that turns out to be of peer or host kind orders the command at system
scope (R125); lines are fetched whole (R55). -/
def State.unitPages (s : State) (c : CopyCmd) (u : UnitRefs) : UnitRes :=
  let wvas := (u.writes.filter (fun x => !c.destLocal x.1)).map (fun x => 128 * lineOf x.2)
  match s.enginePages c.part c.asid ⟨.copyWrite, c.hm, false⟩ c.dpages wvas with
  | .fault s' f va => .stop (s'.copyFault c f va .copyWrite)
  | .wait s' => .wait (progress s s')
  | .ok s1 dp =>
    let new := dp.filter (fun p => !c.dpages.contains p)
    let own := (c.linesOwned new).filter (fun o => c.todo.head?.all (fun h => match c.body with
      | .red .. => true
      | _ => h ≤ lineOf o.va))
    let s1 := if new = [] then s1 else s1.takeLines c.cluster own
    let c := { c with dpages := dp, owned := c.owned ++ own }
    match s1.enginePages c.part c.asid ⟨.copyRead, c.hm, false⟩ c.spages (u.src.map (fun a => 128 * lineOf a)).eraseDups with
    | .fault s' f va => .stop (s'.copyFault c f va .copyRead)
    | .wait s' => .wait (progress s s')
    | .ok s2 sp =>
      let far := sp.any (fun p => p.2.kind != .device && !c.spages.contains p)
      let s2 := s2.sysRelease ⟨some c.asid, far⟩
      let c := { c with spages := sp }
      let ls := u.src.filterMap (pageLoc sp) ++ u.dst.filterMap (pageLoc dp)
      let s3 := s2.fillViews c.agent ls .normal
      if u.loc.any (fun a => s3.localOwned c.gk.block c.stamp a) then .wait none
      else match s3.statusAfter c.agent false c.stamp ls with
        | .owned => .wait none
        | .busy => .wait (s.askOnce false ls)
        | .viewMiss => .wait (progress s s3)
        | .lost => .stop (s3.copyFault c { cause := 0x25, sub := 0, level := 3, ent := 0 } (u.src.headD 0) .copyRead)
        | .ok => match ls.find? (fun l => s3.poisonAt c.agent l) with
          | some l => .stop (s3.copyFault c { cause := 0x23, sub := s3.poisonCode c.agent l, level := 3,
                                              ent := BitVec.ofNat 64 l.lineLoc.pa } 0 .copyRead)
          | none => .ok (s3.touchFor c.agent ls .normal true) c

/-- The first four commands of an engine that are under way (R148). -/
def State.executing (s : State) (c : CopyCmd) : Bool :=
  ((s.cmds.filter (fun x => x.engine == c.engine && x.accepted)).filter (fun x => x.stamp < c.stamp)).length < 4

/-- Whether a command's engine may work on it. (DEDUCED, log 38.) -/
def State.copyWorks (s : State) (c : CopyCmd) : Bool := c.accepted && !c.stopped && s.ctxRuns c.asid && s.executing c

/-- Read the next unit of a command (R527, R41); it stays first in line until it is written. (DEDUCED, log 38.) -/
def State.copyRead? (s : State) (id : Nat) : Option State :=
  match s.cmd? id with
  | none => none
  | some c =>
    match c.todo, c.buf with
    | u :: _, none =>
      if !s.copyWorks c then none
      else match c.body with
      | .red n op fmt _ res scl =>
        match s.unitPages c (c.redRefs n op fmt res scl u) with
        | .stop s' => some s'
        | .wait s' => s'
        | .ok s' c => some (s'.putCmd { c with buf := some (s'.redBytes c n op fmt res scl u) })
      | _ =>
        let refs := c.lineRefs u
        let writes := refs.map (fun x => (0, x.1))
        let ix := c.indexAddrs refs
        -- the index list first, then the rows it names
        match s.unitPages c { writes := writes, src := if c.ils then [] else ix, dst := [], loc := if c.ils then ix else [] } with
        | .stop s' => some s'
        | .wait s' => s'
        | .ok s1 c =>
          let addrs := refs.filterMap (fun x => s1.refAddr c x.2)
          match s1.unitPages c { writes := writes, src := if c.sls then [] else addrs, dst := [], loc := if c.sls then addrs else [] } with
          | .stop s' => some s'
          | .wait s' => s'
          | .ok s2 c =>
            let byte := fun (x : SrcRef) => match x with
              | .zero => 0
              | .lit b => b
              | y => match s2.refAddr c y with
                | some a => s2.engineByte c c.sls c.spages a
                | none => 0
            let bad := refs.any (fun x => match x.2 with
              | .row _ _ => (s2.refAddr c x.2).isNone
              | _ => false)
            some (s2.putCmd { c with buf := some (refs.map (fun x => (0, x.1, byte x.2))), idxBad := c.idxBad || bad })
    | _, _ => none

/-- `copyLineRead`. -/
def execCopyLineRead (cmd : Nat) (s : State) : Host.Outcome State Fault Refusal := .next ((s.copyRead? cmd).getD s)

/-! ## Writes (R158, R160, R527) -/

/-- The first byte that the units still to do write to a destination: lines below it are complete. -/
def CopyCmd.nextByte (c : CopyCmd) (d : Nat) : Option Nat :=
  match c.todo with
  | [] => none
  | u :: _ => match c.body with
    | .red n op fmt _ res scl => ((c.redRefs n op fmt res scl u).writes.filter (fun x => x.1 == d)).head?.map (·.2)
    | _ => some (128 * u)

/-- Whether a byte's line is complete. -/
def CopyCmd.complete (c : CopyCmd) (d a : Nat) : Bool :=
  match c.nextByte d with
  | some b => lineOf a < lineOf b
  | none => true

/-- The frontier has passed a line of a destination: it and the lines before it are released (R158). -/
def CopyCmd.passed (c : CopyCmd) (d ln : Nat) : CopyCmd :=
  { c with owned := c.owned.filter (fun o => !(o.dest == d && lineOf o.va ≤ ln)), llines := if c.destLocal d then c.llines.erase ln else c.llines }

/-- The allocation of a command's lines in L2 (R151). -/
def CopyCmd.alloc (c : CopyCmd) : L2Alloc := if c.dcache = 1 then .stream else if c.dcache = 2 then .persist else .normal

/-- Write the bytes of complete lines: local store, or memory at its home (R107, R70). -/
def State.copyPut (s : State) (c : CopyCmd) (bs : List (Nat × Nat × Byte)) : State :=
  let loc := bs.filter (fun x => c.destLocal x.1)
  let mem := (bs.filter (fun x => !c.destLocal x.1)).filterMap (fun x => (pageLoc c.dpages x.2.1).map (fun l => (l, x.2.2)))
  let peer := mem.filter (fun x => x.1.kind == .peer)
  let s := s.modBlock c.gk.block (fun b => { b with loc := b.loc.writeAll (loc.map (fun x => x.2)) })
  let s := s.peerHomeWrite (peer.map (fun x => (x.1.pa, x.2)))
  s.writeAt c.agent (mem.filter (fun x => !(x.1.kind == .peer))) c.alloc

/-- The lines of a byte list by destination, in order. -/
def linesByDest (bs : List (Nat × Nat × Byte)) : List (Nat × Nat) := (bs.map (fun x => (x.1, lineOf x.2.1))).eraseDups

/-- The lines of host kind that an accepted command has still to write. -/
def CopyCmd.hostLines (c : CopyCmd) : List Loc :=
  c.dests.flatMap (fun d =>
    if c.destLocal d.1 then []
    else ((rowsLines d.2).filter (fun ln => !(c.todo = [] && c.buf.isNone) && !c.complete d.1 (128 * ln))).filterMap
      (fun ln => (pageLoc c.dpages (128 * ln)).filter (·.kind.isHost)))

/-- Whether a command accepted before has still to write one of some lines of host kind, which no command owns (R160). -/
def State.hostAhead (s : State) (c : CopyCmd) (ls : List Loc) : Bool :=
  let host := (linesOfLocs ls).filter (·.kind.isHost)
  host != [] && s.cmds.any (fun x => x.accepted && x.stamp < c.stamp && x.hostLines.any host.contains)

/-- Whether an engine may write some places now: no command accepted before owns them or has still to write them (R160), the link
is up. -/
def State.copyMayPut (s : State) (c : CopyCmd) (bs : List (Nat × Nat × Byte)) : LineStatus :=
  let ls := (bs.filter (fun x => !c.destLocal x.1)).filterMap (fun x => pageLoc c.dpages x.2.1)
  if bs.any (fun x => c.destLocal x.1 && s.localOwned c.gk.block c.stamp x.2.1) || s.hostAhead c ls then .owned
  else s.statusAfter c.agent true c.stamp ls

/-- Compare the lines that an engine writes with the watchpoints (R468); local store never matches. -/
def State.copyWatch (s : State) (c : CopyCmd) (bs : List (Nat × Nat × Byte)) : State × List Nat :=
  let gone := ((s.group? c.gk).map (·.ended)).getD true
  let lseq := s.lseqOf c.asid (s.launch? c.launch)
  (linesByDest (bs.filter (fun x => !c.destLocal x.1))).foldl (fun acc x =>
    let as := (bs.filter (fun y => y.1 == x.1 && lineOf y.2.1 == x.2)).map (·.2.1)
    as.foldl (fun acc a => acc.1.watchWrite c.asid a 1 acc.2 (if gone then 4 else 0) (0x8000 + c.engine) c.corr c.gid 0 lseq) acc) (s, c.watched)

/-- Discard what has been read for lines not yet written (R450): the unit in hand, and the bytes of the line that is not complete, whose
unit is then done again past what it has written. What a quantisation holds back stays, since its residuals, written line by line, may
already stand where its sources stood. (DEDUCED, log 38.) -/
def CopyCmd.discardReads (c : CopyCmd) : CopyCmd :=
  match c.body, c.held, c.todo with
  | .red _ op _ _ _ _, x :: _, u :: _ =>
    if op = 0 then { c with buf := none }
    else { c with buf := none, todo := (u - 1) :: c.todo, held := [], skip := 128 * lineOf x.2.1 }
  | _, _, _ => { c with buf := none }

/-- Write the unit in hand: each line that is complete is written once and released; after the last, the command completes
(R157, R158). (DEDUCED, log 38.) -/
def State.copyWrite? (s : State) (id : Nat) : Option State :=
  match s.cmd? id with
  | none => none
  | some c =>
    if !s.copyWorks c then none
    else match c.buf, c.todo with
    | none, [] => s.copyFinish { c with status := if c.status = 0 && c.idxBad then 5 else c.status }
    | none, _ => none
    | some new, _ =>
      let new := new.filter (fun x => c.skip ≤ x.2.1 || x.1 != 0)
      let c := { c with todo := c.todo.tail }
      let all := c.held ++ new
      let out := all.filter (fun x => c.complete x.1 x.2.1)
      match s.copyMayPut c out with
      | .owned => none
      | .viewMiss => none
      | .busy => s.askOnce true ((out.filter (fun x => !c.destLocal x.1)).filterMap (fun x => pageLoc c.dpages x.2.1))
      | .lost => some (s.copyFault { c with todo := (s.cmd? id).elim [] (·.todo) } { cause := 0x25, sub := 0, level := 3, ent := 0 } (((out.head?).map (·.2.1)).getD 0) .copyWrite)
      | .ok =>
        let w := s.copyWatch c out
        let s := w.1.copyPut c out
        let lns := linesByDest out
        let c' := lns.foldl (fun (c : CopyCmd) x => c.passed x.1 x.2) { c with buf := none, held := all.filter (fun x => !c.complete x.1 x.2.1), watched := w.2 }
        let locked := (lns.filter (fun x => c.destLocal x.1)).map (·.2)
        let s := s.modBlock c.gk.block (fun b => { b with locks := locked.foldl List.erase b.locks })
        let s := s.putCmd c'
        if c'.todo = [] then (s.copyFinish { c' with status := if c'.idxBad then 5 else c'.status }).or (some s) else some s

/-- An engine of the peer die writes a line that it owns, which releases the line (R70, R158); without bytes, its frontier passes
the line. (DESIGN CHOICE, log 12.) -/
def State.peerPut? (s : State) (ln : Nat) (bs : List (Nat × Byte)) : Option State :=
  match s.mem.peerOwned.find? (fun x => x.1 == ln) with
  | none => none
  | some x =>
    if !s.linkUp || s.ownedBefore x.2 ⟨.device, 128 * ln⟩ then none
    else
      let s := { s with mem := { s.mem with peerOwned := s.mem.peerOwned.erase x } }
      some (s.writeAt .device (bs.map (fun y => (⟨.device, 128 * ln + y.1 % 128⟩, y.2))) .normal)

/-- `copyLineWrite`, for a command of this die or of the peer die. -/
def execCopyLineWrite (by_ : CopyWriter) (s : State) : Host.Outcome State Fault Refusal :=
  .next ((match by_ with
    | .own cmd => s.copyWrite? cmd
    | .peer line bytes => s.peerPut? line bytes).getD s)

end Sys2Proof.Machine
end

