-- ==== Sys2Proof/Machine/Repro.lean ====
section
/-! DEFINITION. The dispatch trace of a reproducible context: recording, and binding to a recorded trace (R477 to R479). -/
namespace Sys2Proof.Machine

/-- A stream of trace entries (R478): the command processor's, a partition's formations, or a queue's pushes and pops. -/
inductive Stream where
  | processor
  | formation (part : Nat)
  | queue (va : Nat)
  deriving DecidableEq, Repr

/-- The key of a stream in a context's positions. -/
def Stream.key : Stream → Nat
  | .processor => 0
  | .formation p => 1 + p
  | .queue va => 16 + va

/-- The SUB of a debug record about a stream (R469). -/
def Stream.sub : Stream → Nat
  | .processor => 0
  | .formation _ => 1
  | .queue _ => 2

/-- An ACCEPT entry (R478). -/
def acceptEntry (corr : Word) (lseq : Nat) : List Byte :=
  recordOf 16 [(0, 1, 1), (1, 1, 0xFF), (2, 2, 16), (8, 4, corr.toNat), (12, 4, lseq)]

/-- A PLACE entry (R478). -/
def placeEntry (lseq b cluster c0 : Nat) : List Byte :=
  recordOf 24 [(0, 1, 2), (1, 1, 0xFF), (2, 2, 24), (8, 4, lseq), (12, 4, b), (16, 1, cluster), (17, 1, c0)]

/-- A FORM entry (R478): the RIDs of lanes 0 to 31. -/
def formEntry (part lseq number shid rsv cluster c0 : Nat) (rids : List DWord) : List Byte :=
  recordOf 288 ([(0, 1, 3), (1, 1, part), (2, 2, 288), (8, 4, lseq), (12, 4, number), (16, 2, shid), (18, 2, rsv), (20, 1, cluster),
    (21, 1, c0), (22, 1, rids.length)] ++ (upFrom 0 rids.length).map (fun i => (32 + 8 * i, 8, (rids.getD i 0).toNat)))

/-- A PUSH or POP entry (R478): the key of its issuer. -/
def queueEntry (pop : Bool) (va : Nat) (key : DWord) : List Byte :=
  recordOf 24 [(0, 1, if pop then 5 else 4), (1, 1, 0xFF), (2, 2, 24), (8, 8, va), (16, 8, key.toNat)]

/-- The stream an entry belongs to. -/
def entryStream (e : List Byte) : Stream :=
  let t := fieldAt e 0 1
  if t = 1 || t = 2 then .processor else if t = 3 then .formation (fieldAt e 1 1) else .queue (fieldAt e 8 8)

/-- Write the header of a context's trace buffer (R478): its STATUS, and in record mode its BYTES, which bind mode keeps. -/
def State.dtHeader (s : State) (c : Ctx) : State :=
  match c.dtr with
  | some l => (if c.dtMode = 1 then s.postNum l 8 c.dtBytes else s).postNum (l.add 8) 4 c.dtStatus
  | none => s

/-- Append an entry in record mode (R479); a full buffer ends the recording. (DEDUCED, log 46.) -/
def State.dtRecord (s : State) (asid : Nat) (e : List Byte) : State :=
  match s.ctx? asid with
  | some c =>
    match c.dtr with
    | some l =>
      if c.dtMode ≠ 1 || c.dtFull then s
      else
        let fits := 64 + c.dtBytes + e.length ≤ 2 ^ c.dtlog
        let c' := if fits then { c with dtBytes := c.dtBytes + e.length } else { c with dtStatus := 1, dtFull := true }
        let s := if fits then s.postBytes (l.add (64 + c.dtBytes)) e else s
        (s.modCtx asid (fun _ => c')).dtHeader c'
    | none => s
  | none => s

/-- The first entry of a stream from a position on: its position and bytes. The buffer's entries are walked in order. -/
def State.dtScan (s : State) (l : Loc) (st : Stream) (stop : Nat) : Nat → Nat → Option (Nat × List Byte)
  | 0, _ => none
  | f + 1, pos =>
    if stop ≤ pos then none
    else
      let len := s.numAt .device (l.add (64 + pos + 2)) 2
      let e := s.bytesAt .device (l.add (64 + pos)) (if len = 0 then 16 else len)
      if entryStream e = st then some (pos, e)
      else if len = 0 then none
      else s.dtScan l st stop f (pos + len)

/-- What binding says of an event (R479). -/
inductive Bind where
  /-- the event may happen; in bind mode with its entry -/
  | free
  | bound (e : List Byte)
  /-- its turn has not come -/
  | wait
  /-- the stream is exhausted, or its next entry cannot occur -/
  | mismatch
  deriving DecidableEq, Repr

/-- Whether an entry of a trace names an event that cannot occur (R479): an acceptance out of turn; a placement or a formation of a
launch that is over, of a block that is placed or that the launch has not, of a group that is formed or of a shader or ray count that
the launch cannot have, or on a core that is not there or that its context may not use; a push or a pop of such a launch.
(DEDUCED, log 46.) -/
def State.entryNever (s : State) (asid : Nat) (e : List Byte) : Bool :=
  let last := (s.asidInfo asid).lseq
  let mine := s.launches.filter (fun l => l.asid == asid)
  let past := fun (n : Nat) => n ≤ last && !mine.any (fun l => l.lseq == n)
  let late := fun (n : Nat) => !mine.any (fun l => l.lseq % 2 ^ 16 == n) && 2 ^ 15 ≤ (n + 2 ^ 16 - last % 2 ^ 16 - 1) % 2 ^ 16
  let nowhere := fun (cluster c0 : Nat) => decide (Config.clusters ≤ cluster ∨ Config.coresPerCluster ≤ c0) ||
    ((s.ctx? asid).map (fun c => c.priv && c.part != partOfCluster cluster)).getD false
  match fieldAt e 0 1 with
  | 1 => fieldAt e 12 4 != (last + 1) % 2 ^ 32
  | 2 => past (fieldAt e 8 4) || nowhere (fieldAt e 16 1) (fieldAt e 17 1) ||
      mine.any (fun l => l.lseq == fieldAt e 8 4 && (fieldAt e 12 4 < l.nextBlock || l.desc.gx * l.desc.gy * l.desc.gz ≤ fieldAt e 12 4))
  | 3 => past (fieldAt e 8 4) || nowhere (fieldAt e 20 1) (fieldAt e 21 1) || partOfCluster (fieldAt e 20 1) != fieldAt e 1 1 ||
      fieldAt e 22 1 = 0 || 32 < fieldAt e 22 1 ||
      mine.any (fun l => l.lseq == fieldAt e 8 4 && (l.shaders.length ≤ fieldAt e 16 2 || fieldAt e 12 4 < l.formed.toList.getD (fieldAt e 1 1) 0))
  | 4 => fieldAt e 16 8 % 2 == 0 && late (fieldAt e 22 2)
  | 5 => late (fieldAt e 22 2)
  | _ => true

/-- Ask whether an event that a test recognises is its stream's next entry. (DEDUCED, log 46.) -/
def State.dtAsk (s : State) (asid : Nat) (st : Stream) (mine : List Byte → Bool) : Bind :=
  match s.ctx? asid with
  | some c =>
    match c.dtr with
    | some l =>
      if c.dtMode ≠ 2 || !c.repro then .free
      else
        let stop := s.numAt .device l 8
        let pos := ((c.dtPos.find? (fun p => p.1 == st.key)).map (·.2)).getD 0
        match s.dtScan l st stop (stop / 16 + 1) pos with
        | some (_, e) => if s.entryNever asid e then .mismatch else if mine e then .bound e else .wait
        | none => .mismatch
    | none => .free
  | none => .free

/-- Consume the next entry of a stream in bind mode. -/
def State.dtConsume (s : State) (asid : Nat) (st : Stream) : State :=
  match s.ctx? asid with
  | some c =>
    match c.dtr with
    | some l =>
      let stop := s.numAt .device l 8
      let pos := ((c.dtPos.find? (fun p => p.1 == st.key)).map (·.2)).getD 0
      match s.dtScan l st stop (stop / 16 + 1) pos with
      | some (p, e) => s.modCtx asid (fun c => { c with dtPos := (st.key, p + e.length) :: c.dtPos.filter (fun x => !(x.1 == st.key)) })
      | none => s
    | none => s
  | none => s

/-- A mismatch halts the context (R479): STATUS 2 and a debug record of EVT 2, for an event of a launch. (DEDUCED, log 46.) -/
def State.dtMismatch (s : State) (asid : Nat) (st : Stream) (agent : Nat) (l : Option Launch) : State :=
  match s.ctx? asid with
  | some c =>
    let c' := { c with dtStatus := 2 }
    let s := (s.modCtx asid (fun _ => c')).dtHeader c'
    (s.debugRecord asid 2 st.sub 0 agent ((l.map (·.corr)).getD 0) 0xFFFFFFFF 0 0 (s.lseqOf asid l)).haltContext asid
  | none => s

/-- Note an event that happens: recorded in mode 1, consumed in mode 2. -/
def State.dtNote (s : State) (asid : Nat) (st : Stream) (e : List Byte) : State :=
  match s.ctx? asid with
  | some c => if c.repro && c.dtMode = 1 then s.dtRecord asid e else if c.repro && c.dtMode = 2 then s.dtConsume asid st else s
  | none => s

/-- The serial of an issuer (R478). -/
def issuerSerial (b : Block) (index : Nat) : Nat :=
  if b.isRay then 2 ^ 31 + 2 ^ 27 * partOfCluster b.cluster + b.formation else 32 * b.b + index

/-- IKEY (R478). (DEDUCED, log 45.) -/
def State.ikey (s : State) (k : GroupKey) (ordinal : Nat) : DWord :=
  match s.block? k.block with
  | some b =>
    let lseq := ((s.launchOf b).map (·.lseq)).getD 0
    BitVec.ofNat 64 (lseq % 2 ^ 16 * 2 ^ 48 + issuerSerial b k.index % 2 ^ 32 * 2 ^ 16 + ordinal % 2 ^ 16)
  | none => 0

/-- RID (R478): the spawn ordinal in bits 15:5 and the lane in bits 4:0. -/
def State.rid (s : State) (k : GroupKey) (ordinal lane : Nat) : DWord :=
  match s.block? k.block with
  | some b =>
    let lseq := ((s.launchOf b).map (·.lseq)).getD 0
    BitVec.ofNat 64 (lseq % 2 ^ 16 * 2 ^ 48 + issuerSerial b k.index % 2 ^ 32 * 2 ^ 16 + ordinal % 2 ^ 11 * 32 + lane % 32)
  | none => 0

end Sys2Proof.Machine
end

