-- ==== Sys2Proof/Machine/Cirque.lean ====
section
/-! DEFINITION. The Cirque's bins: scatter bins (R166 to R169, R391, R392) and accumulation bins (R170, R235, R236, R404), their
appends and their replays (R529, R481). -/
namespace Sys2Proof.Machine

/-! ## The Cirque's memory -/

/-- Who acts: a partition's Cirque for a context. -/
structure CirqueWho where
  part : Nat
  asid : Nat
  hm : Bool
  corr : Word
  stamp : Nat

/-- The memory agent. -/
def CirqueWho.agent (w : CirqueWho) : Agent := ⟨some w.asid, false⟩

/-- Why a step of the Cirque does not go on. -/
inductive CirqueStop where
  | wait (s : State)
  | fault (s : State)

/-- A fault of the Cirque (R37, R41). -/
def State.cirqueFault (s : State) (w : CirqueWho) (f : XFault) (va : Nat) (acc : Acc) : State :=
  s.engineFault w.asid f (BitVec.ofNat 64 va) acc w.hm w.part (0xA000 + w.part) w.corr

/-- The place of an address for the Cirque, once its line is to be had. -/
def State.cirquePlace (s : State) (w : CirqueWho) (va : Nat) (wr : Bool) : Except CirqueStop (State × Loc) :=
  let acc : Acc := if wr then .cirqueWrite else .travRead
  match s.engineXlate w.part w.asid (BitVec.ofNat 64 va) ⟨acc, w.hm, false⟩ with
  | (.ok l, s') =>
    let s' := s'.fillViews w.agent [l] .normal
    match s'.lineAfter w.agent wr w.stamp l with
    | .ok =>
      if !wr && s'.poisonAt w.agent l then
        .error (.fault (s'.cirqueFault w { cause := 0x23, sub := s'.poisonCode w.agent l, level := 3, ent := BitVec.ofNat 64 l.lineLoc.pa } va acc))
      else .ok (s', l)
    | .lost => .error (.fault (s'.cirqueFault w { cause := 0x25, sub := 0, level := 3, ent := 0 } va acc))
    | .busy => .error (.wait (s'.askPeerFor wr [l]))
    | _ => .error (.wait s')
  | (.fault f, s') => .error (.fault (s'.cirqueFault w f va acc))
  | (.miss, s') => .error (.wait s')

/-- Read a number. -/
def State.cirqueNum (s : State) (w : CirqueWho) (va n : Nat) : Except CirqueStop (State × Nat) :=
  match s.cirquePlace w va false with
  | .ok (s', l) => .ok (s'.touchFor w.agent [l] .normal false, s'.numAt w.agent l n)
  | .error e => .error e

/-- Write a number. -/
def State.cirquePut (s : State) (w : CirqueWho) (va n v : Nat) : Except CirqueStop State :=
  match s.cirquePlace w va true with
  | .ok (s', l) => .ok (s'.homeWrite w.agent l (leBytes n v))
  | .error e => .error e

/-- What a stopped step of the Cirque leaves: a fault is a step; a wait is one only if the peer was asked. -/
def CirqueStop.settle (s : State) : CirqueStop → Option State
  | .fault s' => some s'
  | .wait s' => progress s s'

/-- The CQALLOC entry of a context in a partition (R165): the lower of two valid entries. -/
def State.cqFor (s : State) (part asid : Nat) : Option CqEnt :=
  if h : part < 8 then (s.regs.cq[part]).toList.find? (fun e => e.v && e.asid.toNat == asid) else none

/-- Bytes of a context's replay allocation in a partition (R165). (DEDUCED, log 48.) -/
def State.replBytes (s : State) (part asid : Nat) : Nat := ((s.cqFor part asid).map (fun e => e.repl.toNat * 262144)).getD 0

/-! ## Scatter bin sets (R166, R167) -/

/-- A scatter bin set's descriptor (R166). -/
structure BinSet where
  tgt : Nat
  bins : Nat
  nreg : Nat
  rlog : Nat
  op : Nat
  clog : Nat
  stat : Nat
  drop : Nat

/-- The descriptor from its bytes. -/
def binSetOf (bs : List Byte) : BinSet :=
  { tgt := fieldAt bs 0 8, bins := fieldAt bs 8 8, nreg := fieldAt bs 16 4, rlog := fieldAt bs 20 1, op := fieldAt bs 21 1,
    clog := fieldAt bs 22 1, stat := fieldAt bs 24 4, drop := fieldAt bs 28 4 }

/-- Whether a field is out of range (R167). -/
def BinSet.bad (d : BinSet) : Bool :=
  d.nreg = 0 || 65536 < d.nreg || d.rlog < 12 || 21 < d.rlog || 3 < d.op || d.clog < 6 || 20 < d.clog || d.tgt % 128 ≠ 0 || d.bins % 128 ≠ 0

/-- The VA of a region's bin (R166). -/
def BinSet.binVa (d : BinSet) (r : Nat) : Nat := d.bins + r * (2 ^ d.clog * 8 + 128)

/-- The region of an element index (R166). -/
def BinSet.region (d : BinSet) (i : Nat) : Nat := i / 2 ^ (d.rlog - 2)

/-- Read a descriptor. -/
def State.binSet (s : State) (w : CirqueWho) (desc : DWord) : Except CirqueStop (State × BinSet) :=
  match s.cirquePlace w desc.toNat false with
  | .ok (s', l) => .ok (s'.touchFor w.agent [l] .normal false, binSetOf (s'.bytesAt w.agent l 64))
  | .error e => .error e

/-- Write STAT unless it holds an earlier code (R167). -/
def State.binStat (s : State) (w : CirqueWho) (desc : DWord) (d : BinSet) (code : Nat) : Except CirqueStop State :=
  if d.stat ≠ 0 then .ok s else s.cirquePut w (desc.toNat + 0x18) 4 code

/-- The Cirque acting for a group's instruction. -/
def State.cirqueFor (s : State) (k : GroupKey) (hm : Bool) : CirqueWho :=
  { part := (s.block? k.block).elim 0 (fun b => partOfCluster b.cluster), asid := s.asidOf k, hm := hm, corr := s.corrOfGroup k, stamp := s.ids }

/-! ## Issue (R391, R392, R404) -/

/-- `binp` (R391): one update for each active lane. In a reproducible context the slot stays until the Cirque has taken
them all, since a full bin gives the instruction back (R481). -/
def execBinp (e : Bool) (t b : Opnd) (s : State) : Host.Outcome State Fault Refusal :=
  .next (s.issue { len := 4, e := e, srcs := opndRun t 2 ++ opndRun b 2, kind := .ray, access := true }
    (fun _ => !opndRunOk t 2 || !opndRunOk b 2) noCheck (fun w =>
    if w.act = 0 then .done w.doneNone
    else if 63 ≤ w.g.stCnt then .wait (.count 1)
    else
      let desc := w.param64 t 0
      if desc.toNat % 64 ≠ 0 then .raise { code := 0x1C, sub := 0, tval := desc.setWidth 32, slot := w.n }
      else
        let val := fun (i : Fin 32) => match opndPlus b 1 with
          | some y => w.lane y i
          | none => 0
        let items := w.act.lanes.map (fun i => (i.val, w.lane b i, val i))
        let g := { w.g with stCnt := w.g.stCnt + 1, ord := { w.g.ord with binp := w.g.ord.binp + 1 } }
        let post := fun (s : State) => s.addOp w.k w.n (.binp desc w.g.hm items (w.s.ikey w.k w.g.ord.binp))
        if w.c.repro then .done { g := g, flow := .stay (.binFull w.s.ids), post := post } else .done { g := g, post := post }))

/-- `binrep` (R392). -/
def execBinrep (e : Bool) (t b : Opnd) (s : State) : Host.Outcome State Fault Refusal :=
  .next (s.issue { len := 4, e := e, srcs := opndRun b 2, toks := [t], kind := .ray, access := true } (fun _ => !opndRunOk b 2) noCheck (fun w =>
    if w.act = 0 then .done w.doneNone
    else if 63 ≤ w.g.cpCnt then .wait (.count 2)
    else
      let desc := w.param64 b 0
      if desc.toNat % 64 ≠ 0 then .raise { code := 0x1C, sub := 0, tval := desc.setWidth 32, slot := w.n }
      else
        .done { g := { w.g with cpCnt := w.g.cpCnt + 1 }.markOp (regsOf w.g.hm [t]) .token w.s.ids false,
                post := fun s => s.addOp w.k w.n (.binrep desc w.g.hm t false []) }))

/-- `accum` (R404): illegal in a grid launch (R400). -/
def execAccum (e : Bool) (b : Opnd) (s : State) : Host.Outcome State Fault Refusal :=
  .next (s.issue { len := 4, e := e, srcs := opndRun b 4, kind := .ray, access := true } (fun w => !opndRunOk b 4 || w.l.desc.kind == 0) noCheck (fun w =>
    if w.act = 0 then .done w.doneNone
    else
      let val := fun (i : Fin 32) (k : Nat) => match opndPlus b k with
        | some y => w.lane y i
        | none => 0
      let items := w.act.lanes.map (fun i => (i.val, val i 0, (val i 1) &&& 0xFFFFFF#32, val i 2, val i 3))
      let g := { w.g with ord := { w.g.ord with accum := w.g.ord.accum + 1 } }
      let post := fun (s : State) => s.addOp w.k w.n (.accum items (w.s.rid w.k w.g.ord.accum 0))
      if w.c.repro then .done { g := g, flow := .stay (.binFull w.s.ids), post := post } else .done { g := g, post := post }))

/-! ## Appends to scatter bins (R167, R168, R529) -/

/-- Whether a replay is of a region of a context's bin set. -/
def Replay.ofRegion (x : Replay) (asid : Nat) (desc : DWord) (r : Nat) : Bool :=
  x.asid == asid && (match x.scatter with
    | some (d, _, q) => d == desc && q == r
    | none => false)

/-- Whether a replay of a region of a context's bin set is waiting or under way (R168, R392). -/
def State.replaying (s : State) (asid : Nat) (desc : DWord) (r : Nat) : Bool := s.replays.any (·.ofRegion asid desc r)

/-- Add a replay at the end of the line. -/
def State.addReplay (s : State) (w : CirqueWho) (launch : Nat) (scatter : Option (DWord × Bool × Nat)) (tile : Nat)
    (items : List (DWord × Word × Word × Word × Word)) : State :=
  let x : Replay := { id := s.ids, part := w.part, asid := w.asid, launch := launch, scatter := scatter, tile := tile, items := items,
                      started := false, stamp := 0, pages := [], owned := [], stopped := false }
  { s with replays := s.replays ++ [x], ids := s.ids + 1 }

/-- What appending one update comes to. -/
inductive Append where
  | ok (s : State)
  /-- the bin is full, or its region is being replayed -/
  | full (s : State)
  | stop (e : CirqueStop)

/-- Append one update (R166 to R168). -/
def State.appendOne (s : State) (w : CirqueWho) (launch : Nat) (desc : DWord) (ikey : DWord) (item : Nat × Word × Word) : Append :=
  match s.binSet w desc with
  | .error e => .stop e
  | .ok (s, d) =>
    let stat := fun (code : Nat) (s : State) => match s.binStat w desc d code with
      | .ok s' => Append.ok s'
      | .error e => .stop e
    if d.bad then stat 1 s
    else if s.replBytes w.part w.asid < 2 ^ d.rlog then stat 2 s
    else
      let r := d.region item.2.1.toNat
      if d.nreg ≤ r then
        match s.cirquePut w (desc.toNat + 0x1C) 4 (d.drop + 1) with
        | .ok s' => stat 3 s'
        | .error e => .stop e
      else if s.replaying w.asid desc r then .full s
      else match s.cirqueNum w (d.binVa r) 8 with
        | .error e => .stop e
        | .ok (s, n) =>
          if 2 ^ d.clog ≤ n then .full (s.addReplay w launch (some (desc, w.hm, r)) 0 [])
          else match s.cirquePut w (d.binVa r + 128 + 8 * n) 8 (item.2.1.toNat + item.2.2.toNat * 2 ^ 32) with
            | .error e => .stop e
            | .ok s => match s.cirquePut w (d.binVa r) 8 (n + 1) with
              | .error e => .stop e
              | .ok s => .ok (s.modLaunch launch (fun l => { l with binKeys := l.binKeys ++ [(desc, r, n, ikey, item.1)] }))

/-- Keep what is left of a `binp`. -/
def State.binpPut (s : State) (o : Op) (desc : DWord) (hm : Bool) (items : List (Nat × Word × Word)) (ikey : DWord) : State :=
  s.setOp o.id (.binp desc hm items ikey)

/-- Append the updates of a `binp` in order, as far as they go. -/
def State.appendAll (o : Op) (w : CirqueWho) (launch : Nat) (desc ikey : DWord) (s0 : State) : State → List (Nat × Word × Word) → Option State
  | s, [] =>
    some ((s.endStore o).modGroup o.gk (fun g =>
      let g := g.passIf (fun r => r == .binFull o.id && s.isRepro w.asid)
      g.wakeIf (fun r => r == .binFull o.id)))
  | s, x :: r =>
    match s.appendOne w launch desc ikey x with
    | .ok s' => State.appendAll o w launch desc ikey s0 s' r
    | .full s' =>
      -- the slot stalls until the replay ends (R168)
      let s' := (s'.binpPut o desc w.hm (x :: r) ikey).modSlot o.gk o.slot (fun y =>
        if y.st = .ready then { y with st := .wait, wait := some (.binFull o.id), latch := none } else y)
      if s' = s0 then none else some s'
    | .stop (.fault s') => some (s'.binpPut o desc w.hm (x :: r) ikey)
    | .stop (.wait s') =>
      let s' := s'.binpPut o desc w.hm (x :: r) ikey
      if s' = s0 then none else some s'

/-- Whether the Cirque can reach some places now, each to read or to write. -/
def State.cirqueCan (w : CirqueWho) : State → List (Nat × Bool) → Except CirqueStop State
  | s, [] => .ok s
  | s, x :: r => match s.cirquePlace w x.1 x.2 with
    | .error e => .error e
    | .ok (s, _) => State.cirqueCan w s r

/-- The fill counts of some regions. -/
def State.fillCounts (w : CirqueWho) (d : BinSet) : State → List Nat → Except CirqueStop (State × List (Nat × Nat))
  | s, [] => .ok (s, [])
  | s, r :: rs => match s.cirqueNum w (d.binVa r) 8 with
    | .error e => .error e
    | .ok (s, n) => match State.fillCounts w d s rs with
      | .error e => .error e
      | .ok (s, out) => .ok (s, (r, n) :: out)

/-- In a reproducible context the Cirque looks before it appends (R481): whether every bin takes its share of the updates, with all
the places that they write within reach, so that it then appends all or none. (DEDUCED, log 97.) -/
def State.appendFits (s : State) (w : CirqueWho) (desc : DWord) (items : List (Nat × Word × Word)) : Except CirqueStop (State × Bool) :=
  match s.binSet w desc with
  | .error e => .error e
  | .ok (s, d) =>
    let drops := d.bad || s.replBytes w.part w.asid < 2 ^ d.rlog
    let of := fun (x : Nat × Word × Word) => d.region x.2.1.toNat
    let good := if drops then [] else items.filter (fun x => of x < d.nreg)
    -- a region that another launch's completion is replaying takes none until that ends (R168)
    if good.any (fun x => s.replaying w.asid desc (of x)) then .error (.wait s)
    else match State.fillCounts w d s (good.map of).eraseDups with
    | .error e => .error e
    | .ok (s, counts) =>
      let share := fun (r : Nat) => (good.filter (fun x => of x == r)).length
      if counts.any (fun c => 2 ^ d.clog < c.2 + share c.1) then .ok (s, false)
      else
        let recs := counts.flatMap (fun c => (d.binVa c.1, true) :: (upFrom c.2 (share c.1)).map (fun n => (d.binVa c.1 + 128 + 8 * n, true)))
        match State.cirqueCan w s ((if good.length < items.length then [(desc.toNat + 0x18, true)] else []) ++ recs) with
        | .error e => .error e
        | .ok s => .ok (s, true)

/-- A merge overflow (R481): the debug record, STATUS 3 and the halt; the instruction is given back and its group, which
raised the halt, stops at once with cause 0x00. (DEDUCED, log 97.) -/
def State.mergeOverflow (s : State) (o : Op) (sub va : Nat) (store : Bool) : State :=
  let asid := s.asidOf o.gk
  let part := (s.block? o.gk.block).elim 0 (fun b => partOfCluster b.cluster)
  let s := match s.ctx? asid with
    | some c =>
      let c' := { c with dtStatus := 3 }
      (s.modCtx asid (fun _ => c')).dtHeader c'
    | none => s
  let l := (s.block? o.gk.block).bind s.launchOf
  let s := s.debugRecord asid 3 sub 0 (0xA000 + part) (s.corrOfGroup o.gk) (((s.group? o.gk).map (·.gid)).getD 0) va 0 (s.lseqOf asid l)
  let s := s.modGroup o.gk (fun g =>
    let g := (if store then g.stDone else g).wakeIf (fun r => r == .binFull o.id)
    { g with stopped := true, stopCause := none })
  (s.haltContext asid).dropOp o.id

/-- Whether an append has to wait for earlier work of its group: an acquire that has not returned (R116, R121, R132, R133), or an
earlier append of its kind, with which it keeps program order (R529). -/
def State.appendWaits (s : State) (o : Op) (same : OpBody → Bool) : Bool := (s.before o).any (fun x => x.body.acquires || same x.body)

/-- A `binp` reaches the append buffer (R529): in program order of its group. (DEDUCED, log 47.) -/
def State.binAppend? (s : State) (o : Op) : Option State :=
  match o.body with
  | .binp desc hm items ikey =>
    let earlier := s.appendWaits o (fun x => match x with
      | .binp .. => true
      | _ => false)
    let w := s.cirqueFor o.gk hm
    let launch := ((s.block? o.gk.block).map (·.launch)).getD 0
    if earlier || !s.ctxOpen w.asid then none
    else
      let s1 := s.modLaunch launch (fun l => if l.binSets.any (fun x => x.2.1 == desc) then l else { l with binSets := l.binSets ++ [(w.part, desc, hm)] })
      if !s.isRepro w.asid then State.appendAll o w launch desc ikey s1 s1 items
      else match s1.appendFits w desc items with
        | .error e => e.settle s
        | .ok (s2, false) => some (s2.mergeOverflow o 0 desc.toNat true)
        | .ok (s2, true) => State.appendAll o w launch desc ikey s1 s2 items
  | _ => none

/-- `binAppend`. -/
def execBinAppend (op : Nat) (s : State) : Host.Outcome State Fault Refusal := .next (((s.op? op).bind s.binAppend?).getD s)

/-! ## `binrep` (R392) -/

/-- The regions of a set whose bins are not empty. -/
def State.filledRegions (s : State) (w : CirqueWho) (d : BinSet) : List Nat → Except CirqueStop (State × List Nat)
  | [] => .ok (s, [])
  | r :: rs =>
    match s.cirqueNum w (d.binVa r) 8 with
    | .error e => .error e
    | .ok (s, n) =>
      match s.filledRegions w d rs with
      | .error e => .error e
      | .ok (s, out) => .ok (s, if n = 0 then out else r :: out)

/-- The partition whose replay allocation holds the replays of a set: the one that asks for them where a region fits in its
allocation, else the lowest one where it does, so that every replay starts (R169). (DESIGN CHOICE, log 126.) -/
def State.replayPart (s : State) (part asid rlog : Nat) : Nat :=
  if 2 ^ rlog ≤ s.replBytes part asid then part
  else ((List.range 8).find? (fun p => decide (2 ^ rlog ≤ s.replBytes p asid))).getD part

/-- Start replays of regions, each behind those already waiting for it; the identifiers of all that must end. -/
def State.startReplays (s : State) (w : CirqueWho) (launch : Nat) (desc : DWord) (rlog : Nat) (rs : List Nat) : State × List Nat :=
  let w := { w with part := s.replayPart w.part w.asid rlog }
  let s' := rs.foldl (fun s r => if s.replaying w.asid desc r then s else s.addReplay w launch (some (desc, w.hm, r)) 0 []) s
  (s', (s'.replays.filter (fun x => rs.any (x.ofRegion w.asid desc))).map (·.id))

/-- End a `binrep` (R392): its token is STAT, read after the last replay, and the copy count falls. -/
def State.binrepEnd? (s : State) (o : Op) : Option State :=
  match o.body with
  | .binrep desc hm t true [] =>
    let w := s.cirqueFor o.gk hm
    if !s.ctxOpen w.asid then none
    else match s.cirqueNum w (desc.toNat + 0x18) 4 with
    | .error e => e.settle s
    | .ok (s, st) => some ((s.giveToken o.gk o.id ((tokReg hm t).map (fun r => ⟨r, 0, .s (tokenOf st)⟩)) Group.cpDone).dropOp o.id)
  | _ => none

/-- A `binrep` is accepted (R392): the replays of its non-empty regions begin; a reproducible context replays nothing (R481). -/
def State.binrepAccept? (s : State) (o : Op) : Option State :=
  match o.body with
  | .binrep desc hm t false _ =>
    let w := s.cirqueFor o.gk hm
    let earlier := s.appendWaits o (fun x => match x with
      | .binp .. => true
      | _ => false)
    let launch := ((s.block? o.gk.block).map (·.launch)).getD 0
    if earlier || !s.ctxOpen w.asid then none
    else match s.binSet w desc with
      | .error e => e.settle s
      | .ok (s1, d) =>
        let fin := fun (s : State) (reps : List Nat) =>
          let s := s.setOp o.id (.binrep desc hm t true reps)
          if reps = [] then (s.binrepEnd? { o with body := .binrep desc hm t true [] }).getD s else s
        if d.bad || s.isRepro w.asid then some (fin s1 [])
        else match s1.filledRegions w d (List.range d.nreg) with
          | .error e => e.settle s
          | .ok (s2, rs) =>
            let r := s2.startReplays w launch desc d.rlog rs
            some (fin r.1 r.2)
  | .binrep _ _ _ true [] => s.binrepEnd? o
  | _ => none

/-- `binrepAccept`. -/
def execBinrepAccept (op : Nat) (s : State) : Host.Outcome State Fault Refusal := .next (((s.op? op).bind s.binrepAccept?).getD s)

/-! ## Scatter replays (R169) -/

/-- The Cirque acting for a replay. -/
def State.replayWho (s : State) (x : Replay) : CirqueWho :=
  { part := x.part, asid := x.asid, hm := (x.scatter.map (·.2.1)).getD false, corr := ((s.launch? x.launch).map (·.corr)).getD 0,
    stamp := if x.started then x.stamp else s.ids }

/-- Change a replay. -/
def State.putReplay (s : State) (x : Replay) : State := { s with replays := s.replays.map (fun y => if y.id = x.id then x else y) }

/-- Bytes of the replay allocation that a replay holds (R169). -/
def State.replaySize (s : State) (x : Replay) : Nat :=
  match x.scatter with
  | some (d, _, _) => match s.binSet (s.replayWho x) d with
    | .ok (_, d) => 2 ^ d.rlog
    | .error _ => 0
  | none => 1024

/-- Whether a replay may start: none of its region is ahead of it, and the allocation has room beside those in progress.
(DEDUCED, log 48.) -/
def State.replayMayStart (s : State) (x : Replay) : Bool :=
  let ahead := (s.replays.takeWhile (fun y => y.id != x.id)).any (fun y => match x.scatter, y.scatter with
    | some (d, _, r), some _ => y.ofRegion x.asid d r
    | none, none => x.launch == y.launch && x.tile == y.tile && x.part == y.part
    | _, _ => false)
  let used := ((s.replays.filter (fun y => y.started && y.part == x.part && y.asid == x.asid)).map s.replaySize).sum
  !x.started && !x.stopped && s.ctxOpen x.asid && !ahead && used + s.replaySize x ≤ s.replBytes x.part x.asid

/-- Translate the target pages of a replay and take ownership of its lines (R169, R126, R158): a fault names its page. -/
def State.replayOwn (s : State) (w : CirqueWho) (x : Replay) (va n : Nat) : Except CirqueStop (State × Replay) :=
  let lns := upFrom (va / 128) (n / 128)
  match s.enginePages w.part w.asid ⟨.cirqueWrite, w.hm, false⟩ [] (lns.map (128 * ·)) with
  | .fault s' f a => .error (.fault (s'.cirqueFault w f a .cirqueWrite))
  | .wait s' => .error (.wait s')
  | .ok s' ps =>
    let ls := lns.filterMap (fun ln => pageLoc ps (128 * ln))
    let own := ls.filter (fun l => l.kind == .device || l.kind == .peer)
    match s'.statusAfter w.agent true s.ids ls with
    | .lost => .error (.fault (s'.cirqueFault w { cause := 0x25, sub := 0, level := 3, ent := 0 } va .cirqueWrite))
    | .busy => .error (.wait (s'.askPeerFor true ls))
    | _ => .ok ({ s' with ids := s'.ids + 1 }.surrender (fun l => own.any (fun (o : Loc) => o.kind == MemKind.peer && lineOf o.pa == l.line)),
        { x with started := true, stamp := s.ids, pages := ps, owned := own })

/-- Start a region replay (R169, step 1). (DEDUCED, log 96.) -/
def State.scatterStart? (s : State) (id : Nat) : Option State :=
  match s.replays.find? (fun x => x.id == id) with
  | some x =>
    match x.scatter with
    | some (desc, _, r) =>
      let w := s.replayWho x
      if !s.replayMayStart x then none
      else match s.binSet w desc with
        | .error e => e.settle s
        | .ok (s1, d) =>
          match s1.replayOwn w x (d.tgt + r * 2 ^ d.rlog) (2 ^ d.rlog) with
          | .error (.fault s') => some (s'.putReplay { x with stopped := true })
          | .error (.wait s') => progress s s'
          | .ok (s2, x') => some (s2.putReplay x')
    | none => none
  | none => none

/-- `scatterReplayStart`. -/
def execScatterReplayStart (rep : Nat) (s : State) : Host.Outcome State Fault Refusal := .next ((s.scatterStart? rep).getD s)

/-- The operation of a scatter set (R166, R169). -/
def binOp (op : Nat) (x v : Word) : Word :=
  if op = 0 then x + v else if op = 1 then fAdd x v else if op = 2 then (if v.slt x then v else x) else (if x.slt v then v else x)

/-- Insert into a list in order. -/
def insertBy {α : Type} (le : α → α → Bool) (x : α) : List α → List α
  | [] => [x]
  | y :: r => if le x y then x :: y :: r else y :: insertBy le x r

/-- Sort a list, equal elements in their order. -/
def sortBy {α : Type} (le : α → α → Bool) (l : List α) : List α := l.foldr (insertBy le) []

/-- The records of a bin in the order of their application (R168, R481): index and value. (DEDUCED, log 48.) -/
def State.binRecords (s : State) (x : Replay) (desc : DWord) (r : Nat) (recs : List (Nat × Word)) : List (Nat × Word) :=
  match s.launch? x.launch with
  | some l =>
    if s.isRepro x.asid then
      let key := fun (i : Nat) => match l.binKeys.find? (fun k => k.1 == desc && k.2.1 == r && k.2.2.1 == i) with
        | some k => k.2.2.2.1.toNat * 32 + k.2.2.2.2
        | none => 0
      (sortBy (fun (a b : Nat × Nat × Word) => decide (a.1 ≤ b.1)) ((upFrom 0 recs.length).zip recs |>.map (fun p => (key p.1, p.2)))).map (·.2)
    else recs
  | none => recs

/-- The records of a bin as its region's replay reads them; the pages of the bin are translated as it goes. -/
def State.binRead (s : State) (w : CirqueWho) (va : Nat) : List Nat → Except CirqueStop (State × List (Nat × Word))
  | [] => .ok (s, [])
  | i :: is =>
    match s.cirqueNum w (va + 128 + 8 * i) 8 with
    | .error e => .error e
    | .ok (s, v) =>
      match s.binRead w va is with
      | .error e => .error e
      | .ok (s, out) => .ok (s, (v % 2 ^ 32, BitVec.ofNat 32 (v / 2 ^ 32)) :: out)

/-- Write the changed words of a replay, line by line in ascending address order, each line once, and compare each with the
watchpoints, its bytes in the same order (R158, R169, R468, R469). -/
def State.replayWrite (s : State) (w : CirqueWho) (x : Replay) (src : Nat) (words : List (Nat × Word)) : State :=
  let l := s.launch? x.launch
  let words := sortBy (fun (a b : Nat × Word) => decide (a.1 ≤ b.1)) words
  let bytes := words.flatMap (fun e => (upFrom e.1 4).zip (leBytes 4 e.2.toNat))
  let lns := (bytes.map (fun b => lineOf b.1)).eraseDups
  (lns.foldl (fun (acc : State × List Nat) ln =>
    let mine := bytes.filter (fun b => lineOf b.1 == ln)
    let locs := mine.filterMap (fun b => (pageLoc x.pages b.1).map (fun p => (p, b.2)))
    let acc := mine.foldl (fun (acc : State × List Nat) b =>
      acc.1.watchWrite x.asid b.1 1 acc.2 0 (0xA000 + w.part) ((l.map (·.corr)).getD 0) 0xFFFFFFFF src (s.lseqOf x.asid l)) acc
    let peer := locs.filter (fun p => p.1.kind == .peer)
    let s := acc.1.peerHomeWrite (peer.map (fun p => (p.1.pa, p.2)))
    (s.writeAt w.agent (locs.filter (fun p => !(p.1.kind == .peer))) .normal, acc.2)) (s, [])).1

/-- The replays that a `binrep` waits for, and its end after the last (R169, R392). -/
def State.replayEnded (s : State) (id : Nat) : State :=
  let s := { s with replays := s.replays.filter (fun x => !(x.id == id)) }
  let s := { s with ops := s.ops.map (fun (o : Op) => match o.body with
    | .binrep d hm t true reps => { o with body := .binrep d hm t true (reps.erase id) }
    | _ => o) }
  s.ops.foldl (fun s o => (s.binrepEnd? o).getD s) s

/-- Finish a region replay (R169, steps 2 to 5). (DEDUCED, log 48.) -/
def State.scatterDone? (s : State) (id : Nat) : Option State :=
  match s.replays.find? (fun x => x.id == id) with
  | some x =>
    match x.scatter with
    | some (desc, _, r) =>
      let w := s.replayWho x
      if !x.started || x.stopped || !s.ctxRuns x.asid then none
      else
        let stop := fun (e : CirqueStop) => match e with
          | .fault s' => some (s'.putReplay { x with stopped := true })
          | .wait s' => progress s s'
        match s.binSet w desc with
        | .error e => stop e
        | .ok (s, d) => match s.cirqueNum w (d.binVa r) 8 with
          | .error e => stop e
          | .ok (s, n) => match s.binRead w (d.binVa r) (List.range n) with
            | .error e => stop e
            | .ok (s, recs) =>
              let mine := (s.binRecords x desc r recs).filter (fun e => d.region e.1 == r)
              let place := fun (i : Nat) => pageLoc x.pages (d.tgt + 4 * i)
              let ls := mine.filterMap (fun e => place e.1)
              match s.statusAfter w.agent true x.stamp ls with
              | .ok =>
                match ls.find? (fun l => s.poisonAt w.agent l) with
                | some l => stop (.fault (s.cirqueFault w { cause := 0x23, sub := s.poisonCode w.agent l, level := 3, ent := BitVec.ofNat 64 l.lineLoc.pa } (d.tgt) .travRead))
                | none =>
                  let old := fun (i : Nat) => match place i with
                    | some l => BitVec.ofNat 32 (s.numAt w.agent l 4)
                    | none => 0
                  let idxs := (mine.map (·.1)).eraseDups
                  let new := idxs.map (fun i => (d.tgt + 4 * i, (mine.filter (fun e => e.1 == i)).foldl (fun acc e => binOp d.op acc e.2) (old i)))
                  -- the place of the fill count first, so that the targets are written once
                  match s.cirquePlace w (d.binVa r) true with
                  | .error e => stop e
                  | .ok (s, c) =>
                    let s := (s.replayWrite w x 1 new).homeWrite w.agent c (leBytes 8 0)
                    let s := s.modLaunch x.launch (fun l => { l with binKeys := l.binKeys.filter (fun k => !(k.1 == desc && k.2.1 == r)) })
                    some (s.replayEnded id)
              | .busy => s.askOnce true ls
              | .lost => stop (.fault (s.cirqueFault w { cause := 0x25, sub := 0, level := 3, ent := 0 } d.tgt .cirqueWrite))
              | _ => none
    | none => none
  | none => none

/-- `scatterReplayDone`. -/
def execScatterReplayDone (rep : Nat) (s : State) : Host.Outcome State Fault Refusal := .next ((s.scatterDone? rep).getD s)

/-! ## Accumulation bins (R170, R235, R236) -/

/-- The tile of a pixel index (R235); none where the contribution is dropped (R236). -/
def RayHeader.tileOf (h : RayHeader) (p : Nat) : Option Nat :=
  if h.acc = 0 || h.aw * h.ah ≤ p then none else some (p / h.aw / 8 * ((h.aw + 7) / 8) + p % h.aw / 8)

/-- The VA of a pixel's accumulator (R235). -/
def RayHeader.pixelVa (h : RayHeader) (p : Nat) : Nat :=
  h.acc.toNat + 1024 * ((h.tileOf p).getD 0) + 16 * (8 * (p / h.aw % 8) + p % h.aw % 8)

/-- Count dropped contributions (R212, R236). -/
def State.accDrop (s : State) (launch n : Nat) : State :=
  s.modLaunch launch (fun l => { l with ctr := { l.ctr with accdrop := BitVec.ofNat 32 (min (l.ctr.accdrop.toNat + n) 0xFFFFFFFF) } })

/-- Give a bin's contributions to a replay, or in a reproducible context to the spill area (R170, R481). -/
def State.flushBin (s : State) (w : CirqueWho) (b : AccBin) : State :=
  let s := { s with accBins := s.accBins.filter (fun x => !(x.part == b.part && x.launch == b.launch && x.tile == b.tile)) }
  if s.isRepro w.asid then
    match s.ctx? w.asid with
    | some c =>
      let bytes := b.items.flatMap (fun e => leBytes 4 e.2.1.toNat ++ leBytes 4 e.2.2.1.toNat ++ leBytes 4 e.2.2.2.1.toNat ++ leBytes 4 e.2.2.2.2.toNat)
      let s := match c.spillArea with
        | some l => s.postBytes (l.add c.spillUsed) bytes
        | none => s
      { s.modCtx w.asid (fun c => { c with spillUsed := c.spillUsed + bytes.length }) with spilled := s.spilled ++ [b] }
    | none => s
  else s.addReplay w b.launch none b.tile b.items

/-- The bytes that appending some contributions would spill, and the state after them: each goes to its tile's bin, which a
65th replays, and a new bin displaces the oldest of 32 (R170). -/
def State.accumOne (s : State) (w : CirqueWho) (launch tile : Nat) (e : DWord × Word × Word × Word × Word) : State :=
  let mine := fun (b : AccBin) => b.part == w.part && b.launch == launch && b.tile == tile
  match s.accBins.find? mine with
  | some b =>
    if 64 ≤ b.items.length then
      let s := s.flushBin w b
      { s with accBins := s.accBins ++ [{ b with items := [e], first := s.ids }], ids := s.ids + 1 }
    else { s with accBins := s.accBins.map (fun b => if mine b then { b with items := b.items ++ [e] } else b) }
  | none =>
    let here := s.accBins.filter (fun b => b.part == w.part && ((s.launch? b.launch).map (·.asid)) == some w.asid)
    let oldest := here.foldl (fun (acc : Option AccBin) b => match acc with
      | some a => if b.first < a.first then some b else acc
      | none => some b) none
    let s := if 32 ≤ here.length then (match oldest with
      | some b => s.flushBin w b
      | none => s) else s
    { s with accBins := s.accBins ++ [{ part := w.part, launch := launch, tile := tile, items := [e], first := s.ids }], ids := s.ids + 1 }

/-- Append all contributions of an `accum`. -/
def State.accumAll (s : State) (w : CirqueWho) (launch : Nat) (h : RayHeader) (items : List (DWord × Word × Word × Word × Word)) : State :=
  items.foldl (fun s e => match h.tileOf e.2.1.toNat with
    | some t => s.accumOne w launch t e
    | none => s.accDrop launch 1) s

/-- Whether the spill area of a reproducible context is too small for what it would hold (R481). -/
def State.spillFull (s : State) (asid : Nat) : Bool :=
  match s.ctx? asid with
  | some c => match c.spillArea with
    | some _ => 2 ^ c.splog < c.spillUsed
    | none => 0 < c.spillUsed
  | none => false

/-- An `accum` reaches the append buffer (R404, R529): in program order of its group. (DEDUCED, log 47.) -/
def State.accumAppend? (s : State) (o : Op) : Option State :=
  match o.body with
  | .accum items key =>
    let w := s.cirqueFor o.gk false
    let launch := ((s.block? o.gk.block).map (·.launch)).getD 0
    let earlier := s.appendWaits o (fun x => match x with
      | .accum .. => true
      | _ => false)
    if earlier || !s.ctxOpen w.asid then none
    else match (s.launch? launch).bind (·.hdr) with
      | none => some ((s.accDrop launch items.length).dropOp o.id)
      | some h =>
        let s1 := s.accumAll w launch h (items.map (fun e => (key + BitVec.ofNat 64 e.1, e.2)))
        if s.isRepro w.asid && s1.spillFull w.asid then some (s.mergeOverflow o 1 h.acc.toNat false)
        else some ((s1.modGroup o.gk (fun g => g.passIf (fun r => r == .binFull o.id))).dropOp o.id)
  | _ => none

/-- `accumAppend`. -/
def execAccumAppend (op : Nat) (s : State) : Host.Outcome State Fault Refusal := .next (((s.op? op).bind s.accumAppend?).getD s)

/-- The header of a replay's launch. -/
def State.replayHeader (s : State) (x : Replay) : Option RayHeader := (s.launch? x.launch).bind (·.hdr)

/-- The page of a tile faults: its contributions are dropped and counted, beside the context fault (R236). -/
def State.tileFault (s : State) (x : Replay) : State := (s.accDrop x.launch x.items.length).replayEnded x.id

/-- Start a tile replay (R170). -/
def State.tileStart? (s : State) (id : Nat) : Option State :=
  match s.replays.find? (fun x => x.id == id) with
  | some x =>
    match x.scatter, s.replayHeader x with
    | none, some h =>
      let w := s.replayWho x
      let va := h.acc.toNat + 1024 * x.tile
      if !s.replayMayStart x then none
      else match s.enginePages w.part w.asid ⟨.cirqueWrite, w.hm, false⟩ [] [va] with
      | .fault s' f a => some ((s'.cirqueFault w f a .cirqueWrite).tileFault x)
      | _ => match s.replayOwn w x va 1024 with
        | .error (.fault s') => some (s'.putReplay { x with stopped := true })
        | .error (.wait s') => progress s s'
        | .ok (s', x') => some (s'.putReplay x')
    | _, _ => none
  | none => none

/-- `accTileReplay`. -/
def execAccTileReplay (rep : Nat) (s : State) : Host.Outcome State Fault Refusal := .next ((s.tileStart? rep).getD s)

/-- The four channels of a contribution, widened exactly to FP32 (R236). -/
def channels (rg bw : Word) : List Word :=
  [rg, bw].flatMap (fun w => [0, 1].map (fun k => toWord ((valOf fp16 (el16 w k)).to fp32)))

/-- The contributions of a tile in the order of their application (R170, R481). -/
def State.tileItems (s : State) (x : Replay) : List (DWord × Word × Word × Word × Word) :=
  if s.isRepro x.asid then
    sortBy (fun a b => decide (a.2.2.1.toNat < b.2.2.1.toNat) || (a.2.2.1 == b.2.2.1 && decide (a.1.toNat ≤ b.1.toNat))) x.items
  else x.items

/-- Finish a tile replay (R170, R236): every contribution is added in order, and each touched line is written once. Where a line is
poisoned or lost the replay stops, and is made again after a resume (R41). -/
def State.tileDone? (s : State) (id : Nat) : Option State :=
  match s.replays.find? (fun x => x.id == id) with
  | some x =>
    match x.scatter, s.replayHeader x with
    | none, some h =>
      let w := s.replayWho x
      if !x.started || x.stopped || !s.ctxRuns x.asid then none
      else
        let items := s.tileItems x
        let vas := ((items.map (fun e => h.pixelVa e.2.1.toNat)).eraseDups)
        let ls := vas.filterMap (pageLoc x.pages)
        match s.statusAfter w.agent true x.stamp ls with
        | .ok =>
          match ls.find? (fun l => s.poisonIn w.agent l 16) with
          | some l =>
            let f : XFault := { cause := 0x23, sub := s.poisonCode w.agent l, level := 3, ent := BitVec.ofNat 64 l.lineLoc.pa }
            some ((s.cirqueFault w f h.acc.toNat .travRead).putReplay { x with stopped := true })
          | none =>
            let old := fun (va k : Nat) => match pageLoc x.pages (va + 4 * k) with
              | some l => BitVec.ofNat 32 (s.numAt w.agent l 4)
              | none => 0
            let new := vas.flatMap (fun va => [0, 1, 2, 3].map (fun k =>
              (va + 4 * k, (items.filter (fun e => h.pixelVa e.2.1.toNat == va)).foldl
                (fun acc e => fAdd acc ((channels e.2.2.2.1 e.2.2.2.2).getD k 0)) (old va k))))
            some ((s.replayWrite w x 2 new).replayEnded id)
        | .busy => s.askOnce true ls
        | .lost => some ((s.cirqueFault w { cause := 0x25, sub := 0, level := 3, ent := 0 } h.acc.toNat .cirqueWrite).putReplay { x with stopped := true })
        | _ => none
    | _, _ => none
  | none => none

/-- `accTileReplayDone`. -/
def execAccTileReplayDone (rep : Nat) (s : State) : Host.Outcome State Fault Refusal := .next ((s.tileDone? rep).getD s)

end Sys2Proof.Machine
end

