-- ==== Sys2Proof/Machine/Coherence.lean ====
section
/-! DEFINITION. The peer directory of the lines that this die homes (R70), what the peer asks of it and answers to it, and
what the errors of R73 leave (R74 to R80). -/
namespace Sys2Proof.Machine

/-! ## The peer directory -/

/-- Put a directory state on a line; none is PI. -/
def Caches.setDir (c : Caches) (ln : Nat) (d : Option DirState) : Caches :=
  let rest := c.dir.filter (fun e => !(e.1 == ln))
  { c with dir := match d with
    | some x => (ln, x) :: rest
    | none => rest }

/-- Note the copy that the peer holds of a line: none, or S, or M. -/
def Caches.setCopy (c : Caches) (ln : Nat) (m : Option Bool) : Caches :=
  let rest := c.peerCopies.filter (fun e => !(e.1 == ln))
  { c with peerCopies := match m with
    | some x => (ln, x) :: rest
    | none => rest }

/-- Set the directory state of a line and the peer's copy. -/
def State.setHome (s : State) (ln : Nat) (d : Option DirState) (m : Option Bool) : State :=
  { s with mem := (s.mem.setDir ln d).setCopy ln m }

/-- The entry that a new directory entry displaces: 16,384 sets of 16 (R70). A lost line stays. (DESIGN CHOICE, log 14.) -/
def State.dirVictim (s : State) (ln : Nat) : Option Nat :=
  if (s.mem.dirOf ln).isSome || s.mem.dir.length < 16 then none
  else
    let set := s.mem.dir.filter (fun e => Config.dirSetOf e.1 % 16384 == Config.dirSetOf ln % 16384)
    let cand := set.filter (fun e => e.2 != .pl)
    if set.length < 16 then none else (cand[Config.victim s.clk cand.length % cand.length]?).map (·.1)

/-- Whether a line has a transaction in flight (R70). -/
def State.inTxn (s : State) (ln : Nat) : Bool := s.mem.homeTxn.any (fun t => t.1 == ln)

/-- A request of the peer for a line is handled when the link is up, no transaction is in flight for the line, no copy or
replay owns it and it is not lost (R60, R70). An entry that must give way is recalled first, as for a home-die store.
(DEDUCED, log 50.) -/
def State.peerRequest (s : State) (ln : Nat) (entry : Bool) (go : State → Option State) : Option State :=
  if !s.linkUp || s.inTxn ln || s.owned ⟨.device, 128 * ln⟩ || s.mem.dirOf ln == some .pl then none
  else match (if entry then s.dirVictim ln else none) with
    | some v => progress s (s.askPeer v true)
    | none => go s

/-- The home L2 supplies a line, filling it from memory if needed. -/
def State.supply (s : State) (ln : Nat) : State := s.touchFor .device [⟨.device, 128 * ln⟩] .normal true

/-- Bytes of a line that reach the home L2. (DEDUCED, log 50.) -/
def State.takeData (s : State) (ln : Nat) (data : List Byte) : State :=
  s.devWrite (s.viaOf .device) ((upFrom (128 * ln) 128).zip data) .normal

/-- A load miss of the peer (R70). -/
def State.rds? (s : State) (ln : Nat) : Option State :=
  s.peerRequest ln true (fun s => if s.mem.dirOf ln = some .pm then none else some ((s.supply ln).setHome ln (some .ps) (some false)))

/-- `rds`. (DESIGN CHOICE, log 12.) -/
def execRds (line : Nat) (s : State) : Host.Outcome State Fault Refusal := .next ((s.rds? line).getD s)

/-- A store of the peer to a line that it does not hold (R70). -/
def State.rdx? (s : State) (ln : Nat) : Option State :=
  s.peerRequest ln true (fun s => if s.mem.dirOf ln = some .pm then none else some ((s.supply ln).setHome ln (some .pm) (some true)))

/-- `rdx`. -/
def execRdx (line : Nat) (s : State) : Host.Outcome State Fault Refusal := .next ((s.rdx? line).getD s)

/-- A store of the peer to a line that it holds in S: an acknowledgement, or, when the line has been taken from it
meanwhile, the data (R70). -/
def State.upg? (s : State) (ln : Nat) : Option State :=
  s.peerRequest ln true (fun s => match s.mem.dirOf ln with
    | some .ps => some (s.setHome ln (some .pm) (some true))
    | none => some ((s.supply ln).setHome ln (some .pm) (some true))
    | _ => none)

/-- `upg`. -/
def execUpg (line : Nat) (s : State) : Host.Outcome State Fault Refusal := .next ((s.upg? line).getD s)

/-- The peer evicts a line that it holds in M (R70). -/
def State.wb? (s : State) (ln : Nat) (data : List Byte) : Option State :=
  s.peerRequest ln false (fun s => if s.mem.dirOf ln = some .pm then some ((s.takeData ln data).setHome ln none none) else none)

/-- `wb`. -/
def execWb (line : Nat) (data : List Byte) (s : State) : Host.Outcome State Fault Refusal := .next ((s.wb? line data).getD s)

/-- An atomic of the peer: its M data comes with it, and the home performs it in L2 (R70, R122). -/
def State.peerAtomic? (s : State) (ln off : Nat) (op : AtomOp) (d n : DWord) (data : List Byte) : Option State :=
  s.peerRequest ln false (fun s =>
    let w := atomBytes op
    let l : Loc := ⟨.device, 128 * ln + off % 128 / w * w⟩
    let s := ((s.takeData ln data).setHome ln none none).touchFor .device [l] .normal false
    some (s.putAtomic .device l w (atomNew op (BitVec.ofNat 64 (s.numAt .device l w)) d n)))

/-- `peerAtomic`. -/
def execPeerAtomic (line off : Nat) (op : AtomOp) (d n : DWord) (data : List Byte) (s : State) : Host.Outcome State Fault Refusal :=
  .next ((s.peerAtomic? line off op d n data).getD s)

/-! ## Inv, recall and their answers -/

/-- Whether the peer has answered for a line. -/
def State.peerAnswered (s : State) (ln : Nat) : Bool := s.mem.peerAns.any (fun a => a.1 == ln)

/-- The peer sends its answer for a line, and holds the copy `m` from now on. -/
def State.peerAnswer (s : State) (ln : Nat) (data : Option (Vector Byte 128)) (m : Option Bool) : State :=
  { s with mem := { s.mem.setCopy ln m with peerAns := s.mem.peerAns ++ [(ln, data)] } }

/-- The stores of the peer die to one of its own lines, by byte of the line, once this die holds no copy that could hide them
(R108). (DESIGN CHOICE, log 12.) (DEDUCED, log 50.) -/
def State.peerStores (s : State) (ln : Nat) (stores : List (Nat × Byte)) : State :=
  { s with peer := s.peer.writeAll (stores.map (fun x => (128 * ln + x.1 % 128, x.2))) }

/-- An Inv reaches the die that may hold the line (R70): the peer, for a line of this die, or this die, whose S copies go; with
it comes what the peer's own stores then write. A line that this die holds in M is recalled instead. -/
def State.inv? (s : State) (own : Bool) (ln : Nat) (stores : List (Nat × Byte)) : Option State :=
  if !s.linkUp then none
  else if own then
    if s.mem.homeTxn.contains (ln, .inv) && !s.peerAnswered ln then some (s.peerAnswer ln none none) else none
  else if s.mem.rdc.any (fun l => l.line == ln && l.dirty) then none
  else some ((s.surrender (fun l => l.line == ln)).peerStores ln stores)

/-- `inv`. (DESIGN CHOICE, log 12.) -/
def execInv (own : Bool) (l : PeerLine) (s : State) : Host.Outcome State Fault Refusal :=
  .next ((s.inv? own l.line l.stores).getD s)

/-- A transaction for a line ends: its answer is used up. -/
def State.endTxn (s : State) (ln : Nat) : State :=
  { s with mem := { s.mem with homeTxn := s.mem.homeTxn.filter (fun t => !(t.1 == ln)), peerAns := s.mem.peerAns.filter (fun a => !(a.1 == ln)) } }

/-- The acknowledgement of an Inv reaches the home (R70): the line is PI, and the access that waits goes on by its own step. -/
def State.invAck? (s : State) (ln : Nat) : Option State :=
  if s.mem.homeTxn.contains (ln, .inv) && s.peerAnswered ln then some ((s.endTxn ln).setHome ln none none) else none

/-- `invAck`. -/
def execInvAck (line : Nat) (s : State) : Host.Outcome State Fault Refusal := .next ((s.invAck? line).getD s)

/-- The bytes of a line from a list. -/
def lineOfBytes (data : List Byte) : Vector Byte 128 := Vector.ofFn (fun i => data.getD i.val 0)

/-- A recall or a recall-invalidate reaches the die that holds the line in M (R70). The peer sends its data and keeps S or
drops the line, as this die asked; this die sends its own line home and does the same, whatever address space the line is
tagged with (R69); where it drops the line, the peer's own stores may follow. -/
def State.recall? (s : State) (own keep : Bool) (ln : Nat) (data : List Byte) (stores : List (Nat × Byte)) : Option State :=
  if !s.linkUp then none
  else if own then
    if s.peerAnswered ln then none
    else if s.mem.homeTxn.contains (ln, .recall) then some (s.peerAnswer ln (some (lineOfBytes data)) (some false))
    else if s.mem.homeTxn.contains (ln, .recallInv) then some (s.peerAnswer ln (some (lineOfBytes data)) none)
    else none
  else if s.mem.rdc.any (fun l => l.line == ln && l.dirty) then
    if keep then
      let s' := (s.mem.rdc.filter (fun l => l.line == ln)).foldl State.rdcWriteBack s
      some { s' with mem := { s'.mem with rdc := s'.mem.rdc.map (fun l => if l.line == ln then { l with dirty := false } else l) } }
    else some ((s.surrender (fun l => l.line == ln)).peerStores ln stores)
  else none

/-- `recall`. (DESIGN CHOICE, log 12.) -/
def execRecall (own keep : Bool) (l : PeerLine) (data : List Byte) (s : State) : Host.Outcome State Fault Refusal :=
  .next ((s.recall? own keep l.line data l.stores).getD s)

/-- The recalled data reaches the home L2 (R70); an answer without data, after the link went down, leaves the line lost (R72).
(DEDUCED, log 50.) -/
def State.recallData? (s : State) (ln : Nat) : Option State :=
  match s.mem.homeTxn.find? (fun t => t.1 == ln), s.mem.peerAns.find? (fun a => a.1 == ln) with
  | some (_, kind), some (_, ans) =>
    match kind, ans with
    | .recall, some d => some (((s.endTxn ln).takeData ln d.toList).setHome ln (some .ps) (some false))
    | .recallInv, some d => some (((s.endTxn ln).takeData ln d.toList).setHome ln none none)
    | .inv, _ => none
    | _, none => some ((s.endTxn ln).setHome ln (some .pl) none)
  | _, _ => none

/-- `recallData`. -/
def execRecallData (line : Nat) (s : State) : Host.Outcome State Fault Refusal := .next ((s.recallData? line).getD s)

/-! ## Errors (R73, R78 to R80) -/

/-- The structure codes of R73. (DESIGN CHOICE, log 51.) -/
def eccCode : EccUnit → Nat
  | .l1 => 1
  | .l2Data => 2
  | .l2Tag => 3
  | .rdc => 4
  | .cirque => 5
  | .localStore => 6
  | .vFile => 7
  | .saFile => 8
  | .tlb => 9
  | .tiles => 0xA
  | .dram => 0xB

/-- A corrected error is counted (R78, R79). (DESIGN CHOICE, log 51.) -/
def State.countCorrected (s : State) (part : Fin 8) (code : Nat) : State :=
  let x := s.regs.serr[part]
  let cnt := if x.cnt = 0xFFFFFFFF#32 then x.cnt else x.cnt + 1
  let hit := x.cnt ≠ 0xFFFFFFFF#32 && x.thr ≠ 0 && cnt.toNat == x.thr.toNat
  let x' := { x with cnt := cnt, src := BitVec.ofNat 8 code, int := x.int || hit }
  let s := { s with regs := { s.regs with serr := s.regs.serr.set part x' } }
  if hit then s.signal 0 0 else s

/-- An uncorrectable error has occurred in a partition (R79). (DEDUCED, log 52.) -/
def State.noteUe (s : State) (part : Fin 8) (code : Nat) : State :=
  let x := { s.regs.serr[part] with ue := true, src := BitVec.ofNat 8 code }
  { s with regs := { s.regs with serr := s.regs.serr.set part x } }

/-- Poison the sectors of an L2 line that a sector number names: a clean sector is dropped, to be read again, and a dirty
one poisoned (R73). -/
def L2Line.strike (l : L2Line) (sec : Nat) : L2Line :=
  if l.kind == .device && l.line == sec / 4 && l.valid.getLsbD (sec % 4) then
    let bit := BitVec.ofNat 4 (2 ^ (sec % 4))
    if l.dirty.getLsbD (sec % 4) then { l with poison := l.poison ||| bit } else { l with valid := l.valid &&& ~~~bit }
  else l

/-- An error in a decoded line: it is clean, so it goes and is decoded again (R73, R98). The sectors of view addresses are numbered
from 2^47 on. -/
def L2Line.struckView (l : L2Line) (part x : Nat) : Bool := l.slice / 16 == part && l.kind == .view && l.line + 2 ^ 45 == x / 4

/-- Whether some slice of a partition holds a sector dirty. -/
def State.dirtySector (s : State) (part sec : Nat) : Bool :=
  s.mem.l2.any (fun l => l.slice / 16 == part && l.kind == .device && l.line == sec / 4 && l.valid.getLsbD (sec % 4) && l.dirty.getLsbD (sec % 4))

/-- The agent number of the sequencer of a block (R37). -/
def State.tileAgent (s : State) (serial : Nat) : Nat := ((s.seqOfBlock serial).map (fun x => 0xB000 + 4 * x.key.cluster + x.key.index)).getD 0

/-- What an uncorrectable error leaves (R73). `x` names the place in the structure: a line of the L1, the RDC or the TLBs; a
32-byte sector of the L2 or of device memory; a CQALLOC entry of the Cirque; for local store, register files and tiles the
serial of the block × 65,536 plus the line of its local store, the group's number × 256 plus the operand code, or nothing.
`lanes` are the lanes affected, and `core` the core whose access to the local store met the error (R76).
(DESIGN CHOICE, log 51.) -/
def State.strike (s : State) (unit : EccUnit) (part : Fin 8) (x core : Nat) (lanes : Word) : State :=
  let code := eccCode unit
  let blk := s.block? (x / 65536)
  let asid := blk.map (·.asid)
  let corr := (blk.map s.corrOfBlock).getD 0
  let here := fun (va lo n : Nat) => lo ≤ va && va < lo + n
  match unit with
  | .l1 => s.l1Drop (fun l => partOfCluster (clusterOfCore l.core) == part.val && l.line == x)
  | .l2Data =>
    let l2 := s.mem.l2.map (fun l => if l.slice / 16 == part.val then l.strike x else l)
    let s' := { s with mem := { s.mem with l2 := l2.filter (fun l => !l.struckView part.val x) } }
    if s.dirtySector part.val x then s'.logUe (32 * x) else s'
  | .l2Tag => if s.ctxs = [] then s.logUe 0 else s.ctxs.foldl (fun s c => s.charge c.asid code 0 0 0 0) s
  | .rdc =>
    let mine := fun (l : RdcLine) => l.part == part.val && l.line == x
    let s' := { s with mem := { s.mem with
      rdc := (s.mem.rdc.filter (fun l => !(mine l && !l.dirty))).map (fun l => if mine l then { l with poison := 0xF } else l) } }
    if s.mem.rdc.any (fun l => mine l && l.dirty) then s'.logUe (128 * x) else s'
  | .cirque =>
    let e := s.regs.cq[part].toList.getD x CqEnt.reset
    s.chargeOr (if e.v then some e.asid.toNat else none) code 0 (0xA000 + part.val) 0 0
  | .localStore => s.chargeOr asid code (128 * (x % 65536)) core corr lanes
  | .vFile => s.chargeOr asid code (x % 256) (s.coreOf ⟨x / 65536, x / 256 % 256⟩) corr lanes
  | .saFile => s.chargeOr asid code (x % 256) (s.coreOf ⟨x / 65536, x / 256 % 256⟩) corr lanes
  | .tlb =>
    let inPart := fun (w : TlbWhere) => match w with
      | .core n => partOfCluster (clusterOfCore n) == part.val
      | .part n => n == part.val
    { s with
      tlb := s.tlb.filter (fun e => !(inPart e.at_ && here (128 * x) e.vbase e.size.bytes)),
      walkCache := s.walkCache.filter (fun e =>
        let span := if e.level = 0 then 2 ^ 42 else 2 ^ 29
        !(e.part == part.val && here (128 * x) (e.index * span) span)) }
  | .tiles => s.chargeOr asid code 0 (s.tileAgent (x / 65536)) corr 0
  | .dram => { s with mem := { s.mem with bad := x :: s.mem.bad } }.logUe (32 * x)

/-- `scrubLine`: one patrol read and what it finds (R74). Corrected data is written back, which changes nothing that can be
read. -/
def execScrubLine (unit : EccUnit) (part : Fin 8) (line : Nat) (found : ScrubRead) (s : State) : Host.Outcome State Fault Refusal :=
  .next (match found.finding with
  | .clean => s
  | .corrected => s.countCorrected part (eccCode unit)
  | .uncorrectable => (s.strike unit part line found.core found.lanes).noteUe part (eccCode unit))

end Sys2Proof.Machine
end

