-- ==== Sys2Proof/Machine/Crypto.lean ====
section
/-! DEFINITION. The hash and the signature check of the firmware images and of the attestation report (R5, R519, R520): SHA-256 and
ECDSA on P-256, as the standards that R5 names define them. -/
namespace Sys2Proof.Machine

/-! ## SHA-256 -/

/-- The round constants, first half. (PRESUMED, log 122.) -/
def shaK0 : List Word :=
  [0x428a2f98, 0x71374491, 0xb5c0fbcf, 0xe9b5dba5, 0x3956c25b, 0x59f111f1, 0x923f82a4, 0xab1c5ed5,
   0xd807aa98, 0x12835b01, 0x243185be, 0x550c7dc3, 0x72be5d74, 0x80deb1fe, 0x9bdc06a7, 0xc19bf174,
   0xe49b69c1, 0xefbe4786, 0x0fc19dc6, 0x240ca1cc, 0x2de92c6f, 0x4a7484aa, 0x5cb0a9dc, 0x76f988da,
   0x983e5152, 0xa831c66d, 0xb00327c8, 0xbf597fc7, 0xc6e00bf3, 0xd5a79147, 0x06ca6351, 0x14292967]

/-- The round constants, second half. (PRESUMED, log 122.) -/
def shaK1 : List Word :=
  [0x27b70a85, 0x2e1b2138, 0x4d2c6dfc, 0x53380d13, 0x650a7354, 0x766a0abb, 0x81c2c92e, 0x92722c85,
   0xa2bfe8a1, 0xa81a664b, 0xc24b8b70, 0xc76c51a3, 0xd192e819, 0xd6990624, 0xf40e3585, 0x106aa070,
   0x19a4c116, 0x1e376c08, 0x2748774c, 0x34b0bcb5, 0x391c0cb3, 0x4ed8aa4a, 0x5b9cca4f, 0x682e6ff3,
   0x748f82ee, 0x78a5636f, 0x84c87814, 0x8cc70208, 0x90befffa, 0xa4506ceb, 0xbef9a3f7, 0xc67178f2]

/-- The eight words of a hash in progress. -/
structure ShaState where
  a : Word
  b : Word
  c : Word
  d : Word
  e : Word
  f : Word
  g : Word
  h : Word
  deriving DecidableEq, Repr

/-- The words before the first block. (PRESUMED, log 122.) -/
def ShaState.first : ShaState :=
  ⟨0x6a09e667, 0xbb67ae85, 0x3c6ef372, 0xa54ff53a, 0x510e527f, 0x9b05688c, 0x1f83d9ab, 0x5be0cd19⟩

/-- The words of a hash in order. -/
def ShaState.words (x : ShaState) : List Word := [x.a, x.b, x.c, x.d, x.e, x.f, x.g, x.h]

/-- The sum of two states, word by word. -/
def ShaState.plus (x y : ShaState) : ShaState :=
  ⟨x.a + y.a, x.b + y.b, x.c + y.c, x.d + y.d, x.e + y.e, x.f + y.f, x.g + y.g, x.h + y.h⟩

/-- One round, with the sum of its constant and its schedule word. -/
def ShaState.round (x : ShaState) (kw : Word) : ShaState :=
  let s1 := x.e.rotateRight 6 ^^^ x.e.rotateRight 11 ^^^ x.e.rotateRight 25
  let t1 := x.h + s1 + ((x.e &&& x.f) ^^^ (~~~x.e &&& x.g)) + kw
  let s0 := x.a.rotateRight 2 ^^^ x.a.rotateRight 13 ^^^ x.a.rotateRight 22
  ⟨t1 + s0 + ((x.a &&& x.b) ^^^ (x.a &&& x.c) ^^^ (x.b &&& x.c)), x.a, x.b, x.c, x.d + t1, x.e, x.f, x.g⟩

/-- The number of a byte list, highest byte first. -/
def beNat (bs : List Byte) : Nat := bs.foldl (fun n b => 256 * n + b.toNat) 0

/-- The `n` low bytes of a number, highest byte first. -/
def beBytes (n v : Nat) : List Byte := (leBytes n v).reverse

/-- The schedule of a block from its 16 words, newest word first: `n` further words. -/
def shaExtend : Nat → List Word → List Word
  | 0, ws => ws
  | n + 1, ws =>
    let w := fun (i : Nat) => ws.getD i 0
    let s0 := (w 14).rotateRight 7 ^^^ (w 14).rotateRight 18 ^^^ (w 14) >>> 3
    let s1 := (w 1).rotateRight 17 ^^^ (w 1).rotateRight 19 ^^^ (w 1) >>> 10
    shaExtend n ((w 15 + s0 + w 6 + s1) :: ws)

/-- The state after a block of 64 bytes. -/
def ShaState.block (x : ShaState) (bs : List Byte) : ShaState :=
  let ws := ((List.range 16).map (fun i => BitVec.ofNat 32 (beNat ((bs.drop (4 * i)).take 4)))).reverse
  (((shaK0 ++ shaK1).zip (shaExtend 48 ws).reverse).foldl (fun y p => y.round (p.1 + p.2)) x).plus x

/-- A message with its padding: a bit 1, zeros, and its length in bits. -/
def shaPad (m : List Byte) : List Byte :=
  m ++ [0x80#8] ++ List.replicate ((119 - m.length % 64) % 64) 0 ++ beBytes 8 (8 * m.length)

/-- SHA-256 of a byte list. (PRESUMED, log 122.) -/
def sha256 (m : List Byte) : List Byte :=
  let p := shaPad m
  let x := (List.range (p.length / 64)).foldl (fun y i => y.block ((p.drop (64 * i)).take 64)) ShaState.first
  x.words.flatMap (fun w => beBytes 4 w.toNat)

/-! ## P-256 -/

/-- The prime of the field. (PRESUMED, log 122.) -/
def p256 : Nat := 0xffffffff00000001000000000000000000000000ffffffffffffffffffffffff
/-- The order of the base point. (PRESUMED, log 122.) -/
def n256 : Nat := 0xffffffff00000000ffffffffffffffffbce6faada7179e84f3b9cac2fc632551
/-- The constant term of the curve. (PRESUMED, log 122.) -/
def b256 : Nat := 0x5ac635d8aa3a93e7b3ebbd55769886bc651d06b0cc53b0f63bce3c3e27d2604b

/-- A point of the curve; none is the point at infinity. -/
abbrev CurvePoint := Option (Nat × Nat)

/-- The base point. (PRESUMED, log 122.) -/
def g256 : CurvePoint :=
  some (0x6b17d1f2e12c4247f8bce6e563a440f277037d812deb33a0f4a13945d898c296,
    0x4fe342e2fe1a7f9b8ee7eb4a7c0f9e162bce33576b315ececbb6406837bf51f5)

/-- A power modulo `m`; the first number bounds the bits of the exponent. -/
def powMod (m b : Nat) : Nat → Nat → Nat
  | 0, _ => 1 % m
  | f + 1, e =>
    if e = 0 then 1 % m
    else
      let h := powMod m b f (e / 2)
      if e % 2 = 1 then h * h % m * b % m else h * h % m

/-- The inverse of a number modulo a prime of 256 bits. -/
def invMod (m a : Nat) : Nat := powMod m (a % m) 256 (m - 2)

/-- The difference of two numbers modulo `m`. -/
def subMod (m a b : Nat) : Nat := (a % m + m - b % m) % m

/-- The third point on a line of the given slope, mirrored. -/
def curveThird (l x1 y1 x2 : Nat) : CurvePoint :=
  let x := subMod p256 (l * l) (x1 + x2)
  some (x, subMod p256 (l * subMod p256 x1 x) y1)

/-- The sum of two points. -/
def curveAdd : CurvePoint → CurvePoint → CurvePoint
  | none, q => q
  | some a, none => some a
  | some (x1, y1), some (x2, y2) =>
    if x1 = x2 then
      if (y1 + y2) % p256 = 0 then none
      else curveThird (subMod p256 (3 * (x1 * x1)) 3 * invMod p256 (2 * y1) % p256) x1 y1 x2
    else curveThird (subMod p256 y2 y1 * invMod p256 (subMod p256 x2 x1) % p256) x1 y1 x2

/-- A multiple of a point; the first number bounds the bits of the factor. -/
def curveMul (q : CurvePoint) : Nat → Nat → CurvePoint
  | 0, _ => none
  | f + 1, k =>
    if k = 0 then none
    else
      let h := curveMul q f (k / 2)
      let d := curveAdd h h
      if k % 2 = 1 then curveAdd d q else d

/-- Whether a pair of numbers is a point of the curve. -/
def onCurve (x y : Nat) : Bool :=
  x < p256 && y < p256 && y * y % p256 == (subMod p256 (x * x % p256 * x) (3 * x) + b256) % p256

/-- Whether (r, s) is a signature of a hash under a public key of 64 bytes, x and y with the highest byte first.
(PRESUMED, log 122.) -/
def ecdsaOk (key hash : List Byte) (r s : Nat) : Bool :=
  let x := beNat (key.take 32)
  let y := beNat (key.drop 32)
  let w := invMod n256 s
  let z := beNat (hash.take 32)
  key.length == 64 && onCurve x y && 0 < r && r < n256 && 0 < s && s < n256 &&
    (match curveAdd (curveMul g256 256 (z * w % n256)) (curveMul (some (x, y)) 256 (r * w % n256)) with
      | some (px, _) => px % n256 == r
      | none => false)

end Sys2Proof.Machine
end

