-- ==== Sys2Proof/Machine/Tables.lean ====
section
/-! DEFINITION. What the device reads from the tables that system software keeps in device memory: the context table (R20 to
R22), the exception table (R444, R445) and the table of reproducible contexts (R477). -/
namespace Sys2Proof.Machine

/-- A number of device memory as the device itself reads it. -/
def State.devNum (s : State) (pa n : Nat) : Nat := s.numAt .device ⟨.device, pa⟩ n

/-- The address of a 64-byte or 16-byte entry of a table whose base register has EN in bit 0 and PA<51:lo> above; none
while EN = 0. -/
def tableEntry (reg : DWord) (lo size i : Nat) : Option Nat :=
  if reg.getLsbD 0 then some (bitsAt reg.toNat lo (52 - lo) * 2 ^ lo + size * i) else none

/-- A context-table entry's two words; none while CTXT_BASE.EN = 0 (R20). -/
def State.ctxtWords (s : State) (asid : Nat) : Option (Nat × Nat) :=
  (tableEntry s.regs.ctxtBase 14 16 (asid % 1024)).map (fun a => (s.devNum a 8, s.devNum (a + 8) 8))

/-- The VFN field of a context-table entry (R21). -/
def entVfn (w : Nat) : Nat := bitsAt w 8 4

/-- Whether a context-table entry is valid: V, with a VFN of 0 to 8 (R21). -/
def entLive (w : Nat) : Bool := bitAt w 0 && entVfn w ≤ 8

/-- A ring of an exception-table entry: absent when its size is out of range (R445). -/
def State.logRing (s : State) (vfn field log lo hi : Nat) : Option Loc :=
  if log < lo || hi < log then none else s.ringPlace vfn field 12 (2 ^ log)

/-- Read a context's exception-table entry (R445). While EN = 0 there is no handler and no ring (R444). -/
def State.readExc (s : State) (c : Ctx) : Ctx :=
  match tableEntry s.regs.exctBase 16 64 c.asid with
  | none => { c with hpc := 0, fring := none, sring := none, flog := 0, slog := 0, msix := 0xFFFF, bxall := false, wbArea := none }
  | some a =>
    let hpc := s.devNum a 8
    let wb := s.ringPlace c.vfn (s.devNum (a + 0x20) 8) 6 64
    let flog := s.devNum (a + 0x18) 1
    let slog := s.devNum (a + 0x19) 1
    let ring := fun (off log : Nat) => if wb.isNone then none else s.logRing c.vfn (s.devNum (a + off) 8) log 12 24
    { c with hpc := if hpc % 2 = 1 then 0 else BitVec.ofNat 64 hpc, fring := ring 8 flog, sring := ring 0x10 slog,
             flog := flog, slog := slog, msix := s.devNum (a + 0x1A) 2, bxall := bitAt (s.devNum (a + 0x1C) 4) 0, wbArea := wb }

/-- The counts of a context's write-back area, as a context that becomes resident finds them (R446). (DEDUCED, log 62.) -/
def State.readHeads (s : State) (c : Ctx) : Ctx :=
  match c.wbArea with
  | some l => { c with fhead := s.numAt .device l 8, shead := s.numAt .device (l.add 16) 8, drops := s.numAt .device (l.add 32) 4 }
  | none => { c with fhead := 0, shead := 0, drops := 0 }

/-- Read a context's entry of REPRO_BASE (R477); nothing is bound or checked while its EN = 0. -/
def State.readRepro (s : State) (c : Ctx) : Ctx :=
  match tableEntry s.regs.reproBase 16 64 c.asid with
  | none => { c with dtr := none, dtlog := 0, dtMode := 0, own := 0, rva := 0, rlen := 0, spillArea := none, splog := 0 }
  | some a =>
    let dtlog := s.devNum (a + 8) 1
    let splog := s.devNum (a + 0x30) 1
    { c with dtr := s.logRing c.vfn (s.devNum a 8) dtlog 12 32, dtlog := dtlog, dtMode := s.devNum (a + 9) 1,
             own := s.devNum (a + 0x10) 8, rva := BitVec.ofNat 64 (s.devNum (a + 0x18) 8), rlen := s.devNum (a + 0x20) 8,
             spillArea := s.logRing c.vfn (s.devNum (a + 0x28) 8) splog 16 34, splog := splog }

/-- A context as its entries describe it when it becomes resident (R22, R445, R477); none when the entry refuses it.
(DEDUCED, log 62.) -/
def State.newCtx (s : State) (asid : Nat) : Option Ctx :=
  match s.ctxtWords asid with
  | none => none
  | some (w0, w1) =>
    if !entLive w0 then none
    else
      let c : Ctx :=
        { asid := asid, v := true, priv := bitAt w0 1, part := bitsAt w0 2 3, evict := bitAt w0 5, repro := bitAt w0 6,
          fth := bitAt w0 7, vfn := entVfn w0, root := bitsAt w0 16 36 * 65536, save := bitsAt w1 16 36 * 65536,
          hpc := 0, fring := none, sring := none, flog := 0, slog := 0, msix := 0, bxall := false, wbArea := none,
          dtr := none, dtlog := 0, dtMode := 0, own := 0, rva := 0, rlen := 0, spillArea := none, splog := 0,
          halt := .running, agents := [], haltPkts := [], afterPkts := [], fhead := 0, shead := 0, drops := 0,
          dtBytes := 0, dtStatus := 0, dtPos := [], spillUsed := 0, conts := [], linkFault := false }
      some (s.readRepro (s.readHeads (s.readExc c)))

/-- Re-read V, ROOT and FTH of a resident context, and no other field (R22); while CTXT_BASE.EN = 0 nothing is live. -/
def State.rereadCtx (s : State) (asid : Nat) : State :=
  match s.ctxtWords asid with
  | some (w0, _) => s.modCtx asid (fun c => { c with v := bitAt w0 0, root := bitsAt w0 16 36 * 65536, fth := bitAt w0 7 })
  | none => s.modCtx asid (fun c => { c with v := false })

/-- The exception entry as it is read again (R445): the counts are those of a write-back area that it names newly.
(DEDUCED, log 62.) -/
def State.rereadExc (s : State) (c : Ctx) : Ctx :=
  let c' := s.readExc c
  if c'.wbArea = c.wbArea then c' else s.readHeads c'

/-! ## Entries that cannot be read at once (R60, R70, R75) -/

/-- The entries of a context in the context table and in the exception table. -/
def State.entryPlaces (s : State) (asid : Nat) : List (Loc × Nat) :=
  let at_ := fun (e : Option Nat) (n : Nat) => (e.map (fun a => (Loc.mk .device a, n))).toList
  at_ (tableEntry s.regs.ctxtBase 14 16 (asid % 1024)) 16 ++ at_ (tableEntry s.regs.exctBase 16 64 asid) 64

/-- What reading the entries of a context that is not resident finds, and then the write-back area that they name.
(DEDUCED, log 121.) -/
def State.ctxtReads (s : State) (asid : Nat) : TableRead :=
  match s.tableRead (s.entryPlaces asid ++ ((tableEntry s.regs.reproBase 16 64 asid).map (fun a => (Loc.mk .device a, 64))).toList) with
  | .ok => s.tableRead ((((s.newCtx asid).bind (·.wbArea)).map (fun l => (l, 64))).toList)
  | r => r

/-- What reading the entries of a context again finds, and then the write-back area that they name newly; nothing is read
for one that is not resident (R22, R445). (DEDUCED, log 121.) -/
def State.rereadReads (s : State) (asid : Nat) : TableRead :=
  match s.ctx? asid with
  | none => .ok
  | some c => match s.tableRead (s.entryPlaces asid) with
    | .ok => s.tableRead ((((s.readExc c).wbArea.filter (fun l => some l != c.wbArea)).map (fun l => (l, 64))).toList)
    | r => r

/-- An entry that is poisoned or lost is no value: cause 0x23 or 0x25 to the context where it is resident, else the error log (R70,
R75, R80). (DEDUCED, log 121.) -/
def State.entryFault (s : State) (asid : Nat) (l : Loc) : State :=
  if s.lineStatus .device false l == .lost then (s.modCtx asid (fun c => { c with linkFault := true })).haltContext asid
  else s.chargeOr (some asid) (s.poisonCode .device l) l.lineLoc.pa 0xC000 0 0

/-- Read again what a context holds of its entries (R22, R445); of entries that cannot be had it keeps what it holds.
(DEDUCED, log 121.) -/
def State.rereadTables (s : State) (asid : Nat) : State :=
  match s.rereadReads asid with
  | .ok => (s.rereadCtx asid).modCtx asid s.rereadExc
  | .bad l => s.entryFault asid l
  | .wait s' => s'

/-- A context's entry in the context table where it can be read. -/
def State.entryWords (s : State) (asid : Nat) : Option (Nat × Nat) := if (s.tableRead (s.entryPlaces asid)).isOk then s.ctxtWords asid else none

/-- The function that a context belongs to: held while it is resident, else its table entry's (R471). -/
def State.ctxFn (s : State) (asid : Nat) : Option Nat :=
  match s.ctx? asid with
  | some c => some c.vfn
  | none => (s.entryWords asid).bind (fun w => if entLive w.1 then some (entVfn w.1) else none)

/-- A context's trace buffer gets its header when the context becomes resident in record mode (R478, R479). -/
def State.startTrace (s : State) (asid : Nat) : State :=
  match s.ctx? asid with
  | some c => if c.repro && c.dtMode == 1 then (match c.dtr with
      | some l => s.postBytes l (List.replicate 64 0)
      | none => s) else s
  | none => s

end Sys2Proof.Machine
end

