-- ==== Sys2Proof/Machine/Queue.lean ====
section
/-! DEFINITION. Queues: their entries and doorbells (R420 to R424), the reading of packets and the completion records
(R425, R426, R428). -/
namespace Sys2Proof.Machine

/-- A queue's number modulo 2^32 differences: packets between two counts (R422). -/
def countDiff (a b : Nat) : Nat := (a + 2 ^ 32 - b) % 2 ^ 32

/-! ## Entries (R421) -/

/-- A ring of a queue entry: kind 0 or 2, bits 5:2 zero, PA<51:6>, whole in the function's range (R421, R23). -/
def State.queueRing (s : State) (vfn field bytes : Nat) : Option Loc :=
  if bitsAt field 2 4 = 0 then s.ringPlace vfn field 6 bytes else none

/-- The address of a queue's entry; none while QTAB.EN = 0 (R420). -/
def State.queueEntryAt (s : State) (q : Nat) : Option Nat := tableEntry s.regs.qtab 18 64 (q % 4096)

/-- What reading a queue's entry finds. -/
def State.queueReads (s : State) (q : Nat) : TableRead := s.tableRead ((s.queueEntryAt q).map (fun a => (Loc.mk .device a, 64))).toList

/-- CTL of a queue's entry, 0 where it cannot be read. -/
def State.queueCtl (s : State) (q : Nat) : Nat :=
  if (s.queueReads q).isOk then ((s.queueEntryAt q).map (fun a => s.devNum (a + 0xC) 4)).getD 0 else 0

/-- A queue that nothing has been read of: its rings absent. -/
def Queue.none_ (q : Nat) : Queue :=
  { q := q, ring := ⟨.device, 0⟩, cring := ⟨.device, 0⟩, swb := ⟨.device, 0⟩, rlog := 0, clog := 0, msix := 0xFFFF, mgmt := false,
    asid := 0, vfn := 0, pcap := 0, head := 0, tail := 0, ccons := 0, cdone := 0, qerr := 0, hold := none, sigs := [], skip := 0,
    inFlight := [], held := [], results := [], lastCorr := 0, cleared := false }

/-- What reading an entry finds: the queue with the entry's fields, or that the entry is invalid (QERR 1), with what can
still be used of it: the vector and, where it is valid, the status area. -/
structure EntryRead where
  ok : Bool
  v : Bool
  x : Queue
  swb : Option Loc

/-- Read a queue's entry (R421). -/
def State.readEntryQ (s : State) (x : Queue) : EntryRead :=
  match s.queueEntryAt x.q with
  | none => ⟨false, false, x, none⟩
  | some a =>
    let ctl := s.devNum (a + 0xC) 4
    let vfn := bitsAt ctl 12 4
    let rlog := s.devNum (a + 8) 1
    let clog := s.devNum (a + 9) 1
    let x := { x with rlog := rlog, clog := clog, msix := s.devNum (a + 0xA) 2, mgmt := bitAt ctl 1 && vfn == 0, asid := bitsAt ctl 2 10,
                      vfn := vfn, pcap := bitsAt ctl 16 3 }
    let swb := s.queueRing vfn (s.devNum (a + 0x18) 8) 16
    match s.queueRing vfn (s.devNum a 8) (64 * 2 ^ rlog), s.queueRing vfn (s.devNum (a + 0x10) 8) (64 * 2 ^ clog), swb with
    | some ring, some cring, some w =>
      let ok := bitAt ctl 0 && 4 ≤ rlog && rlog ≤ 16 && 4 ≤ clog && clog ≤ 16 && vfn ≤ 8
      ⟨ok, bitAt ctl 0, { x with ring := ring, cring := cring, swb := w }, swb⟩
    | _, _, _ => ⟨false, bitAt ctl 0, x, swb⟩

/-- Note the queues whose entry can be read and holds V = 0 (R423). (DEDUCED, log 62.) -/
def State.noteCleared (s : State) : State :=
  { s with queues := s.queues.map (fun x =>
      if !(s.queueReads x.q).isOk || bitAt (s.queueCtl x.q) 0 then x else { x with cleared := true }) }

/-! ## Status and completion -/

/-- Write a queue's status area (R421). -/
def State.writeStatus (s : State) (x : Queue) : State :=
  s.postBytes x.swb (leBytes 4 x.head ++ leBytes 4 x.cdone ++ leBytes 4 x.qerr ++ leBytes 4 0)

/-- Replace a queue and write its status area. -/
def State.putStatus (s : State) (x : Queue) : State := (s.putQueue x).writeStatus x

/-- Signal a queue's vector when it is valid. -/
def State.queueMsix (s : State) (x : Queue) : State := if x.msix ≤ 2047 then s.signal x.vfn x.msix else s

/-- A queue error (R423): the queue stops. `w` is the status area where the entry gives one. -/
def State.queueError (s : State) (x : Queue) (code : Nat) (w : Option Loc) : State :=
  let x := { x with qerr := code }
  let s := s.putQueue x
  let s := match w with
    | some l => s.writeStatus { x with swb := l }
    | none => s
  s.queueMsix x

/-- Whether the completion ring has no room (R424). -/
def Queue.full (x : Queue) : Bool := 2 ^ x.clog ≤ countDiff x.cdone x.ccons

/-- A completion record (R428). -/
def Completion.bytes (c : Completion) : List Byte :=
  let ctr := match c.ctr with
    | some t => [t.impl, t.misuse, t.spfail, t.badsh, t.accdrop, t.terms]
    | none => []
  recordOf 64 ([(0, 4, c.corr.toNat), (4, 1, c.status), (5, 1, c.op), (8, 4, c.result.toNat)] ++
    (upFrom 0 ctr.length).map (fun i => (0x10 + 4 * i, 4, (ctr.getD i 0).toNat)))

/-- Write the completion records that wait, as far as there is room (R424, R428). -/
def State.flushRecords (s : State) (q : Nat) : Nat → State
  | 0 => s
  | f + 1 =>
    match s.queue? q with
    | some x => match x.held with
      | c :: r =>
        if x.full then s
        else
          let s := s.postBytes (x.cring.add (64 * (x.cdone % 2 ^ x.clog))) c.bytes
          let x := { x with cdone := (x.cdone + 1) % 2 ^ 32, held := r, lastCorr := c.corr }
          let s := s.putStatus x
          (if c.irq then s.queueMsix x else s).flushRecords q f
      | [] => s
    | none => s

/-- A packet completes (R428): its record, its result for BRANCH (R433), and its place among the packets in flight. -/
def State.completePacket (s : State) (q : Nat) (c : Completion) : State :=
  match s.queue? q with
  | some x =>
    let x := { x with held := x.held ++ [c], inFlight := x.inFlight.erase c.n,
                      results := ((c.n, c.result) :: x.results).filter (fun r => countDiff x.head r.1 ≤ 256) }
    (s.putQueue x).flushRecords q (x.held.length)
  | none => s

/-- The completion of a packet that posts no result. -/
def Queue.plainDone (x : Queue) (n op status : Nat) (irq : Bool) : Completion :=
  { corr := corrOf x.q n, status := status, op := op, result := 0, ctr := none, irq := irq, n := n }

/-! ## Reading packets -/

/-- A packet as read: its index and its bytes. -/
structure Packet where
  x : Queue
  n : Nat
  bs : List Byte

/-- OP of a packet. -/
def Packet.op (p : Packet) : Nat := fieldAt p.bs 0 1
/-- IRQ of a packet. -/
def Packet.irq (p : Packet) : Bool := bitAt (fieldAt p.bs 0 4) 8
/-- SER of a packet. -/
def Packet.ser (p : Packet) : Bool := bitAt (fieldAt p.bs 0 4) 9

/-- Whether every packet of a queue before one has completed (R425). -/
def Queue.earlierDone (x : Queue) (n : Nat) : Bool := (x.inFlight.takeWhile (fun m => m != n)) = []

/-- What a packet that holds a queue lets pass: nothing, but for a launch that waits for its acceptance the management packets behind
it, which never wait for launches (R425). -/
def Queue.letsPass (x : Queue) (op : Nat) : Bool :=
  match x.hold with
  | none => true
  | some (.launch _) => x.mgmt && 5 ≤ op && op ≤ 8
  | some _ => false

/-- Whether a queue may read its next packet (R422 to R425, R427, R433, R450, R519); one whose entry has held V = 0 reads none
(R423). (DEDUCED, log 61.) -/
def State.mayRead (s : State) (x : Queue) : Bool :=
  s.regs.fwstat == 1 && x.qerr == 0 && !x.cleared && x.head != x.tail && (x.letsPass 0 || x.letsPass 5) && !x.full &&
    (x.mgmt || (match s.ctx? x.asid with
      | some c => c.halt == .running
      | none => true))

/-- What the next packet of a queue is. -/
inductive Next where
  /-- none may be read now -/
  | none_
  /-- a poisoned or failed read: the queue stops (R423) -/
  | bad (x : Queue)
  /-- the peer must be asked for the line (R70) -/
  | ask (s : State)
  | packet (p : Packet)

/-- Whether a write of the host waits for a line (R515). -/
def State.hostWrites (s : State) (l : Loc) : Bool :=
  l.kind == .device && s.hostAcc.any (fun x => x.data.isSome && lineOf x.pa ≤ lineOf l.pa && lineOf l.pa ≤ lineOf (x.pa + x.len - 1))

/-- The next packet of a queue, read as a system-scope acquire that follows the doorbell: host writes of its line that wait come
first (R139, R422). -/
def State.nextPacket (s : State) (q : Nat) : Next :=
  match s.queue? q with
  | none => .none_
  | some x =>
    if !s.mayRead x then .none_
    else
      let l := x.ring.add (64 * (x.head % 2 ^ x.rlog))
      if s.hostWrites l then .none_
      else match s.lineStatus .device false l with
      | .lost => .bad x
      | .busy => match s.askOnce false [l] with
        | some s' => .ask s'
        | none => .none_
      | .ok =>
        if s.poisonIn .device l 64 then .bad x
        else if x.letsPass (s.numAt .device l 1) then .packet ⟨x, x.head, s.bytesAt .device l 64⟩
        else .none_
      | _ => .none_

/-- The packet has been read: HEAD advances, and it is in flight until it completes. -/
def State.takePacket (s : State) (p : Packet) : State :=
  s.putStatus { p.x with head := (p.x.head + 1) % 2 ^ 32, inFlight := p.x.inFlight ++ [p.n] }

/-- Complete a packet with a status. -/
def State.finishPacket (s : State) (p : Packet) (status : Nat) : State :=
  s.completePacket p.x.q (p.x.plainDone p.n p.op status p.irq)

/-- Skipped packets complete at once, in order (R433): as many as the branch has still to skip and the ring holds. -/
def State.skipPackets (s : State) (q : Nat) : Nat → State
  | 0 => s
  | f + 1 =>
    match s.nextPacket q with
    | .packet p =>
      if p.x.skip = 0 then s
      else
        let p' := { p with x := { p.x with skip := p.x.skip - 1 } }
        ((s.takePacket p').finishPacket p' 0x1F).skipPackets q f
    | .bad x => s.queueError x 3 (some x.swb)
    | .ask s' => s'
    | .none_ => s

/-- Whether a packet is legal as far as its header goes (R425). -/
def Packet.legal (p : Packet) : Bool := fieldAt p.bs 0 4 / 1024 == 0 && p.op ≤ 8 && (p.op < 5 || p.x.mgmt)

/-- Read the next packet of a queue when it is one that a test accepts and, with SER, when it may start (R425); skipped
packets and a failed read come first. `go` gets the state with the packet taken. -/
def State.packet? (s : State) (q : Nat) (ok : Packet → Bool) (go : State → Packet → State) : Option State :=
  match s.nextPacket q with
  | .none_ => none
  | .bad x => some (s.queueError x 3 (some x.swb))
  | .ask s' => some s'
  | .packet p =>
    if p.x.skip ≠ 0 then some (s.skipPackets q p.x.skip)
    else if !ok p then none
    else if p.legal && p.ser && p.op != 1 && p.op != 4 && !p.x.inFlight.isEmpty then none
    else some (go (s.takePacket p) p)

/-! ## Doorbells (R420, R422 to R424, R519) -/

/-- Whether a queue has nothing left to do. -/
def Queue.idle (x : Queue) : Bool := x.head == x.tail && x.inFlight.isEmpty && x.hold.isNone

/-- The function that owns a queue's doorbell. -/
def State.queueFn (s : State) (q : Nat) : Nat :=
  match s.queue? q with
  | some x => if (x.idle || x.qerr ≠ 0) && (s.queueReads q).isOk then bitsAt (s.queueCtl q) 12 4 else x.vfn
  | none => bitsAt (s.queueCtl q) 12 4

/-- A doorbell write that is dropped before anything is looked at: QTAB.EN = 0 (R420), or an image failed (R519).
(DEDUCED, log 61.) -/
def State.doorbellShut (s : State) : Bool := !s.regs.qtab.getLsbD 0 || 0x80 ≤ s.regs.fwstat

/-- The BAR 4 offset of a queue's doorbell (R422). -/
def doorbellAt (q : Nat) : Nat := 256 * q

/-- A write to doorbell +0 (R422, R423): TAIL. The entry is read at the first doorbell after the queue was last idle, and where it
has held V = 0 since: one that holds it now stops the queue, and one that is valid again restarts it from HEAD = 0.
(DEDUCED, log 61.) -/
def State.takeTail (s : State) (fn q : Nat) (tail : Word) : State :=
  if s.doorbellShut then s
  else if s.queueFn q ≠ fn then s.logError (doorbellAt q) fn 2 0xFFFF 0
  else
    let s := s.noteCleared
    let old := (s.queue? q).getD (Queue.none_ q)
    let fresh := (s.queue? q).isNone || old.cleared
    if old.qerr ≠ 0 && !old.cleared then s
    else if !fresh && !old.idle then
      let x := { old with tail := tail.toNat }
      if 2 ^ x.rlog < countDiff x.tail x.head then s.queueError x 2 (some x.swb) else (s.putQueue x).skipPackets q x.skip
    else
      let r := s.readEntryQ (if fresh && bitAt (s.queueCtl q) 0 then Queue.none_ q else old)
      if !r.v && old.qerr ≠ 0 then s
      else if !r.ok then s.queueError { r.x with cleared := !r.v } 1 r.swb
      else
        let x := { r.x with tail := tail.toNat }
        if 2 ^ x.rlog < countDiff x.tail x.head then s.queueError x 2 (some x.swb) else (s.putQueue x).skipPackets q x.skip

/-- Whether a doorbell of a queue has its entry read: the queue is new or idle, has stopped, or its entry has held V = 0. -/
def State.bellReads (s : State) (q : Nat) : Bool :=
  match s.queue? q with
  | some x => x.idle || x.qerr != 0 || x.cleared
  | none => true

/-- A doorbell write acts, unless the entry that it needs is poisoned or lost: a failed read, which stops the queue (R423).
(DEDUCED, log 121.) -/
def State.actTail (s : State) (fn q : Nat) (tail : Word) : State :=
  match s.queueReads q with
  | .bad _ =>
    if s.bellReads q && !s.doorbellShut then s.queueError ((s.queue? q).getD (Queue.none_ q)) 3 ((s.queue? q).map (·.swb))
    else s.takeTail fn q tail
  | _ => s.takeTail fn q tail

/-- A write to doorbell +0: it acts at once, or waits until the queue's entry can be read, with those behind it (R60, R70).
(DEDUCED, log 121.) (DEDUCED, log 61.) -/
def State.ringTail (s : State) (fn q : Nat) (tail : Word) : State :=
  if s.bells.any (fun b => b.2.1 == q) then { s with bells := s.bells ++ [(fn, q, tail)] }
  else match s.queueReads q with
    | .wait s' => if s.bellReads q && !s.doorbellShut then { s' with bells := s.bells ++ [(fn, q, tail)] } else s.takeTail fn q tail
    | _ => s.actTail fn q tail

/-- The oldest doorbell that waits acts once its queue's entry can be read. (DEDUCED, log 121.) -/
def State.bellNext? (s : State) : Option State :=
  match s.bells with
  | [] => none
  | (fn, q, tail) :: r => match s.queueReads q with
    | .wait s' => progress s s'
    | _ => some ({ s with bells := r }.actTail fn q tail)

/-- `doorbellTail`. -/
def execDoorbellTail (fn q : Nat) (tail : Word) (s : State) : Host.Outcome State Fault Refusal := .next (s.ringTail fn (q % 4096) tail)

/-- A write to doorbell +4 (R422, R424): CCONS. -/
def State.ringCcons (s : State) (fn q : Nat) (val : Word) : State :=
  if s.doorbellShut then s
  else if s.queueFn q ≠ fn then s.logError (doorbellAt q + 4) fn 2 0xFFFF 0
  else match s.queue? q with
    | some x =>
      let x := { x with ccons := val.toNat }
      ((s.putQueue x).flushRecords q x.held.length).skipPackets q x.skip
    | none => s

/-- `doorbellCcons`. -/
def execDoorbellCcons (fn q : Nat) (val : Word) (s : State) : Host.Outcome State Fault Refusal := .next (s.ringCcons fn (q % 4096) val)

end Sys2Proof.Machine
end

