-- ==== Sys2Proof/Machine/Host.lean ====
section
/-! DEFINITION. The host's side (R515 to R523): the registers of BAR 0 with their access codes (R8), BAR 2, the error log, the
firmware, attestation, the summary, the Col link (R72, R522), power and the reset of the device. -/
namespace Sys2Proof.Machine

/-! ## Fields of registers (R8) -/

/-- The bits hi:lo of a 64-bit register as a mask. -/
def bitsMask (hi lo : Nat) : DWord := BitVec.ofNat 64 (2 ^ (hi + 1) - 2 ^ lo)

/-- A written register: the bits of `rw` that the access covers, `m`, take the written value. -/
def withBits (cur v m rw : DWord) : DWord := (cur &&& ~~~(m &&& rw)) ||| (v &&& m &&& rw)

/-- The number in bits of a register. -/
def regBits (v : DWord) (lo w : Nat) : Nat := bitsAt v.toNat lo w

/-! ## L2CFG (R61, R62) -/

/-- L2CFG as read: PCLR reads 0. -/
def HostRegs.l2word (r : HostRegs) : DWord :=
  BitVec.ofNat 64 (r.l2cfg.tways + r.l2cfg.pways * 2 ^ 4 + b2n r.l2cfg.mode * 2 ^ 9 + b2n r.l2cfg.swp * 2 ^ 10)

/-- TWAYS and PWAYS after a write: values of 9 to 15 leave a field unchanged, and the sum stays at 12 or less. -/
def L2Cfg.written (c : L2Cfg) (v : DWord) : L2Cfg :=
  let tw := if regBits v 0 4 ≤ 8 then regBits v 0 4 else c.tways
  let pw := if regBits v 4 4 ≤ 8 then regBits v 4 4 else c.pways
  { c with tways := tw, pways := min pw (12 - tw) }

/-- A write of L2CFG: no set keeps more persist lines than PWAYS (R58); bit 8 asks for the clearing of the persist marks. -/
def State.writeL2 (s : State) (v m : DWord) : State :=
  let cfg := if m.getLsbD 0 then s.regs.l2cfg.written v else s.regs.l2cfg
  { s with regs := { s.regs with l2cfg := cfg, pclr := s.regs.pclr || (v &&& m).getLsbD 8 }, mem := s.mem.trimPersist cfg.pways }

/-- `persistClearDone` (R61): every persist mark goes. -/
def execPersistClearDone (s : State) : Host.Outcome State Fault Refusal :=
  .next (if s.regs.pclr then
    { s with regs := { s.regs with pclr := false }, mem := { s.mem with l2 := s.mem.l2.map (fun l => { l with persist := false }) } }
  else s)

/-! ## SERR_CNT (R79) -/

/-- SERR_CNT as read. -/
def SerrCnt.word (x : SerrCnt) : DWord :=
  BitVec.ofNat 64 (x.cnt.toNat + x.thr.toNat * 2 ^ 32 + b2n x.int * 2 ^ 48 + b2n x.ue * 2 ^ 49 + x.src.toNat * 2 ^ 50)

/-- A write of SERR_CNT: INT and UE clear where a 1 is written. -/
def SerrCnt.written (x : SerrCnt) (v m : DWord) : SerrCnt :=
  let w := withBits x.word v m (bitsMask 47 0)
  { x with cnt := w.setWidth 32, thr := w.extractLsb' 32 16, int := x.int && !(v &&& m).getLsbD 48, ue := x.ue && !(v &&& m).getLsbD 49 }

/-! ## Format windows (R95, R96) -/

/-- A window's register by its offset, as read. -/
def Window.word (w : Window) (off : Nat) : DWord :=
  match off with
  | 0x00 => BitVec.ofNat 64 (b2n w.en + w.cfmt.toNat * 2 + b2n w.dfmt * 2 ^ 3 + w.vfn.toNat * 2 ^ 4 + w.gen.toNat * 2 ^ 8 +
      w.err.toNat * 2 ^ 16 + b2n w.busy * 2 ^ 19)
  | 0x08 => BitVec.ofNat 64 w.code
  | 0x10 => BitVec.ofNat 64 w.scale
  | 0x18 => BitVec.ofNat 64 w.view
  | 0x20 => BitVec.ofNat 64 w.pages
  | 0x28 => BitVec.ofNat 64 w.tbl
  | _ => 0

/-- A write of a window's base or size register, ignored while EN = 1. -/
def Window.written (w : Window) (off : Nat) (v m : DWord) : Window :=
  if w.en then w
  else
    let new := fun (hi lo : Nat) => (withBits (w.word off) v m (bitsMask hi lo)).toNat
    match off with
    | 0x08 => { w with code := new 51 7 }
    | 0x10 => { w with scale := new 51 7 }
    | 0x18 => { w with view := new 51 16 }
    | 0x20 => { w with pages := new 31 0 }
    | 0x28 => { w with tbl := new 51 10 }
    | _ => w

/-- A write of FWCTL (R95, R96): EN = 1 while EN = 0 starts enabling; EN = 0 disables at once, and GEN advances when EN
changes (R99). (DEDUCED, log 54.) (DESIGN CHOICE, log 124.) -/
def State.writeFwctl (s : State) (i : Fin 16) (v m : DWord) : State :=
  let w := s.regs.win[i]
  let new := withBits (w.word 0) v m (bitsMask 7 1)
  let w' : Window := { w with cfmt := new.extractLsb' 1 2, dfmt := new.getLsbD 3, vfn := new.extractLsb' 4 4 }
  if !m.getLsbD 0 then s.putWindow i w'
  else if v.getLsbD 0 then s.putWindow i (if w.en then w' else { w' with busy := true })
  else if w.en then
    let s := s.disableWindow i
    s.putWindow i { w' with en := false, busy := false, gen := s.regs.win[i].gen }
  else s.putWindow i { w' with busy := false }

/-- Whether two byte ranges meet. -/
def rangesMeet (a n b k : Nat) : Bool := a < b + k && b < a + n

/-- Bytes of a view (R95). -/
def Window.viewBytes (w : Window) : Nat := 65536 * w.pages

/-- The regions of a window with their sizes (R97): codes, scales, and for C8 the table. -/
def Window.regions (w : Window) : List (Nat × Nat) :=
  [(w.code, w.pages * (if w.cfmt = 0 then 16384 else 32768)), (w.scale, 2048 * w.pages)] ++ (if w.cfmt = 2 then [(w.tbl, 1024)] else [])

/-- The places of a window's inverse table. -/
def Window.tablePlaces (w : Window) : List Loc := (upFrom (w.tbl / 128) 8).map (fun ln => ⟨.device, 128 * ln⟩)

/-- The checks of enabling, in order: the ERR code, 0 for success (R96); a table that is poisoned or lost fails to be read
(R70, R95). -/
def State.windowErr (s : State) (i : Fin 16) (w : Window) : Nat :=
  if w.cfmt = 3 || 8 < w.vfn.toNat then 1
  else if w.pages = 0 || 2 ^ 52 < w.view + w.viewBytes then 2
  else if (List.finRange 16).any (fun j => j != i && (s.regs.win[j]).en &&
      rangesMeet w.view w.viewBytes (s.regs.win[j]).view (s.regs.win[j]).viewBytes) then 3
  else if w.regions.any (fun r => Config.deviceEnd < r.1 + r.2 || !s.inRange w.vfn.toNat r.1 || !s.inRange w.vfn.toNat (r.1 + r.2 - 1)) then 4
  else if w.cfmt = 2 && (s.statusOf .device false w.tablePlaces == .lost || s.poisonIn .device ⟨.device, w.tbl⟩ 1024) then 5
  else 0

/-- Enabling ends (R96). (DEDUCED, log 54.) -/
def State.windowDone? (s : State) (i : Fin 16) : Option State :=
  let w := s.regs.win[i]
  let e := s.windowErr i w
  let st := s.statusOf .device false w.tablePlaces
  if !w.busy then none
  else if e ≠ 0 then some (s.putWindow i { w with busy := false, err := BitVec.ofNat 3 e })
  else if w.cfmt = 2 && st != .ok then (if st == .busy then s.askOnce false w.tablePlaces else none)
  else
    let held := if w.cfmt = 2 then Vector.ofFn (fun (c : Fin 256) => canonWord (BitVec.ofNat 32 (s.devNum (w.tbl + 4 * c.val) 4))) else w.held
    some ((s.putWindow i { w with busy := false, err := 0, en := true, held := held }).bumpWindow i)

/-- `windowEnableDone`. -/
def execWindowEnableDone (w : Fin 16) (s : State) : Host.Outcome State Fault Refusal := .next ((s.windowDone? w).getD s)

/-! ## CQALLOC (R165) -/

/-- A CQALLOC entry as read. -/
def CqEnt.word (e : CqEnt) : DWord :=
  BitVec.ofNat 64 (b2n e.v + e.asid.toNat * 2 + e.pool.toNat * 2 ^ 16 + e.repl.toNat * 2 ^ 24 + e.err.toNat * 2 ^ 32)

/-- Whether a context has a ray, a bin record or a replay in a partition (R165). The records of a scatter set count in the partition
of the first `binp` of their launch that named it. (DESIGN CHOICE, log 126.) -/
def State.hasCirqueWork (s : State) (part asid : Nat) : Bool :=
  let mine := fun (l : Nat) => ((s.launch? l).map (·.asid)) == some asid
  s.rays.any (fun r => r.part == part && r.asid == asid) || s.replays.any (fun r => r.part == part && r.asid == asid) ||
    (s.accBins ++ s.spilled).any (fun b => b.part == part && mine b.launch) ||
    s.launches.any (fun l => l.asid == asid && l.binKeys.any (fun k => l.binSets.any (fun b => b.1 == part && b.2.1 == k.1)))

/-- A write of a CQALLOC entry: accepted, or refused with ERR (R165). -/
def State.writeCq (s : State) (p e : Fin 8) (v m : DWord) : State :=
  let old := s.regs.cq[p][e]
  let w := withBits old.word v m (bitsMask 10 0 ||| bitsMask 20 16 ||| bitsMask 28 24)
  let new : CqEnt := { v := w.getLsbD 0, asid := w.extractLsb' 1 10, pool := w.extractLsb' 16 5, repl := w.extractLsb' 24 5, err := 0 }
  let row := (s.regs.cq[p]).set e.val new e.isLt
  let steps := (row.toList.map (fun (x : CqEnt) => if x.v then x.pool.toNat + x.repl.toNat else 0)).sum
  let busy := (old.v && s.hasCirqueWork p.val old.asid.toNat) || (new.v && s.hasCirqueWork p.val new.asid.toNat)
  let put := fun (x : CqEnt) =>
    ({ s with regs := { s.regs with cq := s.regs.cq.set p.val ((s.regs.cq[p]).set e.val x e.isLt) p.isLt } } : State)
  if 16 < steps then put { old with err := 1 } else if busy then put { old with err := 2 } else put new

/-! ## Attestation, the summary, the link -/

/-- ATTREQ (R520): a request while a report is being written is ignored. (DESIGN CHOICE, log 59.) -/
def State.writeAtt (s : State) (v m : DWord) : State :=
  if s.regs.attBusy then s else { s with regs := { s.regs with attreq := withBits s.regs.attreq v m (bitsMask 63 0), attBusy := true } }

/-- The hash of the registers that a report covers (R520): CTXT_BASE, L2CFG, QTAB, EXCT_BASE, REPRO_BASE and VFRANGE 1 to 8, eight
bytes each. (DESIGN CHOICE, log 59.) -/
def HostRegs.reportHash (r : HostRegs) : List Byte :=
  sha256 (([r.ctxtBase, r.l2word, r.qtab, r.exctBase, r.reproBase] ++ r.vfrange.toList.drop 1).flatMap (fun w => leBytes 8 w.toNat))

/-- What a report holds, its signature apart (R520): the serial number, the hashes and versions of the images, the hash of the
registers, the nonce. (DESIGN CHOICE, log 59.) -/
def HostRegs.reportParts (r : HostRegs) : List (List Byte) :=
  [Config.serial] ++ r.images.flatMap (fun x => [x.1, leBytes 4 x.2]) ++ [r.reportHash, r.nonce.toList.flatMap (fun w => leBytes 4 w.toNat)]

/-- The 512 bytes of a report: its contents and the signature over them, in a layout of the device's own (R520).
(DESIGN CHOICE, log 59.) -/
def HostRegs.report (r : HostRegs) (n : Nat) : List Byte :=
  (List.range 512).map (Config.reportByte (r.reportParts ++ [Config.identitySign r.reportParts n]))

/-- The report that has been asked for is written (R520). The buffer is in host memory. -/
def State.attDone? (s : State) : Option State :=
  if s.regs.attBusy then
    some (({ s with regs := { s.regs with attBusy := false }, ids := s.ids + 1 }.writeBytes .device ⟨.hostCoh, s.regs.attreq.toNat⟩
      (s.regs.report s.ids)).signal 0 3)
  else none

/-- `attestationReportDone`. -/
def execAttestationReportDone (s : State) : Host.Outcome State Fault Refusal := .next (s.attDone?.getD s)

/-- SUMREQ as read: GO reads 0 (R521). -/
def HostRegs.sumWord (r : HostRegs) : DWord := BitVec.ofNat 64 (b2n r.sumBusy * 2 + r.sumPa)

/-- A write of SUMREQ (R521): GO takes a summary into the buffer at PA; a GO while one is being written is ignored. -/
def State.writeSum (s : State) (v m : DWord) : State :=
  let pa := (withBits s.regs.sumWord v m (bitsMask 51 12) &&& bitsMask 51 12).toNat
  let go := (v &&& m).getLsbD 0 && !s.regs.sumBusy
  { s with regs := { s.regs with sumPa := pa, sumBusy := s.regs.sumBusy || go, sumBuf := if go then pa else s.regs.sumBuf } }

/-- The records of a ring that the host has not consumed, from the ring's HEAD and its CONS word (R446); none are counted where CONS
cannot be read. (DEDUCED, log 58.) -/
def State.unread (s : State) (wb : Option (Loc × Nat × Nat)) (stop : Bool) : Nat :=
  match wb with
  | some (l, fhead, shead) =>
    if (s.tableRead (consWord l stop)).isOk then
      (if stop then (shead - s.numAt .device (l.add 24) 8) / 128 else (fhead - s.numAt .device (l.add 8) 8) / 32)
    else 0
  | none => 0

/-- The entry of a context in the summary (R521). (DESIGN CHOICE, log 59.) -/
def State.sumCtx (s : State) (asid : Nat) : List Byte :=
  let a := s.asidInfo asid
  match s.ctx? asid with
  | some c => leBytes 1 (b2n c.v) ++ leBytes 1 (if c.halt == .running then 0 else 1) ++ leBytes 2 0 ++ leBytes 4 a.hseq.toNat ++
      (let wb := c.wbArea.map (fun l => (l, c.fhead, c.shead))
       leBytes 4 (s.unread wb false) ++ leBytes 4 (s.unread wb true))
  | none => leBytes 1 0 ++ leBytes 1 (if a.ended then 2 else 0) ++ leBytes 2 0 ++ leBytes 4 a.hseq.toNat ++
      leBytes 4 (s.unread a.left false) ++ leBytes 4 (s.unread a.left true)

/-- An 8-byte entry of the summary: state, ASID, CORR. (DESIGN CHOICE, log 59.) -/
def sumEntry (st asid : Nat) (corr : Word) : List Byte := leBytes 2 st ++ leBytes 2 asid ++ leBytes 4 corr.toNat

/-- The launches whose work a partition's Cirque holds: rays in its bins, accumulation bins, appends on their way, replays.
(DESIGN CHOICE, log 59.) -/
def State.cirqueHolds (s : State) (p : Nat) : List Launch :=
  let partOf := fun (k : GroupKey) => (s.block? k.block).map (fun b => partOfCluster b.cluster)
  s.launches.filter (fun l =>
    s.rays.any (fun r => r.part == p && r.launch == l.id && (match r.st with
      | .travBinned _ => true
      | .shadeBinned _ => true
      | _ => false)) ||
    s.accBins.any (fun b => b.part == p && b.launch == l.id) || s.replays.any (fun r => r.part == p && r.launch == l.id) ||
    l.binSets.any (fun b => b.1 == p) ||
    s.ops.any (fun o => partOf o.gk == some p && (s.block? o.gk.block).map (·.launch) == some l.id && (match o.body with
      | .binp .. => true
      | .accum .. => true
      | _ => false)))

/-- The summary's parts: offset and bytes; what is not listed is 0 (R521). (DESIGN CHOICE, log 59.) -/
def State.summary (s : State) : List (Nat × List Byte) :=
  let halts := (s.ctxs.filter (fun c => c.halt == .raised || c.halt == .stopping)).length
  let engines := s.cmds.filterMap (fun c =>
    if (s.cmds.find? (fun d => d.engine == c.engine)).map (·.id) = some c.id then
      some (0x14040 + 8 * c.engine, sumEntry (if c.stopped then 2 else 1) c.asid c.corr) else none)
  let cirque := (List.range 8).filterMap (fun p => (s.cirqueHolds p).head?.map (fun l =>
    (0x14040 + 8 * (96 + p), sumEntry (if s.ctxOpen l.asid then 1 else 2) l.asid l.corr)))
  let seqs := (s.seqs.filter (fun q => decide (q.key.index < 4))).map (fun q => (0x14040 + 8 * (104 + 4 * q.key.cluster + q.key.index),
    sumEntry q.st.code (((s.block? q.blk).map (·.asid)).getD 0) (((s.block? q.blk).map s.corrOfBlock).getD 0)))
  [(0, leBytes 4 s.regs.sumSeq ++ leBytes 4 s.regs.fwstat ++ leBytes 4 s.regs.pairstat ++ leBytes 4 halts)] ++
  s.queues.map (fun x => (0x40 + 16 * x.q, leBytes 4 x.head ++ leBytes 4 x.tail ++ leBytes 4 x.cdone ++ leBytes 4 x.lastCorr.toNat)) ++
  (s.ctxs.map (·.asid) ++ s.asids.map (·.asid)).eraseDups.map (fun a => (0x10040 + 16 * a, s.sumCtx a)) ++ engines ++ cirque ++ seqs

/-- Clear the bytes of host memory in a range. -/
def Memory.clear (m : Memory) (a n : Nat) : Memory := ⟨m.cells.filter (fun c => !(a ≤ c.1 && c.1 < a + n))⟩

/-- The summary is complete (R521): the record in the buffer that its GO named, BUSY, vector 3. -/
def State.summaryDone? (s : State) : Option State :=
  if s.regs.sumBusy then
    let s := { s with regs := { s.regs with sumBusy := false, sumSeq := s.regs.sumSeq + 1 }, host := s.host.clear s.regs.sumBuf 131072 }
    some ((s.summary.foldl (fun s p => s.writeBytes .device ⟨.hostCoh, s.regs.sumBuf + p.1⟩ p.2) s).signal 0 3)
  else none

/-- `summaryDone`. -/
def execSummaryDone (s : State) : Host.Outcome State Fault Refusal := .next (s.summaryDone?.getD s)

/-- A new state of the Col link; its change is signalled (R517, R522). (DEDUCED, log 53.) -/
def State.linkState (s : State) (st : Nat) (training : Bool) : State :=
  let s' := { s with regs := { s.regs with pairstat := st, retraining := training } }
  if s.regs.pairstat = st then s' else s'.signal 0 2

/-- A write of 1 to PAIRCTL (R522): a link that is down retrains, unless a context that took 0x25, resident or not, has not ended or a
lost line is left. (DEDUCED, log 53.) -/
def State.writePairctl (s : State) (v : Word) : State :=
  if v = 1 ∧ s.regs.pairstat = 3 ∧
      (s.ctxs.any (·.linkFault) || s.asids.any (·.linkFault) || s.mem.dir.any (fun e => e.2 == .pl)) = false then s.linkState 1 true
  else s

/-- `colLinkTrainStart` (R522): on a pair card, once the images run. The peer's FWSTAT lies outside this die. -/
def execColLinkTrainStart (s : State) : Host.Outcome State Fault Refusal :=
  .next (if s.regs.pairstat = 1 ∧ s.regs.fwstat = 1 then s.linkState 1 true else s)

/-- `colLinkUp` (R522): accesses that stalled go on by their own steps. -/
def execColLinkUp (s : State) : Host.Outcome State Fault Refusal := .next (if s.regs.retraining then s.linkState 2 false else s)

/-- `flitCrcReplay`: invisible to programs (R72). -/
def execFlitCrcReplay (s : State) : Host.Outcome State Fault Refusal := .next s

/-- `colLinkReplayFail` (R72): the link retrains. -/
def execColLinkReplayFail (s : State) : Host.Outcome State Fault Refusal :=
  .next (if s.regs.pairstat = 2 then s.linkState 1 true else s)

/-- `colLinkDown` (R70, R72): PS entries go, PM entries become PL, recalls in flight complete without data, and what each
die holds of the other's lines is lost. -/
def execColLinkDown (s : State) : Host.Outcome State Fault Refusal :=
  .next (if s.regs.retraining then
    let dir := s.mem.dir.filterMap (fun e => match e.2 with
      | .ps => none
      | _ => some (e.1, DirState.pl))
    { s with mem := { s.mem with dir := dir, homeTxn := [], peerAns := [], peerCopies := [], rdc := [] } }.linkState 3 false
  else s)

/-! ## Registers by offset -/

/-- A register of the physical function's BAR 0 by the offset of its 64-bit word, debug windows apart; none where there is
no register. (DEDUCED, log 57.) -/
def State.regWord64 (s : State) (b : Nat) : Option DWord :=
  let r := s.regs
  if b = 0x100000 then some r.ctxtBase
  else if b = 0x100100 then some r.l2word
  else if 0x100200 ≤ b ∧ b < 0x100240 then (r.serr.toList[(b - 0x100200) / 8]?).map SerrCnt.word
  else if 0x100400 ≤ b ∧ b < 0x100800 then (r.win.toList[(b - 0x100400) / 64]?).map (fun w => w.word (b % 64))
  else if 0x101000 ≤ b ∧ b < 0x101200 then ((r.cq.toList[(b - 0x101000) / 64]?).bind (fun c => c.toList[b % 64 / 8]?)).map CqEnt.word
  else if b = 0x102000 then some r.qtab
  else if b = 0x103000 then some r.exctBase
  else if b = 0x103100 then some r.reproBase
  else if 0x104008 ≤ b ∧ b < 0x104048 then r.vfrange.toList[(b - 0x104000) / 8]?
  else if 0x105000 ≤ b ∧ b < 0x105400 then (r.errlog.toList[(b - 0x105000) / 16]?).map (fun e =>
    if b % 16 = 0 then e.addr else BitVec.ofNat 64 (e.fn + e.kind * 2 ^ 8 + e.asid * 2 ^ 16 + e.corr.toNat * 2 ^ 32))
  else if b = 0x105400 then some (r.elcons ++ r.elhead)
  else if b = 0x105408 then some (r.elovf.setWidth 64)
  else if b = 0x106000 then some (BitVec.ofNat 64 r.fwstat)
  else if 0x106100 ≤ b ∧ b < 0x106120 then
    let k := (b - 0x106100) / 8
    some (r.nonce.toList.getD (2 * k + 1) 0 ++ r.nonce.toList.getD (2 * k) 0)
  else if b = 0x106120 then some r.attreq
  else if b = 0x106200 then some r.sumWord
  else if b = 0x106300 then some (BitVec.ofNat 64 r.pairstat)
  else none

/-- A write of a register of the physical function's BAR 0: `v` under the byte mask `m` of the access. -/
def State.setReg64 (s : State) (b : Nat) (v m : DWord) : State :=
  let r := s.regs
  let put := fun (r : HostRegs) => ({ s with regs := r } : State)
  if b = 0x100000 then put { r with ctxtBase := withBits r.ctxtBase v m (1 ||| bitsMask 51 14) }
  else if b = 0x100100 then s.writeL2 v m
  else if h : 0x100200 ≤ b ∧ b < 0x100240 then
    let p : Fin 8 := ⟨(b - 0x100200) / 8, by omega⟩
    put { r with serr := r.serr.set p.val ((r.serr[p]).written v m) p.isLt }
  else if h : 0x100400 ≤ b ∧ b < 0x100800 then
    let i : Fin 16 := ⟨(b - 0x100400) / 64, by omega⟩
    if b % 64 = 0 then s.writeFwctl i v m else put { r with win := r.win.set i.val ((r.win[i]).written (b % 64) v m) i.isLt }
  else if h : 0x101000 ≤ b ∧ b < 0x101200 then s.writeCq ⟨(b - 0x101000) / 64, by omega⟩ ⟨b % 64 / 8, by omega⟩ v m
  else if b = 0x102000 then put { r with qtab := withBits r.qtab v m (1 ||| bitsMask 51 18) }
  else if b = 0x103000 then put { r with exctBase := withBits r.exctBase v m (1 ||| bitsMask 51 16) }
  else if b = 0x103100 then put { r with reproBase := withBits r.reproBase v m (1 ||| bitsMask 51 16) }
  else if h : 0x104008 ≤ b ∧ b < 0x104048 then
    let n : Fin 9 := ⟨(b - 0x104000) / 8, by omega⟩
    if r.vfOn.getLsbD n.val then s else put { r with vfrange := r.vfrange.set n.val (withBits r.vfrange[n] v m (bitsMask 45 16)) n.isLt }
  else if b = 0x105400 then put { r with elcons := (withBits (r.elcons ++ r.elhead) v m (bitsMask 63 32)).extractLsb' 32 32 }
  else if h : 0x106100 ≤ b ∧ b < 0x106120 then
    let k : Fin 4 := ⟨(b - 0x106100) / 8, by omega⟩
    let w := withBits ((s.regWord64 b).getD 0) v m (bitsMask 63 0)
    put { r with nonce := (r.nonce.set (2 * k.val) (w.setWidth 32) (by omega)).set (2 * k.val + 1) (w.extractLsb' 32 32) (by omega) }
  else if b = 0x106120 then s.writeAtt v m
  else if b = 0x106200 then s.writeSum v m
  else if b = 0x106300 then (if m.getLsbD 32 then s.writePairctl (v.extractLsb' 32 32) else s)
  else s

/-! ## Host accesses to BAR 0 -/

/-- What a BAR 0 offset names for a function (R471, R515): a debug register, a register, or nothing. -/
inductive HostReg where
  | debug (asid n : Nat)
  | word (b : Nat)
  | none_
  deriving DecidableEq, Repr

/-- Resolve a BAR 0 offset. A virtual function's BAR 0 holds the debug windows at offsets less 0x20_0000, and nothing where
the physical function's BAR 0 holds them (R515); its other offsets are looked up in the physical function's map, for the
response of R518. -/
def State.hostReg (s : State) (fn off : Nat) (wide : Bool) : HostReg :=
  let lim := if fn = 0 then 0x4000000 else 0x400000
  if lim ≤ off || off % (if wide then 8 else 4) ≠ 0 then .none_
  else
    let o := if fn ≠ 0 && off < 0x100000 then off + 0x200000 else off
    if fn ≠ 0 && 0x200000 ≤ off && off < 0x300000 then .none_
    else if 0x200000 ≤ o && o < 0x300000 then
      (if wide || 0xA0 ≤ o % 1024 / 4 then .none_ else .debug ((o - 0x200000) / 1024) (o % 1024 / 4))
    else if (s.regWord64 (o / 8 * 8)).isSome then .word (o / 8 * 8) else .none_

/-- A refused access: its response and its entry in the error log (R515, R518). (DEDUCED, log 56; DESIGN CHOICE, log 104.) -/
def State.refuse (s : State) (fn off kind : Nat) (r : Resp) : State :=
  { s.logError off fn kind 0xFFFF 0 with resps := s.resps ++ [r] }

/-- Whether a function may reach the debug windows of an address space (R471). (DEDUCED, log 55.) -/
def State.mayDebug (s : State) (fn asid : Nat) : Bool := fn = 0 || s.ctxFn asid == some fn

/-- The offset in BAR 4 of an access, and whether a doorbell stands there (R422, R518). (DEDUCED, log 57.) -/
def doorbellOff (off : Nat) (wide : Bool) : Nat × Bool :=
  let o := off - 0x4000000
  (o, o < 0x100000 && (o % 256 = 0 || (o % 256 = 4 && !wide)))

/-- A host write through BAR 0, or through BAR 4 for offsets from 64 MiB on, where a wide one writes both words of a doorbell.
(DEDUCED, log 55; DEDUCED, log 56; DEDUCED, log 57.) -/
def State.hostWrite (s : State) (fn off : Nat) (wide : Bool) (val : DWord) : State :=
  if 0x4000000 ≤ off then
    let (o, bell) := doorbellOff off wide
    if !bell then s.refuse fn o 8 .unsupported
    else if o % 256 = 4 then s.ringCcons fn (o / 256) (val.setWidth 32)
    else
      let s := s.ringTail fn (o / 256) (val.setWidth 32)
      if wide then s.ringCcons fn (o / 256) (val.extractLsb' 32 32) else s
  else match s.hostReg fn off wide with
  | .none_ => s.refuse fn off 8 .unsupported
  | .debug asid n =>
    if s.mayDebug fn asid then s.putAsid ((s.asidInfo asid).dbgWrite n (val.setWidth 32)) else s.refuse fn off 7 .completerAbort
  | .word b =>
    if fn ≠ 0 then s.refuse fn off 1 .completerAbort
    else if wide then s.setReg64 b val (bitsMask 63 0)
    else if off % 8 = 0 then s.setReg64 b (val &&& bitsMask 31 0) (bitsMask 31 0)
    else s.setReg64 b (val <<< 32) (bitsMask 63 32)

/-- `registerWrite` (R8). (DEDUCED, log 28.) -/
def execRegisterWrite (fn off : Nat) (wide : Bool) (val : DWord) (s : State) : Host.Outcome State Fault Refusal :=
  .next (s.hostWrite fn off wide val)

/-- `cqallocWrite` (R165). -/
def execCqallocWrite (fn : Nat) (part ent : Fin 8) (val : DWord) (s : State) : Host.Outcome State Fault Refusal :=
  .next (s.hostWrite fn (0x101000 + 64 * part.val + 8 * ent.val) true val)

/-- `pclr` (R61): a write of L2CFG with PCLR = 1. -/
def execPclr (fn : Nat) (val : DWord) (s : State) : Host.Outcome State Fault Refusal := .next (s.hostWrite fn 0x100100 true (val ||| 0x100))

/-- `windowEnable` (R96): a write of FWCTL with EN = 1. -/
def execWindowEnable (fn : Nat) (w : Fin 16) (val : DWord) (s : State) : Host.Outcome State Fault Refusal :=
  .next (s.hostWrite fn (0x100400 + 64 * w.val) true (val ||| 1))

/-- `windowDisable` (R96): a write of FWCTL with EN = 0. -/
def execWindowDisable (fn : Nat) (w : Fin 16) (val : DWord) (s : State) : Host.Outcome State Fault Refusal :=
  .next (s.hostWrite fn (0x100400 + 64 * w.val) true (val &&& ~~~1#64))

/-- `attestationRequest` (R520). -/
def execAttestationRequest (fn : Nat) (val : DWord) (s : State) : Host.Outcome State Fault Refusal := .next (s.hostWrite fn 0x106120 true val)

/-- `summaryRequest` (R521): a write of SUMREQ with GO = 1. -/
def execSummaryRequest (fn : Nat) (val : DWord) (s : State) : Host.Outcome State Fault Refusal := .next (s.hostWrite fn 0x106200 true (val ||| 1))

/-- `pairctlRetrain` (R522). -/
def execPairctlRetrain (fn : Nat) (val : Word) (s : State) : Host.Outcome State Fault Refusal :=
  .next (s.hostWrite fn 0x106304 false (val.setWidth 64))

/-- A host read through BAR 0, or through BAR 4 for offsets from 64 MiB on: a doorbell reads as what was written last.
(DEDUCED, log 55; DEDUCED, log 56; DEDUCED, log 57.) -/
def State.hostRead (s : State) (fn off : Nat) (wide : Bool) : State :=
  let ok := fun (v : Nat) => ({ s with resps := s.resps ++ [.ok (leBytes (if wide then 8 else 4) v)] } : State)
  if 0x4000000 ≤ off then
    let (o, bell) := doorbellOff off wide
    if !bell then s.refuse fn o 8 .unsupported
    else
      let x := (s.queue? (o / 256)).getD (Queue.none_ (o / 256))
      ok (if o % 256 = 4 then x.ccons else if wide then x.tail + x.ccons * 2 ^ 32 else x.tail)
  else match s.hostReg fn off wide with
    | .none_ => s.refuse fn off 8 .unsupported
    | .debug asid n => if s.mayDebug fn asid then ok ((s.asidInfo asid).reg n) else s.refuse fn off 7 .completerAbort
    | .word b =>
      if fn ≠ 0 then s.refuse fn off 8 .unsupported
      else
        let v := ((s.regWord64 b).getD 0).toNat
        ok (if wide then v else bitsAt v (8 * (off % 8)) 32)

/-- `hostRegisterRead` (R518). -/
def execHostRegisterRead (fn off : Nat) (wide : Bool) (s : State) : Host.Outcome State Fault Refusal := .next (s.hostRead fn off wide)

/-! ## BAR 2 (R515) -/

/-- The device-memory address of a BAR 2 access; none outside the function's range. (DEDUCED, log 29; DESIGN CHOICE, log 104.) -/
def State.bar2 (s : State) (fn off n : Nat) : Option Nat :=
  let r := s.fnRange fn
  if r.1 + off + n ≤ r.2 then some (r.1 + off) else none

/-- Ask for a host access to device memory, or refuse it (R515, R518). -/
def State.hostAsk (s : State) (fn off n : Nat) (data : Option (List Byte)) : State :=
  match s.bar2 fn off n with
  | some pa => { s with hostAcc := s.hostAcc ++ [{ fn := fn, pa := pa, len := n, data := data }] }
  | none => s.refuse fn off 3 .unsupported

/-- The oldest host access is performed once its lines are to be had (R106, R126): at the home slice in shared mode, at the
controller in mode 1. Poison is not delivered (R75): the read is aborted and logged (R80). (DEDUCED, log 58.) -/
def State.hostAcc? (s : State) : Option State :=
  match s.hostAcc with
  | [] => none
  | x :: r =>
    let ls := (upFrom x.pa x.len).map (fun a => (⟨.device, a⟩ : Loc))
    let t := { s with hostAcc := r }
    match s.statusOf .device x.data.isSome ls with
    | .ok => match x.data with
      | some bs => some (t.writeBytes .device ⟨.device, x.pa⟩ bs).noteCleared
      | none =>
        if s.poisonIn .device ⟨.device, x.pa⟩ x.len then some { t.logUe x.pa with resps := s.resps ++ [.completerAbort] }
        else some { t.touchFor .device ls .normal false with resps := s.resps ++ [.ok (s.bytesAt .device ⟨.device, x.pa⟩ x.len)] }
    | .busy => s.askOnce x.data.isSome ls
    | .lost => some { t with resps := s.resps ++ [.completerAbort] }
    | _ => none

/-- `hostBar2Write`. -/
def execHostBar2Write (fn off : Nat) (data : List Byte) (s : State) : Host.Outcome State Fault Refusal :=
  let t := s.hostAsk fn off data.length (some data)
  .next ((if s.hostAcc = [] then t.hostAcc? else none).getD t)

/-- `hostBar2Read`. -/
def execHostBar2Read (fn off len : Nat) (s : State) : Host.Outcome State Fault Refusal :=
  let t := s.hostAsk fn off len none
  .next ((if s.hostAcc = [] then t.hostAcc? else none).getD t)

/-! ## Reset, firmware, power (R519, R523) -/

/-- The device after a reset, memory apart: what is on the board and outside the die keeps its contents.
(DESIGN CHOICE, log 60.) -/
def execDeviceReset (s : State) : Host.Outcome State Fault Refusal :=
  .next { State.reset with dram := s.dram, host := s.host, peer := s.peer, mem := { Caches.reset with bad := s.mem.bad },
                           agenda := s.agenda, ids := s.ids, clk := s.clk }

/-- The hash of an image: over its header without the signature, and its body (R519). -/
def imageHash (x : FwImage) : List Byte := sha256 (x.head ++ x.body)

/-- The checks of an image, the number `n` in the order of loading (R519): the public key is the one whose hash is fused, the
signature holds, and the version is not below the fused minimum. (DESIGN CHOICE, log 98.) -/
def imageOk (n : Nat) (x : FwImage) (key : List Byte) : Bool :=
  x.head.length == 64 && sha256 key == Config.fusedKeyHash && ecdsaOk key (imageHash x) x.r x.s &&
    Config.minVersion n ≤ Config.imageVersion x.head

/-- The management microcontroller verifies the next of the three images (R519). (DESIGN CHOICE, log 98.) -/
def execFirmwareImageVerify (image : FwImage) (key : List Byte) (s : State) : Host.Outcome State Fault Refusal :=
  let r := s.regs
  .next (if 3 ≤ r.fwDone || r.fwstat ≠ 0 then s
  else if imageOk r.fwDone image key then
    { s with regs := { r with fwDone := r.fwDone + 1, fwstat := if r.fwDone = 2 then 1 else 0,
                              images := r.images ++ [(imageHash image, Config.imageVersion image.head)] } }
  else { s with regs := { r with fwstat := 0x80 + r.fwDone } })

/-- `powerLimitReached` (R523): the clock goes down by 100 MHz. -/
def execPowerLimitReached (s : State) : Host.Outcome State Fault Refusal :=
  .next { s with regs := { s.regs with clkSteps := s.regs.clkSteps + 1 } }

/-- `thermalTrip` (R523): the clock stops, an error-log entry of kind 6, vector 1. -/
def execThermalTrip (s : State) : Host.Outcome State Fault Refusal :=
  let t := s.logError 0 0 6 0xFFFF 0
  let t := if t.msix = s.msix then t.signal 0 1 else t
  .next { t with regs := { t.regs with clockStopped := true } }

end Sys2Proof.Machine
end

