-- ==== Sys2Proof/Machine/Place.lean ====
section
/-! DEFINITION. Room on clusters (R184), the start of groups and blocks (R182, R185, R243, R263, R265), the ray pool (R205,
R217) and the choice of a cluster (R435). -/
namespace Sys2Proof.Machine

/-! ## Room -/

/-- Whether a block holds its place on its cluster. -/
def Block.placed (b : Block) : Bool := b.st == .resident || b.st == .evicting

/-- The groups that hold a residency on a core. -/
def State.residents (s : State) (core : Nat) : List Group :=
  (s.blocks.filter Block.placed).flatMap (fun b => b.groups.filter (fun g => g.core == core && !g.ended))

/-- Free V registers of a core (R183, R184). -/
def State.freeV (s : State) (core : Nat) : Nat := Config.vRegsPerCore - ((s.residents core).map (·.vregs)).sum

/-- What a block takes of a cluster (R184). -/
structure Need where
  /-- the numbers of its groups that need a residency -/
  who : List Nat
  vregs : Nat
  alloc : Nat
  tiles : Nat
  mx : Bool

/-- The need of a launch's blocks (R178). -/
def Desc.need (d : Desc) : Need := ⟨List.range d.ng, 8 * d.vregs, 1024 * d.lskb, d.tiles, d.mx⟩

/-- The cores of a cluster that the groups of a block take from a first core (R184). -/
def coresFrom (cluster c0 : Nat) (who : List Nat) : List Nat := who.map (fun g => 8 * cluster + (c0 + g) % 8)

/-- The blocks whose local store a cluster holds: also ended ones that a copy still names (R185). -/
def State.storeUsers (s : State) (cluster : Nat) : List Block :=
  s.blocks.filter (fun b => b.cluster == cluster && (b.placed || (b.st == .ended && s.copyNames b.serial)))

/-- Whether a cluster has room for a block whose groups start at a core (R184), and its engine is not resetting (R269). -/
def State.fitsAt (s : State) (n : Need) (cluster c0 : Nat) : Bool :=
  let here := s.blocks.filter (fun b => b.cluster == cluster && b.placed)
  let cores := coresFrom cluster c0 n.who
  here.length < 32 && (!n.mx || ((here.filter (·.mx)).length < 4 && !s.resetting.contains cluster)) &&
    (here.map (·.tiles)).sum + n.tiles ≤ 8 &&
    ((s.storeUsers cluster).map (·.alloc)).sum + n.alloc ≤ Config.localStoreBytes &&
    (List.range 8).all (fun k =>
      let core := 8 * cluster + k
      let m := (cores.filter (· == core)).length
      m = 0 || ((s.residents core).length + m ≤ 16 && m * n.vregs ≤ s.freeV core))

/-- The core with the most free V registers, the lower number winning ties (R435). -/
def State.bestCore (s : State) (cluster : Nat) : Nat :=
  (List.range 8).foldl (fun best k => if s.freeV (8 * cluster + best) < s.freeV (8 * cluster + k) then k else best) 0

/-- Whether a block fits on a cluster, its first core chosen by the distributor. -/
def State.fits (s : State) (n : Need) (cluster : Nat) : Bool := s.fitsAt n cluster (s.bestCore cluster)

/-- The clusters that a context may use, in rotation after the cluster of the last placement (R435, R63). -/
def State.rotation (s : State) (part : Option Nat) : List Nat :=
  let all := (List.range Config.clusters).map (fun i => (s.lastCluster + 1 + i) % Config.clusters)
  match part with
  | some p => all.filter (fun c => partOfCluster c == p)
  | none => all

/-- The partition that confines a context, if any. -/
def Ctx.confined (c : Ctx) : Option Nat := if c.priv then some c.part else none

/-- Whether a launch may use a cluster (R434). -/
def State.mayUse (s : State) (launch cluster : Nat) : Bool :=
  match (s.launch? launch).bind (fun l => s.ctx? l.asid) with
  | some c => match c.confined with
    | some p => partOfCluster cluster == p
    | none => true
  | none => false

/-- Whether a waiting gang of at least a priority shuts a cluster to ray groups and to blocks that return, be they of its own launch
(R436). (DEDUCED, log 72.) -/
def State.gangBars (s : State) (prio cluster : Nat) : Bool := s.gangs.any (fun g => decide (prio ≤ g.2) && s.mayUse g.1 cluster)

/-- Whether a waiting gang of at least a priority shuts a cluster to the work of another launch (R436). (DEDUCED, log 72.) -/
def State.gangShut (s : State) (prio launch cluster : Nat) : Bool :=
  s.gangs.any (fun g => decide (prio ≤ g.2) && g.1 != launch && s.mayUse g.1 cluster)

/-- Whether a block of a need fits on an empty cluster (R179): all its groups on eight empty cores. -/
def Need.fitsEmpty (n : Need) : Bool :=
  n.alloc ≤ Config.localStoreBytes && n.tiles ≤ 8 &&
    (List.range 8).all (fun k =>
      let m := ((coresFrom 0 0 n.who).filter (· == k)).length
      m ≤ 16 && m * n.vregs ≤ Config.vRegsPerCore)

/-! ## Groups (R182, R210) -/

/-- The lowest free residency index of a core. -/
def State.freeRes (s : State) (core : Nat) : Nat :=
  ((List.range 16).find? (fun r => !(s.residents core).any (fun g => g.res == r))).getD 0

/-- The role of a group (R178). -/
def Desc.role (d : Desc) (g : Nat) : Role :=
  match bitsAt d.roles.toNat (2 * g) 2 with
  | 1 => .vec
  | 2 => .cpy
  | _ => .gen

/-- Ordinals at the start (R478). (DEDUCED, log 45.) -/
def Ordinals.zero : Ordinals := ⟨0, 0, 0, 0, 0⟩

/-- A group at its start (R182, R194). The handler registers CAUSE, TVAL, PC0L to GM1, STKPL, STKPH and STKM, to which R368 gives no
value, start at 0. (DESIGN CHOICE, log 9.) -/
def Group.start (d : Desc) (index core res : Nat) (role : Role) (gid : Word) (vregs : Nat) (pc : DWord) (mask : Mask) (born : Nat) :
    Group :=
  let s0 := (Vector.replicate 64 (0 : Word)).set 0 (d.const.setWidth 32)
  { index := index, core := core, res := res, role := role, gid := gid, vregs := vregs, sregs := d.sregs, aregs := d.aregs,
    v := Vector.replicate 128 (Vector.replicate 32 0), p := Vector.replicate 96 0,
    s := s0.set 1 (d.const.extractLsb' 32 32), a := Vector.replicate 32 ⟨0, 0⟩, k := Vector.replicate 8 0,
    slot0 := Slot.readyAt pc mask, slot1 := Slot.free, stack := Vector.replicate 16 ⟨0, 0⟩, sd := 0, sc := 0,
    emask := mask, lfmask := 0, afx := false, hm := false, sstep := false, cause := 0, tval := 0,
    save0 := Slot.free.saved, save1 := Slot.free.saved, spill := 0, rbp := Vector.replicate 32 0, rbt := 0, icnt := 0,
    ldCnt := 0, stCnt := 0, cpCnt := 0, tlCnt := 0, pend := [], tokNew := [], seen := 0, deferred := [], handle := Lanes.splat 0xFFFFFFFF#32,
    rsv := 0, shKind := 0, ord := Ordinals.zero, dbl := false, lost := false, ended := false, stopped := false,
    stopCause := none, born := born }

/-! ## Sequencers and tiles (R243, R265) -/

/-- A tile at placement. -/
def Tile.zero : Tile :=
  { kind := .none, v := Vector.replicate 4096 0, p0 := Vector.replicate 4096 0, p1 := Vector.replicate 4096 0 }

/-- A sequencer at placement: Idle, with the reset configuration. -/
def Sequencer.start (key : SeqKey) (blk tiles : Nat) (ttrap : Bool) : Sequencer :=
  { key := key, blk := blk, st := .idle, was := .idle, pc := 0, starter := ⟨blk, 0⟩, starterGid := 0, ctr := Vector.replicate 4 0,
    tmode := ttrap, ta := 0, tb := 0, tiles := List.replicate tiles Tile.zero, talus := [], step := none, waitOn := none,
    lines := [], word := 0 }

/-- The lowest sequencer of a cluster that no placed block is bound to: R243 does not say which free one a block gets.
(DESIGN CHOICE, log 114.) -/
def State.freeSeq (s : State) (cluster : Nat) : Nat :=
  ((List.range 4).find? (fun i => !s.seqs.any (fun q => q.key == ⟨cluster, i⟩))).getD 0

/-! ## Blocks -/

/-- A block that starts: its local store is zero, its barriers at their reset values. -/
def Block.start (serial : Nat) (l : Launch) (b cluster : Nat) (n : Need) (groups : List Group) : Block :=
  { serial := serial, launch := l.id, asid := l.asid, b := b, bx := BitVec.ofNat 32 (b % l.desc.gx),
    by_ := BitVec.ofNat 32 (b / l.desc.gx % l.desc.gy), bz := BitVec.ofNat 32 (b / (l.desc.gx * l.desc.gy)),
    cluster := cluster, alloc := n.alloc, loc := ⟨[]⟩, locks := [], barPend := 0, barPh := false,
    sbar := Vector.replicate 16 StageBar.reset, mx := n.mx, seq := none, tiles := n.tiles, groups := groups, st := .resident,
    woken := false, image := 0, record := 0, isRay := false, formation := 0 }

/-- Whether a group is a trace candidate (R474). -/
def AsidInfo.traces (a : AsidInfo) (gid corr : Word) : Bool :=
  bitAt (a.reg 0x80) 5 && ((gid ^^^ BitVec.ofNat 32 (a.reg 0x90)) &&& BitVec.ofNat 32 (a.reg 0x91)) == 0 &&
    (!bitAt (a.reg 0x92) 31 || bitsAt corr.toNat 20 12 == bitsAt (a.reg 0x92) 0 12)

/-- The groups of a block become resident: the first candidate on a core that traces none is traced (R474). -/
def State.enrol (s : State) (b : Block) : State :=
  let corr := s.corrOfBlock b
  (b.groups.filter (fun g => !g.ended)).foldl (fun s g =>
    if (s.asidInfo b.asid).traces g.gid corr && !s.traces.any (fun t => t.core == g.core) then
      { s with traces := s.traces ++ [{ core := g.core, gk := ⟨b.serial, g.index⟩, slot := 0, count := 0, pc := 0, mask := 0, clk := 0 }] }
    else s) s

/-- Put a new block on its cluster. -/
def State.putBlock (s : State) (b : Block) (ttrap : Bool) : State :=
  let idx := s.freeSeq b.cluster
  let key : SeqKey := ⟨b.cluster, idx⟩
  let b := if b.mx then { b with seq := some idx } else b
  let seqs := if b.mx then s.seqs ++ [Sequencer.start key b.serial b.tiles ttrap] else s.seqs
  { s with blocks := s.blocks ++ [b], seqs := seqs, lastCluster := b.cluster }.enrol b

/-- The groups of a block of a grid launch or of a ray-generation block (R182, R217), placed from a first core on. -/
def State.gridGroups (s : State) (d : Desc) (cluster c0 b : Nat) (rsv : Nat) : List Group :=
  (List.range d.ng).map (fun g =>
    let core := 8 * cluster + (c0 + g) % 8
    -- groups of the block that come before it on the same core take the residencies before it
    let before := ((List.range g).filter (fun h => (c0 + h) % 8 == (c0 + g) % 8)).length
    let free := (List.range 16).filter (fun r => !(s.residents core).any (fun x => x.res == r))
    { Group.start d g core (free.getD before 0) (d.role g) (gidOf b g) (8 * d.vregs) d.entry fullMask s.clk with rsv := rsv })

/-! ## The ray pool (R205, R217) -/

/-- Ray slots of a context in a partition (R165). -/
def State.poolCap (s : State) (part asid : Nat) : Nat := ((s.cqFor part asid).map (fun e => 4096 * e.pool.toNat)).getD 0

/-- The rays of a context in a partition. -/
def State.raysOf (s : State) (part asid : Nat) : List Ray := s.rays.filter (fun r => r.part == part && r.asid == asid)

/-- Reserved slots: what the groups of the context in the partition hold (R217). -/
def State.reserved (s : State) (part asid : Nat) : Nat :=
  ((s.blocks.filter (fun b => b.asid == asid && partOfCluster b.cluster == part)).flatMap (fun b =>
    (b.groups.filter (fun g => !g.ended)).map (·.rsv))).sum

/-- Free slots: capacity less occupied less reserved (R217). -/
def State.poolFree (s : State) (part asid : Nat) : Nat :=
  s.poolCap part asid - (s.raysOf part asid).length - s.reserved part asid

end Sys2Proof.Machine
end

