-- ==== Sys2Proof/Machine/Rays.lean ====
section
/-! DEFINITION. Rays outside their walks: the hand-offs of `trace`, `spawn` and `retire` (R401 to R403, R211, R129), the bins
(R213, R214), prefetches (R233, R234), the drain order (R215) and the formation of ray groups (R209, R210, R217, R219). -/
namespace Sys2Proof.Machine

/-! ## Records (R202, R204) -/

/-- The exact value of a finite FP32 word; none for an infinity or NaN. -/
def ratOf (w : Word) : Option Rat :=
  match val32 w with
  | .fin n m => some (mkRat (FVal.num (.fin n m)) one149)
  | _ => none

/-- Whether the walk of a ray with this origin, direction and segment would be invalid (R204): w0 to w7. -/
def badWalk (w : List Word) : Bool :=
  let at_ := fun k => w.getD k 0
  w.any isNan || (w.take 6).any (fun x => (ratOf x).isNone) || decide (fKey (at_ 6) < fKey 0x80000000#32) ||
    (match ratOf (at_ 6), ratOf (at_ 7) with
      | some a, some b => decide (b < a)
      | none, some _ => true
      | none, none => (val32 (at_ 7)).isNeg
      | some _, none => (val32 (at_ 7)).isNeg) ||
    [3, 4, 5].all (fun k => ratOf (at_ k) == some 0)

/-- Whether a ray's walk is invalid. -/
def Ray.invalid (r : Ray) : Bool := badWalk (r.w.toList.take 8)

/-- SHID of a record. -/
def Ray.shid (r : Ray) : Nat := bitsAt r.w[9].toNat 16 12

/-- Set TERM of a record (R203). -/
def Ray.setTerm (r : Ray) (t : Bool) : Ray :=
  { r with w := r.w.set 9 (if t then r.w[9] ||| 0x80000000#32 else r.w[9] &&& 0x7FFFFFFF#32) }

/-! ## Bins (R213, R214) -/

/-- One axis of CELL12 (R213). -/
def cellAxis (o g c : Word) : Nat :=
  match ratOf o, ratOf g, ratOf c with
  | some x, some y, some z =>
    let k := ((x - y) / z).floor
    let c := if k < 0 then 0 else min k.toNat 255
    (c % 16) ^^^ (c / 16)
  | _, _, _ => 0

/-- CELL12 of a ray (R213). -/
def Ray.cell12 (r : Ray) (h : RayHeader) : Nat :=
  cellAxis r.w[0] h.g0[0] h.cell + 16 * cellAxis r.w[1] h.g0[1] h.cell + 256 * cellAxis r.w[2] h.g0[2] h.cell

/-- The traversal key of a valid ray (R213). -/
def Ray.travKey (r : Ray) (h : RayHeader) : Nat :=
  let sign := fun (w : Word) => bitsAt w.toNat 31 1
  let oct := sign r.w[3] + 2 * sign r.w[4] + 4 * sign r.w[5]
  let mag := fun (w : Word) => (val32 w).num.natAbs
  let ax := mag r.w[3]
  let ay := mag r.w[4]
  let az := mag r.w[5]
  let big := max ax (max ay az)
  let sc := if big ≤ 2 * min ax (min ay az) then 3 else if ax = big then 0 else if ay = big then 1 else 2
  r.cell12 h + (4 * oct + sc) * 4096

/-- TBIN of a key (R213). -/
def travBin (key : Nat) : Nat := (key % 1024) ^^^ bitsAt key 10 7

/-- SBIN of a shader id (R214). -/
def shadeBin (shid : Nat) : Nat := (shid % 256) ^^^ bitsAt shid 8 4

/-! ## Rays of a pool -/

/-- The ray in a slot of a context's pool in a partition. -/
def State.ray? (s : State) (part asid slot : Nat) : Option Ray :=
  s.rays.find? (fun r => r.part == part && r.asid == asid && r.slot == slot)

/-- Replace a ray. -/
def State.putRay (s : State) (r : Ray) : State :=
  { s with rays := s.rays.map (fun x => if x.part = r.part ∧ x.asid = r.asid ∧ x.slot = r.slot then r else x) }

/-- Free the slot of a ray (R206). -/
def State.freeRay (s : State) (r : Ray) : State :=
  { s with rays := s.rays.filter (fun x => !(x.part == r.part && x.asid == r.asid && x.slot == r.slot)) }

/-- Change the counters of a launch. -/
def State.modCtr (s : State) (launch : Nat) (f : RayCounters → RayCounters) : State :=
  s.modLaunch launch (fun l => { l with ctr := f l.ctr })

/-- A counter of R212: it saturates. -/
def satAdd (w : Word) (n : Nat) : Word := BitVec.ofNat 32 (min (w.toNat + n) 0xFFFFFFFF)

/-- The header of a ray's launch. -/
def State.rayHeader (s : State) (r : Ray) : Option RayHeader := (s.launch? r.launch).bind (·.hdr)

/-- A ray enters its shade bin, or is retired because its SHID names no shader (R214, R231). -/
def State.enterShade (s : State) (r : Ray) : State :=
  let nsh := ((s.launch? r.launch).map (·.desc.nsh)).getD 0
  if nsh ≤ r.shid then (s.freeRay r).modCtr r.launch (fun c => { c with badsh := satAdd c.badsh 1 })
  else { s.putRay { r with st := .shadeBinned (shadeBin r.shid), stamp := s.ids, walk := none } with ids := s.ids + 1 }

/-- The rays of a context in a partition that wait in a traversal bin. -/
def State.inTravBin (s : State) (part asid bin : Nat) : List Ray :=
  (s.raysOf part asid).filter (fun r => r.st == .travBinned bin)

/-- A prefetch starts when a bin reaches its threshold, unless 64 are in flight (R234); each hint entry, with the treelets it names,
counts as one. (DEDUCED, log 70.) -/
def State.startPrefetch (s : State) (r : Ray) (h : RayHeader) (bin : Nat) : State :=
  if h.pf ≠ 0 && h.hint ≠ 0 && (s.inTravBin r.part r.asid bin).length == h.pf && (s.prefetches.filter (·.part == r.part)).length < 64 then
    { s with prefetches := s.prefetches ++ [{ id := s.ids, part := r.part, asid := r.asid, launch := r.launch, cell := r.cell12 h }],
             ids := s.ids + 1 }
  else s

/-- A ray that is handed to traversal enters its bin; an invalid one ends its walk at once, with TERM (R204, R213). -/
def State.enterTraversal (s : State) (r : Ray) (resume : Bool) : State :=
  if r.invalid then
    (s.modCtr r.launch (fun c => { c with terms := satAdd c.terms 1 })).enterShade { r.setTerm true with resume := resume }
  else match s.rayHeader r with
    | some h =>
      let bin := travBin (r.travKey h)
      let s := { s.putRay { r with st := .travBinned bin, stamp := s.ids, resume := resume, walk := none } with ids := s.ids + 1 }
      s.startPrefetch r h bin
    | none => s

/-! ## Issue (R400 to R403) -/

/-- A lane's record in a run of 16 V registers. -/
def View.record (w : View) (b : Opnd) (i : Fin 32) : Vector Word 16 :=
  Vector.ofFn (fun k => match opndPlus b k.val with
    | some y => w.lane y i
    | none => 0)

/-- Whether a hand-off is illegal: in a grid launch (R400). -/
def View.inGrid (w : View) : Bool := w.l.desc.kind == 0

/-- Handles with the lanes of a mask cleared. -/
def clearHandles (h : Lanes) (m : Mask) : Lanes := Vector.ofFn (fun i => if m.getLsbD i.val then 0xFFFFFFFF#32 else h[i])

/-- The rays that the active lanes hold, with their lanes. -/
def View.myRays (w : View) : List (Fin 32 × Word) :=
  (w.act.lanes.map (fun i => (i, w.g.handle[i]))).filter (fun x => x.2 != 0xFFFFFFFF#32)

/-- The ray that a handle names (R205). -/
def State.rayOf (s : State) (asid : Nat) (h : Word) : Option Ray := s.ray? (h.toNat / 65536) asid (h.toNat % 65536)

/-- Hand the active lanes' rays on (R401, R403, R211): second hand-offs count, the handles go, and the release follows.
(DEDUCED, log 69.) -/
def View.handOff (w : View) (kind : Handoff) (f : Fin 32 → Ray → Ray) : Done :=
  let mine := w.myRays
  let missed := w.act.lanes.length - mine.length
  { g := { w.g with handle := clearHandles w.g.handle w.act },
    post := fun s =>
      let s := if missed = 0 then s else s.modCtr w.b.launch (fun c => { c with misuse := satAdd c.misuse missed })
      let s := mine.foldl (fun s x => match s.rayOf w.b.asid x.2 with
        | some r => s.putRay (f x.1 r)
        | none => s) s
      if mine = [] then s else s.addOp w.k w.n (.handoff kind (mine.map (·.2)) (w.g.shKind == 2)) }

/-- `trace` (R401). -/
def execTrace (e : Bool) (b : Opnd) (s : State) : Host.Outcome State Fault Refusal :=
  .next (s.issue { len := 4, e := e, srcs := opndRun b 16, kind := .ray, access := true }
    (fun w => !opndRunOk b 16 || w.inGrid) noCheck (fun w =>
      .done (w.handOff .trace (fun i r => { r with w := w.record b i }))))

/-- `retire` (R403). -/
def execRetire (e : Bool) (s : State) : Host.Outcome State Fault Refusal :=
  .next (s.issue { len := 4, e := e, kind := .ray, access := true } View.inGrid noCheck (fun w =>
    .done (w.handOff .retire (fun _ r => r))))

/-- The slots that `n` new rays of a context take: free ones of the partition's pool, as a free value picks them.
(DESIGN CHOICE, log 68.) -/
def State.newSlots (s : State) (part asid n : Nat) : List Nat :=
  let used := (s.raysOf part asid).map (·.slot)
  let free := (List.range (s.poolCap part asid)).filter (fun k => !used.contains k)
  (upFrom 0 n).foldl (fun (acc : List Nat) j =>
    let left := free.filter (fun k => !acc.contains k)
    acc ++ [left.getD (Config.freeSlot (s.clk + j) left.length % max 1 left.length) 0]) []

/-- The rays that a `spawn` creates: the first active lanes, as far as the reservation goes (R402, R218). -/
def View.spawned (w : View) : List (Nat × Fin 32) :=
  let lanes := w.act.lanes.take w.g.rsv
  (w.s.newSlots w.part w.b.asid lanes.length).zip lanes

/-- The handle of a ray (R205). -/
def handleOf (part slot : Nat) : Word := BitVec.ofNat 32 (65536 * part + slot)

/-- `spawn` (R402): the new rays hold their slots from here on; they enter their bins when the release is performed. -/
def execSpawn (e : Bool) (t b : Opnd) (s : State) : Host.Outcome State Fault Refusal :=
  .next (s.issue { len := 4, e := e, srcs := opndRun b 16, dsts := [t], kind := .ray, access := true }
    (fun w => !opndRunOk b 16 || w.inGrid) noCheck (fun w =>
      if w.act = 0 then .done w.doneNone
      else
        let new := w.spawned
        let lost := w.act.lanes.length - new.length
        let handle := fun (i : Fin 32) => match new.find? (fun x => x.2 == i) with
          | some x => handleOf w.part x.1
          | none => 0xFFFFFFFF#32
        let rays := new.map (fun x =>
          { part := w.part, asid := w.b.asid, slot := x.1, launch := w.b.launch, w := w.record b x.2, st := .inEpisode, stamp := 0,
            resume := false, walk := none, rid := w.s.rid w.k w.g.ord.spawn x.2.val : Ray })
        let g := { w.g with rsv := w.g.rsv - new.length, ord := { w.g.ord with spawn := w.g.ord.spawn + 1 } }
        let ws := w.resultFor t handle 0
        .done
          { g := g.markOp (ws.map (·.reg)) .var w.s.ids false,
            post := fun s =>
              let s := if lost = 0 then s else s.modCtr w.b.launch (fun c => { c with spfail := satAdd c.spfail lost })
              let s := s.addOp w.k w.n (.regs .spawn ws)
              if new = [] then s
              else { s with rays := s.rays ++ rays }.addOp w.k w.n (.handoff .spawn (new.map (fun (x : Nat × Fin 32) => handleOf w.part x.1)) false) }))

/-! ## Performance -/

/-- A hand-off is performed (R129, R401 to R403): a die-scope release; the rays enter their bins, or their slots become free.
(DESIGN CHOICE, log 68; DEDUCED, log 69.) -/
def State.handoff? (s : State) (o : Op) : Option State :=
  match o.body with
  | .handoff kind hs resume =>
    if !s.released o .die then none
    else
      let asid := s.asidOf o.gk
      let one := fun (s : State) (h : Word) => match s.rayOf asid h with
        | some r => match kind with
          | .retire => s.freeRay r
          | _ => s.enterTraversal r resume
        | none => s
      some ((hs.foldl one s).dropOp o.id)
  | _ => none

/-- `rayHandoffPerformed`. -/
def execRayHandoffPerformed (op : Nat) (s : State) : Host.Outcome State Fault Refusal :=
  .next (((s.op? op).bind s.handoff?).getD s)

/-- The handles of a `spawn` reach vT (R402). -/
def State.spawnWrite? (s : State) (o : Op) : Option State :=
  match o.body with
  | .regs .spawn ws => some ((s.land o ws).dropOp o.id)
  | _ => none

/-- `spawnHandleWrite`. -/
def execSpawnHandleWrite (op : Nat) (s : State) : Host.Outcome State Fault Refusal :=
  .next (((s.op? op).bind s.spawnWrite?).getD s)

/-! ## Random numbers (R406) -/

/-- One round of Philox-4x32. -/
def philoxRound (c : Word × Word × Word × Word) (k0 k1 : Word) : Word × Word × Word × Word :=
  let (c0, c1, c2, c3) := c
  let p0 : DWord := 0xD2511F53#64 * c0.setWidth 64
  let p1 : DWord := 0xCD9E8D57#64 * c2.setWidth 64
  (p1.extractLsb' 32 32 ^^^ c1 ^^^ k0, p1.extractLsb' 0 32, p0.extractLsb' 32 32 ^^^ c3 ^^^ k1, p0.extractLsb' 0 32)

/-- Philox-4x32 with 10 rounds. -/
def philox (c : Word × Word × Word × Word) (k0 k1 : Word) : Word × Word × Word × Word :=
  (upFrom 0 10).foldl (fun c r =>
    philoxRound c (k0 + BitVec.ofNat 32 r * 0x9E3779B9#32) (k1 + BitVec.ofNat 32 r * 0xBB67AE85#32)) c

/-- `rng` (R406): the values are computed at issue and reach their registers later. -/
def execRng (e : Bool) (t b : Opnd) (s : State) : Host.Outcome State Fault Refusal :=
  .next (s.issue { len := 4, e := e, srcs := opndRun t 4 ++ opndRun b 2, dsts := opndRun t 4, kind := .ray, access := true }
    (fun _ => !opndRunOk t 4 || !opndRunOk b 2) noCheck (fun w =>
      if w.act = 0 then .done w.doneNone
      else if 63 ≤ w.g.ldCnt then .wait (.count 0)
      else
        let src := fun (i : Fin 32) (k : Nat) => match opndPlus t k with
          | some y => w.lane y i
          | none => 0
        let out := fun (i : Fin 32) => philox (src i 0, src i 1, src i 2, src i 3) (w.param b 0) (w.param b 1)
        let pick := fun (k : Nat) (x : Word × Word × Word × Word) =>
          if k = 0 then x.1 else if k = 1 then x.2.1 else if k = 2 then x.2.2.1 else x.2.2.2
        let ws := (upFrom 0 4).flatMap (fun k => match opndPlus t k with
          | some y => w.resultFor y (fun i => pick k (out i)) 0
          | none => [])
        .done (w.later { w.g with ldCnt := w.g.ldCnt + 1 } .rng ws)))

/-- The result of an `rng` reaches its registers, and the load count falls (R385, R406). -/
def State.rngWrite? (s : State) (o : Op) : Option State :=
  match o.body with
  | .regs .rng ws => some (s.endLoad o ws)
  | _ => none

/-- `rngResult`. -/
def execRngResult (op : Nat) (s : State) : Host.Outcome State Fault Refusal :=
  .next (((s.op? op).bind s.rngWrite?).getD s)

/-! ## Prefetch (R233, R234) -/

/-- Read one treelet into the treelet ways; nothing on any failure. (DEDUCED, log 67.) -/
def State.readTreelet (s : State) (p : Prefetch) (va : Nat) : State :=
  let a : Agent := Agent.ctx p.asid
  match s.engineXlate p.part p.asid (BitVec.ofNat 64 va) ⟨.travRead, false, false⟩ with
  | (.ok l, s') =>
    let ls := ((upFrom 0 32).map (fun k => l.add (128 * k))).filter (fun x => s'.lineStatus a false x == .ok && !s'.poisonIn a x 128)
    s'.touchFor a ls .treelet true
  | _ => s

/-- The hint entry of a prefetch returns: the treelets that it names are read (R234). (DEDUCED, log 70.) -/
def State.prefetch? (s : State) (id : Nat) : Option State :=
  match s.prefetches.find? (fun p => p.id == id) with
  | none => none
  | some p =>
    let all := s.prefetches
    let s := { s with prefetches := s.prefetches.filter (fun x => !(x.id == id)) }
    match ((s.launch? p.launch).bind (·.hdr)) with
    | none => some s
    | some h =>
      let va := h.hint.toNat + 32 * p.cell
      match s.engineXlate p.part p.asid (BitVec.ofNat 64 va) ⟨.travRead, false, false⟩ with
      | (.ok l, s') =>
        let a : Agent := Agent.ctx p.asid
        if s'.lineStatus a false l != .ok || s'.poisonIn a l 32 then some s'
        else
          let words := (upFrom 0 4).map (fun k => s'.numAt a (l.add (8 * k)) 8)
          some ((words.filter (fun x => bitAt x 0)).foldl (fun s x => s.readTreelet p (bitsAt x 12 42 * 4096)) (s'.touchFor a [l] .normal false))
      -- a walk that has to wait is waited for (R35)
      | (.miss, s') => (progress s s').map (fun s => { s with prefetches := all })
      | _ => some s

/-- `prefetchHintRead`. -/
def execPrefetchHintRead (job : Nat) (s : State) : Host.Outcome State Fault Refusal := .next ((s.prefetch? job).getD s)

/-! ## The drain order (R215, R216) -/

/-- A bin as the drain order sees it: `n` counts for the 32 of a full bin, `size` all its rays. -/
structure BinInfo where
  bin : Nat
  n : Nat
  size : Nat
  oldest : Nat
  timed : Bool
  low : Bool
  deriving DecidableEq, Repr

/-- The bins that may be drained, in the order of R215; equally large bins of its third step go by their numbers.
(DESIGN CHOICE, log 113.) -/
def drainOrder (bs : List BinInfo) : List Nat :=
  let full := bs.filter (fun b => 32 ≤ b.n)
  let timed := bs.filter (fun b => b.n < 32 && b.timed)
  let rest := bs.filter (fun b => b.n < 32 && !b.timed && b.low)
  let byN := fun (x y : BinInfo) => decide (y.n < x.n) || (x.n == y.n && decide (x.bin ≤ y.bin))
  let bySize := fun (x y : BinInfo) => decide (y.size < x.size) || (x.size == y.size && decide (x.bin ≤ y.bin))
  let byAge := fun (x y : BinInfo) => decide (x.oldest ≤ y.oldest)
  (sortBy byN full ++ sortBy byAge timed ++ sortBy bySize rest).map (·.bin)

/-- The traversal bin of a ray that waits for traversal; the shade bin of one that waits for a group. -/
def Ray.binOf (r : Ray) (shade : Bool) : Option Nat :=
  match r.st, shade with
  | .travBinned b, false => some b
  | .shadeBinned b, true => some b
  | _, _ => none

/-- The rays of a bin, oldest first: one of a partition and a context (R216). (DEDUCED, log 69.) -/
def State.binRays (s : State) (part asid : Nat) (shade : Bool) (bin : Nat) : List Ray :=
  sortBy (fun (x y : Ray) => decide (x.stamp ≤ y.stamp)) ((s.raysOf part asid).filter (fun r => r.binOf shade == some bin))

/-- The bins of a context in a partition that hold rays. -/
def State.binInfos (s : State) (part asid : Nat) (shade : Bool) : List BinInfo :=
  let rs := s.raysOf part asid
  ((rs.filterMap (·.binOf shade)).eraseDups).filterMap (fun bin => match s.binRays part asid shade bin with
    | [] => none
    | r :: q =>
      let all := r :: q
      let total := (rs.filter (fun x => x.launch == r.launch && (x.binOf shade).isSome)).length
      let low := match s.rayHeader r with
        | some h => if shade then h.lows else h.lowt
        | none => 0
      some { bin := bin, n := if shade then (all.filter (fun x => x.shid == r.shid)).length else all.length, size := all.length,
             oldest := r.stamp, timed := s.timedOut.contains (part, asid, shade, bin), low := decide (total < low) })

/-- The oldest ray of a bin has waited TOT or TOS clk (R215, R216). -/
def State.binTimeout? (s : State) (part asid : Nat) (shade : Bool) (bin : Nat) : Option State :=
  if s.binRays part asid shade bin = [] || s.timedOut.contains (part, asid, shade, bin) then none
  else some { s with timedOut := (part, asid, shade, bin) :: s.timedOut }

/-- `traversalBinTimeout`. -/
def execTraversalBinTimeout (part asid bin : Nat) (s : State) : Host.Outcome State Fault Refusal :=
  .next ((s.binTimeout? part asid false bin).getD s)

/-- `shadeBinTimeout`. -/
def execShadeBinTimeout (part asid bin : Nat) (s : State) : Host.Outcome State Fault Refusal :=
  .next ((s.binTimeout? part asid true bin).getD s)

/-- Rays leave a bin: its oldest ray is another one, which has waited less. -/
def State.clearTimeout (s : State) (part asid : Nat) (shade : Bool) (bin : Nat) : State :=
  { s with timedOut := s.timedOut.filter (fun x => x != (part, asid, shade, bin)) }

/-! ## Ray groups (R209, R210, R217, R219) -/

/-- A group that is to form: its rays in lane order, its launch, its entry, its reservation and its place. -/
structure FormPlan where
  rays : List Ray
  l : Launch
  ent : ShaderEntry
  rsv : Nat
  cluster : Nat
  c0 : Nat
  bin : Nat

/-- The need of a ray group (R209). -/
def ShaderEntry.need (e : ShaderEntry) : Need := ⟨[0], 8 * e.vregs, 0, 0, false⟩

/-- The rays that a group takes from a bin: at most 32 with the SHID of the oldest (R209). (DEDUCED, log 69.) -/
def State.groupRays (s : State) (part asid bin : Nat) : List Ray :=
  match s.binRays part asid true bin with
  | [] => []
  | r :: q => (r :: q.filter (fun x => x.shid == r.shid && x.launch == r.launch)).take 32

/-- A plan to form a group from some rays with a reservation that a rule gives, on a cluster of the partition.
(DEDUCED, log 69.) -/
def State.planFor (s : State) (part bin : Nat) (rs : List Ray) (rsvOf : ShaderEntry → Option Nat) : Option FormPlan :=
  match rs with
  | [] => none
  | r :: _ =>
    match s.launch? r.launch with
    | none => none
    | some l =>
      match l.shaders[r.shid]? with
      | none => none
      | some e =>
        match rsvOf e, (s.rotation (some part)).find? (fun c => !s.gangBars l.prio c && s.fits e.need c) with
        | some n, some c => some { rays := rs, l := l, ent := e, rsv := n, cluster := c, c0 := s.bestCore c, bin := bin }
        | _, _ => none

/-- The reservation of R217: 32 × FAN slots, if as many are free. -/
def State.wholeRsv (s : State) (part asid : Nat) (e : ShaderEntry) : Option Nat :=
  if 32 * e.fan ≤ s.poolFree part asid then some (32 * e.fan) else none

/-- The reservation of R219: what is free of it. -/
def State.partRsv (s : State) (part asid : Nat) (e : ShaderEntry) : Option Nat := some (min (s.poolFree part asid) (32 * e.fan))

/-- The plan that a recorded formation binds (R479): its rays, once all of them wait, on its cluster and core. -/
def State.boundPlan (s : State) (part asid : Nat) (e : List Byte) : Option FormPlan :=
  let rids := (upFrom 0 (fieldAt e 22 1)).map (fun i => BitVec.ofNat 64 (fieldAt e (32 + 8 * i) 8))
  let rs := rids.filterMap (fun i => (s.raysOf part asid).find? (fun r => r.rid == i && (r.binOf true).isSome))
  match rs with
  | [] => none
  | r :: _ =>
    match s.launch? r.launch with
    | none => none
    | some l => match l.shaders[r.shid]? with
      | none => none
      | some x =>
        let cluster := fieldAt e 20 1
        let c0 := fieldAt e 21 1
        if rs.length = rids.length && rs.all (fun y => y.shid == fieldAt e 16 2) && fieldAt e 18 2 ≤ s.poolFree part asid &&
            s.fitsAt x.need cluster c0 then
          some { rays := rs, l := l, ent := x, rsv := fieldAt e 18 2, cluster := cluster, c0 := c0, bin := shadeBin r.shid }
        else none

/-- Whether a FORM entry is the next formation of the resident ray launch. -/
def State.isFormEntry (s : State) (part asid : Nat) (e : List Byte) : Bool :=
  s.launches.any (fun l => l.asid == asid && l.hdr.isSome && l.st == .started && l.lseq == fieldAt e 8 4 &&
    (l.formed.toList.getD part 0) == fieldAt e 12 4)

/-- The group that a wave former forms next for a context (R209, R215, R217): the first bin in drain order that can form one.
A reproducible context in bind mode forms what its trace says (R479). -/
def State.formPlan? (s : State) (part asid : Nat) : Option FormPlan :=
  if !((s.ctx? asid).map (fun c => c.halt == .running)).getD false then none
  else match s.dtAsk asid (.formation part) (s.isFormEntry part asid) with
    | .free => (drainOrder (s.binInfos part asid true)).findSome? (fun bin =>
        s.planFor part bin (s.groupRays part asid bin) (s.wholeRsv part asid))
    | .bound e => s.boundPlan part asid e
    | _ => none

/-- The state of starvation (R219), but for the 4,096 clk: nothing walks or waits for traversal, no ray group is resident (one that
is saved is not), and a shade bin holds rays. -/
def State.starved (s : State) (part asid : Nat) : Bool :=
  let rs := s.raysOf part asid
  rs.any (fun r => (r.binOf true).isSome) && rs.all (fun r => r.walk.isNone && (r.binOf false).isNone) &&
    !s.blocks.any (fun b => b.asid == asid && b.isRay && (b.st == .resident || b.st == .evicting) && partOfCluster b.cluster == part)

/-- The group that a starving wave former forms (R219): from the bin of the oldest ray, where no bin can form a group by R217, which
would have formed before (R494). -/
def State.starvePlan? (s : State) (part asid : Nat) : Option FormPlan :=
  if !((s.ctx? asid).map (fun c => c.halt == .running)).getD false || !s.starved part asid ||
      (s.formPlan? part asid).isSome then none
  else match sortBy (fun (x y : BinInfo) => decide (x.oldest ≤ y.oldest)) (s.binInfos part asid true) with
    | [] => none
    | b :: _ => match s.dtAsk asid (.formation part) (s.isFormEntry part asid) with
      | .free => s.planFor part b.bin (s.groupRays part asid b.bin) (s.partRsv part asid)
      | .bound e => s.boundPlan part asid e
      | _ => none

/-- The ray group of a plan at its start (R210); its GID has the launch's formation count (R455). -/
def State.rayGroup (s : State) (p : FormPlan) (part : Nat) : Group :=
  let mask := maskOf (fun i => decide (i.val < p.rays.length))
  let core := 8 * p.cluster + p.c0
  let lane := fun (i : Fin 32) (k : Fin 16) => match p.rays[i.val]? with
    | some r => r.w[k]
    | none => 0
  let shid := (p.rays.head?.map Ray.shid).getD 0
  let g := Group.start p.l.desc 0 core (s.freeRes core) .gen (gidOf p.l.formed.toList.sum 0) (8 * p.ent.vregs) p.ent.pc mask s.clk
  { g with
    v := Vector.ofFn (fun n => if h : n.val < 16 then Vector.ofFn (fun i => lane i ⟨n.val, h⟩) else g.v[n]),
    s := g.s.set 2 (BitVec.ofNat 32 shid),
    handle := Vector.ofFn (fun i => match p.rays[i.val]? with
      | some r => handleOf part r.slot
      | none => 0xFFFFFFFF#32),
    rsv := p.rsv, shKind := p.ent.kind }

/-- Form a ray group (R209, R210): an episode start is a die-scope acquire (R129). -/
def State.formGroup (s : State) (part asid : Nat) (p : FormPlan) : State :=
  let number := p.l.formed.toList.getD part 0
  let g := s.rayGroup p part
  let b := { Block.start s.ids p.l 0 p.cluster p.ent.need [g] with bx := 0, by_ := 0, bz := 0, isRay := true, formation := number }
  let s := { s with lastQueue := p.l.q }
  let s := p.rays.foldl (fun s r => s.putRay { r with st := .inEpisode }) s
  let s := ({ s with ids := s.ids + 1 }.putBlock b false).clearTimeout part asid true p.bin
  let s := s.modLaunch p.l.id (fun l => { l with formed := Vector.ofFn (fun i => if i.val = part then l.formed[i] + 1 else l.formed[i]) })
  let s := s.l1Drop (fun x => x.core == g.core)
  s.dtNote asid (.formation part) (formEntry part p.l.lseq number ((p.rays.head?.map Ray.shid).getD 0) p.rsv p.cluster p.c0 (p.rays.map (·.rid)))

end Sys2Proof.Machine
end

