-- ==== Sys2Proof/Machine/Walk.lean ====
section
/-! DEFINITION. Traversal: pulls (R216, R220), the visits of a walk (R221 to R230) and its end (R203, R231). -/
namespace Sys2Proof.Machine

/-! ## Pulls (R216) -/

/-- The batches that the traversal unit of a cluster holds (R220). -/
def State.batches (s : State) (cluster : Nat) : List Nat :=
  (s.rays.filterMap (fun r => match r.walk with
    | some w => if w.cluster = cluster then some w.batch else none
    | none => none)).eraseDups

/-- The root of a hierarchy (R221): slot 0 of treelet 0. -/
def rootItem (inst : Option WalkInst) : WalkItem := { dist := none, ref := 1, treelet := 0, inst := inst }

/-- A walk at its start (R203, R227). -/
def Ray.startWalk (r : Ray) (cluster batch : Nat) : Ray :=
  { r.setTerm false with
    st := .walking,
    walk := some { cluster := cluster, batch := batch, stack := [rootItem none], hit := none, cand := none, visits := 0 } }

/-- A traversal unit with room pulls a batch (R216): up to 32 rays, oldest first, from the first bin in drain order.
(DEDUCED, log 96.) -/
def State.pull? (s : State) (cluster asid : Nat) : Option State :=
  let part := partOfCluster cluster
  if !s.ctxRuns asid || 4 ≤ (s.batches cluster).length || Config.clusters ≤ cluster then none
  else match drainOrder (s.binInfos part asid false) with
    | [] => none
    | bin :: _ =>
      let rs := (s.binRays part asid false bin).take 32
      let s' := rs.foldl (fun (s' : State) r => s'.putRay (r.startWalk cluster s.ids)) s
      some ({ s' with ids := s.ids + 1 }.clearTimeout part asid false bin)

/-- `traversalPull`. -/
def execTraversalPull (cluster asid : Nat) (s : State) : Host.Outcome State Fault Refusal := .next ((s.pull? cluster asid).getD s)

/-! ## Reads (R220, R232) -/

/-- Read bytes for a walk through the treelet ways (R59, R220); a fault is the context's (R232), `va` the address that its
record gives. (DEDUCED, log 67.) -/
def State.travRead (s : State) (r : Ray) (cluster at_ n va : Nat) : Except CirqueStop (State × List Byte) :=
  let part := partOfCluster cluster
  let a : Agent := Agent.ctx r.asid
  let corr := ((s.launch? r.launch).map (·.corr)).getD 0
  let fault := fun (s : State) (f : XFault) =>
    Except.error (CirqueStop.fault (s.engineFault r.asid f (BitVec.ofNat 64 va) .travRead false part (0x9000 + cluster) corr))
  match s.engineXlate part r.asid (BitVec.ofNat 64 at_) ⟨.travRead, false, false⟩ with
  | (.ok l, s') =>
    let s' := s'.fillViews a [l] .treelet
    match s'.lineStatus a false l with
    | .ok =>
      if s'.poisonIn a l n then
        fault s' { cause := 0x23, sub := s'.poisonCode a l, level := 3, ent := BitVec.ofNat 64 l.lineLoc.pa }
      else .ok (s'.touchFor a [l] .treelet true, s'.bytesAt a l n)
    | .lost => fault s' { cause := 0x25, sub := 0, level := 3, ent := 0 }
    | .busy => .error (.wait (s'.askPeerFor false [l]))
    | _ => .error (.wait s')
  | (.fault f, s') => fault s' f
  | (.miss, s') => .error (.wait s')

/-! ## References (R223) -/

/-- What a child reference names; `bad` is malformed (R231). -/
inductive RefKind where
  | node (treelet slot : Nat)
  | tris (unit left : Nat)
  | inst (index : Nat)
  | proc (unit : Nat)
  | bad
  deriving DecidableEq, Repr

/-- Read a child reference that stands in a treelet of the top (`top`) or a bottom level. (DEDUCED, log 63.) -/
def refKind (ref : Nat) (top : Bool) (treelet ninst : Nat) : RefKind :=
  let slot := bitsAt ref 2 5
  let unit := bitsAt ref 2 6
  match ref % 4 with
  | 0 => if slot = 0 || ref / 128 ≠ 0 then .bad else .node treelet slot
  | 1 => .node (ref / 128) slot
  | 2 =>
    let left := bitsAt ref 8 4
    if top || unit < 2 || ref / 4096 ≠ 0 || 63 < unit + left then .bad else .tris unit left
  | _ => if top then (if ref / 4 < ninst then .inst (ref / 4) else .bad)
         else if unit < 2 || ref / 256 ≠ 0 then .bad else .proc unit

/-! ## Bounds (R227, R229) -/

/-- A distance, which is never negative, as a number that orders as it does: −0 and +0 are one. -/
def distKey (w : Word) : Nat := if w = 0x80000000#32 then 0 else w.toNat

/-- The bound of a walk, and whether a hit is held, which excludes it (R227, R229). -/
def Ray.bound (r : Ray) (w : RayWalk) : Word × Bool :=
  match w.hit with
  | some h => (h.t, true)
  | none => (r.w[7], r.resume && r.w[9].getLsbD 28)

/-- Whether a rounded distance lies within the bound. -/
def Ray.within (r : Ray) (w : RayWalk) (d : Word) : Bool :=
  let b := r.bound w
  if b.2 then decide (distKey d < distKey b.1) else decide (distKey d ≤ distKey b.1)

/-- Whether an exact distance lies within the bound. -/
def Ray.withinQ (r : Ray) (w : RayWalk) (t : Rat) : Bool :=
  let b := r.bound w
  match ratOf b.1 with
  | some x => if b.2 then decide (t < x) else decide (t ≤ x)
  | none => true

/-- Whether a waiting child would be visited (R226). -/
def Ray.keeps (r : Ray) (w : RayWalk) (x : WalkItem) : Bool :=
  match x.dist with
  | some d => r.within w d
  | none => true

/-! ## Box tests (R222, R226) -/

/-- The part of a line between two planes of an axis, within what is left: lower and upper end, none for unbounded. -/
def slab (acc : Option (Option Rat × Option Rat)) (o d lo hi : Rat) : Option (Option Rat × Option Rat) :=
  match acc with
  | none => none
  | some (a, b) =>
    if d = 0 then (if o < lo || hi < o then none else acc)
    else
      let x := (lo - o) / d
      let y := (hi - o) / d
      let n := if x ≤ y then x else y
      let f := if x ≤ y then y else x
      let a' := match a with
        | some v => if v < n then n else v
        | none => n
      let b' := match b with
        | some v => if f < v then f else v
        | none => f
      if b' < a' then none else some (some a', some b')

/-- Where a line with origin and direction enters and leaves a closed box. -/
def lineBox (o d lo hi : List Rat) : Option (Rat × Rat) :=
  let at_ := fun (l : List Rat) k => l.getD k 0
  match (upFrom 0 3).foldl (fun acc k => slab acc (at_ o k) (at_ d k) (at_ lo k) (at_ hi k)) (some (none, none)) with
  | some (some a, some b) => if b < a then none else some (a, b)
  | _ => none

/-- Where the segment from TMIN meets a box: the entry, raised to TMIN where the segment starts inside (R226), not above an upper end
(none: unbounded). (DEDUCED, log 65.) -/
def segBox (o d lo hi : List Rat) (tmin top : Option Rat) : Option Rat :=
  match lineBox o d lo hi, tmin with
  | some (a, b), some t0 =>
    let x := if a < t0 then t0 else a
    if b < x then none
    else match top with
      | some m => if m < x then none else some x
      | none => some x
  | _, _ => none

/-- An exact distance rounded to FP32. (DEDUCED, log 65.) -/
def rndDist (m : Mode) (t : Rat) : Word := toWord (rnd fp32 m t.num t.den)

/-- A power of two with a signed exponent. -/
def pow2 (e : Int) : Rat := if 0 ≤ e then ((2 ^ e.toNat : Nat) : Rat) else mkRat 1 (2 ^ (-e).toNat)

/-- The rounded entry distance of a child that a box test reports (R226): an exact meeting, or one within 2^-20 of the largest
box coordinate, which is a free value. How far a segment misses a box is taken axis by axis: the box grows by the tolerance on
every axis. (DESIGN CHOICE, log 66.) -/
def boxEntry (seg : List Word) (o d lo hi : List Rat) (tmin top : Option Rat) : Option Word :=
  match segBox o d lo hi tmin top with
  | some t => some (rndDist .ne t)
  | none =>
    let mag := (lo ++ hi).foldl (fun (m : Rat) x => let y := if x < 0 then -x else x; if m < y then y else m) 0
    let tol := mag * mkRat 1 (2 ^ 20)
    if (segBox o d (lo.map (· - tol)) (hi.map (· + tol)) tmin top).isSome && Config.boxSlack seg (lo ++ hi) then
      some (Config.boxSlackDist seg (lo ++ hi))
    else none

/-- Origin and direction that a visit uses: the record's, or the transformed ones of an instance (R224). -/
def Ray.frame (r : Ray) (inst : Option WalkInst) : List Word :=
  match inst with
  | some i => i.ray.toList
  | none => r.w.toList.take 6

/-- Finite words as rationals. -/
def ratsOf (ws : List Word) : List Rat := ws.map (fun x => (ratOf x).getD 0)

/-- The children of a box node that are entered, nearest first, ties to the lower number; none for a malformed reference among
them (R222, R223, R226, R231). -/
def boxChildren (r : Ray) (w : RayWalk) (x : WalkItem) (treelet ninst : Nat) (bs : List Byte) : Option (List WalkItem) :=
  let word := fun off => BitVec.ofNat 32 (fieldAt bs off 4)
  let org := [ratOf (word 0), ratOf (word 4), ratOf (word 8)]
  if org.any Option.isNone then some []
  else
    let n := org.map (·.getD 0)
    let sc := (upFrom 0 3).map (fun k => pow2 (BitVec.ofNat 8 (fieldAt bs (12 + k) 1)).toInt)
    let f := r.frame x.inst
    let o := ratsOf (f.take 3)
    let d := ratsOf (f.drop 3)
    let b := r.bound w
    let seg := f ++ [r.w[6], b.1]
    let vm := fieldAt bs 15 1
    let side := fun (c j : Nat) => (upFrom 0 3).map (fun k => n.getD k 0 + (fieldAt bs (0x10 + 6 * c + 3 * j + k) 1 : Rat) * sc.getD k 0)
    let shut := fun (c : Nat) => (upFrom 0 3).any (fun k => fieldAt bs (0x13 + 6 * c + k) 1 < fieldAt bs (0x10 + 6 * c + k) 1)
    let hits := (upFrom 0 8).filterMap (fun c =>
      if !bitAt vm c || shut c then none
      else (boxEntry seg o d (side c 0) (side c 1) (ratOf r.w[6]) (ratOf b.1)).map (fun t => (c, t)))
    let items := hits.map (fun h =>
      { dist := some h.2, ref := word (0x40 + 4 * h.1), treelet := treelet, inst := x.inst : WalkItem })
    if items.any (fun y => refKind y.ref.toNat x.inst.isNone treelet ninst == .bad) then none
    else some (sortBy (fun (a b : WalkItem) => decide (distKey (a.dist.getD 0) ≤ distKey (b.dist.getD 0))) items)

/-! ## Instances, triangles, procedural boxes (R224, R225, R227, R228) -/

/-- The ray of a walk in the space of an instance (R224). -/
def Ray.transform (r : Ray) (bs : List Byte) : Vector Word 6 :=
  let m := fun (i j : Nat) => val32 (BitVec.ofNat 32 (fieldAt bs (16 * i + 4 * j) 4))
  let row := fun (i off : Nat) => (upFrom 0 3).map (fun j => prodTerm (m i j) (val32 (r.w.toList.getD (off + j) 0)))
  Vector.ofFn (fun k =>
    if k.val < 3 then toWord (fsum fp32 (soleTerm (m k.val 3) :: row k.val 0)) else toWord (fsum fp32 (row (k.val - 3) 3)))

/-- What entering an instance gives: skipped, malformed, or its root. -/
inductive Entered where
  | skip
  | bad
  | root (x : WalkItem)

/-- Enter an instance from its record (R224, R231). (DEDUCED, log 63.) -/
def Ray.enterInst (r : Ray) (bs : List Byte) : Entered :=
  let ifl := fieldAt bs 0x3C 4
  let blas := fieldAt bs 0x30 8
  if bitAt ifl 13 then .skip
  else if blas % 4096 ≠ 0 then .bad
  else
    let t := r.transform bs
    if badWalk (t.toList ++ [r.w[6], r.w[7]]) then .skip
    else .root (rootItem (some { ray := t, blas := blas, iid := BitVec.ofNat 32 (fieldAt bs 0x38 4), sbase := bitsAt ifl 0 12, fopq := bitAt ifl 12 }))

/-- Vector difference, dot and cross products. -/
def vSub (a b : List Rat) : List Rat := (upFrom 0 3).map (fun k => a.getD k 0 - b.getD k 0)
/-- Dot product. -/
def vDot (a b : List Rat) : Rat := a.getD 0 0 * b.getD 0 0 + a.getD 1 0 * b.getD 1 0 + a.getD 2 0 * b.getD 2 0
/-- Cross product. -/
def vCross (a b : List Rat) : List Rat :=
  [a.getD 1 0 * b.getD 2 0 - a.getD 2 0 * b.getD 1 0, a.getD 2 0 * b.getD 0 0 - a.getD 0 0 * b.getD 2 0,
   a.getD 0 0 * b.getD 1 0 - a.getD 1 0 * b.getD 0 0]

/-- Where a line meets a triangle: distance and the barycentrics of its second and third vertex, exact (R227).
(DEDUCED, log 65.) -/
def lineTriangle (o d v0 v1 v2 : List Rat) : Option (Rat × Rat × Rat) :=
  let e1 := vSub v1 v0
  let e2 := vSub v2 v0
  let p := vCross d e2
  let det := vDot e1 p
  if det = 0 then none
  else
    let t := vSub o v0
    let q := vCross t e1
    let u := vDot t p / det
    let v := vDot d q / det
    if u < 0 || v < 0 || 1 < u + v then none else some (vDot e2 q / det, u, v)

/-- An exact value rounded to FP16. (DEDUCED, log 65.) -/
def rndHalf (t : Rat) : Half := BitVec.ofNat 16 (rnd fp16 .ne t.num t.den)

/-- Test a triangle record (R225, R227): the hit it makes, if it hits. -/
def Ray.triangle (r : Ray) (w : RayWalk) (i : WalkInst) (bs : List Byte) : Option Hit :=
  let word := fun off => BitVec.ofNat 32 (fieldAt bs off 4)
  let vs := (upFrom 0 9).map (fun k => ratOf (word (4 * k)))
  if vs.any Option.isNone then none
  else
    let v := vs.map (·.getD 0)
    let f := i.ray.toList
    match lineTriangle (ratsOf (f.take 3)) (ratsOf (f.drop 3)) (v.take 3) ((v.drop 3).take 3) (v.drop 6), ratOf r.w[6] with
    | some (t, u, x), some t0 =>
      let d := rndDist .ne t
      if t < t0 || !r.within w d then none
      else some { t := d, u := rndHalf u, v := rndHalf x, shid := (i.sbase + fieldAt bs 0x28 4 % 4096) % 4096, inst := i.iid,
                  prim := word 0x24 }
    | _, _ => none

/-- Test a procedural box (R225, R228, R229): the candidate that it is. (DESIGN CHOICE, log 66.) -/
def Ray.procedural (r : Ray) (w : RayWalk) (i : WalkInst) (bs : List Byte) : Option (Word × Word × Nat) :=
  let word := fun off => BitVec.ofNat 32 (fieldAt bs off 4)
  let bd := (upFrom 0 6).map (fun k => ratOf (word (4 * k)))
  let b := bd.map (·.getD 0)
  if bd.any Option.isNone || (upFrom 0 3).any (fun k => decide (b.getD (3 + k) 0 < b.getD k 0)) then none
  else
    let f := i.ray.toList
    match segBox (ratsOf (f.take 3)) (ratsOf (f.drop 3)) (b.take 3) (b.drop 3) (ratOf r.w[6]) none with
    | some t =>
      let c0 := rndDist .dn t
      let c := if distKey c0 < distKey r.w[6] then r.w[6] else c0
      let key := word 0x18
      let after := decide (distKey r.w[6] < distKey c) || (distKey c == distKey r.w[6] && decide (r.w[14].toNat < key.toNat))
      if r.withinQ w t && (!r.resume || after) then some (c, key, (i.sbase + fieldAt bs 0x1C 4 % 4096) % 4096) else none
    | none => none

/-- The lower of two candidates (R228); of two with the same order key the one met first stays. (DESIGN CHOICE, log 128.) -/
def lowerCand (old : Option (Word × Word × Nat)) (x : Word × Word × Nat) : Word × Word × Nat :=
  match old with
  | some y => if distKey x.1 < distKey y.1 || (distKey x.1 == distKey y.1 && decide (x.2.1.toNat < y.2.1.toNat)) then x else y
  | none => x

/-! ## The end of a walk (R203, R228, R231) -/

/-- The record that a walk leaves. -/
def Ray.walked (r : Ray) (w : RayWalk) (term : Bool) : Ray :=
  let put := fun (v : Vector Word 16) (shid : Nat) (hit : Bool) =>
    v.set 9 ((v[9] &&& 0xF000FFFF#32) ||| BitVec.ofNat 32 (shid * 65536) ||| (if hit then 0x10000000#32 else 0))
  let cand := match w.cand, w.hit with
    | some c, some h => if distKey h.t ≤ distKey c.1 then none else some c
    | c, _ => c
  let v := match cand, w.hit with
    | some c, _ => put ((r.w.set 6 c.1).set 14 c.2.1) c.2.2 false
    | none, some h => put ((((r.w.set 7 h.t).set 12 h.inst).set 13 h.prim).set 14 (h.v ++ h.u)) h.shid true
    | none, none => r.w
  let r := { r with w := v }
  if term then r.setTerm true else r

/-- A walk ends: its ray enters its shade bin (R231). -/
def State.walkEnd (s : State) (r : Ray) (w : RayWalk) (term : Bool) : State :=
  let s := if term then s.modCtr r.launch (fun c => { c with terms := satAdd c.terms 1 }) else s
  s.enterShade { r.walked w term with walk := none }

/-- Go on with a walk after a visit: waiting children that are no longer wanted are dropped; with none left the walk ends. -/
def State.walkOn (s : State) (r : Ray) (w : RayWalk) (term stop : Bool) : State :=
  let w := { w with stack := w.stack.dropWhile (fun x => !r.keeps w x) }
  if term || stop || w.stack.isEmpty then s.walkEnd r w term else s.putRay { r with walk := some w }

/-- Count a node visit; whether TLIM is reached (R231). (DEDUCED, log 63; DEDUCED, log 64.) -/
def RayWalk.count (w : RayWalk) (h : RayHeader) : RayWalk × Bool :=
  ({ w with visits := w.visits + 1 }, decide ((if h.tlim = 0 then 2 ^ 24 else h.tlim) ≤ w.visits + 1))

/-- Bits of w9: OPQ and FIRST (R202). (DEDUCED, log 64.) -/
def Ray.opq (r : Ray) : Bool := r.w[9].getLsbD 29
/-- FIRST (R230). -/
def Ray.first (r : Ray) : Bool := r.w[9].getLsbD 30

/-- What is left of a triangle leaf after its first triangle. -/
def restOfLeaf (x : WalkItem) (unit left : Nat) : List WalkItem :=
  if left = 0 then []
  else [{ x with dist := none, ref := BitVec.ofNat 32 (2 + 4 * (unit + 1) + 256 * (left - 1)) }]

/-- The base of the hierarchy of an item. -/
def WalkItem.base (x : WalkItem) (h : RayHeader) : Nat := (x.inst.map (·.blas)).getD h.tlas.toNat

/-- One step of a walk (R226): it takes the child at the top of its stack: a box node, one triangle, a procedural box, or the entry
of an instance. The other fields of the record do not change, and a fault leaves the step to be made again (R232).
(DEDUCED, log 63; DEDUCED, log 64.) -/
def State.visit? (s : State) (part asid slot : Nat) : Option State :=
  match s.ray? part asid slot with
  | none => none
  | some r =>
    match r.walk, s.rayHeader r with
    | some w, some h =>
      if !s.ctxOpen asid then none
      else match w.stack with
        | [] => some (s.walkEnd r w false)
        | x :: rest =>
          let w0 : RayWalk := { w with stack := rest }
          let unitVa := fun (u : Nat) => x.base h + 4096 * x.treelet + 64 * u
          let line := fun (va : Nat) => va / 128 * 128
          match refKind x.ref.toNat x.inst.isNone x.treelet h.ninst, x.inst with
          | .node t sl, _ =>
            let va := x.base h + 4096 * t + 128 * sl
            match s.travRead r w.cluster va 128 va with
            | .error e => e.settle s
            | .ok (s', bs) =>
              let c := w0.count h
              match boxChildren r w x t h.ninst bs with
              | some items => some (s'.walkOn r { c.1 with stack := items ++ rest } c.2 false)
              | none => some (s'.walkOn r c.1 true false)
          | .inst i, _ =>
            match s.travRead r w.cluster (h.inst.toNat + 64 * i) 64 (h.inst.toNat + 64 * i) with
            | .error e => e.settle s
            | .ok (s', bs) => match r.enterInst bs with
              | .skip => some (s'.walkOn r w0 false false)
              | .bad => some (s'.walkOn r w0 true false)
              | .root y => some (s'.walkOn r { w with stack := y :: rest } false false)
          | .tris u left, some i =>
            match s.travRead r w.cluster (unitVa u) 64 (line (unitVa u)) with
            | .error e => e.settle s
            | .ok (s', bs) =>
              let w1 : RayWalk := { w0 with stack := restOfLeaf x u left ++ rest }
              if r.opq && !bitAt (fieldAt bs 0x28 4) 12 && !i.fopq then some (s'.walkOn r w1 false false)
              else
                let c := w1.count h
                match r.triangle w i bs with
                | some hit => some (s'.walkOn r { c.1 with hit := some hit } c.2 r.first)
                | none => some (s'.walkOn r c.1 c.2 false)
          | .proc u, some i =>
            if r.opq then some (s.walkOn r w0 false false)
            else match s.travRead r w.cluster (unitVa u) 64 (line (unitVa u)) with
              | .error e => e.settle s
              | .ok (s', bs) =>
                let c := w0.count h
                match r.procedural w i bs with
                | some k => some (s'.walkOn r { c.1 with cand := some (lowerCand w.cand k) } c.2 r.first)
                | none => some (s'.walkOn r c.1 c.2 false)
          | _, _ => some (s.walkOn r w0 true false)
    | _, _ => none

/-- `nodeVisit`. -/
def execNodeVisit (part asid slot : Nat) (s : State) : Host.Outcome State Fault Refusal := .next ((s.visit? part asid slot).getD s)

end Sys2Proof.Machine
end

