-- ==== Sys2Proof/Machine/Texture.lean ====
section
/-! DEFINITION. Textures: descriptors, levels, sampling and results (R237 to R240, R405). -/
namespace Sys2Proof.Machine

/-! ## Descriptors (R237, R238) -/

/-- A texture descriptor. -/
structure TexDesc where
  base : DWord
  w : Nat
  h : Nat
  fmt : Nat
  levels : Nat
  addr : Nat
  filt : Nat
  bias : Word
  minl : Word
  maxl : Word

/-- A descriptor from its 32 bytes. -/
def texDescOf (bs : List Byte) : TexDesc :=
  { base := BitVec.ofNat 64 (fieldAt bs 0 8), w := fieldAt bs 8 2, h := fieldAt bs 0xA 2, fmt := fieldAt bs 0xC 1,
    levels := fieldAt bs 0xD 1, addr := fieldAt bs 0xE 1, filt := fieldAt bs 0xF 1, bias := BitVec.ofNat 32 (fieldAt bs 0x10 4),
    minl := BitVec.ofNat 32 (fieldAt bs 0x14 4), maxl := BitVec.ofNat 32 (fieldAt bs 0x18 4) }

/-- Whether a descriptor keeps its limits (R237). -/
def TexDesc.ok (d : TexDesc) : Bool :=
  d.base.toNat % 256 == 0 && 1 ≤ d.w && d.w ≤ 16384 && 1 ≤ d.h && d.h ≤ 16384 && d.fmt ≤ 5 && d.filt ≤ 2 && 1 ≤ d.levels &&
    d.levels ≤ 15 && d.levels ≤ 1 + Nat.log2 (max d.w d.h) &&
    (match ratOf d.bias, ratOf d.minl, ratOf d.maxl with
      | some _, some a, some b => decide (0 ≤ a) && decide (a ≤ b)
      | _, _, _ => false)

/-- Bytes of a texel (R238). -/
def texelBytes : Nat → Nat
  | 1 => 1
  | 3 => 8
  | 5 => 16
  | _ => 4

/-- Width of a level. -/
def TexDesc.wAt (d : TexDesc) (l : Nat) : Nat := max 1 (d.w / 2 ^ l)
/-- Height of a level. -/
def TexDesc.hAt (d : TexDesc) (l : Nat) : Nat := max 1 (d.h / 2 ^ l)

/-- Where a level starts, in bytes from BASE: each one ends at the next multiple of 256 (R238). -/
def TexDesc.levelAt (d : TexDesc) : Nat → Nat
  | 0 => 0
  | l + 1 => (d.levelAt l + d.wAt l * d.hAt l * texelBytes d.fmt + 255) / 256 * 256

/-! ## The level of detail (R239, R240) -/

/-- λ: a number or an infinity. -/
inductive Lod where
  | ninf
  | pinf
  | fin (q : Rat)

/-- λ of `tex.lod` from its word: NaN counts as 0. -/
def Lod.ofWord (w : Word) : Lod :=
  match val32 w with
  | .nan => .fin 0
  | .inf n => if n then .ninf else .pinf
  | _ => .fin ((ratOf w).getD 0)

/-- The first bits of the fraction of log2 y, for y from 1 to 2 in units of 2^-`p`. -/
def lodBits (p : Nat) : Nat → Nat → Nat → Nat
  | 0, _, acc => acc
  | n + 1, y, acc =>
    let y2 := y * y / 2 ^ p
    if 2 ^ (p + 1) ≤ y2 then lodBits p n (y2 / 2) (2 * acc + 1) else lodBits p n y2 (2 * acc)

/-- log2 of a positive rational: exact for a power of two, else to 768 bits of fraction, worked out with 1,024, the rest standing
for one half. The borders that a level is held to are rationals with at most 157 bits of fraction, which no other logarithm
meets. (DEDUCED, log 71.) -/
def log2Rat (q : Rat) : Rat :=
  let n := q.num.natAbs
  let e := exponentOf n q.den
  let one := 2 ^ 1024
  let y := if 0 ≤ e then n * one / (q.den * 2 ^ e.toNat) else n * 2 ^ (-e).toNat * one / q.den
  let exact := if 0 ≤ e then n == q.den * 2 ^ e.toNat else n * 2 ^ (-e).toNat == q.den
  if exact then (e : Rat) else (e : Rat) + mkRat (2 * (lodBits 1024 768 y 0 : Nat) + 1) (2 ^ 769)

/-- λ of `tex.q` from the quad's coordinates: those of lanes 4q, 4q + 1 and 4q + 2, for u and v (R240). (DEDUCED, log 71.) -/
def lodOf (d : TexDesc) (u v : List Word) : Lod :=
  let diff := fun (c : List Word) (k n : Nat) => match ratOf (c.getD k 0), ratOf (c.getD 0 0) with
    | some a, some b => some ((if a < b then b - a else a - b) * (n : Rat))
    | _, _ => none
  let ds := [diff u 1 d.w, diff v 1 d.h, diff u 2 d.w, diff v 2 d.h]
  if ds.any Option.isNone then .pinf
  else
    let rho := (ds.map (·.getD 0)).foldl (fun (m : Rat) x => if m < x then x else m) 0
    if rho = 0 then .ninf else .fin (log2Rat rho)

/-- A number held between two others. -/
def satRat (x lo hi : Rat) : Rat := if x < lo then lo else if hi < x then hi else x

/-- L of R239. -/
def TexDesc.level (d : TexDesc) (l : Lod) : Rat :=
  let lo := (ratOf d.minl).getD 0
  let hi := (ratOf d.maxl).getD 0
  let x := match l with
    | .ninf => lo
    | .pinf => hi
    | .fin q => satRat (q + (ratOf d.bias).getD 0) lo hi
  satRat x 0 ((d.levels - 1 : Nat) : Rat)

/-! ## Texels (R239) -/

/-- An index mapped by its addressing mode; none outside a zero border. -/
def texIndex (mode : Nat) (i : Int) (n : Nat) : Option Nat :=
  match mode with
  | 0 => some (i % (n : Int)).toNat
  | 1 => some (if i < 0 then 0 else min i.toNat (n - 1))
  | 2 =>
    let j := (i % (2 * n : Int)).toNat
    some (if j < n then j else 2 * n - 1 - j)
  | _ => if 0 ≤ i ∧ i < n then some i.toNat else none

/-- The indices and weights, in units of 1/256, that one axis reads of n texels. -/
def axisTaps (linear : Bool) (c : Rat) (n : Nat) : List (Int × Nat) :=
  let x := c * (n : Rat)
  if linear then
    let y := x - mkRat 1 2
    let f := ((y - (y.floor : Rat)) * 256).floor.toNat
    [(y.floor, 256 - f), (y.floor + 1, f)]
  else [(x.floor, 256)]

/-- The texels of a level with their weights; `wl` weighs the level, in units of 1/256. -/
def TexDesc.taps (d : TexDesc) (l wl : Nat) (u v : Rat) : List (Nat × DWord) :=
  let linear := d.filt != 0
  (axisTaps linear v (d.hAt l)).flatMap (fun y => (axisTaps linear u (d.wAt l)).filterMap (fun x =>
    match texIndex (d.addr % 4) x.1 (d.wAt l), texIndex (bitsAt d.addr 2 2) y.1 (d.hAt l) with
    | some i, some j =>
      let weight := x.2 * y.2 * wl
      if weight = 0 then none
      else some (weight, d.base + BitVec.ofNat 64 (d.levelAt l + (j * d.wAt l + i) * texelBytes d.fmt))
    | _, _ => none))

/-- What one lane samples (R239): texels with weights in units of 2^-24; none gives the canonical NaN. -/
def TexDesc.plan (d : TexDesc) (u v : Word) (lod : Lod) : Option (List (Nat × DWord)) :=
  match ratOf u, ratOf v with
  | some x, some y =>
    if !d.ok then none
    else
      let l := d.level lod
      if d.filt = 2 then
        let l0 := l.floor.toNat
        let f := ((l - (l.floor : Rat)) * 256).floor.toNat
        some (d.taps l0 (256 - f) x y ++ d.taps (min (l0 + 1) (d.levels - 1)) f x y)
      else some (d.taps (rndInt .ne l.num l.den).toNat 256 x y)
  | _, _ => none

/-! ## Issue (R405) -/

/-- What the descriptor's read at issue comes to. -/
inductive DescRead where
  | ok (l : Loc) (bs : List Byte)
  | res (r : Res)
  /-- the line must be had first: the peer is asked, or the view line is decoded -/
  | again (s : State)

/-- Read the descriptor as a plain load through the L1 (R237, R405). (DEDUCED, log 71.) -/
def View.readDesc (w : View) (va : DWord) : DescRead :=
  let u : Use := ⟨.load, w.g.hm, false⟩
  let fault := fun (f : XFault) => DescRead.res (.fault f va .load w.act)
  match w.xlate va u with
  | .fault f => fault f
  | .miss => .res (.walk va)
  | .ok l =>
    let o : Op := { id := w.s.ids, gk := w.k, slot := w.n, seen := w.g.seen, body := .fence .core }
    let a := Agent.ctx w.b.asid
    if w.s.ops.any (fun x => x.gk == w.k && x.body.holdsMemory) then .res .hold
    else
      let hit := usesL1 l .normal .plain && (upFrom 0 32).all (fun k => w.s.mem.l1Hit w.g.core (l.add k))
      match if hit then LineStatus.ok else w.s.lineStatus a false l with
      | .ok =>
        if !hit && w.s.poisonIn a l 32 then
          fault { cause := 0x23, sub := w.s.poisonCode a l, level := 3, ent := BitVec.ofNat 64 l.lineLoc.pa }
        else .ok l ((upFrom 0 32).map (fun k => w.s.loadByte o a .normal .plain (l.add k)))
      | .lost => fault { cause := 0x25, sub := 0, level := 3, ent := 0 }
      | .busy => .again ((w.s.askOnce false [l]).getD w.s)
      | .viewMiss => .again ((w.s.viewFill? a (lineOf l.pa) .normal).getD w.s)
      | _ => .res .hold

/-- The places of all texels that the lanes read, translated before any effect (R405, R39). -/
def View.texels (w : View) (plans : List (Nat × Option (List (Nat × DWord)))) : Sum Res (List LaneAcc) :=
  let as := plans.flatMap (fun p => ((p.2.getD []).map (fun x => (p.1, x.2))).eraseDups)
  w.xlateAll ⟨.load, w.g.hm, false⟩ as

/-- Issue a texture instruction; `q` computes λ from the quad. (DEDUCED, log 71.) -/
def State.texIssue (s : State) (e : Bool) (t b : Opnd) (q : Bool) : State :=
  let f : Form := { len := 4, e := e, srcs := opndRun t (if q then 2 else 3) ++ opndRun b 2, dsts := opndRun t 4, kind := .ray, access := true }
  s.through f (fun _ => !opndRunOk t 4 || !opndRunOk b 2) noCheck (fun w =>
    if w.act = 0 then w.s.settle w f (.done w.doneNone)
    else if 63 ≤ w.g.ldCnt then w.s.settle w f (.wait (.count 0))
    else
      let va := w.param64 b 0
      if va.toNat % 32 ≠ 0 then w.s.settle w f (.raise { code := 0x1C, sub := 0, tval := va.setWidth 32, slot := w.n })
      else match w.readDesc va with
        | .res r => w.s.settle w f r
        | .again s => s
        | .ok dl bs =>
          let d := texDescOf bs
          let val := fun (k : Nat) (i : Fin 32) => match opndPlus t k with
            | some y => w.lane y i
            | none => 0
          let quad := fun (k : Nat) (i : Fin 32) => (upFrom 0 3).map (fun j =>
            if h : i.val / 4 * 4 + j < 32 then val k ⟨i.val / 4 * 4 + j, h⟩ else 0)
          let plans := w.act.lanes.map (fun i =>
            (i.val, d.plan (val 0 i) (val 1 i) (if q then lodOf d (quad 0 i) (quad 1 i) else Lod.ofWord (val 2 i))))
          match w.texels plans with
          | .inl r => w.s.settle w f r
          | .inr accs => match w.claimStop .load accs with
          | some r => w.s.settle w f r
          | none =>
            match w.claims w.s accs with
            | none => w.s.settle w f (.raise (.plain 0x1B w.n))
            | some _ =>
              let locs := (accs.map (fun x => (x.va, x.loc))).eraseDups
              let fill := fun (s : State) => if usesL1 dl .normal .plain && (upFrom 0 32).all (fun k => s.mem.l1Hit w.g.core (dl.add k)) then s
                else s.fillFor (Agent.ctx w.b.asid) w.g.core [dl] 32 .normal .plain
              let post := fun (s : State) => ((w.claims (fill s) accs).getD s).addOp w.k w.n (.tex d.fmt plans t locs)
              w.s.settle w f (.done
                { g := { w.g with ldCnt := w.g.ldCnt + 1 }.markOp (regsOf w.g.hm (opndRun t 4)) .var w.s.ids false, post := post }))

/-- `tex.lod` (R405). -/
def execTexLod (e : Bool) (t b : Opnd) (s : State) : Host.Outcome State Fault Refusal := .next (s.texIssue e t b false)

/-- `tex.q` (R405, R240). -/
def execTexQ (e : Bool) (t b : Opnd) (s : State) : Host.Outcome State Fault Refusal := .next (s.texIssue e t b true)

/-! ## Results (R238, R239) -/

/-- A channel of a texel: an integer over 255, or a floating value. -/
inductive Channel where
  | un (k : Nat)
  | fl (v : FVal)
  deriving DecidableEq

/-- A channel (0 red to 3 alpha) of a texel's bytes (R238). -/
def channelOf (fmt : Nat) (bs : List Byte) (c : Nat) : Channel :=
  let none_ : Channel := if c = 3 then .un 255 else .un 0
  let half := fun k => Channel.fl (valOf fp16 (fieldAt bs (2 * k) 2))
  let full := fun k => Channel.fl (valOf fp32 (fieldAt bs (4 * k) 4))
  match fmt with
  | 0 => .un (fieldAt bs c 1)
  | 1 => if c = 0 then .un (fieldAt bs 0 1) else none_
  | 2 => if c < 2 then half c else none_
  | 3 => half c
  | 4 => if c = 0 then full 0 else none_
  | _ => full c

/-- The weighted sum of a channel, rounded once (R239); one of zeros alone is +0. (DESIGN CHOICE, log 129.) -/
def blend (cs : List (Nat × Channel)) : Word :=
  let has := fun (v : FVal) => cs.any (fun x => x.2 == .fl v)
  if has .nan || (has (.inf true) && has (.inf false)) then toWord fp32.canon
  else if has (.inf true) then toWord (fp32.signed true fp32.inf)
  else if has (.inf false) then toWord fp32.inf
  else
    let num := (cs.map (fun x => match x.2 with
      | .un k => (x.1 * k * one149 : Int)
      | .fl v => (x.1 * 255 : Int) * v.num)).sum
    toWord (rnd fp32 .ne num (2 ^ 24 * 255 * one149))

/-- The texel reads of a texture instruction return (R378, R405): its four channels are written, and the load count falls. -/
def State.texDone? (s : State) (o : Op) : Option State :=
  match o.body with
  | .tex fmt plans t locs =>
    let a := s.agentFor o.gk false
    let core := s.coreOf o.gk
    let n := texelBytes fmt
    let ls := locs.map (·.2)
    let miss := ls.filter (fun l => !(usesL1 l .normal .plain && (upFrom 0 n).all (fun k => s.mem.l1Hit core (l.add k))))
    let quit := fun (s : State) => ((s.unland o).lower o.gk Group.ldDone).dropOp o.id
    if (s.before o).any (fun x => x.body.holdsMemory) then none
    else match s.statusOf a false miss with
      | .owned => none
      | .viewMiss => none
      | .busy => s.askOnce false miss
      | .lost => some (quit (s.takeLinkDown o.gk o.slot))
      | .ok =>
        match miss.find? (fun l => s.poisonIn a l n) with
        | some l =>
          let bad := fun (va : DWord) => locs.any (fun x => x.1 == va && miss.contains x.2 && s.poisonIn a x.2 n)
          let lanes := laneMask ((plans.filter (fun p => (p.2.getD []).any (fun x => bad x.2))).map (·.1))
          some (quit (s.takePoison o.gk o.slot a l lanes))
        | none =>
          let bytes := fun (va : DWord) => match locs.find? (fun x => x.1 == va) with
            | some x => (upFrom 0 n).map (fun k => s.loadByte o a .normal .plain (x.2.add k))
            | none => []
          let vals := plans.map (fun p => (p.1, (upFrom 0 4).map (fun c => match p.2 with
            | some ts => blend (ts.map (fun x => (x.1, channelOf fmt (bytes x.2) c)))
            | none => toWord fp32.canon)))
          let ws := match s.group? o.gk with
            | some g => g.runFor o t 4 vals
            | none => []
          some (((s.fillFor a core miss n .normal .plain).observe o).endLoad o ws)
  | _ => none

/-- `textureResult`. -/
def execTextureResult (op : Nat) (s : State) : Host.Outcome State Fault Refusal :=
  .next (((s.op? op).bind s.texDone?).getD s)

end Sys2Proof.Machine
end

