-- ==== Sys2Proof/Machine/Distribute.lean ====
section
/-! DEFINITION. The distributor: the order in which it serves work (R434), the placement of blocks and gangs (R435, R436, R217),
ray groups (R209, R219), eviction and restoring (R437, R460 to R463). -/
namespace Sys2Proof.Machine

/-! ## Blocks of launches -/

/-- Blocks of a launch (R180). -/
def Desc.blocks (d : Desc) : Nat := d.gx * d.gy * d.gz

/-- Whether a launch has blocks left to place. -/
def State.hasBlocks (s : State) (l : Launch) : Bool :=
  l.st == .started && l.nextBlock < l.desc.blocks && s.ctxOpen l.asid

/-- Whether a shade bin of a context in a partition could form a group now: it goes before ray-generation blocks (R217). -/
def State.formable (s : State) (part asid : Nat) : Bool := (s.formPlan? part asid).isSome

/-- The reservation of each group of a launch's blocks (R217). -/
def Desc.rsv (d : Desc) : Nat := if d.kind = 0 then 0 else 32 * d.fanout

/-- Whether a partition admits a ray-generation block (R217). -/
def State.admits (s : State) (l : Launch) (part : Nat) : Bool :=
  l.desc.kind == 0 || (l.desc.ng * l.desc.rsv ≤ s.poolFree part l.asid && !s.formable part l.asid)

/-- Whether a block of a launch can go to a cluster, its first core given. -/
def State.takes (s : State) (l : Launch) (cluster c0 : Nat) : Bool :=
  !s.gangShut l.prio l.id cluster && s.admits l (partOfCluster cluster) && s.fitsAt l.desc.need cluster c0

/-- Put the next block of a launch on a cluster (R182, R184, R435). -/
def State.putNext (s : State) (l : Launch) (cluster c0 : Nat) : State :=
  let gs := s.gridGroups l.desc cluster c0 l.nextBlock l.desc.rsv
  let b := Block.start s.ids l l.nextBlock cluster l.desc.need gs
  let s := { s with ids := s.ids + 1, lastQueue := l.q }.putBlock b l.desc.ttrap
  let s := s.modLaunch l.id (fun l => { l with nextBlock := l.nextBlock + 1 })
  let cores := gs.map (·.core)
  let s := s.l1Drop (fun x => cores.contains x.core)
  s.dtNote l.asid .processor (placeEntry l.lseq l.nextBlock cluster c0)

/-- What placing the next block of a launch comes to. -/
inductive Placing where
  | placed (s : State)
  | full
  | mismatch

/-- Place the next block of a launch: on the first cluster in rotation that takes it, or where the trace says (R435, R479). -/
def State.placeOne (s : State) (id : Nat) : Placing :=
  match s.launch? id with
  | none => .full
  | some l =>
    if !s.hasBlocks l then .full
    else
      let mine := fun (e : List Byte) => fieldAt e 0 1 == 2 && fieldAt e 8 4 == l.lseq && fieldAt e 12 4 == l.nextBlock % 2 ^ 32
      match s.dtAsk l.asid .processor mine with
      | .free =>
        let part := (s.ctx? l.asid).bind Ctx.confined
        match (s.rotation part).find? (fun c => s.takes l c (s.bestCore c)) with
        | some c => .placed (s.putNext l c (s.bestCore c))
        | none => .full
      | .bound e =>
        if s.takes l (fieldAt e 16 1) (fieldAt e 17 1) then .placed (s.putNext l (fieldAt e 16 1) (fieldAt e 17 1)) else .full
      | .wait => .full
      | .mismatch => .mismatch

/-- Place some blocks of a launch in one sequence, or none (R436). -/
def State.placeAll (s : State) (id : Nat) : Nat → Placing
  | 0 => .placed s
  | n + 1 => match s.placeOne id with
    | .placed s' => s'.placeAll id n
    | r => r

/-- Blocks that are placed together next (R180, R436): the rest of the gang that the next block begins, or one. -/
def Launch.together (l : Launch) : Nat := if l.desc.gang = 0 then 1 else min l.desc.gang (l.desc.blocks - l.nextBlock)

/-- Place the next block or gang of a launch. -/
def State.placing (s : State) (l : Launch) : Placing := s.placeAll l.id l.together

/-! ## Restoring (R463) -/

/-- The numbers of the groups of a block that have not ended. -/
def Block.liveIdx (b : Block) : List Nat := (b.groups.filter (fun g => !g.ended)).map (·.index)

/-- What a saved block needs of a cluster (R184). -/
def Block.need (b : Block) : Need :=
  ⟨b.liveIdx, (b.groups.map (·.vregs)).foldl max 0, b.alloc, b.tiles, b.mx⟩

/-- The first core of a block on its cluster (R435). -/
def Block.c0 (b : Block) : Nat :=
  match b.groups.head? with
  | some g => (g.core % 8 + 8 - g.index % 8) % 8
  | none => 0

/-- The cluster of its partition that a saved block goes to, and its first core there (R463, R435); in a reproducible context those
it was placed on, which are bound (R475). (DEDUCED, log 74.) -/
def State.restoreTo (s : State) (b : Block) : Option (Nat × Nat) :=
  let prio := ((s.launchOf b).map (·.prio)).getD 0
  let ok := fun (c c0 : Nat) => !s.gangBars prio c && s.fitsAt b.need c c0
  if s.isRepro b.asid then (if ok b.cluster b.c0 then some (b.cluster, b.c0) else none)
  else ((s.rotation (some (partOfCluster b.cluster))).find? (fun c => ok c (s.bestCore c))).map (fun c => (c, s.bestCore c))

/-- Saved blocks whose wake has been latched, in contexts that run (R463). (DEDUCED, log 72.) -/
def State.toRestore (s : State) : List Block := s.blocks.filter (fun b => b.st == .saved && b.woken && s.ctxOpen b.asid)

/-! ## The order of service (R434) -/

/-- The rank of a piece of work: its class, then higher priority, then round robin across queues, then the older launch. -/
structure Rank where
  cls : Nat
  prio : Nat
  rr : Nat
  id : Nat
  deriving DecidableEq, Repr

/-- Whether one piece of work is served before another. -/
def Rank.before (a b : Rank) : Bool :=
  if a.cls ≠ b.cls then a.cls < b.cls
  else if a.prio ≠ b.prio then b.prio < a.prio
  else if a.rr ≠ b.rr then a.rr < b.rr
  else a.id < b.id

/-- The rank of work of a launch. -/
def State.rankOf (s : State) (cls : Nat) (l : Launch) : Rank :=
  { cls := cls, prio := l.prio, rr := (l.q + 4096 - (s.lastQueue + 1) % 4096) % 4096, id := l.id }

/-- The rank of ray groups of a launch, which take their turn with the other work of its queue (R434). -/
def State.formRank (s : State) (l : Launch) : Rank := s.rankOf 2 l

/-- The class of a launch's blocks (R434). -/
def Launch.cls (l : Launch) : Nat := if l.desc.kind = 0 then 3 else 2

/-- Whether placing can go ahead. -/
def Placing.isPlaced : Placing → Bool
  | .placed _ => true
  | _ => false

/-- The ranks of the work that could be placed now. -/
def State.readyRanks (s : State) : List Rank :=
  (s.toRestore.filterMap (fun b => match s.launchOf b with
    | some l => if (s.restoreTo b).isSome then some (s.rankOf 1 l) else none
    | none => none)) ++
  (s.ctxs.flatMap (fun c => if s.rays.any (fun r => r.asid == c.asid) then
      (upFrom 0 Config.partitions).filterMap (fun p => (s.formPlan? p c.asid).map (fun x => s.formRank x.l)) else [])) ++
  (s.launches.filterMap (fun l => if s.hasBlocks l && (s.placing l).isPlaced then some (s.rankOf l.cls l) else none))

/-- Whether a piece of work is served now: nothing that could be placed goes before it. -/
def State.serves (s : State) (r : Rank) : Bool := s.readyRanks.all (fun x => !x.before r)

/-! ## The events -/

/-- Place the next block or gang of a launch (R434 to R436); a gang that does not fit becomes the waiting gang of its
priority. -/
def State.blockPlace? (s : State) (id : Nat) : Option State :=
  match s.launch? id with
  | none => none
  | some l =>
    if !s.hasBlocks l then none
    else match s.placing l with
      | .placed s' => if s.serves (s.rankOf l.cls l) then some { s' with gangs := s'.gangs.filter (fun g => g.1 != id) } else none
      | .mismatch => some (s.dtMismatch l.asid .processor 0xC000 (some l))
      | .full =>
        if l.desc.gang = 0 || s.gangs.any (fun g => g.2 == l.prio) then none
        else some { s with gangs := s.gangs ++ [(id, l.prio)] }

/-- `blockPlace`. -/
def execBlockPlace (l : Nat) (s : State) : Host.Outcome State Fault Refusal := .next ((s.blockPlace? l).getD s)

/-- A wave former forms a group (R209, R215, R217). -/
def State.waveForm? (s : State) (part asid : Nat) : Option State :=
  match s.formPlan? part asid with
  | some p => if s.serves (s.formRank p.l) then some (s.formGroup part asid p) else none
  | none =>
    if s.ctxOpen asid && (s.dtAsk asid (.formation part) (s.isFormEntry part asid)) == .mismatch &&
        (s.raysOf part asid).any (fun r => (r.binOf true).isSome) then
      some (s.dtMismatch asid (.formation part) (0xA000 + part)
        (s.launches.find? (fun l => l.asid == asid && l.hdr.isSome && l.st == .started)))
    else none

/-- `waveForm`. -/
def execWaveForm (part asid : Nat) (s : State) : Host.Outcome State Fault Refusal := .next ((s.waveForm? part asid).getD s)

/-- A wave former that starves forms a group with the reservation that is free (R219). -/
def State.waveStarve? (s : State) (part asid : Nat) : Option State :=
  match s.starvePlan? part asid with
  | some p => if s.serves (s.formRank p.l) then some (s.formGroup part asid p) else none
  | none => none

/-- `waveFormerStarvation`. -/
def execWaveFormerStarvation (part asid : Nat) (s : State) : Host.Outcome State Fault Refusal :=
  .next ((s.waveStarve? part asid).getD s)

/-! ## Eviction (R437, R460, R461) -/

/-- Whether a group stands still at blocking points alone (R460). -/
def State.atBlocking (s : State) (g : Group) : Bool :=
  g.ended || (!g.hm && !g.stopped && [g.slot0, g.slot1].all (fun x => !x.st.live || (x.st == .wait && (s.wakeCond g x).isSome)))

/-- Whether a block's sequencer is Idle, or it has none (R268). -/
def State.seqIdle (s : State) (b : Block) : Bool :=
  match s.seqOfBlock b.serial with
  | some x => x.st == .idle
  | none => true

/-- The blocks of a context saved in the region of a cluster. -/
def State.savedAt (s : State) (asid cluster : Nat) : List Block :=
  s.blocks.filter (fun b => b.asid == asid && b.cluster == cluster && (b.st == .saved || b.st == .evicting))

/-- The lowest offset of a cluster's image at which a local store fits (R461); offsets are those where another ends, or 0. -/
def State.imageFor (s : State) (b : Block) : Option Nat :=
  let used := s.savedAt b.asid b.cluster
  let ok := fun (o : Nat) => o + b.alloc ≤ Config.localStoreBytes && used.all (fun x => x.image + x.alloc ≤ o || o + b.alloc ≤ x.image)
  ((sortBy (fun (a b : Nat) => decide (a ≤ b)) (0 :: used.map (fun x => x.image + x.alloc))).find? ok)

/-- The lowest free block record of a cluster's region (R461). -/
def State.recordFor (s : State) (b : Block) : Option Nat :=
  (List.range 32).find? (fun r => !(s.savedAt b.asid b.cluster).any (fun x => x.record == r))

/-- Whether the save slots of a block's groups are free (R461). -/
def State.slotsFree (s : State) (b : Block) : Bool :=
  b.groups.all (fun g => g.ended || !s.blocks.any (fun x => x.asid == b.asid && x.st == .saved &&
    x.groups.any (fun h => !h.ended && h.core == g.core && h.res == g.res)))

/-- Whether a block may be evicted (R437, R460). -/
def State.evictable (s : State) (b : Block) : Bool :=
  b.st == .resident && ((s.ctx? b.asid).map (fun c => c.evict && c.halt == .running)).getD false && b.groups.all s.atBlocking &&
    s.seqIdle b && !s.copyNames b.serial && s.slotsFree b && (s.imageFor b).isSome && (s.recordFor b).isSome

/-- Whether a launch's next block fits nowhere, and would fit on the cluster of a block of lower priority without it (R437). -/
def State.wants (s : State) (l : Launch) (b : Block) : Bool :=
  let p := ((s.launchOf b).map (·.prio)).getD 0
  let gone := { s with blocks := s.blocks.filter (fun x => x.serial != b.serial) }
  s.hasBlocks l && p < l.prio && !(s.placing l).isPlaced && s.mayUse l.id b.cluster && gone.takes l b.cluster (gone.bestCore b.cluster)

/-- Begin to evict a block (R437): its groups stay where they wait while their work drains. (DEDUCED, log 72.) -/
def State.evict? (s : State) (serial : Nat) : Option State :=
  match s.block? serial with
  | none => none
  | some b =>
    match s.imageFor b, s.recordFor b with
    | some i, some r =>
      if s.evictable b && s.launches.any (fun l => s.wants l b) then
        some (s.modBlock serial (fun b => { b with st := .evicting, woken := false, image := i, record := r }))
      else none
    | _, _ => none

/-- `blockEvict`. -/
def execBlockEvict (blk : Nat) (s : State) : Host.Outcome State Fault Refusal := .next ((s.evict? blk).getD s)

/-- Work of a block that a save waits for (R463, and R143: a save is a die-scope release): its stores, appends and copies not yet
accepted, its results but for those of peer or host kind, and its transactions of the slice logic, a pop that has found
nothing apart. -/
def State.draining (s : State) (b : Block) : Bool :=
  s.cmds.any (fun c => c.gk.block == b.serial && !c.accepted) ||
  b.groups.any (fun g => !s.observedDone ⟨b.serial, g.index⟩ g.seen) ||
  s.ops.any (fun o => o.gk.block == b.serial && (match o.body with
    | .store .. => true
    | .stl .. => true
    | .ldl .. => true
    | .atoml .. => true
    | .binp .. => true
    | .slice (.pop ..) x => x.started
    | .slice (.push ..) _ => true
    | .slice (.fres ..) _ => true
    | .slice _ x => x.started
    | .load accs _ _ _ _ _ _ => !farAcc accs
    | .atomic ls _ ret _ _ _ _ => !ret || !ls.any (fun x => x.loc.kind == .peer || x.loc.kind == .hostCoh)
    | .regs .. => true
    | .tex _ _ _ ls => !ls.any (fun x => x.2.kind == .peer || x.2.kind == .hostCoh || x.2.kind == .hostUnc)
    | .fence _ => true
    | _ => false))

/-- Bytes of a block record (R461), whose layout is the device's own. (DESIGN CHOICE, log 73.) -/
def blockRecord (b : Block) : List Byte := (List.range 10240).map (fun i => Config.privateByte b.serial i)

/-- A block's sequencer leaves its cluster with it: a number from 4 on marks it as unbound. (DEDUCED, log 74.) -/
def State.unbindSeq (s : State) (b : Block) : State :=
  { s with seqs := s.seqs.map (fun (x : Sequencer) => if x.blk = b.serial then { x with key := ⟨b.cluster, 4 + b.serial⟩ } else x) }

/-- Save a block (R461 to R463), unless its context halts (R451): the slots of its groups, its record and its local store are written, and its residencies are
released. Pops that wait keep watching TAIL. (DESIGN CHOICE, log 73.) -/
def State.save? (s : State) (serial : Nat) : Option State :=
  match s.block? serial with
  | none => none
  | some b =>
    match s.ctx? b.asid with
    | none => none
    | some c =>
      if b.st != .evicting || c.halt != .running || s.draining b then none
      else
        let corr := s.corrOfBlock b
        let s := (b.groups.filter (fun g => !g.ended)).foldl (fun s g => s.saveGroup g c.save corr c.repro) s
        let region := c.save + 452984832 + 589824 * b.cluster
        let s := s.postBytes ⟨.device, region + b.image⟩ (b.loc.read 0 b.alloc)
        let s := s.postBytes ⟨.device, region + 262144 + 10240 * b.record⟩ (blockRecord b)
        let s := { s with traces := s.traces.filter (fun t => t.gk.block != serial), runs := s.runs.filter (fun r => r.gk.block != serial) }
        some ((s.unbindSeq b).modBlock serial (fun b => { b with st := .saved, seq := none }))

/-- `evictSaveDone`. -/
def execEvictSaveDone (blk : Nat) (s : State) : Host.Outcome State Fault Refusal := .next ((s.save? blk).getD s)

/-- The groups of a block on the cores of their new cluster. -/
def State.moveGroups (s : State) (b : Block) (cluster c0 : Nat) : List Group :=
  b.groups.map (fun g =>
    if g.ended then g
    else
      let core := 8 * cluster + (c0 + g.index) % 8
      let before := (b.liveIdx.filter (fun h => decide (h < g.index) && (c0 + h) % 8 == (c0 + g.index) % 8)).length
      let free := (List.range 16).filter (fun r => !(s.residents core).any (fun x => x.res == r))
      { g with core := core, res := free.getD before 0 })

/-- A restored slot that waited at a pop issues it again (R463): the pop's token is no longer pending. (DEDUCED, log 74.) -/
def Group.retryPops (g : Group) : Group :=
  let g := ([g.slot0, g.slot1].filterMap (fun x => match x.wait with
    | some (.tqPop id) => some id
    | _ => none)).foldl Group.unpend g
  g.wakeIf (fun r => match r with
  | .tqPop _ => true
  | _ => false)

/-- The pops of a block that wait. (DEDUCED, log 74.) -/
def State.dropPops (s : State) (serial : Nat) : State :=
  { s with ops := s.ops.filter (fun o => !(o.gk.block == serial && (match o.body with
    | .slice (.pop ..) x => !x.started
    | _ => false))) }

/-- Restore a block (R463): on a cluster of its partition; its slots resume their waits, and those whose conditions hold go on.
(DESIGN CHOICE, log 73.) -/
def State.restore? (s : State) (serial : Nat) : Option State :=
  match s.block? serial with
  | none => none
  | some b =>
    match s.launchOf b, s.restoreTo b with
    | some l, some (cluster, c0) =>
      if !(s.toRestore.any (fun x => x.serial == serial)) || !s.serves (s.rankOf 1 l) then none
      else
        let idx := s.freeSeq cluster
        let gs := (s.moveGroups b cluster c0).map Group.retryPops
        let seqs := s.seqs.map (fun (x : Sequencer) => if x.blk = serial then { x with key := ⟨cluster, idx⟩ } else x)
        let b' := { b with st := .resident, woken := false, cluster := cluster, groups := gs, seq := if b.mx then some idx else none }
        let s := { s.dropPops serial with seqs := seqs, lastCluster := cluster, lastQueue := l.q }.modBlock serial (fun _ => b')
        let cores := (gs.filter (fun g => !g.ended)).map (·.core)
        let s := (s.l1Drop (fun x => cores.contains x.core)).enrol b'
        let s := gs.foldl (fun (s : State) g => if g.ended then s else s.wakeGroup ⟨serial, g.index⟩) s
        some (s.stageWake serial)
    | _, _ => none

/-- `blockRestore`. -/
def execBlockRestore (blk : Nat) (s : State) : Host.Outcome State Fault Refusal := .next ((s.restore? blk).getD s)

end Sys2Proof.Machine
end

