-- ==== Sys2Proof/Machine/Matrix.lean ====
section
/-! DEFINITION. The matrix engine: the sequencer and its stream words (R243 to R248, R415 to R417), k-slices (R242, R249 to
R255), the Talus (R256 to R258), and the group-side matrix instructions (R407 to R414). -/
namespace Sys2Proof.Machine

/-! ## Modes (R242, R250, R254) -/

/-- Sparsity of a mode: the compressed elements per 32 values of k, none for a dense mode. -/
def MmaMode.sparse : MmaMode → Option Nat
  | .f16sp16 => some 16
  | .bf16sp16 => some 16
  | .s8sp16 => some 16
  | .s8sp8 => some 8
  | .s4sp8 => some 8
  | _ => none

/-- Bits of an element (R249). -/
def MmaMode.bits : MmaMode → Nat
  | .s8 => 8
  | .u8 => 8
  | .c8 => 8
  | .s8sp16 => 8
  | .s8sp8 => 8
  | .s4 => 4
  | .s4sp8 => 4
  | _ => 16

/-- The kind of tile a mode accumulates into (R244). -/
def MmaMode.kind : MmaMode → TileKind
  | .s8 => .s8
  | .s8sp16 => .s8
  | .s8sp8 => .s8
  | .u8 => .u8
  | .c8 => .c8
  | .s4 => .s4
  | .s4sp8 => .s4
  | _ => .fp

/-- Elements of one register that one row holds: kpr of R249. -/
def MmaMode.kpr (m : MmaMode) : Nat := 16 / m.bits

/-- Metadata registers (R250): one for each 32 values of k. -/
def MmaMode.metaRegs (m : MmaMode) : Nat :=
  match m.sparse with
  | some n => 16 * m.kpr / n
  | none => 0

/-- B registers (R250). -/
def MmaMode.bRegs (m : MmaMode) : Nat :=
  match m.sparse with
  | some n => 16 * (32 / n)
  | none => 16

/-- The width of a partial (R254). -/
def TileKind.width : TileKind → Nat
  | .s4 => 12
  | .s8 => 20
  | .u8 => 21
  | .c8 => 28
  | _ => 0

/-- LO of a partial (R254). -/
def TileKind.lo : TileKind → Int
  | .s4 => -2047
  | .s8 => -524287
  | .c8 => -134217727
  | _ => 0

/-- HI of a partial (R254). -/
def TileKind.hi : TileKind → Int
  | .s4 => 2048
  | .s8 => 524288
  | .u8 => 2097151
  | .c8 => 134217728
  | _ => 0

/-! ## Fragments (R249, R250) -/

/-- The 16 bits that a register holds for a row or column. -/
def Group.fragBits (g : Group) (reg row : Nat) : Nat :=
  (g.vlane reg ⟨row / 2 % 32, Nat.mod_lt _ (by decide)⟩).toNat / 2 ^ (16 * (row % 2)) % 65536

/-- Element `k` of a row or column of a fragment that starts at a register. -/
def Group.frag (g : Group) (m : MmaMode) (base row k : Nat) : Nat :=
  g.fragBits (base + k / m.kpr) row / 2 ^ (m.bits * (k % m.kpr)) % 2 ^ m.bits

/-- The B row of A element `c` of a row (R250). -/
def MmaMode.bRow (m : MmaMode) (g : Group) (base row c : Nat) : Nat :=
  match m.sparse with
  | none => c
  | some n =>
    let md := g.fragBits (base + 16 + c / n) row
    let step := 32 / n
    32 * (c / n) + step * (c % n) + md / 2 ^ (c % n * (step / 2)) % step

/-- An element of an FP mode. -/
def MmaMode.fp (m : MmaMode) (x : Nat) : FVal :=
  match m with
  | .bf16 => valOf Machine.bf16 x
  | .bf16sp16 => valOf Machine.bf16 x
  | _ => valOf fp16 x

/-- An element of an integer mode (R249, R253). -/
def MmaMode.int (m : MmaMode) (t : CTable) (x : Nat) : Int :=
  match m with
  | .u8 => x
  | .c8 => c8Inv12 t (BitVec.ofNat 8 x)
  | _ => (BitVec.ofNat m.bits x).toInt

/-- What a step reads: its mode, its groups, its fields, and the tables of its operands. -/
structure SliceIn where
  mode : MmaMode
  ga : Group
  gb : Group
  m : MmaFields
  ta : CTable
  tb : CTable

/-- The A element and the B element of product `c` of an element of the result (R253). (DEDUCED, log 100.) -/
def SliceIn.factors (x : SliceIn) (row col c : Nat) : Nat × Nat :=
  let k := x.mode.bRow x.ga x.m.va.val row c
  (x.ga.frag x.mode x.m.va.val row c, x.gb.frag x.mode (2 * x.m.bhalf.val) col k)

/-- The products of a k-slice (R242). -/
def SliceIn.range (x : SliceIn) (j : Nat) : List Nat := upFrom (x.mode.kpr * j) x.mode.kpr

/-- A value that is zero (R251). -/
def FVal.isZero : FVal → Bool
  | .fin _ m => m == 0
  | _ => false

/-- Whether all lanes of a V register are 0: its zero bit (R251). (DEDUCED, log 100.) -/
def Group.zeroBit (g : Group) (n : Nat) : Bool := (List.finRange 32).all (fun i => g.vlane n i == 0)

/-- Whether a k-slice is skipped: its A register has the zero bit set, or all of its B registers have it (R250, R251).
(DEDUCED, log 118.) (DEDUCED, log 100.) -/
def SliceIn.skipped (x : SliceIn) (j : Nat) : Bool :=
  let r := x.mode.bRegs / 16
  x.ga.zeroBit (x.m.va.val + j) || (upFrom (2 * x.m.bhalf.val + r * j) r).all x.gb.zeroBit

/-! ## Floating-point steps (R253) -/

/-- The partial of an element before a step. -/
def FpAcc.zero : FpAcc := { any := false, nan := false, pinf := false, ninf := false, sum := 0 }

/-- A partial with one more product. -/
def FpAcc.add (a : FpAcc) (t : FVal) : FpAcc :=
  match t with
  | .nan => { a with any := true, nan := true }
  | .inf n => { a with any := true, pinf := a.pinf || !n, ninf := a.ninf || n }
  | .fin _ _ => { a with any := true, sum := a.sum + t.num }

/-- A partial after the products of a k-slice: a product with a zero factor contributes nothing (R251). -/
def SliceIn.fpSlice (x : SliceIn) (j row col : Nat) (a : FpAcc) : FpAcc :=
  (x.range j).foldl (fun a c =>
    let f := x.factors row col c
    let u := x.mode.fp f.1
    let v := x.mode.fp f.2
    if u.isZero || v.isZero then a else a.add (prodTerm u v)) a

/-- The value of an element at the end of its step (R253): one rounding. -/
def FpAcc.finish (a : FpAcc) (c : Word) : Word :=
  if !a.any then c
  else match val32 c with
  | .nan => toWord fp32.canon
  | v =>
    let pinf := a.pinf || v == .inf false
    let ninf := a.ninf || v == .inf true
    if a.nan || (pinf && ninf) then toWord fp32.canon
    else if pinf then toWord fp32.inf
    else if ninf then toWord (fp32.signed true fp32.inf)
    else toWord (rnd fp32 .ne (v.num * one149 + a.sum) one298)

/-! ## Integer k-slices and the Talus (R254 to R257) -/

/-- What an element of an integer tile becomes in a k-slice: its partials and the carry. -/
structure ElemOut where
  q0 : Int
  q1 : Int
  net : Int
  deriving DecidableEq, Repr, Inhabited

/-- Bring a partial into its range: the partial and its carry (R255). -/
def TileKind.wrap (k : TileKind) (q : Int) : Int × Int :=
  if k.hi < q then (q - 2 ^ k.width, 1) else if q < k.lo then (q + 2 ^ k.width, -1) else (q, 0)

/-- One element of a k-slice (R255): product c goes to partial c mod NP. -/
def SliceIn.intSlice (x : SliceIn) (j row col : Nat) (p0 p1 : Int) : ElemOut :=
  let k := x.mode.kind
  let prod := fun (c : Nat) =>
    let f := x.factors row col c
    x.mode.int x.ta f.1 * x.mode.int x.tb f.2
  let two := k == .s4
  let r := (x.range j).foldl (fun (a : Int × Int) c => if two && c % 2 = 1 then (a.1, a.2 + prod c) else (a.1 + prod c, a.2)) (p0, p1)
  let u := k.wrap r.1
  let v := if two then k.wrap r.2 else (r.2, 0)
  { q0 := u.1, q1 := v.1, net := u.2 + v.2 }

/-- The entry of an element that can take a carry (R255, R257). -/
def TalusEnt.takes (e : TalusEnt) (tile row col : Nat) (net : Int) : Bool :=
  e.tile == tile && e.row == row && e.col == col && decide (-32768 ≤ e.cnt + net ∧ e.cnt + net ≤ 32767)

/-- Add a carry to the Talus: to an entry of the element, or to a new one. -/
def addCarry (es : List TalusEnt) (tile row col : Nat) (net : Int) : List TalusEnt :=
  match es with
  | [] => [{ tile := tile, row := row, col := col, cnt := net }]
  | e :: r => if e.takes tile row col net then { e with cnt := e.cnt + net } :: r else e :: addCarry r tile row col net

/-- Entries of a sequencer's Talus share (R256). -/
def talusShare : Nat := 512

/-- The tile with a number. -/
def Sequencer.tile (x : Sequencer) (n : Nat) : Tile := x.tiles.getD n Tile.zero

/-- Replace a tile. -/
def Sequencer.setTile (x : Sequencer) (n : Nat) (t : Tile) : Sequencer := { x with tiles := x.tiles.set n t }

/-- The carry of an element by its number: row, column and carry. -/
def carryOf (e : ElemOut × Nat) : Option (Nat × Nat × Int) := if e.1.net = 0 then none else some (e.2 / 64, e.2 % 64, e.1.net)

/-- Apply an integer k-slice (R255): none when the share lacks entries. -/
def Sequencer.intApply (x : Sequencer) (i : SliceIn) (j : Nat) : Option Sequencer :=
  let n := i.m.tile.val
  let t := x.tile n
  let out : Vector ElemOut 4096 := Vector.ofFn (fun e => i.intSlice j (e.val / 64) (e.val % 64) t.p0[e] t.p1[e])
  let carries : List (Nat × Nat × Int) := (out.toList.zip (upFrom 0 4096)).filterMap carryOf
  let need := (carries.filter (fun c => !x.talus.any (fun y => y.takes n c.1 c.2.1 c.2.2))).length
  if talusShare - x.talus.length < need then none
  else
    let x := { x with talus := carries.foldl (fun es (c : Nat × Nat × Int) => addCarry es n c.1 c.2.1 c.2.2) x.talus }
    some (x.setTile n { t with p0 := Vector.ofFn (fun e => out[e].q0), p1 := Vector.ofFn (fun e => out[e].q1) })

/-- Zero a tile (R260): its entries are freed and its kind is none. -/
def Sequencer.zeroTile (x : Sequencer) (n : Nat) : Sequencer :=
  { x.setTile n Tile.zero with talus := x.talus.filter (fun e => e.tile != n) }

/-- Drain one element (R259): the tile, the entries left, and the value. -/
def Sequencer.foldElem (x : Sequencer) (n e : Nat) (h : e < 4096) : Sequencer × Word :=
  let t := x.tile n
  match t.kind with
  | .none => (x, 0)
  | .fp => (x, t.v[e])
  | k =>
    let mine := fun (y : TalusEnt) => y.tile == n && y.row == e / 64 && y.col == e % 64
    let cnt := ((x.talus.filter mine).map (·.cnt)).sum
    let v := t.v[e] + BitVec.ofInt 32 (t.p0[e] + t.p1[e] + 2 ^ k.width * cnt)
    ({ x.setTile n { t with v := t.v.set e v, p0 := t.p0.set e 0, p1 := t.p1.set e 0 } with
       talus := x.talus.filter (fun y => !mine y) }, v)

/-- Drain a slab (R259): register `i`, lane `l` gets the element in row 8s + i / 2 and column 32 (i mod 2) + l. -/
def Sequencer.drain (x : Sequencer) (n : Nat) (slab : Fin 8) : Sequencer × List Word :=
  (List.finRange 512).foldl (fun acc i =>
    let r := acc.1.foldElem n (512 * slab.val + i.val) (by omega)
    (r.1, acc.2 ++ [r.2])) (x, [])

/-! ## Faults of a stream (R247) -/

/-- The stream PC of a fault. -/
def Sequencer.faultPc (x : Sequencer) : DWord := match x.step with
  | some t => t.pc
  | none => x.pc

/-- The record of a stream fault whose starter group has ended (R247). (DEDUCED, log 77.) -/
def State.seqGone (s : State) (b : Block) (x : Sequencer) (code : Nat) : State :=
  s.goneRecord b.asid code 1 (s.corrOfBlock b) x.starterGid (x.faultPc.setWidth 32) (some x.stopFields)

/-- Raise a stream fault to the starter group (R247). (DEDUCED, log 77.) -/
def State.seqRaise (s : State) (b : Block) (x : Sequencer) (code : Nat) : State :=
  let c : Cause := { code := code, sub := 1, tval := x.faultPc.setWidth 32, slot := 0, strm := some x.stopFields }
  let gone := match s.group? x.starter with
    | some g => g.ended
    | none => true
  let handled := match s.ctx? b.asid with
    | some k => k.fth && k.hpc != 0
    | none => false
  if gone then s.seqGone b x code
  else if !handled then s.haltGroup x.starter b.asid c
  else s.modGroup x.starter (fun g => { g with deferred := g.deferred ++ [c] })

/-- Slots of a block that wait for its sequencer to become Idle issue again (R409). -/
def State.wakeStart (s : State) (serial : Nat) : State :=
  s.modBlock serial (fun b => { b with groups := b.groups.map (fun g => g.wakeIf (fun r => r == .seqBusy)) })

/-- Replace a sequencer. -/
def State.putSeq (s : State) (x : Sequencer) : State := s.modSeq x.key (fun _ => x)

/-- The stream ends with cause 0x10: the sequencer is Idle, tiles and Talus entries are kept (R247). (DEDUCED, log 77.) -/
def State.seqIllegal (s : State) (b : Block) (x : Sequencer) : State :=
  ((s.seqRaise b x 0x10).putSeq { x with st := .idle, step := none, waitOn := none }).wakeStart b.serial

/-! ## Stream words (R293, R415 to R417) -/

/-- Execute a stream word on the current sequencer: only in Run, and unless `free` says so only once every earlier `mma` has
written its tile. -/
def State.streamWord (s : State) (free : Bool) (go : Sequencer → Block → State) : State :=
  match s.seq? s.curSeq with
  | some x => match s.block? x.blk with
    | some b => if x.st == .run && s.ctxRuns b.asid && (free || x.step.isNone) then go x b else s
    | none => s
  | none => s

/-- The sequencer behind the word. -/
def Sequencer.next (x : Sequencer) : Sequencer := x.goto (x.pc + 4)

/-- `mnop`. -/
def execMnop (s : State) : Host.Outcome State Fault Refusal := .next (s.streamWord true (fun x _ => s.putSeq x.next))

/-- `mend`: Idle; tiles and Talus entries are kept. -/
def execMend (s : State) : Host.Outcome State Fault Refusal :=
  .next (s.streamWord false (fun x b => (s.putSeq { x with st := .idle }).wakeStart b.serial))

/-- `mwait`: the sequencer waits until PH of the barrier differs from E (R264). -/
def execMwait (n : Fin 16) (ph : Bool) (s : State) : Host.Outcome State Fault Refusal :=
  .next (s.streamWord false (fun x b =>
    if b.sbar[n].ph != ph then s.putSeq x.next else s.putSeq { x with st := .wait, waitOn := some (n, ph) }))

/-- `marr`: an arrival, made once every earlier `mma` has read its registers and written its tile (R252). -/
def execMarr (n : Fin 16) (s : State) : Host.Outcome State Fault Refusal :=
  .next (s.streamWord false (fun x b => (s.putSeq x.next).addOp ⟨b.serial, 32⟩ 0 (.stageArr b.serial n)))

/-- `mzero` (R260); a tile number of TILES or more is a stream fault (R415). -/
def execMzero (tile : Fin 8) (s : State) : Host.Outcome State Fault Refusal :=
  .next (s.streamWord false (fun x b =>
    if b.tiles ≤ tile.val then s.seqIllegal b x else s.putSeq (x.zeroTile tile.val).next))

/-- A word address some words away. -/
def wordTarget (pc : DWord) (disp : DWord) : DWord := pc + 4 * disp

/-- `mloop` (R416). -/
def execMloop (c : Fin 4) (nm1 : BitVec 12) (disp : BitVec 12) (s : State) : Host.Outcome State Fault Refusal :=
  .next (s.streamWord true (fun x _ =>
    let v := x.ctr[c] + 1
    if v.toNat < nm1.toNat + 1 then s.putSeq { x.goto (wordTarget x.pc (disp.signExtend 64)) with ctr := x.ctr.set c v }
    else s.putSeq { x.next with ctr := x.ctr.set c 0 }))

/-- `mbra`. -/
def execMbra (disp : BitVec 24) (s : State) : Host.Outcome State Fault Refusal :=
  .next (s.streamWord true (fun x _ => s.putSeq (x.goto (wordTarget x.pc (disp.signExtend 64)))))

/-- The checks of R248. -/
def stepOk (b : Block) (x : Sequencer) (mode : MmaMode) (m : MmaFields) : Bool :=
  let k := (x.tile m.tile.val).kind
  let regs := fun (g : Group) (base n : Nat) =>
    (upFrom base n).all (fun r => if h : r < 128 then g.allocated (.v ⟨r, h⟩) else false)
  decide (m.tile.val < b.tiles) && (k == .none || k == mode.kind) &&
  match b.groups[m.ga.val]?, b.groups[m.gb.val]? with
  | some ga, some gb =>
    !ga.ended && !gb.ended && regs ga m.va.val (16 + mode.metaRegs) && regs gb (2 * m.bhalf.val) mode.bRegs
  | _, _ => false

/-- An `mma` word (R417): the checks of R248, the kind of the tile (R244), and the step, whose k-slices the array applies. -/
def State.mma (s : State) (mode : MmaMode) (m : MmaFields) : State :=
  s.streamWord false (fun x b =>
    if stepOk b x mode m then
      let t := x.tile m.tile.val
      let st : MmaStep := { mode := mode, m := m, word := x.word, pc := x.pc, slice := 0, acc := Vector.replicate 4096 FpAcc.zero }
      s.putSeq { (x.setTile m.tile.val { t with kind := mode.kind }).next with step := some st }
    else s.seqIllegal b x)

/-- `mma.f16`. -/
def execMmaF16 (m : MmaFields) (s : State) : Host.Outcome State Fault Refusal := .next (s.mma .f16 m)
/-- `mma.bf16`. -/
def execMmaBf16 (m : MmaFields) (s : State) : Host.Outcome State Fault Refusal := .next (s.mma .bf16 m)
/-- `mma.s8`. -/
def execMmaS8 (m : MmaFields) (s : State) : Host.Outcome State Fault Refusal := .next (s.mma .s8 m)
/-- `mma.u8`. -/
def execMmaU8 (m : MmaFields) (s : State) : Host.Outcome State Fault Refusal := .next (s.mma .u8 m)
/-- `mma.c8`. -/
def execMmaC8 (m : MmaFields) (s : State) : Host.Outcome State Fault Refusal := .next (s.mma .c8 m)
/-- `mma.s4`. -/
def execMmaS4 (m : MmaFields) (s : State) : Host.Outcome State Fault Refusal := .next (s.mma .s4 m)
/-- `mma.f16.sp16`. -/
def execMmaF16Sp16 (m : MmaFields) (s : State) : Host.Outcome State Fault Refusal := .next (s.mma .f16sp16 m)
/-- `mma.bf16.sp16`. -/
def execMmaBf16Sp16 (m : MmaFields) (s : State) : Host.Outcome State Fault Refusal := .next (s.mma .bf16sp16 m)
/-- `mma.s8.sp16`. -/
def execMmaS8Sp16 (m : MmaFields) (s : State) : Host.Outcome State Fault Refusal := .next (s.mma .s8sp16 m)
/-- `mma.s8.sp8`. -/
def execMmaS8Sp8 (m : MmaFields) (s : State) : Host.Outcome State Fault Refusal := .next (s.mma .s8sp8 m)
/-- `mma.s4.sp8`. -/
def execMmaS4Sp8 (m : MmaFields) (s : State) : Host.Outcome State Fault Refusal := .next (s.mma .s4sp8 m)

/-! ## The stream fetch (R246) -/

/-- The agent code of a sequencer (R37). -/
def seqAgent (k : SeqKey) : Nat := 0xB000 + 4 * k.cluster + k.index

/-- The word at a sequencer's stream PC, where its line is held. -/
def Sequencer.wordHere (x : Sequencer) : Option Word :=
  (x.lines.find? (fun l => l.1 == lineBase x.pc)).map (fun l =>
    BitVec.ofNat 32 (leNat ((upFrom (x.pc.toNat % 128) 4).map (fun i => l.2.toList.getD i 0))))

/-- Read a line of a stream, as a fetch outside handler mode whoever started the stream. (DEDUCED, log 115.) -/
def State.streamRead (s : State) (x : Sequencer) (asid : Nat) (va : DWord) : Except (XFault × State) (State × Option (Vector Byte 128)) :=
  match s.engineXlate (partOfCluster x.key.cluster) asid va ⟨.fetch, false, false⟩ with
  | (.miss, s') => .ok (s', none)
  | (.fault f, s') => .error (f, s')
  | (.ok l, s') =>
    let a : Agent := Agent.ctx asid
    match s'.lineStatus a false l with
    | .ok =>
      if s'.poisonIn a l 128 then
        .error ({ cause := 0x23, sub := s'.poisonCode a l, level := 3, ent := BitVec.ofNat 64 l.lineLoc.pa }, s')
      else .ok (s'.touchFor a [l, l.add 32, l.add 64, l.add 96] .normal false, some (Vector.ofFn (fun i => s'.byteAt a (l.add i.val))))
    | .busy => .ok (s'.askPeerFor false [l], none)
    | .lost => .error ({ cause := 0x25, sub := 0, level := 3, ent := 0 }, s')
    | _ => .ok (s', none)

/-- A stream line arrives: the line of the stream PC, or the next line, fetched ahead, which raises no fault (R246).
(DEDUCED, log 79.) -/
def State.streamFetch? (s : State) (k : SeqKey) : Option State :=
  match s.seq? k with
  | none => none
  | some x =>
    match s.block? x.blk with
    | none => none
    | some b =>
      if x.st != .run || !s.ctxRuns b.asid then none
      else
        let here := lineBase x.pc
        let held := fun (va : DWord) => x.lines.any (fun l => l.1 == va)
        let take := fun (s : State) (va : DWord) (d : Vector Byte 128) => s.putSeq { x with lines := x.lines ++ [(va, d)] }
        if !held here then
          match s.streamRead x b.asid here with
          | .ok (s', some d) => some (take s' here d)
          | .ok (s', none) => progress s s'
          | .error (f, s') =>
            some ((s'.engineFault b.asid f here .fetch false (partOfCluster k.cluster) (seqAgent k) (s.corrOfBlock b)).putSeq
              { x with st := .stopped, was := .run })
        else if !held (here + 128) then
          match s.streamRead x b.asid (here + 128) with
          | .ok (s', some d) => some (take s' (here + 128) d)
          | _ => none
        else none

/-- `streamFetchReturn`. -/
def execStreamFetchReturn (k : SeqKey) (s : State) : Host.Outcome State Fault Refusal := .next ((s.streamFetch? k).getD s)

/-! ## K-slices (R242, R253, R255, R258) -/

/-- A group as a step sees it: a register that the step has read keeps the value that it had then (R252). (DEDUCED, log 75.) -/
def MmaStep.seen (t : MmaStep) (i : Fin 32) (g : Group) : Group :=
  t.regs.foldl (fun g x => if h : x.1 = i ∧ x.2.1 < 128 then { g with v := g.v.set x.2.1 x.2.2 h.2 } else g) g

/-- What the step of a sequencer reads now: a register is read when the first k-slice that uses it is applied, and stays so for
the rest of the step (R252). (DEDUCED, log 75; DEDUCED, log 100.) -/
def State.sliceIn (s : State) (b : Block) (x : Sequencer) (t : MmaStep) : Option SliceIn :=
  match b.groups[t.m.ga.val]?, b.groups[t.m.gb.val]?, s.launchOf b with
  | some ga, some gb, some l =>
    some { mode := t.mode, ga := t.seen t.m.ga ga, gb := t.seen t.m.gb gb, m := t.m, ta := l.table x.ta.val, tb := l.table x.tb.val }
  | _, _, _ => none

/-- The registers that a k-slice reads: its A register, the metadata of its products, and its B registers (R249, R250). -/
def SliceIn.reads (x : SliceIn) (j : Nat) : List (Fin 32 × Nat × Lanes) :=
  let r := x.mode.bRegs / 16
  let md := match x.mode.sparse with
    | some n => ((x.range j).map (fun c => x.m.va.val + 16 + c / n)).eraseDups
    | none => []
  let take := fun (i : Fin 32) (g : Group) (ns : List Nat) => ns.filterMap (fun n => if h : n < 128 then some (i, n, g.v[n]) else none)
  take x.m.ga x.ga ((x.m.va.val + j) :: md) ++ take x.m.gb x.gb (upFrom (2 * x.m.bhalf.val + r * j) r)

/-- A step after k-slice `j` has been applied: its registers have been read (R252). (DEDUCED, log 75.) -/
def MmaStep.applied (t : MmaStep) (i : SliceIn) : MmaStep :=
  { t with slice := t.slice + 1, regs := t.regs ++ (i.reads t.slice).filter (fun x => !t.regs.contains x) }

/-- A sequencer after a k-slice of its step, or none when the Talus share is short; a skipped k-slice contributes nothing
(R251); the sixteenth slice ends the step, where
an FP tile takes its rounded sums (R253) and the tile takes its kind (R244). (DEDUCED, log 118.) -/
def Sequencer.applySlice (x : Sequencer) (i : SliceIn) (t : MmaStep) : Option Sequencer :=
  let n := t.m.tile.val
  let r : Option (Sequencer × MmaStep) :=
    if i.skipped t.slice then some (x, t)
    else if t.mode.kind == .fp then
      some (x, { t with acc := Vector.ofFn (fun e => i.fpSlice t.slice (e.val / 64) (e.val % 64) t.acc[e]) })
    else (x.intApply i t.slice).map (fun y => (y, t))
  r.map (fun (y, t) =>
    if t.slice < 15 then { y with step := some (t.applied i) }
    else
      let tile := y.tile n
      let tile := if t.mode.kind == .fp then { tile with v := Vector.ofFn (fun e => (t.acc[e]).finish tile.v[e]) } else tile
      { y.setTile n { tile with kind := t.mode.kind } with step := none })

/-- The state of a sequencer's step, where the array may work on it. -/
def State.stepOf (s : State) (k : SeqKey) (st : SeqState) : Option (Sequencer × Block × MmaStep × SliceIn) :=
  match s.seq? k with
  | none => none
  | some x => match s.block? x.blk, x.step with
    | some b, some t =>
      if x.st == st && s.ctxRuns b.asid then (s.sliceIn b x t).map (fun i => (x, b, t, i)) else none
    | _, _ => none

/-- The stop before a k-slice that lacks entries (R258). -/
def State.talusStop (s : State) (b : Block) (x : Sequencer) : State :=
  if x.tmode then (s.putSeq { x with st := .trapped }).seqRaise b x 0x1A else s.putSeq { x with st := .stall }

/-- Whether the array of a cluster serves a sequencer's step now (R266): the step that it is in comes first, then the ready steps
in rotation. -/
def State.arrayTurn (s : State) (k : SeqKey) : Bool :=
  let ready := (s.seqs.filter (fun x => x.key.cluster == k.cluster && (s.stepOf x.key .run).isSome)).map (·.key)
  match s.arrays.find? (fun y => y.cluster == k.cluster) with
  | none => true
  | some l =>
    let within := match s.seq? l with
      | some x => x.key == l && ((x.step.map (·.slice)).getD 0) != 0
      | none => false
    if ready.contains l && within then k == l
    else
      let dist := fun (y : SeqKey) => (y.index + 63 - l.index % 64) % 64
      ready.all (fun y => decide (dist k ≤ dist y))

/-- Apply the next k-slice of a sequencer's step, when it has the array's turn. (DEDUCED, log 75.) -/
def State.kslice? (s : State) (k : SeqKey) : Option State :=
  match s.stepOf k .run with
  | some (x, b, t, i) =>
    if s.arrayTurn k then
      let s := { s with arrays := k :: s.arrays.filter (fun y => !(y.cluster == k.cluster)) }
      match x.applySlice i t with
      | some y => some (s.putSeq y)
      | none => some (s.talusStop b x)
    else none
  | none => none

/-- `ksliceApply`. -/
def execKsliceApply (k : SeqKey) (s : State) : Host.Outcome State Fault Refusal := .next ((s.kslice? k).getD s)

/-- A stalled k-slice is evaluated again (R258): its step is ready for its turn at the array (R266), or the trap mode that `mcfg`
has set since takes effect. (DEDUCED, log 78.) -/
def State.talusRetry? (s : State) (k : SeqKey) : Option State :=
  match s.stepOf k .stall with
  | some (x, b, t, i) => match x.applySlice i t with
    | some _ => some (s.putSeq { x with st := .run })
    | none => if x.tmode then some (s.talusStop b x) else none
  | none => none

/-- `talusStallRetry`. -/
def execTalusStallRetry (k : SeqKey) (s : State) : Host.Outcome State Fault Refusal := .next ((s.talusRetry? k).getD s)

/-- 4,096 clk in Stall with nothing freed: Trapped, and 0x1A (R258). (DEDUCED, log 78.) -/
def State.talusTimeout? (s : State) (k : SeqKey) : Option State :=
  match s.stepOf k .stall with
  | some (x, b, _, _) => some ((s.putSeq { x with st := .trapped }).seqRaise b x 0x1A)
  | none => none

/-- `talusStallTimeout`. -/
def execTalusStallTimeout (k : SeqKey) (s : State) : Host.Outcome State Fault Refusal := .next ((s.talusTimeout? k).getD s)

/-! ## The watchdog (R269) -/

/-- What a block loses in an engine reset: stage barriers and sequencer at their reset values, its groups marked.
(DEDUCED, log 81.) -/
def Block.loseEngine (b : Block) : Block :=
  { b with sbar := Vector.replicate 16 StageBar.reset, groups := b.groups.map (fun g => { g with lost := true }) }

/-- The engine of a cluster resets: a step was issued there and none of its k-slices has completed. (DEDUCED, log 81.) -/
def State.watchdog? (s : State) (cluster : Nat) : Option State :=
  let here := s.seqs.filter (fun x => x.key.cluster == cluster && decide (x.key.index < 4))
  if !here.any (fun x => x.st == .run && x.step.isSome) || s.resetting.contains cluster then none
  else
    let lost := s.blocks.filter (fun b => here.any (fun x => x.blk == b.serial))
    let fresh := fun (x : Sequencer) =>
      if here.any (fun y => y.key == x.key) then
        let ttrap := (((s.block? x.blk).bind s.launchOf).map (·.desc.ttrap)).getD false
        Sequencer.start x.key x.blk x.tiles.length ttrap
      else x
    let s := { s with seqs := s.seqs.map fresh, resetting := s.resetting ++ [cluster] }
    let s := lost.foldl (fun s b => ((s.modBlock b.serial Block.loseEngine).wakeStart b.serial).stageWake b.serial) s
    some ((lost.map (·.asid)).eraseDups.foldl State.haltContext s)

/-- `matrixWatchdogReset`. -/
def execMatrixWatchdogReset (cluster : Nat) (s : State) : Host.Outcome State Fault Refusal := .next ((s.watchdog? cluster).getD s)

/-- `matrixResetDone`. -/
def execMatrixResetDone (cluster : Nat) (s : State) : Host.Outcome State Fault Refusal :=
  .next { s with resetting := s.resetting.filter (· != cluster) }

/-! ## Group-side instructions (R407 to R414) -/

/-- A sequencer that starts on a stream (R409). (DEDUCED, log 79.) -/
def Sequencer.begin (x : Sequencer) (va : DWord) (k : GroupKey) (gid : Word) : Sequencer :=
  { x with st := .run, pc := va, ctr := Vector.replicate 4 0, starter := k, starterGid := gid, word := 0, lines := [] }

/-- `mstart` (R409): it acts whatever the mask and the guard (R408). -/
def execMstart (e : Bool) (b : Opnd) (s : State) : Host.Outcome State Fault Refusal :=
  .next (s.issue { len := 4, e := e, srcs := opndRun b 2, kind := .seqCtl } (fun _ => !opndRunOk b 2) noCheck (fun w =>
    let va := w.param64 b 0
    if va.toNat % 4 ≠ 0 then .raise { code := 0x1C, sub := 0, tval := va.setWidth 32, slot := w.n }
    else match w.s.seqOfBlock w.k.block with
    | some x =>
      if x.st != .idle then .wait .seqBusy
      else .done { g := w.g, post := fun s => s.putSeq (x.begin va w.k w.g.gid) }
    | none => .done w.doneNone))

/-- The tile that an instruction names, and its slab. -/
def tileOf (x : Word) : Nat × Nat := (bitsAt x.toNat 0 3, bitsAt x.toNat 3 3)

/-- `accld` (R410). -/
def execAccld (e : Bool) (t b : Opnd) (s : State) : Host.Outcome State Fault Refusal :=
  .next (s.issue { len := 4, e := e, srcs := [b], dsts := opndRun t 16, kind := .tile } (fun _ => !opndRunOk t 16) noCheck (fun w =>
    let n := tileOf (w.sval b)
    if w.act = 0 then .done w.doneNone
    else if w.b.tiles ≤ n.1 then .raise (.plain 0x10 w.n)
    else if 63 ≤ w.g.tlCnt then .wait (.count 3)
    else .done { g := ({ w.g with tlCnt := w.g.tlCnt + 1 } : Group).markOp ((opndRun t 16).filterMap (regOf w.g.hm)) .var w.s.ids false,
                 post := fun s => s.addOp w.k w.n (.accld n.1 n.2 t w.act) }))

/-- `acczero` (R411). -/
def execAcczero (e : Bool) (b : Opnd) (s : State) : Host.Outcome State Fault Refusal :=
  .next (s.issue { len := 4, e := e, srcs := [b], kind := .tile } noCheck noCheck (fun w =>
    let n := tileOf (w.sval b)
    if w.act = 0 then .done w.doneNone
    else if w.b.tiles ≤ n.1 then .raise (.plain 0x10 w.n)
    else if 63 ≤ w.g.tlCnt then .wait (.count 3)
    else .done { g := { w.g with tlCnt := w.g.tlCnt + 1 }, post := fun s => s.addOp w.k w.n (.acczero n.1) }))

/-- `mcfg` (R412). -/
def execMcfg (e : Bool) (b : Opnd) (s : State) : Host.Outcome State Fault Refusal :=
  .next (s.issue { len := 4, e := e, srcs := [b], kind := .seqCtl } noCheck noCheck (fun w =>
    if w.act = 0 then .done w.doneNone
    else .done { g := w.g, post := fun s => s.addOp w.k w.n (.mcfg (w.sval b)) }))

/-- `mbar.arr` (R413): a cluster-scope release; it becomes visible later. -/
def execMbarArr (e : Bool) (n : Fin 16) (s : State) : Host.Outcome State Fault Refusal :=
  .next (s.issue { len := 4, e := e, kind := .stage, barrier := true } noCheck noCheck (fun w =>
    .done { g := w.g, post := fun s => s.addOp w.k w.n (.stageArr w.k.block n) }))

/-- `mbar.wait` (R414): a cluster-scope acquire at its return. -/
def execMbarWait (e : Bool) (n : Fin 16) (t : Opnd) (s : State) : Host.Outcome State Fault Refusal :=
  .next (s.issue { len := 4, e := e, srcs := [t], kind := .stage, barrier := true, ends := true } noCheck noCheck (fun w =>
    let ph := (w.sval t).getLsbD 0
    if w.b.sbar[n].ph != ph then .done { g := w.g, post := fun s => s.l1Drop (fun l => l.core == w.g.core) }
    else .done { g := w.g, flow := .stay (.stage n ph) }))

/-! ## Their completions -/

/-- Whether a piece of work is the group's oldest on the engine, and its sequencer. (DEDUCED, log 76.) -/
def State.engineOp (s : State) (o : Op) : Option Sequencer :=
  if (s.before o).any (fun x => x.body.onEngine) then none else s.seqOfBlock o.gk.block

/-- An `accld` drains its slab at a k-slice boundary and writes its registers (R259, R261, R410). (DEDUCED, log 76.) -/
def State.accld? (s : State) (o : Op) : Option State :=
  match o.body, s.engineOp o with
  | .accld tile slab t act, some x =>
    let r := x.drain tile ⟨slab % 8, Nat.mod_lt _ (by decide)⟩
    let lane := fun (i : Nat) (l : Fin 32) => r.2.getD (32 * i + l.val) 0
    let ws := (upFrom 0 16).filterMap (fun i => match opndPlus t i with
      | some (.v n) => some (⟨.v n, act, .v (Vector.ofFn (lane i))⟩ : RegWrite)
      | _ => none)
    some ((((s.putSeq r.1).land o ws).lower o.gk Group.tlDone).dropOp o.id)
  | _, _ => none

/-- `accldResult`. -/
def execAccldResult (op : Nat) (s : State) : Host.Outcome State Fault Refusal := .next (((s.op? op).bind s.accld?).getD s)

/-- An `acczero` is performed at a k-slice boundary (R260, R261, R411). -/
def State.acczero? (s : State) (o : Op) : Option State :=
  match o.body, s.engineOp o with
  | .acczero tile, some x => some (((s.putSeq (x.zeroTile tile)).lower o.gk Group.tlDone).dropOp o.id)
  | _, _ => none

/-- `acczeroPerformed`. -/
def execAcczeroPerformed (op : Nat) (s : State) : Host.Outcome State Fault Refusal := .next (((s.op? op).bind s.acczero?).getD s)

/-- A three-bit field as a table number. -/
def fin8 (n : Nat) : Fin 8 := ⟨n % 8, Nat.mod_lt _ (by decide)⟩

/-- A sequencer's configuration after an `mcfg` word (R412). -/
def Sequencer.configure (x : Sequencer) (w : Nat) : Sequencer :=
  { x with tmode := if bitAt w 12 then bitAt w 11 else x.tmode, ta := if bitAt w 16 then fin8 (bitsAt w 13 3) else x.ta,
           tb := if bitAt w 20 then fin8 (bitsAt w 17 3) else x.tb }

/-- COUNT of a stage barrier takes a new value; 0 leaves it (R412), and one not above PEND completes the phase (R264). -/
def StageBar.setCount (y : StageBar) (c : Nat) : StageBar := if c = 0 then y else { y with count := c }.test

/-- An `mcfg` is performed (R412). -/
def State.mcfg? (s : State) (o : Op) : Option State :=
  match o.body, s.engineOp o with
  | .mcfg w, some x =>
    let w := w.toNat
    let n : Fin 16 := ⟨w % 16, Nat.mod_lt _ (by decide)⟩
    let s := s.putSeq (x.configure w)
    let s := if bitAt w 10 then
        s.modBlock o.gk.block (fun b => { b with sbar := b.sbar.set n (b.sbar[n].setCount (bitsAt w 4 6)) })
      else s
    some ((s.dropOp o.id).stageWake o.gk.block)
  | _, _ => none

/-- `mcfgPerformed`. -/
def execMcfgPerformed (op : Nat) (s : State) : Host.Outcome State Fault Refusal := .next (((s.op? op).bind s.mcfg?).getD s)

/-- Work that brings registers to its group, loads apart (R198). -/
def OpBody.writesRegs : OpBody → Bool
  | .regs .. => true
  | .accld .. => true
  | _ => false

/-- An arrival on a stage barrier becomes visible (R264): a group's once its earlier accesses are performed and its earlier
register writes are complete (R413). (DEDUCED, log 80.) -/
def State.arrival? (s : State) (o : Op) : Option State :=
  match o.body with
  | .stageArr blk n =>
    if s.released o .clu && !(s.before o).any (·.body.writesRegs) then
      some (((s.modBlock blk (fun b => { b with sbar := b.sbar.set n b.sbar[n].arrive })).dropOp o.id).stageWake blk)
    else none
  | _ => none

/-- `stageArrivalVisible`. -/
def execStageArrivalVisible (op : Nat) (s : State) : Host.Outcome State Fault Refusal := .next (((s.op? op).bind s.arrival?).getD s)

end Sys2Proof.Machine
end

