-- ==== Sys2Proof/Machine/Launches.lean ====
section
/-! DEFINITION. Launches: the handle table (R429, R430), the acceptance of a launch with what it reads (R178, R179, R90, R207,
R208, R165, R436), residency and context boundaries (R22, R65, R439), the mode switch (R66), the start and the completion of
a launch (R431, R136). -/
namespace Sys2Proof.Machine

/-! ## The handle table (R429, R430) -/

/-- The entry of a handle of a function. -/
def State.handleEnt (s : State) (fn h : Nat) : HandleEnt :=
  (s.handles.find? (fun e => e.fn == fn && e.h == h)).getD { fn := fn, h := h, writers := [], readers := [] }

/-- Replace an entry; an entry that nobody uses is not kept. -/
def State.putHandle (s : State) (e : HandleEnt) : State :=
  let rest := s.handles.filter (fun x => !(x.fn == e.fn && x.h == e.h))
  { s with handles := if e.writers.isEmpty && e.readers.isEmpty then rest else e :: rest }

/-- The launches that a new launch with some references waits for (R430), of each reference handle, read and write: every one that
writes the handle and has not completed, and where it writes it, those that read it. -/
def State.handleWaits (s : State) (fn : Nat) (refs : List (Nat × Bool × Bool)) : List Nat :=
  (refs.flatMap (fun r =>
    let e := s.handleEnt fn r.1
    e.writers ++ (if r.2.2 then e.readers else []))).eraseDups

/-- Enter a launch in the handle table. -/
def State.enterHandles (s : State) (fn id : Nat) (refs : List (Nat × Bool × Bool)) : State :=
  refs.foldl (fun s r =>
    let e := s.handleEnt fn r.1
    let e := if r.2.1 && !e.readers.contains id then { e with readers := e.readers ++ [id] } else e
    s.putHandle (if r.2.2 && !e.writers.contains id then { e with writers := id :: e.writers } else e)) s

/-- A launch leaves the handle table (R432). -/
def State.leaveHandles (s : State) (id : Nat) : State :=
  let es := s.handles.map (fun (e : HandleEnt) =>
    { e with writers := e.writers.filter (· != id), readers := e.readers.filter (· != id) })
  { s with handles := es.filter (fun e => !e.writers.isEmpty || !e.readers.isEmpty) }

/-! ## Completion of a launch as its queue sees it (R428, R432) -/

/-- A launch with another that it waited for completed: where that one ran confined to a partition, its writeback may be due
(R431). -/
def Launch.unwait (m : Launch) (l : Launch) (part : Option Nat) : Launch :=
  if m.waits.contains l.id then
    { m with waits := m.waits.filter (· != l.id),
             flush := match part with
               | some p => if m.flush.contains (p, m.asid != l.asid) then m.flush else m.flush ++ [(p, m.asid != l.asid)]
               | none => m.flush }
  else m

/-- A launch completes with a status (R428): it posts its result, or 0, releases its handles, and frees its queue if the queue
waits for its acceptance. -/
def State.postLaunch (s : State) (id status : Nat) : State :=
  match s.launch? id with
  | none => s
  | some l =>
    let part := (s.ctx? l.asid).bind Ctx.confined
    let s := { s with launches := (s.launches.filter (fun (m : Launch) => m.id != id)).map (fun (m : Launch) => m.unwait l part),
                      gangs := s.gangs.filter (fun g => g.1 != id) }
    let s := s.leaveHandles id
    let s := match s.queue? l.q with
      | some x => if x.hold = some (Hold.launch id) then s.putQueue { x with hold := none } else s
      | none => s
    s.completePacket l.q { corr := l.corr, status := status, op := 1, result := if status = 0 then l.result else 0,
                           ctr := if l.hdr.isSome then some l.ctr else none, irq := l.irq, n := l.n }

/-! ## Reads of the command processor -/

/-- For whom the command processor reads: a context, the partition through whose TLB it translates, a launch.
(DEDUCED, log 26.) -/
structure CpWho where
  asid : Nat
  part : Nat
  corr : Word

/-- A fault of the command processor (R37): agent 0xC000. (DEDUCED, log 26; DEDUCED, log 27.) -/
def State.cpFault (s : State) (w : CpWho) (f : XFault) (va : Nat) (acc : Acc) : State :=
  s.engineFault w.asid f (BitVec.ofNat 64 va) acc false w.part 0xC000 w.corr

/-- The place of an access of the command processor, its line to be had. (DEDUCED, log 26.) -/
def State.cpPlace (s : State) (w : CpWho) (va : Nat) (acc : Acc) : Except CirqueStop (State × Loc) :=
  let a := Agent.ctx w.asid
  match s.engineXlate w.part w.asid (BitVec.ofNat 64 va) ⟨acc, false, false⟩ with
  | (.miss, s') => .error (.wait s')
  | (.fault f, s') => .error (.fault (s'.cpFault w f va acc))
  | (.ok l, s') =>
    let s' := s'.fillViews a [l] .normal
    match s'.lineStatus a (acc == .store) l with
    | .ok => .ok (s', l)
    | .lost => .error (.fault (s'.cpFault w { cause := 0x25, sub := 0, level := 3, ent := 0 } va acc))
    | .busy => .error (.wait (s'.askPeerFor (acc == .store) [l]))
    | _ => .error (.wait s')

/-- Read some bytes of one line, as a die-scope acquire load (R178). -/
def State.cpLine (s : State) (w : CpWho) (va n : Nat) : Except CirqueStop (State × List Byte) :=
  match s.cpPlace w va .load with
  | .error e => .error e
  | .ok (s, l) =>
    let a := Agent.ctx w.asid
    if s.poisonIn a l n then
      .error (.fault (s.cpFault w { cause := 0x23, sub := s.poisonCode a l, level := 3, ent := BitVec.ofNat 64 l.lineLoc.pa } va .load))
    else .ok (s.touchFor a [l] .normal false, s.bytesAt a l n)

/-- Read bytes line by line; the first number bounds the lines. (DEDUCED, log 27.) -/
def State.cpBytes (s : State) (w : CpWho) (va n : Nat) : Nat → Except CirqueStop (State × List Byte)
  | 0 => .ok (s, [])
  | f + 1 =>
    if n = 0 then .ok (s, [])
    else
      let k := min n (128 - va % 128)
      match s.cpLine w va k with
      | .error e => .error e
      | .ok (s, bs) => match s.cpBytes w (va + k) (n - k) f with
        | .error e => .error e
        | .ok (s, rest) => .ok (s, bs ++ rest)

/-! ## Descriptors (R178, R179) -/

/-- A descriptor as its 128 bytes give it. -/
def descOf (bs : List Byte) : Desc :=
  let f := fieldAt bs
  let w := fun (o : Nat) => BitVec.ofNat 64 (f o 8)
  { entry := w 0, const := w 8, csize := f 0x10 4, kind := f 0x14 1, mx := bitAt (f 0x15 1) 0, ttrap := bitAt (f 0x15 1) 1,
    prio := f 0x16 1, tmask := BitVec.ofNat 8 (f 0x17 1), gx := f 0x18 4, gy := f 0x1C 2, gz := f 0x1E 2, ng := f 0x20 1,
    vregs := f 0x21 1, sregs := f 0x22 1, aregs := f 0x23 1, lskb := f 0x24 2, tiles := f 0x26 1, fanout := f 0x27 1,
    roles := w 0x28, ctab := w 0x30, stab := w 0x38, nsh := f 0x40 2, gang := f 0x42 2, result := w 0x48 }

/-- Between two numbers, both allowed. -/
def within (lo x hi : Nat) : Bool := lo ≤ x && x ≤ hi

/-- The checks of R179 on a descriptor's fields. -/
def Desc.fieldsOk (d : Desc) : Bool :=
  d.entry.toNat % 2 == 0 && d.const.toNat % 256 == 0 && d.csize ≤ 65536 && d.csize % 4 == 0 && d.kind ≤ 1 && d.prio ≤ 7 &&
  1 ≤ d.gx && 1 ≤ d.gy && 1 ≤ d.gz && within 1 d.ng 32 && within 1 d.vregs 16 && within 2 d.sregs 64 && d.aregs ≤ 32 &&
  d.lskb ≤ 256 && d.tiles ≤ 8 && (d.mx || d.tiles == 0) && (d.kind == 0 || (d.fanout ≤ 4 && 3 ≤ d.sregs && within 1 d.nsh 4096)) &&
  (List.range d.ng).all (fun g => bitsAt d.roles.toNat (2 * g) 2 != 3) && (d.tmask == 0 || d.ctab.toNat % 2048 == 0) &&
  d.gang ≤ 192 && d.result.toNat % 4 == 0

/-- A descriptor before it is read. -/
def Desc.blank : Desc :=
  { entry := 0, const := 0, csize := 0, kind := 0, mx := false, ttrap := false, prio := 0, tmask := 0, gx := 1, gy := 1, gz := 1,
    ng := 1, vregs := 1, sregs := 2, aregs := 0, lskb := 0, tiles := 0, fanout := 0, roles := 0, ctab := 0, stab := 0, nsh := 0,
    gang := 0, result := 0 }

/-- The partitions that a context's launches may use. -/
def Ctx.parts (c : Ctx) : List Nat :=
  match c.confined with
  | some p => [p]
  | none => List.range 8

/-- Whether a gang fits on the clusters that the launch may use when they are empty (R436): it is placed there. That of a ray launch
finds the pools empty too; without a pool only its clusters count, and status 0x14 follows (R208). (DEDUCED, log 84.) -/
def State.gangFits (s : State) (c : Ctx) (l : Launch) : Bool :=
  let pools := c.parts.all (fun p => s.poolCap p c.asid != 0)
  let l := { l with st := .started, nextBlock := 0, desc := if pools then l.desc else { l.desc with kind := 0 } }
  let empty := { s with blocks := [], seqs := [], cmds := [], rays := [], gangs := [], resetting := [], launches := [l],
                        ctxs := [{ c with halt := .running, dtMode := 0 }] }
  l.desc.gang = 0 || (empty.placing l).isPlaced

/-! ## Shader tables (R207, R208) -/

/-- The header of a shader table. -/
def headerOf (bs : List Byte) : RayHeader :=
  let f := fieldAt bs
  let w := fun (o : Nat) => BitVec.ofNat 64 (f o 8)
  { tlas := w 0, inst := w 8, ninst := f 0x10 4, tlim := f 0x14 4, g0 := Vector.ofFn (fun i => BitVec.ofNat 32 (f (0x18 + 4 * i.val) 4)),
    cell := BitVec.ofNat 32 (f 0x24 4), hint := w 0x28, pf := f 0x30 2, lowt := f 0x32 2, lows := f 0x34 2, tot := f 0x38 4,
    tos := f 0x3C 4, acc := w 0x40, aw := f 0x48 4, ah := f 0x4C 4 }

/-- A shader entry. -/
def entryOf (bs : List Byte) : ShaderEntry :=
  { pc := BitVec.ofNat 64 (fieldAt bs 0 8), vregs := fieldAt bs 8 1, fan := fieldAt bs 9 1, kind := fieldAt bs 10 1 }

/-- An FP32 word that is finite. -/
def finiteWord (w : Word) : Bool := !notFinite w

/-- The limits of a header. -/
def RayHeader.ok (h : RayHeader) : Bool :=
  h.tlas.toNat % 4096 == 0 && h.inst.toNat % 64 == 0 && h.ninst ≤ 2 ^ 30 && h.tlim ≤ 2 ^ 24 && h.g0.toList.all finiteWord &&
  within 0x00800000 h.cell.toNat 0x7F7FFFFF && h.hint.toNat % 128 == 0 && within 1 h.tot (2 ^ 24) && within 1 h.tos (2 ^ 24) &&
  h.acc.toNat % 1024 == 0 && (h.acc == 0 || (within 1 h.aw 65536 && within 1 h.ah 65536))

/-- The limits of an entry. -/
def ShaderEntry.ok (e : ShaderEntry) : Bool := e.pc.toNat % 2 == 0 && within 3 e.vregs 16 && e.fan ≤ 4 && e.kind ≤ 2

/-! ## Acceptance -/

/-- What an accepted launch holds for its whole life. -/
structure LaunchData where
  desc : Desc
  tables : List (Option CTable)
  hdr : Option RayHeader
  shaders : List ShaderEntry

/-- The parts of a companding table that the device reads (R89): offset and size. -/
def tableParts : List (Nat × Nat) := [(0, 0x88), (0x100, 0x200), (0x400, 0x400)]

/-- Read the parts of a companding table, zeros in the place of what is reserved. -/
def State.readTable (s : State) (w : CpWho) (va : Nat) (bs : List Byte) : List (Nat × Nat) → Except CirqueStop (State × List Byte)
  | [] => .ok (s, bs)
  | (off, n) :: r => match s.cpBytes w (va + off) n (n / 128 + 2) with
    | .error e => .error e
    | .ok (s, xs) => s.readTable w va (putBytes bs off xs) r

/-- Read the companding tables of a mask from table `j` on (R89, R90): status 0x12 for one that is refused. -/
def State.readTables (s : State) (w : CpWho) (d : Desc) : List Nat → Except CirqueStop (State × Option (List (Option CTable)))
  | [] => .ok (s, some [])
  | j :: js =>
    if !d.tmask.getLsbD j then
      match s.readTables w d js with
      | .error e => .error e
      | .ok (s, r) => .ok (s, r.map (none :: ·))
    else match s.readTable w (d.ctab.toNat + 2048 * j) (List.replicate 2048 0) tableParts with
      | .error e => .error e
      | .ok (s, bs) =>
        let t := tableOf bs
        if !t.accepted then .ok (s, none)
        else match s.readTables w d js with
          | .error e => .error e
          | .ok (s, r) => .ok (s, r.map (some t :: ·))

/-- Read the shader table of a ray launch (R207): status 0x13 for one that is refused, 0x14 where the context has no pool. -/
def State.readShaders (s : State) (w : CpWho) (c : Ctx) (d : Desc) : Except CirqueStop (State × Sum Nat (RayHeader × List ShaderEntry)) :=
  if d.stab.toNat % 128 ≠ 0 then .ok (s, .inl 0x13)
  else match s.cpBytes w d.stab.toNat (128 + 16 * d.nsh) (2 + d.nsh) with
    | .error e => .error e
    | .ok (s, bs) =>
      let h := headerOf bs
      let es := (List.range d.nsh).map (fun i => entryOf (bs.drop (128 + 16 * i)))
      if !(h.ok && es.all ShaderEntry.ok) then .ok (s, .inl 0x13)
      else if c.parts.any (fun p => s.poolCap p c.asid == 0) then .ok (s, .inl 0x14)
      else .ok (s, .inr (h, es))

/-- Read and check everything that a launch names: a status, or what it holds from now on. (DEDUCED, log 84.) -/
def State.readLaunch (s : State) (c : Ctx) (l : Launch) : Except CirqueStop (State × Sum Nat LaunchData) :=
  let w : CpWho := ⟨l.asid, c.confined.getD 0, l.corr⟩
  match s.cpBytes w l.descVa.toNat 128 1 with
  | .error e => .error e
  | .ok (s, bs) =>
    let d := descOf bs
    if !d.fieldsOk || !d.need.fitsEmpty || !s.gangFits c { l with desc := d } || (c.repro && d.kind = 0 && 2 ^ 27 ≤ d.blocks) then
      .ok (s, .inl 0x11)
    else match s.readTables w d (List.range 8) with
      | .error e => .error e
      | .ok (s, none) => .ok (s, .inl 0x12)
      | .ok (s, some ts) =>
        if d.kind = 0 then .ok (s, .inr ⟨d, ts, none, []⟩)
        else match s.readShaders w c d with
          | .error e => .error e
          | .ok (s, .inl st) => .ok (s, .inl st)
          | .ok (s, .inr (h, es)) => .ok (s, .inr ⟨d, ts, some h, es⟩)

/-! ## Context boundaries (R65) -/

/-- Whether work of a context is left that R65 names. (DEDUCED, log 49.) (DEDUCED, log 83.) -/
def State.busyCtx (s : State) (c : Ctx) : Bool :=
  s.launches.any (fun l => l.asid == c.asid && (l.st == .accepted || l.st == .started)) ||
  s.blocks.any (fun b => b.asid == c.asid) || s.rays.any (fun r => r.asid == c.asid) || s.cmds.any (fun x => x.asid == c.asid) ||
  s.replays.any (fun r => r.asid == c.asid) || s.listWalks.any (fun x => x.asid == c.asid) ||
  s.prefetches.any (fun p => p.asid == c.asid) || !c.conts.isEmpty

/-- Whether a context that a launch halted while it was being accepted keeps its place for that launch: until a resume or an end,
or until a mode switch needs the place (R66, R450). (DEDUCED, log 83.) -/
def State.keptFor (s : State) (c : Ctx) : Bool :=
  c.halt != .running && !s.regs.l2cfg.swp && s.launches.any (fun l => l.asid == c.asid)

/-- Complete a CTXCTL packet. -/
def State.ctxctlDone (s : State) (q n : Nat) (irq : Bool) (status : Nat) : State :=
  match s.queue? q with
  | some x => s.completePacket q (x.plainDone n 8 status irq)
  | none => s

/-- CTXCTL end of an address-space identifier of which nothing runs: its launches complete with status 0x16, and its debug registers
are 0 again for the context that comes after it (R459, R370). (DEDUCED, log 120.) -/
def State.endAsid (s : State) (asid : Nat) : State :=
  let ids := (s.launches.filter (fun l => l.asid == asid)).map (·.id)
  ids.foldl (fun s id => s.postLaunch id 0x16) (s.putAsid { s.asidInfo asid with ended := true, linkFault := false, dbg := (AsidInfo.new asid).dbg })

/-- The device's part of a completed halt (R452): SHEAD and FHEAD, the vector, the halt packets. -/
def State.haltReport (s : State) (c : Ctx) : State :=
  let s := match c.wbArea with
    | some l => (s.postNum (l.add 16) 8 c.shead).postNum l 8 c.fhead
    | none => s
  let s := if c.msix ≤ 2047 then s.signal c.vfn c.msix else s
  c.haltPkts.foldl (fun s p => s.ctxctlDone p.1 p.2.1 p.2.2 0) s

/-- What a context that leaves still owes: its records that wait are dropped, a halt that has begun is complete, since nothing is left
to stop, and what waits for the halt is carried out. (DEDUCED, log 83.) -/
def State.leaveCtx (s : State) (c : Ctx) : State :=
  let late := s.records.filter (fun r => r.1 == c.asid)
  let s := late.foldl (fun s _ => s.dropRecord c.asid) { s with records := s.records.filter (fun r => r.1 != c.asid) }
  let a := s.asidInfo c.asid
  let s := s.putAsid { a with linkFault := a.linkFault || (c.linkFault && !a.ended), left := c.wbArea.map (fun l => (l, c.fhead, c.shead)) }
  let s := { s with ctxs := s.ctxs.filter (fun x => x.asid != c.asid) }
  let s := if c.halt = .raised || c.halt = .stopping then s.haltReport c else s
  c.afterPkts.foldl (fun s p =>
    if p.2.2.2 then (s.endAsid c.asid).ctxctlDone p.1 p.2.1 p.2.2.1 0 else s.ctxctlDone p.1 p.2.1 p.2.2.1 1) s

/-- A context that has reached its boundary is resident no longer, and its RDC tags are cleared (R45, R65). (DEDUCED, log 83.) -/
def State.dropIdle (s : State) (asid : Nat) : State :=
  match s.ctx? asid with
  | some c =>
    if s.busyCtx c || s.keptFor c then s
    else
      let s := (s.flushRdc (fun l => l.asid == asid)).leaveCtx c
      { s with timedOut := s.timedOut.filter (fun t => t.2.1 != asid), samplers := s.samplers.filter (fun x => x.asid != asid) }
  | none => s

/-- A launch is refused with a status: it runs nothing (R179, R428). (DEDUCED, log 83.) -/
def State.refuseLaunch (s : State) (l : Launch) (status : Nat) : State := (s.postLaunch l.id status).dropIdle l.asid

/-- A launch is accepted with what it holds (R430, R477): its ordinal, its trace entry, the generations of its function's
windows (R99); its queue goes on. -/
def State.admitLaunch (s : State) (c : Ctx) (l : Launch) (x : LaunchData) : State :=
  let a := s.asidInfo c.asid
  let lseq := (a.lseq + 1) % 2 ^ 32
  let pcap := ((s.queue? l.q).map (·.pcap)).getD 0
  let s := s.putAsid { a with lseq := lseq }
  let s := s.modLaunch l.id (fun l => { l with st := .accepted, desc := x.desc, tables := x.tables, hdr := x.hdr, shaders := x.shaders,
                                               prio := min x.desc.prio pcap, lseq := lseq })
  let s := (s.dtNote c.asid .processor (acceptEntry l.corr lseq)).bumpWindows c.vfn
  match s.queue? l.q with
  | some y => s.putQueue { y with hold := none }
  | none => s

/-- Accept or refuse a launch of a resident context (R22, R430). -/
def State.acceptIn (s : State) (c : Ctx) (l : Launch) : State :=
  if !c.v || c.vfn ≠ l.fn then s.refuseLaunch l 0x10
  else if c.halt ≠ .running then s
  else match s.readLaunch c l with
    | .error e => (e.settle s).getD s
    | .ok (s', .inl status) => s'.refuseLaunch l status
    | .ok (s', .inr x) =>
      match s'.dtAsk c.asid .processor (fun e => fieldAt e 0 1 == 1 && fieldAt e 8 4 == l.corr.toNat) with
      | .wait => s
      | .mismatch => s.dtMismatch c.asid .processor 0xC000 (some l)
      | _ => s'.admitLaunch c l x

/-- Accept or refuse a launch, its context made resident where it is not (R20, R21, R439), or the mode switch begun (R66);
an entry that has to be waited for is waited for, and one that is poisoned or lost is none.
(DEDUCED, log 85.) (DEDUCED, log 120.) (DEDUCED, log 121.) -/
def State.acceptOne (s : State) (id : Nat) : State :=
  match s.launch? id with
  | none => s
  | some l =>
    if !s.regs.ctxtBase.getLsbD 0 then s.refuseLaunch l 0x10
    else match s.ctx? l.asid with
      | some c => s.acceptIn c l
      | none => match s.ctxtReads l.asid, s.newCtx l.asid with
        | .wait s', _ => s'
        | .bad p, _ => (s.entryFault l.asid p).refuseLaunch l 0x10
        | .ok, none => s.refuseLaunch l 0x10
        | .ok, some c =>
          if c.vfn ≠ l.fn then s.refuseLaunch l 0x10
          else if c.priv ≠ s.regs.l2cfg.mode then
            ({ s with regs := { s.regs with l2cfg := { s.regs.l2cfg with swp := true } } }).modLaunch id (fun l => { l with st := .switching })
          else
            let s := { s with ctxs := s.ctxs ++ [c] }
            let a := s.asidInfo l.asid
            let s := (s.putAsid (if a.ended then { AsidInfo.new l.asid with dbg := a.dbg, left := a.left } else a)).startTrace l.asid
            s.acceptIn ((s.ctx? l.asid).getD c) l

/-- Whether a launch waits for its acceptance. -/
def Launch.waiting (l : Launch) : Bool := l.st == .queued || l.st == .switching

/-- PRIO of the descriptor of a launch whose context is not resident, as the context's tables give it; none where they give no
mapping, or one that is no memory of the device, and where an entry or the descriptor's line cannot be had. (DEDUCED, log 82.) -/
def State.peekPrio (s : State) (l : Launch) : Option Nat :=
  match s.ctxtReads l.asid, s.newCtx l.asid with
  | .ok, some c => match (s.walkFor (c.confined.getD 0) c (l.descVa.toNat + 0x16)).1 with
    | .ok e => (kindOf e.kind).bind (fun k =>
        let at_ : Loc := ⟨k, e.paOf (l.descVa.toNat + 0x16)⟩
        if k == .view || !(s.tableRead [(at_, 1)]).isOk then none else some (s.numAt .device at_ 1))
    | _ => none
  | _, _ => none

/-- The effective priority of a launch that waits for residency (R434, R439): min(PRIO, PCAP), and PCAP where PRIO cannot be had.
(DEDUCED, log 82.) -/
def State.waitPrio (s : State) (l : Launch) : Nat :=
  let cap := ((s.queue? l.q).map (·.pcap)).getD 0
  match s.peekPrio l with
  | some p => min p cap
  | none => cap

/-- The rank of a waiting launch of a context that is not resident (R439): the launch that began a mode switch, then the
context whose oldest waiting launch has the highest effective priority, the earlier acceptance winning ties.
(DEDUCED, log 82.) -/
def State.waitRank (s : State) (l : Launch) : Nat × Nat × Nat :=
  let oldest := ((s.launches.find? (fun m => m.waiting && m.asid == l.asid)).getD l)
  (if l.st == .switching then 0 else 1, 7 - min 7 (s.waitPrio oldest), oldest.id)

/-- Whether a rank goes before another. -/
def rankLt (a b : Nat × Nat × Nat) : Bool :=
  if a.1 ≠ b.1 then a.1 < b.1 else if a.2.1 ≠ b.2.1 then a.2.1 < b.2.1 else a.2.2 < b.2.2

/-- The launch whose acceptance is tried next, some having been tried: one of a resident context, else one whose context may
become resident (R439); none while a mode switch is pending (R66). (DEDUCED, log 82.) -/
def State.nextWaiting (s : State) (tried : List Nat) : Option Nat :=
  if s.regs.l2cfg.swp then none
  else
    let ws := s.launches.filter (fun l => l.waiting && !tried.contains l.id)
    match ws.find? (fun l => ((s.ctx? l.asid).map (fun c => c.halt == .running)).getD false) with
    | some l => some l.id
    | none =>
      if 8 ≤ s.ctxs.length then none
      else
        let out := ws.filter (fun l => (s.ctx? l.asid).isNone)
        (out.foldl (fun (acc : Option Launch) l => match acc with
          | some m => if rankLt (s.waitRank l) (s.waitRank m) then some l else acc
          | none => some l) none).map (·.id)

/-- Try the acceptance of the launches that wait, each once. (DEDUCED, log 82.) -/
def State.letIn (s : State) (tried : List Nat) : Nat → State
  | 0 => s
  | f + 1 => match s.nextWaiting tried with
    | some id => (s.acceptOne id).letIn (id :: tried) f
    | none => s

/-- Try all of them. -/
def State.letAllIn (s : State) : State := s.letIn [] s.launches.length

/-- A context may have reached its boundary: it leaves, and waiting contexts come in (R65, R439). (DEDUCED, log 87.) -/
def State.boundary (s : State) (asid : Nat) : State := (s.dropIdle asid).letAllIn

/-- A resident context of which nothing is left, and for which no launch waits or a mode switch is pending, has reached its boundary
(R65, R66): one whose last prefetch has ended, or whose first launch could not be accepted yet. (DEDUCED, log 83.) -/
def State.idleCtx? (s : State) : Option State :=
  (s.ctxs.find? (fun c => !s.busyCtx c && (s.regs.l2cfg.swp || !s.launches.any (fun l => l.asid == c.asid)))).map (fun c => s.boundary c.asid)

/-! ## The mode switch (R66) -/

/-- Lines that the peer holds have to come home before a writeback of everything (R70). -/
def State.peerHeld (s : State) (p : Nat → Bool) : List Nat :=
  (s.mem.dir.filter (fun e => p e.1 && e.2 != .pl)).map (·.1)

/-- Whether a mode switch has lines left to write back or to recall; of what is poisoned nothing reaches memory, and the mark stays
(R66, R70, R75). -/
def State.modeCached (s : State) : Bool :=
  s.mem.l2.any (fun l => l.rest != some l) || s.mem.rdc.any (fun l => l.poison == 0) || !(s.peerHeld (fun _ => true)).isEmpty

/-- Steps 2 and 3 of a mode switch: a resident context that is at its boundary leaves; once no context is resident, every line of
the slices and of the RDC is written back and invalidated. (DEDUCED, log 82.) -/
def State.modeFlush? (s : State) : Option State :=
  if s.regs.l2cfg.swp && s.idleCtx?.isSome then s.idleCtx?
  else if !s.regs.l2cfg.swp || !s.ctxs.isEmpty || !s.modeCached then none
  else
    let held := s.peerHeld (fun _ => true)
    if held ≠ [] then progress s (held.foldl (fun s ln => s.askPeer ln true) s)
    else some ((s.flushL2 (fun _ => true)).flushRdc (fun _ => true))

/-- `modeSwitchFlush`. -/
def execModeSwitchFlush (s : State) : Host.Outcome State Fault Refusal := .next (s.modeFlush?.getD s)

/-- Step 4: MODE is inverted, SWP is cleared, and the launch is accepted. -/
def State.modeDone? (s : State) : Option State :=
  if s.regs.l2cfg.swp && s.ctxs.isEmpty && !s.modeCached then
    some ({ s with regs := { s.regs with l2cfg := { s.regs.l2cfg with mode := !s.regs.l2cfg.mode, swp := false } } }).letAllIn
  else none

/-- `modeSwitchDone`. -/
def execModeSwitchDone (s : State) : Host.Outcome State Fault Refusal := .next (s.modeDone?.getD s)

/-! ## The start of a launch (R431, R137) -/

/-- Whether a launch may start: it waits for no launch, its packet may start (R424, R425), and a ray launch waits for every earlier
one of its context, also for one that is not accepted yet and may be one (R438). -/
def State.mayStart (s : State) (l : Launch) : Bool :=
  l.st == .accepted && l.waits.isEmpty && s.ctxOpen l.asid &&
  (match s.queue? l.q with
    | some x => !x.full && (!l.ser || x.earlierDone l.n)
    | none => true) &&
  !(l.hdr.isSome && s.launches.any (fun m => m.asid == l.asid && m.id < l.id && (m.hdr.isSome || m.waiting)))

/-- A launch starts: its acquire is performed before its first block is placed (R431), and nothing decoded before is left to it
(R100). (DEDUCED, log 87; DEDUCED, log 112.) -/
def State.launchStart? (s : State) (id : Nat) : Option State :=
  match s.launch? id with
  | none => none
  | some l =>
    if !s.mayStart l then none
    else
      let part := (s.ctx? l.asid).bind Ctx.confined
      let mine := fun (cluster : Nat) => match part with
        | some p => partOfCluster cluster == p
        | none => true
      let due := fun (f : Nat × Bool) => f.2 || part != some f.1
      let s := (l.flush.filter due).foldl (fun s f => s.flushL2 (fun x => x.slice / 16 == f.1 && x.dirty != 0)) s
      let s := s.freshViews (((s.ctx? l.asid).map (·.vfn)).getD 0)
      let s := s.l1Drop (fun x => mine (clusterOfCore x.core))
      let s := { s with mem := { s.mem with code := s.mem.code.filter (fun c => !mine c.1) } }
      some (s.modLaunch id (fun l => { l with st := .started, flush := [] }))

/-- `launchStart`. -/
def execLaunchStart (l : Nat) (s : State) : Host.Outcome State Fault Refusal := .next ((s.launchStart? l).getD s)

/-! ## The completion of a launch (R136) -/

/-- Whether work of a launch is left, replays of its bins apart (R136): continuations that it registered and that await a future
are. (DEDUCED, log 49.) -/
def State.launchBusy (s : State) (l : Launch) : Bool :=
  l.nextBlock < l.desc.blocks || s.blocks.any (fun b => b.launch == l.id) || s.rays.any (fun r => r.launch == l.id) ||
  s.cmds.any (fun c => c.launch == l.id) || s.listWalks.any (fun x => x.launch == l.id) ||
  ((s.ctx? l.asid).map (fun c => c.conts.any (fun y => y.1 == l.id))).getD false

/-- Group accumulation contributions by tile: a reproducible merge takes all of a tile together (R481). -/
def mergeTiles (bs : List AccBin) : List AccBin :=
  bs.foldl (fun acc b =>
    if acc.any (fun a => a.tile == b.tile) then acc.map (fun a => if a.tile = b.tile then { a with items := a.items ++ b.items } else a)
    else acc ++ [b]) []

/-- Start what replays are due at completion: the non-empty bins of the launch's scatter sets (R169), and its accumulation
bins (R170), in a reproducible context with what it has spilled (R481). -/
def State.flushBins (s : State) (l : Launch) : Option State :=
  match l.binSets with
  | (part, desc, hm) :: rest =>
    let w : CirqueWho := { part := part, asid := l.asid, hm := hm, corr := l.corr, stamp := s.ids }
    let done := fun (s : State) => s.modLaunch l.id (fun l => { l with binSets := rest })
    match s.binSet w desc with
    | .error e => e.settle s
    | .ok (s1, d) =>
      if d.bad then some (done s1)
      else match s1.filledRegions w d (List.range d.nreg) with
        | .error e => e.settle s
        | .ok (s2, rs) => some (done (s2.startReplays w l.id desc d.rlog rs).1)
  | [] =>
    let mine := fun (b : AccBin) => b.launch == l.id
    let bins := s.accBins.filter mine
    let bins := if s.isRepro l.asid then mergeTiles (s.spilled.filter mine ++ bins) else bins
    let s := { s with accBins := s.accBins.filter (fun b => !mine b), spilled := s.spilled.filter (fun b => !mine b) }
    let s := s.modCtx l.asid (fun c => { c with spillUsed := 0 })
    some (bins.foldl (fun s b =>
      s.addReplay { part := b.part, asid := l.asid, hm := false, corr := l.corr, stamp := s.ids } l.id none b.tile b.items) s)

/-- Write the result word (R398). (DEDUCED, log 86.) -/
def State.putResult (s : State) (c : Ctx) (l : Launch) : Except CirqueStop State :=
  if l.desc.result = 0 then .ok s
  else match s.cpPlace ⟨l.asid, c.confined.getD 0, l.corr⟩ l.desc.result.toNat .store with
    | .error e => .error e
    | .ok (s, p) => .ok (s.writeBytes ⟨some l.asid, true⟩ p (leBytes 4 (if l.abort.isSome then 0 else l.result.toNat)))

/-- The system-scope release of everything a launch wrote (R136, R139): in mode 1 its stores are performed at the memory
controllers (R106), so the dirty lines of its partition's slices are written back first (R64). (DEDUCED, log 87.) -/
def State.releaseAll (s : State) (c : Ctx) : State :=
  match c.confined with
  | some p => s.flushL2 (fun x => x.slice / 16 == p && x.dirty != 0)
  | none => s

/-- A launch completes once nothing of it is left (R136): its bins are replayed first, then the result word is written, and its
packet completes. A result word that faults is written after a resume; that of an aborted launch is given up.
(DEDUCED, log 49; DEDUCED, log 86.) -/
def State.launchComplete? (s : State) (id : Nat) : Option State :=
  match s.launch? id with
  | none => none
  | some l =>
    match s.ctx? l.asid with
    | none => none
    | some c =>
      let bins := !l.binSets.isEmpty || s.accBins.any (fun b => b.launch == id) || s.spilled.any (fun b => b.launch == id)
      if l.st != .started || !(c.halt == .running || l.abort.isSome) || s.launchBusy l then none
      else if bins then s.flushBins l
      else if s.replays.any (fun r => r.launch == id) then none
      else
        let fin := fun (s : State) => ((s.releaseAll c).postLaunch id (l.abort.getD 0)).boundary l.asid
        match s.putResult c l with
        | .error (.fault s') => some (if l.abort.isSome then fin s' else s')
        | .error (.wait s') => progress s s'
        | .ok s => some (fin s)

/-- `launchComplete`. -/
def execLaunchComplete (l : Nat) (s : State) : Host.Outcome State Fault Refusal := .next ((s.launchComplete? l).getD s)

end Sys2Proof.Machine
end

