-- ==== Sys2Proof/Machine/Halt.lean ====
section
/-! DEFINITION. Halts: the halt line, the agents that stop and their stop records, the completion of a halt (R450 to R456);
resume, abort and end (R458, R459); the samples of cores (R472, R473) and the time limit of a bound trace (R479). -/
namespace Sys2Proof.Machine

/-! ## The agents of a context (R450, R455, R456) -/

/-- The groups of a context that are resident. -/
def State.residentKeys (s : State) (asid : Nat) : List GroupKey :=
  (s.blocks.filter (fun b => b.asid == asid && b.placed)).flatMap (fun b =>
    (b.groups.filter (fun g => !g.ended)).map (fun g => ⟨b.serial, g.index⟩))

/-- The sequencers of a context's resident blocks, Idle ones too (R267). -/
def State.boundSeqs (s : State) (asid : Nat) : List Sequencer :=
  s.seqs.filter (fun (x : Sequencer) => x.key.index < 4 && ((s.block? x.blk).map (fun b => b.asid == asid)).getD false)

/-- The commands of a context that an engine holds, oldest first. -/
def State.engineCmds (s : State) (asid e : Nat) : List CopyCmd := s.cmds.filter (fun (c : CopyCmd) => c.asid == asid && c.engine == e)

/-- The rays of a context that a traversal unit holds. -/
def State.unitRays (s : State) (asid cluster : Nat) : List Ray :=
  s.rays.filter (fun (r : Ray) => r.asid == asid && r.st == .walking && (r.walk.map (fun w => w.cluster == cluster)).getD false)

/-- The rays of a context that wait in the bins of a partition. -/
def State.cirqueRays (s : State) (asid part : Nat) : List Ray :=
  s.rays.filter (fun (r : Ray) => r.asid == asid && r.part == part && ((r.binOf false).isSome || (r.binOf true).isSome))

/-- The partition of a group's cluster. -/
def State.partOfKey (s : State) (k : GroupKey) : Nat := ((s.block? k.block).map (fun b => partOfCluster b.cluster)).getD 0

/-- The launches whose work a Cirque holds for a context: rays in bins, accumulation bins, replays, and appends under way. -/
def State.cirqueLaunches (s : State) (asid part : Nat) : List Nat :=
  (s.cirqueRays asid part).map (·.launch) ++
  (s.accBins.filter (fun b => b.part == part && ((s.launch? b.launch).map (fun l => l.asid == asid)).getD false)).map (·.launch) ++
  (s.replays.filter (fun r => r.asid == asid && r.part == part)).map (·.launch) ++
  (s.ops.filter (fun o => s.asidOf o.gk == asid && s.partOfKey o.gk == part && (match o.body with
    | .binp .. => true
    | .accum .. => true
    | _ => false))).map (fun o => ((s.block? o.gk.block).map (·.launch)).getD 0)

/-- Every agent that holds work of a context. (DEDUCED, log 89.) -/
def State.haltAgents (s : State) (asid : Nat) : List HaltAgent :=
  (s.residentKeys asid).map HaltAgent.group ++
  (s.boundSeqs asid).map (fun x => HaltAgent.sequencer x.key) ++
  ((List.range 96).filter (fun e => !(s.engineCmds asid e).isEmpty)).map HaltAgent.engine ++
  ((List.range 192).filter (fun c => !(s.unitRays asid c).isEmpty)).map HaltAgent.traversal ++
  ((List.range 8).filter (fun p => !(s.cirqueLaunches asid p).isEmpty)).map HaltAgent.cirque

/-! ## Stop records -/

/-- HSEQ of the halt in progress. (DEDUCED, log 89.) -/
def State.hseqField (s : State) (asid : Nat) : Nat × Nat × Nat := (0x68, 8, (s.asidInfo asid).hseq.toNat)

/-- PC of a slot as a stop record gives it: 0 for a Free slot. -/
def Slot.stopPc (x : Slot) : Nat := if x.st.live then x.pc.toNat else 0

/-- PC of a saved slot as a stop record gives it. -/
def SavedSlot.stopPc (x : SavedSlot) : Nat := if (SlotState.ofCode x.st).live then x.pc.toNat else 0

/-- The stop record of a resident group (R453 to R455). (DEDUCED, log 88; DEDUCED, log 94.) -/
def State.groupStop (s : State) (b : Block) (g : Group) : List Byte :=
  let c := g.stopCause.getD { code := 0, sub := 0, tval := 0, slot := 0 }
  let nest := g.hm && !g.dbl
  let flags := b2n nest + 2 * b2n g.lost + 8 * b2n g.dbl + 16 * b2n c.strm.isSome
  recordOf 128 ([(0, 1, 1), (1, 1, c.code), (2, 1, c.sub), (3, 1, flags), (4, 2, b.asid), (6, 2, g.core),
      (8, 4, (s.corrOfBlock b).toNat), (0x0C, 4, g.gid.toNat), (0x10, 8, g.slot0.stopPc), (0x18, 8, g.slot1.stopPc),
      (0x20, 4, g.slot0.mask.toNat), (0x24, 4, g.slot1.mask.toNat), (0x28, 4, g.emask.toNat), (0x2C, 4, g.lfmask.toNat),
      (0x30, 1, g.slot0.stByte), (0x31, 1, g.slot1.stByte), (0x32, 1, g.sd), (0x33, 1, g.res), (0x34, 4, g.sc),
      (0x3C, 4, c.tval.toNat), s.hseqField b.asid] ++
    (if g.hm || g.dbl then [(0x38, 1, bitsAt g.cause.toNat 0 8), (0x39, 1, bitsAt g.cause.toNat 8 8)] else []) ++
    (if nest then [(0x40, 8, g.save0.stopPc), (0x48, 8, g.save1.stopPc), (0x50, 4, g.save0.mask.toNat), (0x54, 4, g.save1.mask.toNat)]
      else []) ++
    (c.strm.getD []))

/-- A kind-4 record of another agent (R456). -/
def State.agentStop (s : State) (asid agent : Nat) (corr : Word) (fields : List (Nat × Nat × Nat)) : List Byte :=
  recordOf 128 ([(0, 1, 4), (4, 2, asid), (6, 2, agent), (8, 4, corr.toNat), s.hseqField asid] ++ fields)

/-- The number of a sequencer state (R456). -/
def SeqState.num : SeqState → Nat
  | .idle => 0
  | .run => 1
  | .wait => 2
  | .stall => 3
  | .trapped => 4
  | .stopped => 5

/-- The address of the destination line that a copy command writes next. (DEDUCED, log 89.) -/
def CopyCmd.nextLine (c : CopyCmd) : Nat :=
  let c := if c.accepted then c else { c with todo := c.units }
  ((c.nextByte 0).map (fun a => a / 128 * 128)).getD 0

/-- An agent reaches its stop point and writes its record, or drops it; an agent that holds nothing any more writes none. An engine
discards what it has read for the line that it would write next, and for the lines after it (R450).
(DEDUCED, log 89.) -/
def State.stopAgent (s : State) (asid : Nat) : HaltAgent → State
  | .group k =>
    match s.group? k, s.block? k.block with
    | some g, some b =>
      if g.ended then s
      else
        let s := s.pushRecord asid true (s.groupStop b g)
        let s := (s.runs.filter (fun r => r.gk == k)).foldl (fun s r => s.endRun r.core k r.slot 6) s
        s.modGroup k (fun g => { g with stopped := true })
    | _, _ => s
  | .sequencer k =>
    match s.seq? k with
    | some x =>
      let was := if x.st = .stopped then x.was else x.st
      let s := s.pushRecord asid true (s.agentStop asid (seqAgent k) 0
        ([(0x0C, 4, x.starterGid.toNat), (0x10, 8, was.num)] ++ x.stopFields))
      s.modSeq k (fun x => { x with st := .stopped, was := was })
    | none => s
  | .engine e =>
    match s.engineCmds asid e with
    | c :: _ =>
      let s := s.pushRecord asid true (s.agentStop asid (0x8000 + e) c.corr [(0x0C, 4, c.gid.toNat), (0x10, 8, c.kind), (0x18, 8, c.nextLine)])
      { s with cmds := s.cmds.map (fun (x : CopyCmd) => if x.asid = asid ∧ x.engine = e then x.discardReads else x) }
    | [] => s
  | .traversal cl =>
    match s.unitRays asid cl with
    | _ :: rs => s.pushRecord asid true (s.agentStop asid (0x9000 + cl) 0 [(0x10, 8, rs.length + 1)])
    | [] => s
  | .cirque p =>
    match s.cirqueLaunches asid p with
    | _ :: _ => s.pushRecord asid true (s.agentStop asid (0xA000 + p) 0 [(0x10, 8, (s.cirqueRays asid p).length)])
    | [] => s

/-! ## Discarded work (R459) -/

/-- Drop the work of a block that is thrown away: what its groups have issued, and what keeps account of them. -/
def State.forgetBlock (s : State) (serial : Nat) (keep : OpBody → Bool) : State :=
  { s with ops := s.ops.filter (fun o => !(o.gk.block == serial) || keep o.body), walks := s.walks.filter (fun w => !(w.gk.block == serial)),
           fails := s.fails.filter (fun f => !(f.gk.block == serial)), runs := s.runs.filter (fun r => !(r.gk.block == serial)),
           traces := s.traces.filter (fun t => !(t.gk.block == serial)), seqs := s.seqs.filter (fun x => !(x.blk == serial)) }

/-- Discard all work of a launch: groups, saved blocks, rays, bins without replay, commands, whose ownership goes, and its registered
continuations. With `aborted` its blocks write their records, and the walks of wait lists that it has caused go on.
(DEDUCED, log 91.) -/
def State.discardLaunch (s : State) (id : Nat) (aborted : Bool) : State :=
  let bs := s.blocks.filter (fun b => b.launch == id)
  let s := if aborted then (bs.filter (fun b => b.st != .ended)).foldl (fun s b => s.endBlock b true) s else s
  let s := bs.foldl (fun s b => s.forgetBlock b.serial (fun _ => false)) s
  let cmds := s.cmds.filter (fun c => c.launch == id)
  let s := { s with blocks := s.blocks.filter (fun b => b.launch != id), cmds := s.cmds.filter (fun c => c.launch != id),
                    rays := s.rays.filter (fun r => r.launch != id), accBins := s.accBins.filter (fun b => b.launch != id),
                    spilled := s.spilled.filter (fun b => b.launch != id), replays := s.replays.filter (fun r => r.launch != id),
                    prefetches := s.prefetches.filter (fun p => p.launch != id),
                    listWalks := if aborted then s.listWalks.map (fun (w : ListWalk) => if w.launch = id then { w with launch := 0 } else w)
                      else s.listWalks.filter (fun w => w.launch != id),
                    ctxs := s.ctxs.map (fun (c : Ctx) => { c with conts := c.conts.filter (fun y => y.1 != id) }),
                    gangs := s.gangs.filter (fun g => g.1 != id) }
  let s := ((cmds.map (·.engine)).eraseDups).foldl State.wakeEngine s
  s.modLaunch id (fun l => { l with nextBlock := l.desc.blocks, binSets := [], binKeys := [] })

/-- CTXCTL end, once the context is halted (R459): all of its work is discarded, each of its launches completes with status
0x16, and it reaches its boundary. Its debug registers are 0 again for the context that comes after it (R370).
(DEDUCED, log 90.) (DEDUCED, log 120.) -/
def State.endContext (s : State) (asid : Nat) : State :=
  let ids := (s.launches.filter (fun l => l.asid == asid)).map (·.id)
  let s := ids.foldl (fun s id => s.discardLaunch id false) s
  let s := s.modCtx asid (fun c => { c with conts := [] })
  let s := { s with listWalks := s.listWalks.filter (fun w => w.asid != asid), prefetches := s.prefetches.filter (fun p => p.asid != asid) }
  (s.endAsid asid).boundary asid

/-- Work of a group that ABORT discards: what has left the group goes on, as after an `exit`. (DEDUCED, log 91.) -/
def OpBody.outlives : OpBody → Bool
  | .regs .. => true
  | .load .. => true
  | .store .. => true
  | .atomic .. => true
  | .ldl .. => true
  | .stl .. => true
  | .atoml .. => true
  | .binrep .. => true
  | .accum .. => true
  | .handoff .. => true
  | .tex .. => true
  | .slice _ x => x.started
  | _ => false

/-- Discard a block that lost its state (R270, R459): its groups are dropped, their rays retired, and its launch is to
complete with status 0x15. (DEDUCED, log 91.) -/
def State.abortBlock (s : State) (b : Block) : State :=
  let keys := (b.groups.filter (fun g => !g.ended)).map (fun g => GroupKey.mk b.serial g.index)
  let s := keys.foldl (fun s k => s.retireLanes k (BitVec.allOnes 32)) s
  let s := s.forgetBlock b.serial OpBody.outlives
  let drop := fun (g : Group) => { g with ended := true, emask := 0, slot0 := Slot.free, slot1 := Slot.free, pend := [], rsv := 0,
                                          deferred := [], entering := none, stopped := false }
  let s := s.modBlock b.serial (fun b => { b with groups := b.groups.map drop })
  let s := s.modLaunch b.launch (fun l => { l with abort := some 0x15 })
  match s.block? b.serial with
  | some b => s.endBlock b true
  | none => s

/-- Whether a block holds a LOST or DBL group. -/
def Block.lostOrDbl (b : Block) : Bool := b.st != .ended && b.groups.any (fun g => !g.ended && (g.lost || g.dbl))

/-! ## Resume (R458) -/

/-- What a resume restarts of a group. -/
def Group.restart (g : Group) : Group := { g with stopped := false, stopCause := none }

/-- Let stopped work of the slice logic go on. -/
def OpBody.restart : OpBody → OpBody
  | .slice o x => .slice o { x with stopped := false }
  | x => x

/-- What a group has issued before a halt is released at die scope before anything that it issues after the restart, which acquires
(R143): the L1 of its core goes, and a fence stands behind work that is still under way. (DEDUCED, log 119.) -/
def State.fenceRestart (s : State) (k : GroupKey) : State :=
  match s.group? k with
  | some g =>
    let s := s.l1Drop (fun l => l.core == g.core)
    let under := s.ops.any (fun o => o.gk == k && o.body.holdsFence .die) || s.cmds.any (fun c => c.gk == k && !c.accepted) ||
      !s.observedDone k g.seen
    if under && !g.ended then s.addOp k 0 (.fence .die) else s
  | none => s

/-- The halt line drops: every agent of the context continues from its stop point (R458, R267, R241). (DEDUCED, log 119.) -/
def State.restart (s : State) (asid : Nat) : State :=
  let mine := fun (k : GroupKey) => s.asidOf k == asid
  let bs := (s.blocks.filter (fun b => b.asid == asid)).map (·.serial)
  let s := (s.residentKeys asid).foldl State.fenceRestart s
  let s := (s.modCtx asid (fun c => { c with halt := .running, agents := [] })).rereadTables asid
  let s := { s with
    blocks := s.blocks.map (fun (b : Block) => if b.asid = asid then { b with groups := b.groups.map Group.restart } else b),
    seqs := s.seqs.map (fun (x : Sequencer) => if bs.contains x.blk && x.st == .stopped then { x with st := x.was } else x),
    cmds := s.cmds.map (fun (c : CopyCmd) => if c.asid = asid then { c with stopped := false } else c),
    replays := s.replays.map (fun (r : Replay) => if r.asid = asid then { r with stopped := false } else r),
    listWalks := s.listWalks.map (fun (w : ListWalk) => if w.asid = asid then { w with stopped := false } else w),
    ops := s.ops.map (fun (o : Op) => if mine o.gk then { o with body := o.body.restart } else o),
    fails := s.fails.filter (fun f => !mine f.gk) }
  (bs.foldl State.stageWake s).letAllIn

/-- A resume of a context whose halt is complete, or that is not halted: the state and the status. -/
def State.resume (s : State) (asid : Nat) : State × Nat :=
  match s.ctx? asid with
  | some c =>
    if c.halt ≠ .halted then (s, 1)
    else if s.blocks.any (fun b => b.asid == asid && b.lostOrDbl) then (s, 2)
    else (s.restart asid, 0)
  | none => (s, 1)

/-! ## The halt line and its completion (R450, R452) -/

/-- What has waited for a halt is carried out in the order read; a resume whose entries have to be waited for waits, with what comes
after it. (DEDUCED, log 90.) (DEDUCED, log 121.) -/
def State.afterHalt (s : State) (asid : Nat) : List (Nat × Nat × Bool × Bool) → State
  | [] => s
  | (q, n, irq, true) :: r => ((s.endContext asid).ctxctlDone q n irq 0).afterHalt asid r
  | (q, n, irq, false) :: r =>
    match s.rereadReads asid with
    | .wait s' => s'.modCtx asid (fun c => { c with afterPkts := (q, n, irq, false) :: r })
    | _ =>
      let (s', st) := s.resume asid
      (s'.ctxctlDone q n irq st).afterHalt asid r

/-- A halt is complete: SHEAD and FHEAD, the vector, the halt packets, and then what waited for the halt (R452, R458); a context of
which nothing is left has reached its boundary (R65). -/
def State.haltDone (s : State) (asid : Nat) : State :=
  match s.ctx? asid with
  | none => s
  | some c =>
    let s := s.modCtx asid (fun c => { c with halt := .halted, agents := [], haltPkts := [], afterPkts := [] })
    ((s.haltReport c).afterHalt asid c.afterPkts).boundary asid

/-- What waits for a halt that is complete goes on once its entries can be read. (DEDUCED, log 121.) -/
def State.afterEvent? (s : State) (asid : Nat) : Option State :=
  match s.ctx? asid with
  | some c =>
    if c.halt ≠ .halted || c.afterPkts.isEmpty then none
    else match s.rereadReads asid with
      | .wait s' => progress s s'
      | _ => some (((s.modCtx asid (fun c => { c with afterPkts := [] })).afterHalt asid c.afterPkts).boundary asid)
  | none => none

/-- The halt line reaches the partitions of a context: its agents begin to stop; with none the halt is complete. -/
def State.haltLine? (s : State) (asid : Nat) : Option State :=
  match s.ctx? asid with
  | some c =>
    if c.halt ≠ .raised then none
    else
      let as := s.haltAgents asid
      let s := s.modCtx asid (fun c => { c with halt := .stopping, agents := as })
      some (if as.isEmpty then s.haltDone asid else s)
  | none => none

/-- `haltLineArrive`. -/
def execHaltLineArrive (asid : Nat) (s : State) : Host.Outcome State Fault Refusal := .next ((s.haltLine? asid).getD s)

/-- An agent of a halting context stops; the last one completes the halt. -/
def State.agentStop? (s : State) (asid : Nat) (a : HaltAgent) : Option State :=
  match s.ctx? asid with
  | some c =>
    if c.halt ≠ .stopping || !c.agents.contains a then none
    else
      let s := (s.stopAgent asid a).modCtx asid (fun c => { c with agents := c.agents.filter (· != a) })
      some (if c.agents.all (· == a) then s.haltDone asid else s)
  | none => none

/-- `haltAgentStop`. -/
def execHaltAgentStop (asid : Nat) (a : HaltAgent) (s : State) : Host.Outcome State Fault Refusal := .next ((s.agentStop? asid a).getD s)

/-! ## Samples (R472, R473) -/

/-- The wavefronts of a local-store access (R67): the largest count of 4-byte words that it touches in one bank. -/
def wavefronts (words : List Nat) : Nat := (upFrom 0 32).foldl (fun m b => max m ((words.filter (fun w => w % 32 == b)).length)) 0

/-- The 4-byte words of a local access at an address. -/
def wordsAt (n a : Nat) : List Nat := upFrom (a / 4) ((a + n - 1) / 4 + 1 - a / 4)

/-- The words that a local access counts: lanes that name one word share it, but for an atomic (R67). -/
def OpBody.bankWords : OpBody → List Nat
  | .ldl accs wid _ _ _ _ => (accs.flatMap (fun x => wordsAt (widthBytes wid) x.2)).eraseDups
  | .atoml ls op _ _ _ _ => ls.flatMap (fun x => wordsAt (atomBytes op) x.2.1)
  | _ => []

/-- The reason of a pending local-store result: a locked line, extra wavefronts, or the result. -/
def State.localReason (s : State) (o : Op) : Nat :=
  let locks := ((s.block? o.gk.block).map (·.locks)).getD []
  if o.body.isParked && o.body.localAddrs.any (fun a => locks.contains (lineOf a)) then 21
  else if 1 < wavefronts o.body.bankWords then 22
  else 7

/-- The reason of a pending memory result: a line that is owned, else the kind of memory. -/
def State.farReason (s : State) (parked far : Bool) (ls : List Loc) : Nat :=
  if parked && ls.any (fun l => s.owned l) then 21 else if far then 9 else 8

/-- The reason of a slot that waits for registers: what the first of them waits for. (DEDUCED, log 95.) -/
def State.pendReason (s : State) (g : Group) (rs : List RegId) : Nat :=
  match rs.findSome? (fun r => g.pend.find? (fun p => p.reg == r)) with
  | none => 31
  | some p =>
    if p.kind = .token then 12
    else match s.op? p.op with
      | some o => match o.body with
        | .load accs _ _ _ _ _ parked => s.farReason parked p.far (accs.map (·.loc))
        | .atomic ls _ _ _ _ _ parked => s.farReason parked p.far (ls.map (·.loc))
        | .ldl .. => s.localReason o
        | .atoml .. => s.localReason o
        | .tex .. => 10
        | .accld .. => 11
        | .regs .rng _ => 10
        | .regs .rebal _ => 11
        | .regs .rdsr _ => 11
        | _ => if p.kind = .fixed then 6 else 31
      | none => if p.kind = .fixed then 6 else 31

/-- Whether a walk of a slot is for its fetch. -/
def State.fetchWalk (s : State) (k : GroupKey) (n : Nat) (pc : DWord) : Bool :=
  s.walks.any (fun w => w.gk == k && w.slot == n && w.va.toNat / 65536 == pc.toNat / 65536)

/-- Whether a slot holds its core's run: it is stalled in place where it does not issue (R441). -/
def State.inPlace (s : State) (k : GroupKey) (g : Group) (n : Nat) : Bool :=
  s.runs.any (fun r => r.core == g.core && r.gk == k && r.slot == n)

/-- Whether a group stands behind a fence (R119). -/
def State.behindFence (s : State) (k : GroupKey) : Bool :=
  s.ops.any (fun o => o.gk == k && (match o.body with
    | .fence _ => true
    | _ => false))

/-- REASON of a slot that has not issued in the clk (R473). Code 19 is never given, since no rule gives a store FIFO a size; an append
that a reproducible context waits for has met no full bin (R481). (DEDUCED, log 95.) -/
def State.reason (s : State) (k : GroupKey) (g : Group) (n : Nat) : Nat :=
  let x := g.slot n
  if g.stopped || !((s.ctx? (s.asidOf k)).map Ctx.runs).getD false then 31
  else match x.st with
    | .ready => if x.turned then 30 else if x.yielded then 2 else if !s.inPlace k g n then 1
        else if s.behindFence k then 23 else if g.pend.any (fun p => p.kind == .fixed) then 6 else 1
    | .join => 26
    | .free => 31
    | .wait => match x.wait with
      | some (.regs rs) => s.pendReason g rs
      | some .walk => if s.fetchWalk k n x.pc then 5 else 31
      | some .walkRoom => 20
      | some .fetch => 4
      | some (.count _) => 17
      | some .engine => 18
      | some (.fence _) => 23
      | some (.counts l st c _) => if l < g.ldCnt then 13 else if st < g.stCnt then 14 else if c < g.cpCnt then 15 else 16
      | some (.barBlk _) => 24
      | some (.stage _ _) => 25
      | some (.tqPop _) => 27
      | some (.binFull _) => if s.isRepro (s.asidOf k) then 31 else 28
      | some .seqBusy => 29
      | some .refill => 3
      | none => 31

/-- The groups of a context that are resident on a core, by residency index. -/
def State.groupsOn (s : State) (asid core : Nat) : List (GroupKey × Group) :=
  let all := (s.residentKeys asid).filterMap (fun k => (s.group? k).map (fun g => (k, g)))
  sortBy (fun a b => a.2.res ≤ b.2.res) (all.filter (fun x => x.2.core == core))

/-- Take a sample of a context on a core: the next group in rotation; one that issued in the clk before is given with the address of
that instruction (R472). (DEDUCED, log 95.) -/
def State.sampleOne (s : State) (core asid : Nat) : State :=
  let gs := s.groupsOn asid core
  if !bitAt ((s.asidInfo asid).reg 0x80) 0 then s
  else
    let at_ := ((s.samplers.find? (fun x => x.core == core && x.asid == asid))).getD { core := core, asid := asid, next := 0, tick := 0 }
    match (gs.find? (fun x => at_.next ≤ x.2.res)).or gs.head? with
    | none => s
    | some (k, g) =>
      let n := if g.slot0.st.live then 0 else 1
      let issued := match s.lastIssue with
        | some x => if x.1 = k ∧ x.2.2 + 1 = s.clk then some x.2.1 else none
        | none => none
      let pc := (issued.getD (g.slot n).pc).toNat % 2 ^ 54
      let why := if issued.isSome then 2 ^ 5 else s.reason k g n % 32
      let word := pc + 2 ^ 54 * (g.res % 16) + 2 ^ 58 * why
      let s := s.dbgAppend asid 0x81 (recordOf 16 [(0, 8, word), (8, 4, g.gid.toNat), (0x0C, 2, core), (0x0E, 2, at_.tick % 65536)])
      let at' : Sampler := { at_ with next := g.res + 1, tick := (at_.tick + 1) % 65536 }
      { s with samplers := at' :: s.samplers.filter (fun x => !(x.core == core && x.asid == asid)) }

/-- `profileSample`: a core's sample, for every context that samples; the clk that it tells of is that of the step before. -/
def execProfileSample (core : Nat) (s : State) : Host.Outcome State Fault Refusal :=
  .next ((s.ctxs.map (·.asid)).foldl (fun s a => s.sampleOne core a) s)

/-! ## The time limit of a bound trace (R479) -/

/-- The streams in which an event of a context waits: the command processor's, a partition's, a queue's; with the agent that a
record names, and the launch. -/
def State.traceWaits (s : State) (asid : Nat) : List (Stream × Nat × Option Launch) :=
  let ls := s.launches.filter (fun l => l.asid == asid)
  (ls.filter (fun l => l.st == .queued || (l.st == .started && s.hasBlocks l))).map (fun l => (Stream.processor, 0xC000, some l)) ++
  ((List.range 8).filter (fun p => s.rays.any (fun r => r.asid == asid && r.part == p && (r.binOf true).isSome))).map (fun p =>
    (Stream.formation p, 0xA000 + p, ls.find? (fun l => l.hdr.isSome && l.st == .started))) ++
  (s.ops.filterMap (fun o => if s.asidOf o.gk != asid then none else match o.body with
    | .slice op x =>
      if x.started then none
      else match op with
        | .push _ _ => some (Stream.queue x.va.toNat, 0xD000 + s.sliceFor asid x.place, (s.block? o.gk.block).bind s.launchOf)
        | .pop _ _ _ => some (Stream.queue x.va.toNat, 0xD000 + s.sliceFor asid x.place, (s.block? o.gk.block).bind s.launchOf)
        | _ => none
    | _ => none))

/-- 2^24 clk have passed in which a bound event waits and no entry of the context is consumed. (DEDUCED, log 46.) -/
def State.traceTimeout? (s : State) (asid : Nat) : Option State :=
  match s.ctx? asid with
  | some c =>
    if c.repro && c.dtMode == 2 && c.halt == .running then
      (s.traceWaits asid).head?.map (fun x => s.dtMismatch asid x.1 x.2.1 x.2.2)
    else none
  | none => none

/-- `dispatchTraceTimeout`. -/
def execDispatchTraceTimeout (asid : Nat) (s : State) : Host.Outcome State Fault Refusal := .next ((s.traceTimeout? asid).getD s)

end Sys2Proof.Machine
end

