-- ==== Sys2Proof/Machine/Packets.lean ====
section
/-! DEFINITION. The packets of the command processor (R425 to R433): what each does when it is read and afterwards; the
invalidate (R43) and the page move (R46, R47); abort and context control (R450, R458, R459). -/
namespace Sys2Proof.Machine

/-! ## Fields and limits (R427) -/

/-- A field of a packet. -/
def Packet.f (p : Packet) (off n : Nat) : Nat := fieldAt p.bs off n

/-- ASID of a management packet. -/
def Packet.asid (p : Packet) : Nat := p.f 4 2

/-- The word that WAIT and SIGNAL name: kind 0 or 2, 8-byte aligned, in the function's range (R427, R421). -/
def State.packetWord (s : State) (p : Packet) : Option Loc :=
  if bitAt (p.f 8 8) 2 then none else s.placeOf p.x.vfn (p.f 8 8) 3

/-- The handle references of a LAUNCH, unused ones apart: handle, read, write (R429). -/
def Packet.refs (p : Packet) : List (Nat × Bool × Bool) :=
  (upFrom 0 8).filterMap (fun i =>
    let r := p.f (0x10 + 2 * i) 2
    if bitsAt r 12 2 = 0 then none else some (bitsAt r 0 12, bitAt r 12, bitAt r 13))

/-- Whether a packet is legal: its header and its OP (R425), and its fields within their limits (R427). -/
def State.packetGood (s : State) (p : Packet) : Bool :=
  p.legal && (match p.op with
    | 1 => p.f 8 8 % 128 == 0 && (upFrom 0 8).all (fun i => p.f (0x10 + 2 * i) 2 < 2 ^ 14)
    | 2 => 1 ≤ p.f 4 1 && 1 ≤ p.f 5 1 && p.f 6 1 ≤ 1
    | 3 => (s.packetWord p).isSome
    | 4 => (s.packetWord p).isSome
    | 5 => p.asid ≤ 1023 && p.f 8 8 % 65536 == 0 && within 1 (p.f 0x10 8) (2 ^ 38)
    | 6 => p.asid ≤ 1023 && p.f 6 2 ≤ 1
    | 7 => p.asid ≤ 1023 && p.f 6 2 ≤ 1
    | 8 => p.asid ≤ 1023 && p.f 6 2 ≤ 2
    | _ => true)

/-- Read the next packet when it is a legal one with an OP, and further a test. -/
def State.goodPacket? (s : State) (q op : Nat) (ok : Packet → Bool) (go : State → Packet → State) : Option State :=
  s.packet? q (fun p => s.packetGood p && p.op == op && ok p) go

/-- `nopPacket`: a completion record and nothing else. -/
def State.nop? (s : State) (q : Nat) : Option State := s.goodPacket? q 0 (fun _ => true) (fun s p => s.finishPacket p 0)

/-- `nopPacket`. -/
def execNopPacket (q : Nat) (s : State) : Host.Outcome State Fault Refusal := .next ((s.nop? q).getD s)

/-- A packet that is not legal completes with status 0x1E and has no other effect (R425). -/
def State.illegal? (s : State) (q : Nat) : Option State := s.packet? q (fun p => !s.packetGood p) (fun s p => s.finishPacket p 0x1E)

/-- `illegalPacket`. -/
def execIllegalPacket (q : Nat) (s : State) : Host.Outcome State Fault Refusal := .next ((s.illegal? q).getD s)

/-! ## LAUNCH (R430) -/

/-- A LAUNCH packet that has been read: entered in the handle table, it holds its queue until it is accepted or refused. -/
def State.enterLaunch (s : State) (p : Packet) : State :=
  let id := s.ids
  let l : Launch :=
    { id := id, q := p.x.q, n := p.n, irq := p.irq, corr := corrOf p.x.q p.n, asid := p.x.asid, fn := p.x.vfn, prio := 0,
      descVa := BitVec.ofNat 64 (p.f 8 8), refs := p.refs, waits := s.handleWaits p.x.vfn p.refs, ser := p.ser, flush := [],
      st := .queued, desc := Desc.blank, tables := [], hdr := none, shaders := [], result := 0,
      ctr := { impl := 0, misuse := 0, spfail := 0, badsh := 0, accdrop := 0, terms := 0 }, nextBlock := 0, lseq := 0,
      formed := Vector.replicate 8 0, binSets := [], binKeys := [], abort := none }
  let s := ({ s with ids := id + 1, launches := s.launches ++ [l] }).enterHandles p.x.vfn id p.refs
  let s := match s.queue? p.x.q with
    | some x => s.putQueue { x with hold := some (Hold.launch id) }
    | none => s
  s.letAllIn

/-- What a try to accept launches changes: their number and states, the resident contexts, the switch, the lines asked for. -/
def State.admitMark (s : State) : List LaunchState × Nat × Bool × Nat × Nat :=
  (s.launches.map (·.st), s.ctxs.length, s.regs.l2cfg.swp, s.mem.homeTxn.length, (s.ctxs.filter (fun c => c.halt == .running)).length)

/-- Whether no write of the host waits: a launch follows what the host wrote before its doorbell (R139). -/
def State.hostQuiet (s : State) : Bool := s.hostAcc.all (fun x => x.data.isNone)

/-- Read a LAUNCH, or try again to accept the one that holds the queue. -/
def State.launchPacket? (s : State) (q : Nat) : Option State :=
  match (s.queue? q).bind (·.hold) with
  | some (.launch _) =>
    let s' := s.letAllIn
    if s'.admitMark = s.admitMark then none else some s'
  | _ => s.goodPacket? q 1 (fun _ => s.hostQuiet) State.enterLaunch

/-- `launch`. -/
def execLaunch (q : Nat) (s : State) : Host.Outcome State Fault Refusal := .next ((s.launchPacket? q).getD s)

/-! ## BRANCH (R433) -/

/-- Hold a queue. -/
def State.holdQueue (s : State) (q : Nat) (h : Hold) : State :=
  match s.queue? q with
  | some x => s.putQueue { x with hold := some h }
  | none => s

/-- Read a BRANCH: later packets are not read until it has been evaluated. -/
def State.branch? (s : State) (q : Nat) : Option State :=
  s.goodPacket? q 2 (fun _ => true) (fun s p =>
    s.holdQueue q (.branch p.n (p.f 4 1) (p.f 5 1) (p.f 6 1 == 1) (BitVec.ofNat 32 (p.f 8 4)) (BitVec.ofNat 32 (p.f 0xC 4)) p.irq))

/-- `branch`. -/
def execBranch (q : Nat) (s : State) : Host.Outcome State Fault Refusal := .next ((s.branch? q).getD s)

/-- The condition of a branch: CMP 1 asks for a difference. -/
def branchTakes (cmp : Bool) (result mask val : Word) : Bool := if cmp then result &&& mask != val else result &&& mask == val

/-- Evaluate the BRANCH that holds a queue, once packet n − BACK has completed. -/
def State.branchEval? (s : State) (q : Nat) : Option State :=
  match s.queue? q with
  | some x => match x.hold with
    | some (.branch n back skip cmp mask val irq) =>
      let target := countDiff n back
      if x.inFlight.contains target then none
      else
        let result := ((x.results.find? (fun r => r.1 == target)).map (·.2)).getD 0
        let skip := if branchTakes cmp result mask val then skip else 0
        let s := s.putQueue { x with hold := none, skip := skip }
        some ((s.completePacket q (x.plainDone n 2 0 irq)).skipPackets q skip)
    | _ => none
  | none => none

/-- `branchEvaluate`. -/
def execBranchEvaluate (q : Nat) (s : State) : Host.Outcome State Fault Refusal := .next ((s.branchEval? q).getD s)

/-! ## WAIT and SIGNAL (R427) -/

/-- Whether a WAIT's word, read unsigned as an acquire, is at least C; a poisoned word never is. (DEDUCED, log 92.) -/
def State.waitMet (s : State) (l : Loc) (c : Nat) : Bool :=
  s.lineStatus .device false l == .ok && !s.poisonIn .device l 8 && c ≤ s.numAt .device l 8

/-- Read a WAIT: it completes, or it holds the queue. -/
def State.queueWait? (s : State) (q : Nat) : Option State :=
  s.goodPacket? q 3 (fun _ => true) (fun s p =>
    match s.packetWord p with
    | some l =>
      if s.waitMet l (p.f 0x10 8) then s.finishPacket p 0
      else
        let s := s.holdQueue q (.wait p.n l (p.f 0x10 8) p.irq)
        if s.poisonIn .device l 8 then s.chargeOr (some p.x.asid) (s.poisonCode .device l) l.pa 0xC000 (corrOf q p.n) 0 else s
    | none => s)

/-- `queueWait`. -/
def execQueueWait (q : Nat) (s : State) : Host.Outcome State Fault Refusal := .next ((s.queueWait? q).getD s)

/-- The WAIT that holds a queue reads its word again. (DEDUCED, log 92.) -/
def State.waitPoll? (s : State) (q : Nat) : Option State :=
  match s.queue? q with
  | some x => match x.hold with
    | some (.wait n l c irq) =>
      if s.waitMet l c then some ((s.putQueue { x with hold := none }).completePacket q (x.plainDone n 3 0 irq))
      else progress s (s.askPeerFor false [l])
    | _ => none
  | none => none

/-- `queueWaitPoll`. -/
def execQueueWaitPoll (q : Nat) (s : State) : Host.Outcome State Fault Refusal := .next ((s.waitPoll? q).getD s)

/-- The first SIGNAL of a queue that waits for earlier packets writes its word, a system-scope release, once they have
completed and the completion ring has room (R424, R425). (DEDUCED, log 92.) -/
def State.signalGo? (s : State) (q : Nat) : Option State :=
  match s.queue? q with
  | some x => match x.sigs with
    | (n, l, v, irq) :: r =>
      if x.full || !x.earlierDone n || s.posted != [] then none
      else if s.lineStatus .device true l ≠ .ok then progress s (s.askPeerFor true [l])
      else some (((s.writeNum .device l 8 v.toNat).putQueue { x with sigs := r }).completePacket q (x.plainDone n 4 0 irq))
    | [] => none
  | none => none

/-- A SIGNAL is read, or one that waits is performed. -/
def State.signal? (s : State) (q : Nat) : Option State :=
  (s.signalGo? q).or (s.goodPacket? q 4 (fun _ => true) (fun s p =>
    match s.packetWord p, s.queue? q with
    | some l, some x =>
      let s := s.putQueue { x with sigs := x.sigs ++ [(p.n, l, BitVec.ofNat 64 (p.f 0x10 8), p.irq)] }
      (s.signalGo? q).getD s
    | _, _ => s))

/-- `signal`. -/
def execSignal (q : Nat) (s : State) : Host.Outcome State Fault Refusal := .next ((s.signal? q).getD s)

/-! ## INVAL (R42 to R44) -/

/-- A job in progress. -/
def State.job? (s : State) (id : Nat) : Option Job := s.jobs.find? (fun j => j.id == id)

/-- Replace a job. -/
def State.putJob (s : State) (j : Job) : State := { s with jobs := s.jobs.map (fun x => if x.id = j.id then j else x) }

/-- The shootdown of a range: entries of the TLBs and walk caches go, and what walks have answered to waiting slots. -/
def State.dropRange (s : State) (asid va pages : Nat) : State :=
  let s := s.shootdown asid va (va + 65536 * pages)
  { s with fails := s.fails.filter (fun f => !(s.asidOf f.gk == asid)) }

/-- The mappings that the shootdown of a range drops: kind code, physical base and bytes (R43). (DEDUCED, log 93.) -/
def State.droppedBy (s : State) (asid va pages : Nat) : List (Nat × Nat × Nat) :=
  ((s.tlb.filter (·.meets asid va (va + 65536 * pages))).map (fun e => (e.kind, e.pbase, e.size.bytes))).eraseDups

/-- Read the tables again for a packet that asks for it: first their lines are asked for and waited for (R60, R70).
(DEDUCED, log 121.) -/
def State.tablesFirst (s : State) (q op : Nat) (ok : Packet → Bool) (go : State → Packet → State) : Option State :=
  match s.nextPacket q with
  | .packet p =>
    if p.x.skip ≠ 0 || !s.packetGood p || p.op ≠ op || !ok p then none
    else match s.rereadReads p.asid with
      | .wait s' => progress s s'
      | _ => s.goodPacket? q op ok go
  | _ => none

/-- An invalidate of the whole space of an address-space identifier that no resident context has precedes a new context (R45), whose
debug registers are 0 (R370). (DEDUCED, log 120.) -/
def State.renewAsid (s : State) (asid va pages : Nat) : State :=
  if va = 0 && pages = 2 ^ 38 && (s.ctx? asid).isNone then s.putAsid { s.asidInfo asid with dbg := (AsidInfo.new asid).dbg } else s

/-- Begin an invalidate: the context's entries are read again (R22, R445), and the translations of the range are dropped.
(DEDUCED, log 93.) -/
def State.inval? (s : State) (q : Nat) : Option State :=
  s.tablesFirst q 5 (fun _ => true) (fun s p =>
    let pa := p.f 0x18 8
    let j : Job := { id := s.ids, q := q, n := p.n, irq := p.irq, asid := p.asid, va := p.f 8 8, pages := p.f 0x10 8,
                     pa := if bitAt pa 0 then some (bitsAt pa 16 36 * 65536) else none, move := none, phase := 1,
                     dropped := s.droppedBy p.asid (p.f 8 8) (p.f 0x10 8) }
    (({ s.rereadTables j.asid with ids := s.ids + 1, jobs := s.jobs ++ [j] }).renewAsid j.asid j.va j.pages).dropRange j.asid j.va j.pages)

/-- `inval`. -/
def execInval (q : Nat) (s : State) : Host.Outcome State Fault Refusal := .next ((s.inval? q).getD s)

/-- Whether a place lies in the PA range of a job. -/
def Job.covers (j : Job) (pa : Nat) : Bool :=
  match j.pa with
  | some a => a ≤ pa && pa < a + 65536 * j.pages
  | none => false

/-- Whether a place lies in a mapping that the shootdown of a job dropped (R43). (DEDUCED, log 93.) -/
def Job.through (j : Job) (l : Loc) : Bool := j.dropped.any (fun d => kindOf d.1 == some l.kind && d.2.1 ≤ l.pa && l.pa < d.2.1 + d.2.2)

/-- Whether a piece of work that was translated before a job through an entry that the job dropped holds its shootdown up (R43): it is
not complete, and it is neither a store that waits in its queue, but for one of the named range (R44), nor a pop that a slice has
taken and that waits for its queue. (DEDUCED, log 93.) -/
def OpBody.holdsJob (j : Job) : OpBody → Bool
  | .load accs wid _ _ _ _ _ => accs.any (fun x => j.through x.loc || j.through (x.loc.add (widthBytes wid - 1)))
  | .store bs _ _ _ parked => (!parked && bs.any (fun x => j.through x.1)) || bs.any (fun x => j.covers x.1.pa)
  | .atomic lanes _ _ _ _ _ _ => lanes.any (fun x => j.through x.loc)
  | .tex _ _ _ locs => locs.any (fun x => j.through x.2)
  | .slice (.pop _ _ (some _)) x => x.started && j.through x.place
  | .slice _ x => j.through x.place
  | _ => false

/-- Lines that copies and replays own. -/
def State.ownedLocs (s : State) : List Loc :=
  s.cmds.flatMap (fun c => c.owned.map (·.loc)) ++ s.replays.flatMap (·.owned)

/-- Steps 1 and 2 of an invalidate (R43): the accesses through the dropped entries have drained; then L2 and the remote-data
cache write back and drop the lines of the named range and discard what is poisoned (R75), after the engines of both dies have written
those that they own, and after the peer has given back what it holds. (DEDUCED, log 93.) -/
def State.drain? (s : State) (id : Nat) : Option State :=
  match s.job? id with
  | some j =>
    if j.phase ≠ 1 || s.ops.any (fun o => o.id < id && s.asidOf o.gk == j.asid && o.body.holdsJob j) then none
    else if s.ownedLocs.any (fun l => j.covers l.pa) || s.mem.peerOwned.any (fun x => j.covers (128 * x.1)) then none
    else
      let inRange := fun (ln : Nat) => j.covers (128 * ln)
      let held := s.peerHeld inRange
      if held ≠ [] then progress s (held.foldl (fun s ln => s.askPeer ln true) s)
      else
        let s := s.discardLines inRange
        let s := { s with mem := { s.mem with dir := s.mem.dir.filter (fun e => !(inRange e.1)) } }
        some (s.putJob { j with phase := 2 })
  | none => none

/-- `invalShootdownDone`. -/
def execInvalShootdownDone (job : Nat) (s : State) : Host.Outcome State Fault Refusal := .next ((s.drain? job).getD s)

/-- Step 3: the packet completes. (DEDUCED, log 93.) -/
def State.invalDone? (s : State) (id : Nat) : Option State :=
  match s.job? id with
  | some j =>
    if j.phase ≠ 2 then none
    else
      let s := { s with jobs := s.jobs.filter (fun x => x.id != id) }
      match s.queue? j.q with
      | some x => some (s.completePacket j.q (x.plainDone j.n (if j.move.isSome then 6 else 5) 0 j.irq))
      | none => some s
  | none => none

/-- `invalComplete`. -/
def execInvalComplete (job : Nat) (s : State) : Host.Outcome State Fault Refusal := .next ((s.invalDone? job).getD s)

/-! ## PMOVE (R46, R47) -/

/-- Whether a context's pages may move (R46): it is halted, or has no resident block and no outstanding work of an engine: copies,
rays, replays, walks of wait lists. -/
def State.mayMove (s : State) (asid : Nat) : Bool :=
  ((s.ctx? asid).map (fun c => c.halt == .halted)).getD false ||
  (!s.blocks.any (fun b => b.asid == asid && b.placed) && !s.cmds.any (fun c => c.asid == asid) && !s.rays.any (fun r => r.asid == asid) &&
    !s.replays.any (fun r => r.asid == asid) && !s.listWalks.any (fun x => x.asid == asid))

/-- What the checks of a page move find. -/
inductive MoveCheck where
  | refuse (status : Nat)
  | wait (pa : Nat)
  /-- the old address, and the addresses of the leaf entries -/
  | go (old : Nat) (leaves : List Nat)
  deriving DecidableEq, Repr

/-- The root and the function of an address space under the current tables. -/
def State.rootOf (s : State) (asid : Nat) : Option (Nat × Nat) :=
  match s.ctx? asid with
  | some c => some (c.root, c.vfn)
  | none => (s.entryWords asid).bind (fun w => if entLive w.1 then some (bitsAt w.1 16 36 * 65536, entVfn w.1) else none)

/-- The checks of R46 and R47: `big` says 2 MiB. The translation is a valid device-kind mapping where a read through it in handler
mode meets no fault. (DEDUCED, log 93.) -/
def State.moveCheck (s : State) (asid va dst : Nat) (big : Bool) : MoveCheck :=
  let size := if big then 2097152 else 65536
  if !s.mayMove asid then .refuse 1
  else match s.rootOf asid with
    | none => .refuse 3
    | some (root, vfn) =>
      let reaches := fun (e : TlbEnt) (at_ : Nat) => match s.checkMapping vfn e at_ ⟨.load, true, false⟩ e.ent with
        | .ok l => l.kind == .device
        | _ => false
      if 2 ^ 54 ≤ va then .refuse 3
      else match s.walkTop (Agent.ctx asid) vfn asid root va none with
      | (.ok e, rds) => match rds.find? (fun r => r.level == 2) with
        | none => .refuse 3
        | some leaf =>
          if !reaches e va || !reaches e (va + size - 1) || (big && e.size != .m2) then .refuse 3
          else if !big && bitAt leaf.ent.toNat 8 then .refuse 2
          else if dst % size ≠ 0 || !s.inRange vfn dst || !s.inRange vfn (dst + size - 1) then .refuse 4
          else if big then .go e.pbase ((upFrom 0 32).map (fun i => leaf.pa / 256 * 256 + 8 * i))
          else .go (entAddr leaf.ent) [leaf.pa]
      | (.wait pa, _) => .wait pa
      | _ => .refuse 3

/-- Read a page move: it is refused, or its copy begins. A VA that is not aligned to the size names the page that holds it.
(DESIGN CHOICE, log 116.) -/
def State.pmove? (s : State) (q : Nat) : Option State :=
  match s.nextPacket q with
  | .packet p =>
    if p.x.skip ≠ 0 || !s.packetGood p || p.op ≠ 6 then none
    else
      let big := p.f 6 2 == 1
      let size := if big then 2097152 else 65536
      let va := p.f 8 8 / size * size
      match (if (s.ctx? p.asid).isSome then TableRead.ok else s.tableRead (s.entryPlaces p.asid)) with
      | .wait s' => progress s s'
      | _ =>
      match s.moveCheck p.asid va (p.f 0x10 8) big with
      | .wait pa => progress s (s.askPeerFor false [⟨.device, pa⟩])
      | .refuse st => s.goodPacket? q 6 (fun _ => true) (fun s p => s.finishPacket p st)
      | .go old leaves => s.goodPacket? q 6 (fun _ => true) (fun s p =>
          { s with ids := s.ids + 1,
                   jobs := s.jobs ++ [{ id := s.ids, q := q, n := p.n, irq := p.irq, asid := p.asid, va := va, pages := size / 65536,
                                        pa := none, move := some (old, p.f 0x10 8, size, leaves), phase := 0, dropped := [] }] })
  | _ => none

/-- `pmove`. -/
def execPmove (q : Nat) (s : State) : Host.Outcome State Fault Refusal := .next ((s.pmove? q).getD s)

/-- A sector of device memory, by PA / 32, takes poison with it: memory does not deliver it, and no slice holds it as good. -/
def State.spoil (s : State) (sec : Nat) : State :=
  { s with mem := { s.mem with
      bad := sec :: s.mem.bad.filter (· != sec),
      l2 := s.mem.l2.map (fun l => if l.kind == .device && l.line == sec / 4 && l.valid.getLsbD (sec % 4) then
        { l with poison := l.poison ||| 1#4 <<< (sec % 4) } else l) } }

/-- Copy a sector of device memory: its bytes, or its poison. -/
def State.copySector (s : State) (a : Agent) (old new : Nat) : State :=
  if s.poisonIn a ⟨.device, old⟩ 32 then s.spoil (new / 32) else s.writeBytes a ⟨.device, new⟩ (s.bytesAt a ⟨.device, old⟩ 32)

/-- Copy a range of device memory, sector by sector. (DEDUCED, log 93.) -/
def State.copyRange (s : State) (a : Agent) (old new size : Nat) : State :=
  (upFrom 0 (size / 32)).foldl (fun s i => s.copySector a (old + 32 * i) (new + 32 * i)) s

/-- The data has been copied: the leaf entries take the new address and change no other bit, and the invalidation begins
(R47, steps 2 to 4). (DEDUCED, log 93.) -/
def State.moveCopied? (s : State) (id : Nat) : Option State :=
  match s.job? id with
  | some j => match j.move with
    | some (old, new, size, leaves) =>
      if j.phase ≠ 0 then none
      else
        let a := Agent.ctx j.asid
        let lines := fun (base : Nat) => (upFrom 0 (size / 128)).map (fun i => Loc.mk .device (base + 128 * i))
        let reads := lines old
        let writes := lines new ++ leaves.map (fun pa => Loc.mk .device pa)
        if reads.any (fun l => s.lineStatus a false l != .ok) || writes.any (fun l => s.lineStatus a true l != .ok) then
          progress s ((s.askPeerFor false reads).askPeerFor true writes)
        else
          let s := s.copyRange a old new size
          let s := (leaves.zip (upFrom 0 leaves.length)).foldl (fun s x =>
            let e := s.numAt a ⟨.device, x.1⟩ 8
            let e' := e - bitsAt e 16 36 * 65536 + (new / 65536 + x.2) * 65536
            s.writeNum a ⟨.device, x.1⟩ 8 e') s
          some ((s.dropRange j.asid j.va j.pages).putJob
            { j with pa := some old, phase := 1, dropped := s.droppedBy j.asid j.va j.pages })
    | none => none
  | none => none

/-- `pmoveCopyDone`. -/
def execPmoveCopyDone (job : Nat) (s : State) : Host.Outcome State Fault Refusal := .next ((s.moveCopied? job).getD s)

/-! ## ABORT (R427, R459) -/

/-- ABORT mode 0: every block of the address space that holds a LOST or DBL group goes. -/
def State.abortLost? (s : State) (q : Nat) : Option State :=
  s.goodPacket? q 7 (fun p => p.f 6 2 == 0) (fun s p =>
    let bs := s.blocks.filter (fun b => b.asid == p.asid && b.lostOrDbl)
    (bs.foldl State.abortBlock s).finishPacket p 0)

/-- `abortLost`. -/
def execAbortLost (q : Nat) (s : State) : Host.Outcome State Fault Refusal := .next ((s.abortLost? q).getD s)

/-- Abort a launch: one that has not started completes at once, a running one when its discarded work is gone.
(DEDUCED, log 91.) -/
def State.abortLaunch (s : State) (l : Launch) : State :=
  if l.st = .started then (s.discardLaunch l.id true).modLaunch l.id (fun l => { l with abort := some 0x15 })
  else (s.postLaunch l.id 0x15).boundary l.asid

/-- ABORT mode 1: the launch with a CORR. (DEDUCED, log 91.) -/
def State.abortLaunch? (s : State) (q : Nat) : Option State :=
  s.goodPacket? q 7 (fun p => p.f 6 2 == 1) (fun s p =>
    let s := match s.launches.find? (fun l => l.asid == p.asid && l.corr.toNat == p.f 8 4) with
      | some l => s.abortLaunch l
      | none => s
    s.finishPacket p 0)

/-- `abortLaunch`. -/
def execAbortLaunch (q : Nat) (s : State) : Host.Outcome State Fault Refusal := .next ((s.abortLaunch? q).getD s)

/-! ## CTXCTL (R450, R452, R458, R459) -/

/-- Whether something that waited for a halt of a context is still to be carried out. -/
def State.resuming (s : State) (asid : Nat) : Bool :=
  ((s.ctx? asid).map (fun c => c.halt == .halted && !c.afterPkts.isEmpty)).getD false

/-- CTXCTL halt: it completes when the halt does; at once for a context that is not resident or is halted already.
(DEDUCED, log 90.) -/
def State.ctxHalt? (s : State) (q : Nat) : Option State :=
  s.goodPacket? q 8 (fun p => p.f 6 2 == 0 && !s.resuming p.asid) (fun s p =>
    match s.ctx? p.asid with
    | some c =>
      if c.halt = .halted then s.finishPacket p 0
      else (s.haltContext p.asid).modCtx p.asid (fun c => { c with haltPkts := c.haltPkts ++ [(q, p.n, p.irq)] })
    | none => s.finishPacket p 0)

/-- `ctxctlHalt`. -/
def execCtxctlHalt (q : Nat) (s : State) : Host.Outcome State Fault Refusal := .next ((s.ctxHalt? q).getD s)

/-- A packet that waits for a halt in progress. -/
def State.afterward (s : State) (p : Packet) (end_ : Bool) : State :=
  s.modCtx p.asid (fun c => { c with afterPkts := c.afterPkts ++ [(p.x.q, p.n, p.irq, end_)] })

/-- Whether a halt of a context is in progress. -/
def State.halting (s : State) (asid : Nat) : Bool :=
  ((s.ctx? asid).map (fun c => c.halt == .raised || c.halt == .stopping)).getD false

/-- CTXCTL resume (R458): it waits for a halt in progress, and for a page move of the context (R46). (DEDUCED, log 90.) -/
def State.ctxResume? (s : State) (q : Nat) : Option State :=
  s.tablesFirst q 8 (fun p => p.f 6 2 == 1 && !s.moving p.asid && !s.resuming p.asid) (fun s p =>
    if s.halting p.asid then s.afterward p false
    else
      let (s', st) := s.resume p.asid
      s'.finishPacket p st)

/-- `ctxctlResume`. -/
def execCtxctlResume (q : Nat) (s : State) : Host.Outcome State Fault Refusal := .next ((s.ctxResume? q).getD s)

/-- CTXCTL end (R459): a running context is halted first; of one that is not resident the launches that wait go.
(DEDUCED, log 90.) -/
def State.ctxEnd? (s : State) (q : Nat) : Option State :=
  s.goodPacket? q 8 (fun p => p.f 6 2 == 2 && !s.resuming p.asid) (fun s p =>
    match s.ctx? p.asid with
    | some c =>
      if c.halt = .halted then (s.endContext p.asid).finishPacket p 0
      else (s.haltContext p.asid).afterward p true
    | none => (s.endContext p.asid).finishPacket p 0)

/-- `ctxctlEnd`. -/
def execCtxctlEnd (q : Nat) (s : State) : Host.Outcome State Fault Refusal := .next ((s.ctxEnd? q).getD s)

end Sys2Proof.Machine
end

