-- ==== Sys2Proof/Machine/Slice.lean ====
section
/-! DEFINITION. Futures and task queues: the instructions of majors 0x3E, and the slice logic that performs them (R171 to
R177, R393 to R397, R528). -/
namespace Sys2Proof.Machine

/-! ## Issue -/

/-- What an instruction of the slice logic names (R393, R395). -/
def sliceForm (e : Bool) (t b : Opnd) (nt nb : Nat) (ends : Bool) : Form :=
  { len := 4, e := e, srcs := opndRun b nb, toks := opndRun t nt, ends := ends, access := true }

/-- The misaligned-access fault of an address of the whole group (R393, R395, R442). -/
def View.unaligned (w : View) (n : Nat) (va : DWord) : Option Cause :=
  if va.toNat % n = 0 then none else some { code := 0x1C, sub := 0, tval := va.setWidth 32, slot := w.n }

/-- The word or descriptor translated by the core (R528). -/
def View.slicePlace (w : View) (va : DWord) (ok : Loc → Res) : Res :=
  match w.xlate va ⟨.atomic, w.g.hm, true⟩ with
  | .ok l => ok l
  | .fault f => .fault f va .atomic w.act
  | .miss => .walk va

/-- A transaction that has not started. (DEDUCED, log 45.) -/
def View.txn (w : View) (l : Loc) (va : DWord) (t : Opnd) (ikey : DWord) : SliceTxn :=
  { place := l, va := va, t := t, hm := w.g.hm, ikey := ikey, acts := [], started := false, data := [], tok := [], stopped := false, tried := false }

/-- The group with its token registers pending. -/
def View.tokens (w : View) (g : Group) (t : Opnd) (nt : Nat) : Group := g.markOp (regsOf w.g.hm (opndRun t nt)) .token w.s.ids false

/-- Issue an operation on a future word (R393): nothing with no lane active; alignment; the core's translation. -/
def State.futureIssue (s : State) (e : Bool) (t b : Opnd) (nt nb : Nat) (load : Bool) (rcd : Option (View → DWord))
    (op : View → SliceOp) : State :=
  s.issue (sliceForm e t b nt nb false) (fun _ => !opndRunOk b nb || !opndRunOk t nt) noCheck (fun w =>
    if w.act = 0 then .done w.doneNone
    else if (if load then 63 ≤ w.g.ldCnt else 63 ≤ w.g.stCnt) then .wait (.count (if load then 0 else 1))
    else
      let fut := w.param64 b 0
      match (w.unaligned 8 fut).or (rcd.bind (fun r => w.unaligned 64 (r w))) with
      | some c => .raise c
      | none => w.slicePlace fut (fun l =>
          .done { g := w.tokens (if load then { w.g with ldCnt := w.g.ldCnt + 1 } else { w.g with stCnt := w.g.stCnt + 1 }) t nt,
                  post := fun s => s.addOp w.k w.n (.slice (op w) (w.txn l fut t 0)) }))

/-- `freg` (R393). -/
def execFreg (e : Bool) (t b : Opnd) (s : State) : Host.Outcome State Fault Refusal :=
  .next (s.futureIssue e t b 2 5 true (some (fun w => w.param64 b 2)) (fun w => .freg (w.param64 b 2) ((w.param b 4).toNat % 8)))
/-- `fres` (R393, R394). -/
def execFres (e : Bool) (t b : Opnd) (s : State) : Host.Outcome State Fault Refusal :=
  .next (s.futureIssue e t b 1 3 false none (fun w => .fres (w.param b 2) w.sl.pc))
/-- `fpoll` (R393). -/
def execFpoll (e : Bool) (t b : Opnd) (s : State) : Host.Outcome State Fault Refusal :=
  .next (s.futureIssue e t b 2 2 true none (fun _ => .fpoll))

/-- The status of a local-store record that is outside the allocation or not aligned (R395). -/
def View.badLocal (w : View) (a n : Nat) : Option Word := if a % 64 ≠ 0 || w.b.alloc < a + n then some 0x80000002 else none

/-- Issue a push of some records (R396): the records are read at issue, in program order. -/
def State.pushIssue (s : State) (e : Bool) (t b : Opnd) (count : View → Nat) : State :=
  s.issue (sliceForm e t b 1 3 false) (fun _ => !opndRunOk b 3) noCheck (fun w =>
    if w.act = 0 then .done w.doneNone
    else if 63 ≤ w.g.stCnt then .wait (.count 1)
    else
      let q := w.param64 b 0
      let a := (w.param b 2).toNat
      let n := count w
      match w.unaligned 64 q with
      | some c => .raise c
      | none =>
        if !w.localReady a (64 * n) then .hold
        else w.slicePlace q (fun l =>
          let bad := w.badLocal a (64 * n)
          let recs := if bad.isSome then [] else (List.range n).map (fun r => w.b.loc.read (a + 64 * r) 64)
          let g := { w.g with stCnt := w.g.stCnt + 1, ord := { w.g.ord with push := w.g.ord.push + 1 } }
          .done { g := w.tokens g t 1,
                  post := fun s => s.addOp w.k w.n (.slice (.push recs bad) (w.txn l q t (w.s.ikey w.k w.g.ord.push))) }))

/-- `tq.push` (R396). -/
def execTqPush (e : Bool) (t b : Opnd) (s : State) : Host.Outcome State Fault Refusal := .next (s.pushIssue e t b (fun _ => 1))
/-- `tq.pushv` (R396): one record for each active lane, in ascending lane order. -/
def execTqPushv (e : Bool) (t b : Opnd) (s : State) : Host.Outcome State Fault Refusal :=
  .next (s.pushIssue e t b (fun w => w.act.lanes.length))

/-- `tq.pop` (R397): the slot waits until the record is written. -/
def execTqPop (e : Bool) (t b : Opnd) (s : State) : Host.Outcome State Fault Refusal :=
  .next (s.issue (sliceForm e t b 1 3 true) (fun _ => !opndRunOk b 3) noCheck (fun w =>
    if w.act = 0 then .done w.doneNone
    else
      let q := w.param64 b 0
      let a := (w.param b 2).toNat
      match w.unaligned 64 q with
      | some c => .raise c
      | none => w.slicePlace q (fun l =>
          let g := { w.g with ord := { w.g.ord with pop := w.g.ord.pop + 1 } }
          .done { g := w.tokens g t 1, flow := .stay (.tqPop w.s.ids),
                  post := fun s => s.addOp w.k w.n (.slice (.pop a (w.badLocal a 64) none) (w.txn l q t (w.s.ikey w.k w.g.ord.pop))) })))

/-! ## The accesses of a transaction -/

/-- Who carries out a transaction: its context, slice, mode of issue and launch. -/
structure SliceWho where
  asid : Nat
  slice : Nat
  hm : Bool
  launch : Option Launch

/-- The correlation number of the launch. -/
def SliceWho.corr (w : SliceWho) : Word := (w.launch.map (·.corr)).getD 0

/-- The memory agent. -/
def SliceWho.agent (w : SliceWho) : Agent := ⟨some w.asid, false⟩

/-- How a transaction stands after some accesses. -/
inductive SliceEnd where
  | done
  | wait
  | fault (f : XFault) (va : Nat) (acc : Acc)
  deriving DecidableEq, Repr

/-- Translate an address for the slice logic (R528); a continuation record lies in no host kind (R172, R393). -/
def State.sliceXlate (s : State) (w : SliceWho) (va : DWord) (acc : Acc) (own : Bool) : Sum SliceEnd Loc × State :=
  match s.engineXlate (w.slice / 16) w.asid va ⟨acc, w.hm, acc == .atomic⟩ with
  | (.ok l, s') =>
    let s' := if acc == .load then s'.fillViews w.agent [l] .normal else s'
    if own && l.kind.isHost then (.inl (.fault { cause := 0x21, sub := 5, level := 3, ent := 0 } va.toNat acc), s')
    else match s'.lineStatus w.agent (acc != .load) l with
      | .ok => if acc == .load && s'.poisonAt w.agent l then
          (.inl (.fault { cause := 0x23, sub := s'.poisonCode w.agent l, level := 3, ent := BitVec.ofNat 64 l.lineLoc.pa } va.toNat acc), s')
        else (.inr l, s')
      | .lost => (.inl (.fault { cause := 0x25, sub := 0, level := 3, ent := 0 } va.toNat acc), s')
      | _ => (.inl .wait, s'.askPeerFor (acc != .load) [l])
  | (.fault f, s') => (.inl (.fault f va.toNat acc), s')
  | (.miss, s') => (.inl .wait, s')

/-- A field of the record at a VA of a continuation record. -/
def recField (rcd : DWord) (off : Nat) : DWord := rcd + BitVec.ofNat 64 off

/-- The fields of a task-queue descriptor (R176). -/
structure QueueDesc where
  base : Nat
  caplog : Nat
  head : Nat
  tail : Nat
  ovfh : Nat
  ovft : Nat

/-- A descriptor as its home slice reads it. -/
def State.queueDesc (s : State) (a : Agent) (l : Loc) : QueueDesc :=
  let f := fun (o n : Nat) => s.numAt a (l.add o) n
  { base := alignedTo 64 (f 0 8), caplog := f 8 1, head := f 0x10 8, tail := f 0x18 8, ovfh := f 0x20 8, ovft := f 0x28 8 }

/-- CAPLOG in its limits (R176). -/
def QueueDesc.capOk (q : QueueDesc) : Bool := 4 ≤ q.caplog && q.caplog ≤ 24

/-- Records in the ring: TAIL − HEAD. -/
def QueueDesc.count (q : QueueDesc) : Nat := (q.tail + 2 ^ 64 - q.head) % 2 ^ 64

/-- The VA of the ring slot of record n (R176). -/
def QueueDesc.slotVa (q : QueueDesc) (n : Nat) : DWord := BitVec.ofNat 64 (q.base + 64 * (n % 2 ^ q.caplog))

/-- Write a 64-bit field of a descriptor. -/
def storeField (l : Loc) (off v : Nat) : SliceAct := .store (l.add off) (leBytes 8 v)

/-- The accesses of a continuation push onto a queue (R177): into the ring, or onto the overflow list. -/
def QueueDesc.pushActs (q : QueueDesc) (l : Loc) (rcd : DWord) : List SliceAct :=
  if q.capOk && q.count + 1 ≤ 2 ^ q.caplog then [.move rcd (q.slotVa q.tail), storeField l 0x18 (q.tail + 1)]
  else
    [.put (recField rcd 8) (leBytes 8 0) true,
     if q.ovfh = 0 then storeField l 0x20 rcd.toNat else .put (BitVec.ofNat 64 (alignedTo 64 q.ovft + 8)) (leBytes 8 rcd.toNat) true,
     storeField l 0x28 rcd.toNat]

/-- The word of a registration (R171): state 1, the record, the slot. -/
def regWord (rcd : DWord) (slot : Nat) : Nat := 1 + bitsAt rcd.toNat 6 48 * 4 + slot * 2 ^ 50

/-- The link word of the registration that a word holds (R173). -/
def linkOf (w : Nat) : Nat := bitsAt w 2 48 * 64 + bitsAt w 50 3

/-- One access (R528): the state, the accesses that it adds, the bytes in hand, and how it ended. (DEDUCED, log 44.) -/
def State.sliceAct (s : State) (id : Nat) (w : SliceWho) (data : List Byte) : SliceAct → State × List SliceAct × List Byte × SliceEnd
  | .store l bs => (s.homeWrite w.agent l bs, [], data, .done)
  | .put va bs own =>
    match s.sliceXlate w va .store own with
    | (.inl e, s') => (s', [], data, e)
    | (.inr l, s') => (s'.homeWrite w.agent l bs, [], data, .done)
  | .lower rcd =>
    match s.sliceXlate w (recField rcd 4) .store true with
    | (.inl e, s') => (s', [], data, e)
    | (.inr l, s') =>
      let j := s'.numAt w.agent l 4
      if j = 0 then (s', [], data, .done)
      else (s'.homeWrite w.agent l (leBytes 4 (j - 1)), if j = 1 then [.pushRec rcd] else [], data, .done)
  | .pushRec rcd =>
    match s.sliceXlate w (recField rcd 0x10) .load true with
    | (.inl e, s') => (s', [], data, e)
    | (.inr l, s') =>
      let qva := BitVec.ofNat 64 (alignedTo 64 (s'.numAt w.agent l 8))
      match s'.sliceXlate w qva .atomic false with
      | (.inl e, s'') => (s'', [], data, e)
      | (.inr ql, s'') =>
        let key := rcd ||| 1
        match (if s''.queueHeld id ql then Bind.wait else s''.dtAsk w.asid (.queue qva.toNat) (fun e => fieldAt e 0 1 == 4 && fieldAt e 16 8 == key.toNat)) with
        | .wait => (s'', [], data, .wait)
        | .mismatch => (s''.dtMismatch w.asid (.queue qva.toNat) (0xD000 + w.slice) w.launch, [], data, .wait)
        | _ => (s''.dtNote w.asid (.queue qva.toNat) (queueEntry false qva.toNat key), (s''.queueDesc w.agent ql).pushActs ql rcd, data, .done)
  | .take va =>
    match s.sliceXlate w va .load false with
    | (.inl e, s') => (s', [], data, e)
    | (.inr l, s') => (s', [], s'.bytesAt w.agent l 64, .done)
  | .move src dst =>
    match s.sliceXlate w src .load false with
    | (.inl e, s') => (s', [], data, e)
    | (.inr a, s') =>
      match s'.sliceXlate w dst .store false with
      | (.inl e, s'') => (s'', [], data, e)
      | (.inr b, s'') => (s''.homeWrite w.agent b (s''.bytesAt w.agent a 64), [], data, .done)
  | .unlink q rcd =>
    match s.sliceXlate w (recField rcd 8) .load true with
    | (.inl e, s') => (s', [], data, e)
    | (.inr l, s') =>
      let n := s'.numAt w.agent l 8
      (s', if n = 0 then [storeField q 0x20 0, storeField q 0x28 0] else [storeField q 0x20 n], data, .done)
  | .regist word rcd slot =>
    match s.lineStatus w.agent true word with
    | .ok =>
      let v := (s.wordAt w.agent word).toNat
      if 2 ≤ bitsAt v 0 2 then
        (s, [.put (recField rcd (0x18 + 4 * slot)) (leBytes 4 (bitsAt v 32 32)) true, .lower rcd], leBytes 4 (bitsAt v 32 32), .done)
      else
        match s.sliceXlate w (recField rcd (0x40 + 8 * slot)) .store true with
        | (.inl e, s') => (s', [], data, e)
        | (.inr l, s') =>
          let s' := (s'.homeWrite w.agent l (leBytes 8 (if bitsAt v 0 2 = 1 then linkOf v else 0))).homeWrite w.agent word
            (leBytes 8 (regWord rcd slot))
          (s'.modCtx w.asid (fun c => { c with conts := c.conts ++ [((w.launch.map (·.id)).getD 0, linkOf (regWord rcd slot))] }),
            [], [], .done)
    | .lost => (s, [], data, .fault { cause := 0x25, sub := 0, level := 3, ent := 0 } rcd.toNat .atomic)
    | _ => (s.askPeerFor true [word], [], data, .wait)
  | .link rcd slot =>
    match s.sliceXlate w (recField rcd (0x40 + 8 * slot)) .load true with
    | (.inl e, s') => (s', [], data, e)
    | (.inr l, s') => (s', [], s'.bytesAt w.agent l 8, .done)

/-- How far a list of accesses came: the state, those left, the bytes in hand, and how it ended. -/
structure SliceRun where
  s : State
  acts : List SliceAct
  data : List Byte
  fin : SliceEnd

/-- Make the accesses of a list one after the other, as far as they go (R528). -/
def State.sliceActs (id : Nat) (w : SliceWho) : Nat → State → List Byte → List SliceAct → SliceRun
  | 0, s, data, acts => ⟨s, acts, data, .wait⟩
  | _ + 1, s, data, [] => ⟨s, [], data, .done⟩
  | f + 1, s, data, a :: r =>
    match s.sliceAct id w data a with
    | (s', more, data', .done) => State.sliceActs id w f s' data' (more ++ r)
    | (s', _, _, e) => ⟨s', a :: r, data, e⟩

/-- The context fault of the slice logic (R37, R528). -/
def State.sliceFault (s : State) (w : SliceWho) (f : XFault) (va : Nat) (acc : Acc) : State :=
  s.engineFault w.asid f (BitVec.ofNat 64 va) acc w.hm (w.slice / 16) (0xD000 + w.slice) w.corr

/-! ## Starting and ending a transaction -/

/-- What starting a transaction gives: accesses and token words, a cause, or a wait. -/
inductive SliceStart where
  | go (s : State) (acts : List SliceAct) (tok : List Word)
  | refuse (c : Cause)
  | empty (tail : Nat)
  | wait
  | mismatch

/-- The token of a `freg` (R173, R475), from the bytes in hand: the value of a word that was resolved, nothing for a registration. -/
def fregToken (data : List Byte) (repro : Bool) : List Word :=
  if data = [] || repro then [0x80000000, 0] else [0x80000001, BitVec.ofNat 32 (leNat data)]

/-- Begin a push of records (R177): all of them or none. A push that the queue refuses is a transaction too, which the dispatch
trace holds (R479). -/
def State.pushStart (s : State) (w : SliceWho) (x : SliceTxn) (recs : List (List Byte)) (bad : Option Word) : SliceStart :=
  match bad with
  | some st => .go s [] [st]
  | none =>
    let q := s.queueDesc w.agent x.place
    match s.dtAsk w.asid (.queue x.va.toNat) (fun e => fieldAt e 0 1 == 4 && fieldAt e 16 8 == x.ikey.toNat) with
    | .wait => .wait
    | .mismatch => .mismatch
    | _ =>
      let s := s.dtNote w.asid (.queue x.va.toNat) (queueEntry false x.va.toNat x.ikey)
      if !q.capOk then .go s [] [0x80000003]
      else if 2 ^ q.caplog < q.count + recs.length then .go s [] [0x80000006]
      else
        .go s
          ((upFrom 0 recs.length).map (fun j => SliceAct.put (q.slotVa (q.tail + j)) (recs.getD j []) false) ++ [storeField x.place 0x18 (q.tail + recs.length)])
          [0x80000000]

/-- Begin a pop (R177, R397). (DEDUCED, log 44.) -/
def State.popStart (s : State) (w : SliceWho) (x : SliceTxn) (bad : Option Word) : SliceStart :=
  match bad with
  | some st => .go s [] [st]
  | none =>
    let q := s.queueDesc w.agent x.place
    if !q.capOk || q.count = 0 then .empty q.tail
    else match s.dtAsk w.asid (.queue x.va.toNat) (fun e => fieldAt e 0 1 == 5 && fieldAt e 16 8 == x.ikey.toNat) with
    | .wait => .wait
    | .mismatch => .mismatch
    | _ =>
      let over_ := if q.ovfh = 0 then [] else
        let r := BitVec.ofNat 64 (alignedTo 64 q.ovfh)
        [.move r (q.slotVa q.tail), storeField x.place 0x18 (q.tail + 1), .unlink x.place r]
      .go (s.dtNote w.asid (.queue x.va.toNat) (queueEntry true x.va.toNat x.ikey))
        ([.take (q.slotVa q.head), storeField x.place 0x10 (q.head + 1)] ++ over_) [0x80000000]

/-- Begin an operation (R173, R177). (DEDUCED, log 42.) -/
def State.sliceStart (s : State) (w : SliceWho) (o : Op) (op : SliceOp) (x : SliceTxn) : SliceStart :=
  match op with
  | .freg rcd slot => .go s [.regist x.place rcd slot] []
  | .fres val pc =>
    let old := s.wordAt w.agent x.place
    if 2 ≤ bitsAt old.toNat 0 2 then .refuse { code := 0x19, sub := 0, tval := pc.setWidth 32, slot := o.slot }
    else match s.resolve? w.asid (((s.block? o.gk.block).map (·.launch)).getD 0) x.place val with
      | some s' => .go s' [] [0x80000000]
      | none => .wait
  | .fpoll =>
    let v := (s.wordAt w.agent x.place).toNat
    let st := min (bitsAt v 0 2) 2
    .go s [] [0x80000000 + BitVec.ofNat 32 st, if st = 2 then BitVec.ofNat 32 (bitsAt v 32 32) else 0]
  | .push recs bad => s.pushStart w x recs bad
  | .pop _ bad _ => s.popStart w x bad

/-- Whether a token says that the operation is an acquire (R132, R133). (DEDUCED, log 43.) -/
def sliceAcquires (op : SliceOp) (tok : List Word) : Bool :=
  match op, tok.head? with
  | .freg _ _, some t => t == 0x80000001
  | .fpoll, some t => t == 0x80000002
  | .pop _ _ _, some t => t == 0x80000000
  | _, _ => false

/-- The register writes of a token's words (R387). (DEDUCED, log 42.) -/
def tokenWrites (hm : Bool) (t : Opnd) (ws : List Word) : List RegWrite :=
  ((upFrom 0 ws.length).filterMap (fun k => (opndPlus t k).bind (fun y => (regOf hm y).map (fun r => (⟨r, 0, .s (ws.getD k 0)⟩ : RegWrite)))))

/-- End a transaction (R385, R387, R397): the record into local store, the token, the count, the slot of a pop, and the
acquire. (DEDUCED, log 43.) -/
def State.sliceFinish (s : State) (o : Op) (op : SliceOp) (x : SliceTxn) : State :=
  let x := match op with
    | .freg _ _ => { x with tok := fregToken x.data (s.isRepro (s.asidOf o.gk)) }
    | _ => x
  let s := match op with
    | .pop dst none _ => s.modLocal o.gk (fun m => m.write dst x.data)
    | _ => s
  let f := fun (g : Group) => match op with
    | .freg _ _ => g.ldDone
    | .fpoll => g.ldDone
    | .pop _ _ _ => g
    | _ => g.stDone
  let s := s.giveToken o.gk o.id (tokenWrites x.hm x.t x.tok) f
  let s := s.modGroup o.gk (fun g => g.passIf (fun r => r == .tqPop o.id))
  let s := s.dropOp o.id
  if sliceAcquires op x.tok then
    let core := s.coreOf o.gk
    s.l1Drop (fun l => l.core == core)
  else s

/-- Keep a transaction as far as it came. -/
def State.slicePut (s : State) (o : Op) (op : SliceOp) (x : SliceTxn) : State := s.setOp o.id (.slice op x)

/-- Go on with a transaction that has started. -/
def State.sliceGo (s : State) (w : SliceWho) (o : Op) (op : SliceOp) (x : SliceTxn) : State :=
  let r := State.sliceActs o.id w (2 * x.acts.length + 16) s x.data x.acts
  let x' := { x with acts := r.acts, data := r.data }
  match r.fin with
  | .done => r.s.sliceFinish o op x'
  | .wait => r.s.slicePut o op x'
  | .fault f va acc => (r.s.slicePut o op { x' with stopped := true }).sliceFault w f va acc

/-- Whether a pop's local line is locked by a copy (R68). -/
def State.popLocked (s : State) (o : Op) : SliceOp → Bool
  | .pop dst _ _ => ((s.block? o.gk.block).map (fun b => b.locks.contains (lineOf dst))).getD false
  | _ => false

/-- The scope of a release or an acquire on a place of a kind (R132). -/
def MemKind.scope : MemKind → Scope
  | .peer => .pair
  | .hostCoh => .sys
  | .hostUnc => .sys
  | _ => .die

/-- An operation that is a release (R132, R133). -/
def SliceOp.releases : SliceOp → Bool
  | .fres _ _ => true
  | .push _ _ => true
  | _ => false

/-- Whether an operation may be performed now: none before the group's earlier acquires; a release after the group's earlier work,
at the scope of its word's kind (R132, R133); a pop for a context that runs and a block that is on its core (R397, R463), and to
its end once a record is taken. -/
def State.sliceMay (s : State) (o : Op) (op : SliceOp) (x : SliceTxn) : Bool :=
  !x.stopped && !s.popLocked o op && !(s.before o).any (fun y => y.body.acquires) &&
  (!op.releases || s.released o x.place.kind.scope) &&
  match op with
  | .pop _ _ tail => x.started || (tail.isNone && s.ctxRuns (s.asidOf o.gk) && ((s.block? o.gk.block).map (fun b => b.st == .resident)).getD false)
  | _ => true

/-- Perform an operation on a future word or a task queue at its home slice (R173, R177, R528). -/
def State.slice? (s : State) (o : Op) : Option State :=
  match o.body with
  | .slice op x =>
    let asid := s.asidOf o.gk
    let w : SliceWho := { asid := asid, slice := s.sliceFor asid x.place, hm := x.hm, launch := (s.block? o.gk.block).bind s.launchOf }
    if !s.sliceMay o op x then none
    else if x.started then
      let s' := s.sliceGo w o op x
      if s' = s then none else some s'
    else if s.queueHeld o.id x.place then none
    else match s.lineStatus w.agent true x.place with
      | .ok =>
        if s.poisonAt w.agent x.place then
          let f : XFault := { cause := 0x23, sub := s.poisonCode w.agent x.place, level := 3, ent := BitVec.ofNat 64 x.place.lineLoc.pa }
          some ((s.slicePut o op { x with stopped := true }).sliceFault w f x.va.toNat .atomic)
        else match (s.sysRelease ⟨some asid, op.releases && x.place.kind.isHost⟩).sliceStart w o op x with
        | .go s' acts tok => some (s'.sliceGo w o op { x with started := true, acts := acts, tok := tok })
        | .refuse c =>
          let s' := s.sliceFinish o op { x with tok := [0x80000000] }
          some (if x.hm && ((s.group? o.gk).map (fun g => !g.ended)).getD false then s'.doubleFault o.gk asid c
            else s'.laterCause o.gk asid (s.corrOfGroup o.gk) (((s.group? o.gk).map (·.gid)).getD 0) c)
        | .empty t => match op with
          | .pop dst bad _ => some (s.slicePut o (.pop dst bad (some t)) { x with tried := true })
          | _ => none
        | .wait => if x.tried then none else some (s.slicePut o op { x with tried := true })
        | .mismatch => some (s.dtMismatch asid (.queue x.va.toNat) (0xD000 + w.slice) w.launch)
      | .busy => s.askOnce true [x.place]
      | .lost => some ((s.slicePut o op { x with stopped := true }).sliceFault w { cause := 0x25, sub := 0, level := 3, ent := 0 } x.va.toNat .atomic)
      | _ => none
  | _ => none

/-- Perform an operation of one kind. -/
def State.sliceOf (s : State) (id : Nat) (p : SliceOp → Bool) : Option State :=
  (s.op? id).bind (fun o => match o.body with
    | .slice op _ => if p op then s.slice? o else none
    | _ => none)

/-- `fregPerform`. -/
def execFregPerform (op : Nat) (s : State) : Host.Outcome State Fault Refusal :=
  .next ((s.sliceOf op (fun x => match x with
    | .freg _ _ => true
    | _ => false)).getD s)
/-- `fresPerform`. -/
def execFresPerform (op : Nat) (s : State) : Host.Outcome State Fault Refusal :=
  .next ((s.sliceOf op (fun x => match x with
    | .fres _ _ => true
    | _ => false)).getD s)
/-- `fpollPerform`. -/
def execFpollPerform (op : Nat) (s : State) : Host.Outcome State Fault Refusal :=
  .next ((s.sliceOf op (fun x => x == .fpoll)).getD s)
/-- `tqPushPerform`. -/
def execTqPushPerform (op : Nat) (s : State) : Host.Outcome State Fault Refusal :=
  .next ((s.sliceOf op (fun x => match x with
    | .push _ _ => true
    | _ => false)).getD s)
/-- `tqPopPerform`. -/
def execTqPopPerform (op : Nat) (s : State) : Host.Outcome State Fault Refusal :=
  .next ((s.sliceOf op (fun x => match x with
    | .pop _ _ _ => true
    | _ => false)).getD s)

/-- A waiting pop sees TAIL change (R397): it tries again; of a block that is not on its core the wake is latched (R463).
(DEDUCED, log 44.) (DEDUCED, log 110.) -/
def State.popWake? (s : State) (o : Op) : Option State :=
  match o.body with
  | .slice (.pop dst bad (some t)) x =>
    if (s.queueDesc (Agent.ctx (s.asidOf o.gk)) x.place).tail = t then none
    else match s.block? o.gk.block with
      | some b =>
        if b.st == .resident then some (s.slicePut o (.pop dst bad none) x)
        else if b.woken then none else some (s.modBlock b.serial (fun b => { b with woken := true }))
      | none => none
  | _ => none

/-- `tqPopWake`. -/
def execTqPopWake (op : Nat) (s : State) : Host.Outcome State Fault Refusal := .next (((s.op? op).bind s.popWake?).getD s)

/-! ## The walk of a wait list (R174) -/

/-- Visit one record: its link, its VAL, its JOIN, and its push at 0. -/
def State.listStep? (s : State) (id : Nat) : Option State :=
  match s.listWalks.find? (fun x => x.id == id) with
  | none => none
  | some x =>
    let put := fun (s : State) (y : ListWalk) => { s with listWalks := s.listWalks.map (fun (z : ListWalk) => if z.id = id then y else z) }
    if x.stopped then none
    else if x.next = 0 && x.acts = [] then some { s with listWalks := s.listWalks.filter (fun y => !(y.id == id)) }
    else
      let rcd := BitVec.ofNat 64 (bitsAt x.next.toNat 6 48 * 64)
      let slot := bitsAt x.next.toNat 0 3
      let acts := if x.acts = [] then
        [SliceAct.link rcd slot, .put (recField rcd (0x18 + 4 * slot)) (leBytes 4 x.val.toNat) true, .lower rcd] else x.acts
      let w : SliceWho := { asid := x.asid, slice := x.slice, hm := false, launch := s.launch? x.launch }
      let r := State.sliceActs id w 32 s x.data acts
      match r.fin with
      | .done => some (put (r.s.modCtx x.asid (fun c => { c with conts := c.conts.eraseP (fun y => y.2 == x.next.toNat) })) { x with acts := [], data := [], next := BitVec.ofNat 64 (leNat r.data) })
      | .wait =>
        let s' := put r.s { x with acts := r.acts, data := r.data }
        if s' = s then none else some s'
      | .fault f va acc => some ((put r.s { x with acts := r.acts, data := r.data, stopped := true }).sliceFault w f va acc)

/-- `waitListWalk`. -/
def execWaitListWalk (job : Nat) (s : State) : Host.Outcome State Fault Refusal := .next ((s.listStep? job).getD s)

end Sys2Proof.Machine
end

