-- ==== Sys2Proof/Machine/Auto.lean ====
section
/-! DEFINITION. What happens next when nothing from outside is due: the completions of work in flight, the events of the
engines, of the distributor and of the command processor, in a fixed order of search, and the time limits. The events that
only the outside world decides (the host, the peer die's requests and data, the link, faults of the silicon, sampling clks)
come in through the agenda alone. -/
namespace Sys2Proof.Machine

/-! ## Turns -/

/-- The first of some searches that finds something, the search number `n` (modulo their count) being the first. -/
def firstFrom {α β : Type} (fs : List (α → Option β)) (n : Nat) (a : α) : Option β :=
  (fs.rotateLeft (n % fs.length)).findSome? (fun f => f a)

/-- The first element of a list for which a search finds something, element number `n` (modulo their count) being the first, so that
none is passed over for ever (R110). -/
def anyFrom {α β : Type} (l : List α) (n : Nat) (f : α → Option β) : Option β := (l.rotateLeft (n % l.length)).findSome? f

/-! ## Work of groups -/

/-- The first completion of a piece of issued work that is enabled. -/
def State.opEvent? (s : State) (o : Op) : Option State :=
  match o.body with
  | .regs .spawn _ => s.spawnWrite? o
  | .regs .rng _ => s.rngWrite? o
  | .regs _ _ => s.varWrite? o
  | .load .. => (s.load? o false) <|> (s.proceed? o)
  | .store .. => (s.store? o false) <|> (s.proceed? o)
  | .atomic .. => (s.atomic? o false) <|> (s.proceed? o)
  | .ldl .. => (s.local? o false) <|> (s.proceed? o)
  | .stl .. => (s.local? o false) <|> (s.proceed? o)
  | .atoml .. => (s.local? o false) <|> (s.proceed? o)
  | .fence _ => s.fenceDone? o
  | .stageArr _ _ => s.arrival? o
  | .binp .. => s.binAppend? o
  | .binrep .. => s.binrepAccept? o
  | .accum .. => s.accumAppend? o
  | .slice .. => (s.popWake? o) <|> (s.slice? o)
  | .handoff .. => s.handoff? o
  | .tex .. => s.texDone? o
  | .accld .. => s.accld? o
  | .acczero _ => s.acczero? o
  | .mcfg _ => s.mcfg? o

/-- Slots that wait for a code-cache line: their clusters, contexts and lines. -/
def State.codeWaits (s : State) : List (Nat × Nat × Nat) :=
  s.blocks.flatMap (fun b => (s.lineWaiters b.cluster b.asid).map (fun x => (b.cluster, b.asid, x.2.2)))

/-- The keys of all groups. -/
def State.groupKeys (s : State) : List GroupKey := s.blocks.flatMap (fun b => b.groups.map (fun g => ⟨b.serial, g.index⟩))

/-- Completions of the cores; the kinds, and what stands in line within each, take turns. (DESIGN CHOICE, log 5.) -/
def State.coreEvent? (n : Nat) (s : State) : Option State :=
  let m := n / 8
  firstFrom [fun s => (anyFrom s.walks m (fun x => s.walkDone? x.id)) <|> s.walkRoom?,
    fun s => anyFrom s.codeWaits m (fun x => s.codeFill? x.1 x.2.1 x.2.2),
    fun s => anyFrom s.groupKeys m (fun k => (s.refill? k 0) <|> (s.refill? k 1)),
    fun s => anyFrom s.groupKeys m s.fixedWrite?,
    fun s => anyFrom s.groupKeys m s.fifoLeave?,
    fun s => anyFrom s.ops m s.opEvent?,
    fun s => anyFrom (s.viewWants.map (·.2.1)) m s.viewFillFor?,
    fun s => anyFrom s.blocks m (fun b => s.barRelease? b.serial)] n s

/-! ## Engines -/

/-- Pairs of a partition and a resident context that have rays. -/
def State.rayPlaces (s : State) : List (Nat × Nat) := (s.rays.map (fun r => (r.part, r.asid))).eraseDups

/-- The clusters of a partition. -/
def clustersOf (part : Nat) : List Nat := (List.range 192).filter (fun c => partOfCluster c == part)

/-- Events of the copy engines, the Cirque, the slice logic, the ray machine and the matrix engine, taking turns.
(DESIGN CHOICE, log 5.) -/
def State.engineEvent? (n : Nat) (s : State) : Option State :=
  let m := n / 8
  firstFrom [fun s => anyFrom s.cmds m (fun c => ((s.copyWrite? c.id) <|> (s.copyRead? c.id)) <|> (s.copyAccept? c.id)),
    fun s => anyFrom s.listWalks m (fun w => s.listStep? w.id),
    fun s => anyFrom s.replays m (fun r => ((s.scatterDone? r.id) <|> (s.tileDone? r.id)) <|> ((s.scatterStart? r.id) <|> (s.tileStart? r.id))),
    fun s => anyFrom s.prefetches m (fun p => s.prefetch? p.id),
    fun s => anyFrom s.rays m (fun r => s.visit? r.part r.asid r.slot),
    fun s => anyFrom s.rayPlaces m (fun p => (clustersOf p.1).findSome? (fun c => s.pull? c p.2)),
    fun s => anyFrom s.rayPlaces m (fun p => s.waveForm? p.1 p.2),
    fun s => anyFrom s.seqs m (fun x => ((s.kslice? x.key) <|> (s.talusRetry? x.key)) <|> (s.streamFetch? x.key))] n s

/-! ## The distributor and the command processor -/

/-- Events of the distributor and of launches, taking turns. (DESIGN CHOICE, log 5.) -/
def State.launchEvent? (n : Nat) (s : State) : Option State :=
  let m := n / 6
  firstFrom [fun s => anyFrom s.blocks m (fun b => (s.save? b.serial) <|> (s.restore? b.serial)),
    fun s => anyFrom s.launches m (fun l => (s.blockPlace? l.id) <|> (s.launchStart? l.id)),
    fun s => anyFrom s.blocks m (fun b => s.evict? b.serial),
    fun s => anyFrom s.launches m (fun l => s.launchComplete? l.id),
    fun s => s.idleCtx?,
    fun s => s.modeFlush? <|> s.modeDone?] n s

/-- Packets of a queue. -/
def State.queueEvent? (s : State) (q : Nat) : Option State :=
  ((s.branchEval? q) <|> (s.waitPoll? q)) <|> ((s.nop? q) <|> (s.illegal? q)) <|> ((s.branch? q) <|> (s.queueWait? q)) <|>
  ((s.signal? q) <|> (s.inval? q)) <|> ((s.pmove? q) <|> (s.abortLost? q)) <|> ((s.abortLaunch? q) <|> (s.ctxHalt? q)) <|>
  ((s.ctxResume? q) <|> (s.ctxEnd? q)) <|> (s.launchPacket? q)

/-- Halts, packets, jobs, and what the controller has begun, taking turns. (DESIGN CHOICE, log 5.) -/
def State.deviceEvent? (n : Nat) (s : State) : Option State :=
  let m := n / 8
  firstFrom [fun s => anyFrom s.ctxs m (fun c => (s.haltLine? c.asid) <|> (c.agents.findSome? (fun a => s.agentStop? c.asid a))),
    fun s => anyFrom s.jobs m (fun j => ((s.invalDone? j.id) <|> (s.drain? j.id)) <|> (s.moveCopied? j.id)),
    fun s => anyFrom s.queues m (fun x => s.queueEvent? x.q),
    fun s => anyFrom (s.mem.homeTxn.map (·.1)) m (fun ln => ((s.invAck? ln) <|> (s.recallData? ln)) <|> (s.inv? true ln [])),
    fun s => anyFrom s.ctxs m (fun c => s.afterEvent? c.asid),
    fun s => s.summaryDone? <|> s.attDone? <|> s.postNext?,
    fun s => s.recordNext? <|> s.bellNext?,
    fun s => s.hostAcc? <|> (List.finRange 16).findSome? s.windowDone?] n s

/-! ## All of them, and the time limits -/

/-- The first completion or event that is enabled; the four families take turns at being searched first.
(DESIGN CHOICE, log 2; DESIGN CHOICE, log 5; DEDUCED, log 95.) -/
def State.complete? (s : State) (n : Nat) : Option State :=
  firstFrom [State.coreEvent? (n / 4), State.engineEvent? (n / 4), State.deviceEvent? (n / 4), State.launchEvent? (n / 4)] n s

/-- In mode 1 the slices write their dirty lines back, so that a plain store is performed at system scope in finite time
(R106, R110); poisoned sectors stay (R75). (DESIGN CHOICE, log 3.) -/
def State.sliceClean? (s : State) : Option State :=
  let p := fun (l : L2Line) => l.kind == .device && l.dirty &&& ~~~l.poison != 0
  if s.regs.l2cfg.mode && s.mem.l2.any p then some (s.cleanL2 p) else none

/-- A bin's time limit (R215, R216). -/
def State.binLate? (shade : Bool) (s : State) : Option State :=
  s.rayPlaces.findSome? (fun p => ((s.binInfos p.1 p.2 shade).map (·.bin)).findSome? (fun b => s.binTimeout? p.1 p.2 shade b))

/-- Whether a context has something in flight in a partition that may still spawn or free slots of its pool: a ray-generation block
(R217, R494). -/
def State.generates (s : State) (part asid : Nat) : Bool :=
  s.blocks.any (fun b => b.asid == asid && !b.isRay && partOfCluster b.cluster == part && ((s.launchOf b).map (·.desc.kind)).getD 0 != 0)

/-- A starving ray group (R219): with other work left to do, only where the context has nothing else in flight there.
(DESIGN CHOICE, log 3.) -/
def State.waveLate? (idle : Bool) (s : State) : Option State :=
  s.rayPlaces.findSome? (fun p => if idle || !s.generates p.1 p.2 then s.waveStarve? p.1 p.2 else none)

/-- A sequencer that has been in Stall for its time (R258). -/
def State.stallLate? (s : State) : Option State := s.seqs.findSome? (fun x => s.talusTimeout? x.key)

/-- An event that has waited for its turn in the recorded order for its time (R479). -/
def State.traceLate? (s : State) : Option State := s.ctxs.findSome? (fun c => s.traceTimeout? c.asid)

/-- What a time limit shorter than that of R479 brings about; `idle` says that nothing else is left to do.
(DESIGN CHOICE, log 3; DEDUCED, log 95.) -/
def State.limit? (s : State) (idle : Bool) (n : Nat) : Option State :=
  firstFrom [State.binLate? false, State.binLate? true, State.waveLate? idle, State.stallLate?, State.sliceClean?] n s

/-- What a time limit brings about when nothing else is left to do. (DESIGN CHOICE, log 3; DEDUCED, log 95.) -/
def State.late? (s : State) : Option State := s.limit? true 0 <|> s.traceLate?

/-- What a time limit brings about while other work goes on: every 2^16 steps one of the shorter limits passes, and every 2^24
steps that of R479. (DESIGN CHOICE, log 3.) -/
def State.overdue? (s : State) : Option State :=
  if s.clk % 16777216 = 0 then s.traceLate?
  else if s.clk % 65536 = 0 then s.limit? false (s.clk / 65536)
  else none

end Sys2Proof.Machine
end

