-- ==== Sys2Proof/Machine/Integer.lean ====
section
/-! DEFINITION. The integer, bit and class instructions (R305 to R323): a meaning per instruction over shared datapath
operations. -/
namespace Sys2Proof.Machine

/-! ## The datapaths (R310) -/

/-- What a two-source instruction names; `rd` says that it reads D too (R305). -/
def formTwo (len : Nat) (e : Bool) (d x y : Opnd) (rd : Bool) : Form :=
  { len := len, e := e, srcs := if rd then [x, y, d] else [x, y], dsts := [d] }

/-- What a one-source instruction names. -/
def formOne (e : Bool) (d x : Opnd) : Form := { len := opLen [x], e := e, srcs := [x], dsts := [d] }

/-- The S and V datapaths of a two-source result f (R310). -/
def View.alu (w : View) (f : Word → Word → Word → Word) (d x y : Opnd) : Done :=
  match d with
  | .v n => w.doneV n (Vector.ofFn (fun i => f (w.lane x i) (w.lane y i) (w.g.v[n][i])))
  | .s n => w.doneS n (f (w.sval x) (w.sval y) (w.sval d))
  | _ => w.doneNone

/-- The S and V datapaths of a one-source result. -/
def View.alu1 (w : View) (f : Word → Word) (d x : Opnd) : Done := w.alu (fun a _ _ => f a) d x x

/-- The A datapath: the base, and the exact stride that must fit in 32 bits (R189). -/
def View.affine (w : View) (n : Fin 32) (b : DWord) (t : Int) : Res :=
  if -2147483648 ≤ t ∧ t ≤ 2147483647 then .done (w.doneA n ⟨b, BitVec.ofInt 32 t⟩) else .raise (.plain 0x14 w.n)

/-- A two-source instruction of the S and V datapaths. -/
def State.two (s : State) (len : Nat) (e : Bool) (d x y : Opnd) (rd : Bool) (f : Word → Word → Word → Word) : State :=
  s.issue (formTwo len e d x y rd) noCheck (fun w => !w.clsRule d [x, y] false) (fun w => .done (w.alu f d x y))

/-- A two-source instruction that has an A datapath too (R189, R315). -/
def State.twoA (s : State) (len : Nat) (e : Bool) (d x y : Opnd) (cls : View → Bool) (f : Word → Word → Word)
    (aff : View → DWord × Int) : State :=
  s.issue (formTwo len e d x y false) noCheck (fun w => !(w.clsRule d [x, y] true && cls w))
    (fun w => match d with
      | .a n => w.affine n (aff w).1 (aff w).2
      | _ => .done (w.alu (fun a b _ => f a b) d x y))

/-- A one-source instruction of the S and V datapaths. -/
def State.one (s : State) (e : Bool) (d x : Opnd) (f : Word → Word) : State :=
  s.issue (formOne e d x) noCheck (fun w => !w.clsRule d [x] false) (fun w => .done (w.alu1 f d x))

/-- The V operand of a 16-bit form (R274). -/
def short (n : Fin 32) : Opnd := .v ⟨n.val, by omega⟩

/-! ## Results of the two-source instructions (R309 to R314) -/

/-- The high half of a signed product. -/
def mulHighS (x y : Word) : Word := BitVec.ofInt 32 ((x.toInt * y.toInt) / 4294967296)

/-- The high half of an unsigned product. -/
def mulHighU (x y : Word) : Word := BitVec.ofNat 32 (x.toNat * y.toNat / 4294967296)

/-- The smaller, signed. -/
def minS (x y : Word) : Word := if x.slt y then x else y
/-- The larger, signed. -/
def maxS (x y : Word) : Word := if x.slt y then y else x
/-- The smaller, unsigned. -/
def minU (x y : Word) : Word := if x.ult y then x else y
/-- The larger, unsigned. -/
def maxU (x y : Word) : Word := if x.ult y then y else x

/-- The shift count Y<5:0> (R311). -/
def count6 (y : Word) : Nat := y.toNat % 64

/-- `shl` (R311): 0 from a count of 32. -/
def shiftL (x y : Word) : Word := x <<< count6 y
/-- `shru` (R311). -/
def shiftRU (x y : Word) : Word := x >>> count6 y
/-- `shrs` (R311): copies of bit 31. -/
def shiftRS (x y : Word) : Word := x.sshiftRight (count6 y)
/-- `rotl` by Y<4:0> (R311). -/
def rotL (x y : Word) : Word := x.rotateLeft (y.toNat % 32)

/-- The position of a bit field: Y<4:0> (R312). -/
def fieldPos (y : Word) : Nat := y.toNat % 32
/-- The bits of a field that lie inside the word (R312). -/
def fieldLen (y : Word) : Nat := min (y.toNat / 256 % 32) (32 - fieldPos y)

/-- `bfeu` (R312). -/
def extractU (x y : Word) : Word := BitVec.ofNat 32 (x.toNat / 2 ^ fieldPos y % 2 ^ fieldLen y)

/-- `bfes` (R312): the top bit of the field is the sign. -/
def extractS (x y : Word) : Word :=
  let n := fieldLen y
  let u := (extractU x y).toNat
  if n = 0 then 0 else if 2 ^ (n - 1) ≤ u then BitVec.ofInt 32 ((u : Int) - 2 ^ n) else BitVec.ofNat 32 u

/-- `bfi` (R313). -/
def insertField (x y d : Word) : Word :=
  let m : Word := BitVec.ofNat 32 ((2 ^ fieldLen y - 1) * 2 ^ fieldPos y)
  (d &&& ~~~m) ||| ((x <<< fieldPos y) &&& m)

/-- An exact dot product of `n` elements of `b` bits, added to D and wrapped once (R314). -/
def dot (n b : Nat) (el : Nat → Int) (x y d : Word) : Word :=
  BitVec.ofInt 32 ((List.range n).foldl (fun acc k => acc + el (bitsAt x.toNat (b * k) b) * el (bitsAt y.toNat (b * k) b)) d.toInt)

/-- A field of `b` bits read as signed. -/
def signedOf (b u : Nat) : Int := if 2 ^ (b - 1) ≤ u then (u : Int) - 2 ^ b else u

/-! ## Results of the unary group (R316) -/

/-- `abs` (R316). -/
def absW (x : Word) : Word := if x.msb then 0 - x else x
/-- `popc` (R316). -/
def popc (x : Word) : Word := BitVec.ofNat 32 ((List.range 32).filter (fun i => x.getLsbD i)).length
/-- `clz` (R316): 32 for 0. -/
def clzW (x : Word) : Word := BitVec.ofNat 32 (((List.range 32).find? (fun i => x.getLsbD (31 - i))).getD 32)
/-- `ctz` (R316): 32 for 0. -/
def ctzW (x : Word) : Word := BitVec.ofNat 32 (((List.range 32).find? (fun i => x.getLsbD i)).getD 32)
/-- `brev` (R316). -/
def brevW (x : Word) : Word := maskOf (fun i => x.getLsbD (31 - i.val))
/-- `bswap` (R316). -/
def bswapW (x : Word) : Word := x.extractLsb' 0 8 ++ x.extractLsb' 8 8 ++ x.extractLsb' 16 8 ++ x.extractLsb' 24 8

/-! ## Pack and unpack (R317, R318) -/

/-- Saturate (R81). -/
def sat (x lo hi : Int) : Int := if x < lo then lo else if hi < x then hi else x

/-- Pack elements of `b` bits, element 0 lowest, each saturated to [lo, hi] (R317). -/
def packAll (b : Nat) (lo hi : Int) (xs : List Word) : Word :=
  BitVec.ofNat 32 (((List.range xs.length).map (fun k =>
    ((sat (xs.getD k 0).toInt lo hi) % 2 ^ b).toNat * 2 ^ (b * k))).sum)

/-- A pack of `n` registers from X (R317). -/
def State.pack (s : State) (e : Bool) (d x : Opnd) (n b : Nat) (lo hi : Int) : State :=
  s.issue { len := 4, e := e, srcs := opndRun x n, dsts := [d] } (fun _ => !opndRunOk x n)
    (fun w => !w.clsRule d [x] false)
    (fun w => .done (match d with
      | .v m => w.doneV m (Vector.ofFn (fun i => packAll b lo hi ((opndRun x n).map (fun o => w.lane o i))))
      | .s m => w.doneS m (packAll b lo hi ((opndRun x n).map w.sval))
      | _ => w.doneNone))

/-- Write a run of `n` registers from D with results by element (R318). -/
def View.putRun (w : View) (d : Opnd) (n : Nat) (vs : Nat → Fin 32 → Word) (ss : Nat → Word) : Group :=
  (List.range n).foldl (fun g k => match opndPlus d k with
    | some (.v m) => w.putV g m (Vector.ofFn (vs k))
    | some (.s m) => w.putS g m (ss k)
    | _ => g) w.g

/-- An unpack into `n` registers from D; the latch holds D (R318). -/
def State.unpk (s : State) (e : Bool) (d x : Opnd) (n : Nat) (el : Nat → Word → Word) : State :=
  s.issue { len := opLen [x], e := e, srcs := [x], dsts := opndRun d n } (fun _ => !opndRunOk d n)
    (fun w => !w.clsRule d [x] false)
    (fun w =>
      let g := w.putRun d n (fun k i => el k (w.lane x i)) (fun k => el k (w.sval x))
      .done (match d with
        | .v m => { g := g, latch := some (.v g.v[m]) }
        | .s _ => { g := g, latch := some (.s (el 0 (w.sval x))) }
        | _ => w.doneNone))

/-- Element k of `b` bits, sign-extended. -/
def elemS (b k : Nat) (x : Word) : Word := BitVec.ofInt 32 (signedOf b (bitsAt x.toNat (b * k) b))
/-- Element k of `b` bits, zero-extended. -/
def elemU (b k : Nat) (x : Word) : Word := BitVec.ofNat 32 (bitsAt x.toNat (b * k) b)

/-! ## Class movement (R319 to R322) -/

/-- The lowest lane of a mask. -/
def lowLane (m : Mask) : Fin 32 := ((List.finRange 32).find? (fun i => m.getLsbD i.val)).getD 0

/-- The affine value that the entry-mask lanes of a V value form, if they form one (R322). -/
def affineOf (m : Mask) (x : Fin 32 → Word) : Option Affine :=
  match m.lanes with
  | [] => some ⟨0, 0⟩
  | [i0] => some ⟨BitVec.ofInt 64 (x i0).toInt, 0⟩
  | i0 :: i1 :: r =>
    let b0 := (x i0).toInt
    let delta := (x i1).toInt - b0
    let gap : Int := (i1.val : Int) - i0.val
    let t := delta / gap
    if delta % gap = 0 ∧ -2147483648 ≤ t ∧ t ≤ 2147483647 ∧
        (i0 :: i1 :: r).all (fun j => (x j).toInt == b0 + ((j.val : Int) - i0.val) * t) then
      some ⟨BitVec.ofInt 64 (b0 - i0.val * t), BitVec.ofInt 32 t⟩
    else none

/-- `Opnd` is an A or V register: what an S-only destination refuses. -/
def notS : Opnd → Bool
  | .v _ => true
  | .a _ => true
  | _ => false

/-! ## The meanings -/

/-- `add` into A: bases and strides add (R189). -/
def affAdd (x y : Opnd) (w : View) : DWord × Int :=
  ((w.aval x).base + (w.aval y).base, (w.aval x).stride.toInt + (w.aval y).stride.toInt)
/-- `sub` into A (R189). -/
def affSub (x y : Opnd) (w : View) : DWord × Int :=
  ((w.aval x).base - (w.aval y).base, (w.aval x).stride.toInt - (w.aval y).stride.toInt)
/-- `mul` into A by the S source (R189). -/
def affMul (x y : Opnd) (w : View) : DWord × Int :=
  let a := if w.atMost .s x then w.aval y else w.aval x
  let m := if w.atMost .s x then w.sval x else w.sval y
  (a.base * m.signExtend 64, a.stride.toInt * m.toInt)
/-- `shl` into A by s<5:0> (R189). -/
def affShl (x y : Opnd) (w : View) : DWord × Int :=
  ((w.aval x).base <<< count6 (w.sval y), (w.aval x).stride.toInt * 2 ^ count6 (w.sval y))

/-- `mul` into A takes exactly one S and one A source (R188); an invalid latch is found later. -/
def mulCls (d x y : Opnd) (w : View) : Bool :=
  match d with
  | .a _ => match w.cls x, w.cls y with
    | some cx, some cy => cx != cy
    | _, _ => true
  | _ => true
/-- `shl` into A takes an S count (R188). -/
def shlCls (d y : Opnd) (w : View) : Bool :=
  match d with
  | .a _ => w.atMost .s y
  | _ => true

/-- `add` (R309, R315). -/
def execAdd (e : Bool) (d x y : Opnd) (s : State) : Host.Outcome State Fault Refusal :=
  .next (s.twoA (opLen [x, y]) e d x y (fun _ => true) (· + ·) (affAdd x y))
/-- `sub` (R309, R315). -/
def execSub (e : Bool) (d x y : Opnd) (s : State) : Host.Outcome State Fault Refusal :=
  .next (s.twoA (opLen [x, y]) e d x y (fun _ => true) (· - ·) (affSub x y))
/-- `mul` (R309, R315). -/
def execMul (e : Bool) (d x y : Opnd) (s : State) : Host.Outcome State Fault Refusal :=
  .next (s.twoA (opLen [x, y]) e d x y (mulCls d x y) (· * ·) (affMul x y))
/-- `shl` (R309, R315). -/
def execShl (e : Bool) (d x y : Opnd) (s : State) : Host.Outcome State Fault Refusal :=
  .next (s.twoA (opLen [x, y]) e d x y (shlCls d y) shiftL (affShl x y))
/-- `mulhs` (R309). -/
def execMulhs (e : Bool) (d x y : Opnd) (s : State) : Host.Outcome State Fault Refusal :=
  .next (s.two (opLen [x, y]) e d x y false (fun a b _ => mulHighS a b))
/-- `mulhu` (R309). -/
def execMulhu (e : Bool) (d x y : Opnd) (s : State) : Host.Outcome State Fault Refusal :=
  .next (s.two (opLen [x, y]) e d x y false (fun a b _ => mulHighU a b))
/-- `mins` (R309). -/
def execMins (e : Bool) (d x y : Opnd) (s : State) : Host.Outcome State Fault Refusal :=
  .next (s.two (opLen [x, y]) e d x y false (fun a b _ => minS a b))
/-- `maxs` (R309). -/
def execMaxs (e : Bool) (d x y : Opnd) (s : State) : Host.Outcome State Fault Refusal :=
  .next (s.two (opLen [x, y]) e d x y false (fun a b _ => maxS a b))
/-- `minu` (R309). -/
def execMinu (e : Bool) (d x y : Opnd) (s : State) : Host.Outcome State Fault Refusal :=
  .next (s.two (opLen [x, y]) e d x y false (fun a b _ => minU a b))
/-- `maxu` (R309). -/
def execMaxu (e : Bool) (d x y : Opnd) (s : State) : Host.Outcome State Fault Refusal :=
  .next (s.two (opLen [x, y]) e d x y false (fun a b _ => maxU a b))
/-- `and` (R309). -/
def execAnd (e : Bool) (d x y : Opnd) (s : State) : Host.Outcome State Fault Refusal :=
  .next (s.two (opLen [x, y]) e d x y false (fun a b _ => a &&& b))
/-- `or` (R309). -/
def execOr (e : Bool) (d x y : Opnd) (s : State) : Host.Outcome State Fault Refusal :=
  .next (s.two (opLen [x, y]) e d x y false (fun a b _ => a ||| b))
/-- `xor` (R309). -/
def execXor (e : Bool) (d x y : Opnd) (s : State) : Host.Outcome State Fault Refusal :=
  .next (s.two (opLen [x, y]) e d x y false (fun a b _ => a ^^^ b))
/-- `andn` (R309). -/
def execAndn (e : Bool) (d x y : Opnd) (s : State) : Host.Outcome State Fault Refusal :=
  .next (s.two (opLen [x, y]) e d x y false (fun a b _ => a &&& ~~~b))
/-- `shru` (R309). -/
def execShru (e : Bool) (d x y : Opnd) (s : State) : Host.Outcome State Fault Refusal :=
  .next (s.two (opLen [x, y]) e d x y false (fun a b _ => shiftRU a b))
/-- `shrs` (R309). -/
def execShrs (e : Bool) (d x y : Opnd) (s : State) : Host.Outcome State Fault Refusal :=
  .next (s.two (opLen [x, y]) e d x y false (fun a b _ => shiftRS a b))
/-- `rotl` (R309). -/
def execRotl (e : Bool) (d x y : Opnd) (s : State) : Host.Outcome State Fault Refusal :=
  .next (s.two (opLen [x, y]) e d x y false (fun a b _ => rotL a b))
/-- `bfes` (R309). -/
def execBfes (e : Bool) (d x y : Opnd) (s : State) : Host.Outcome State Fault Refusal :=
  .next (s.two (opLen [x, y]) e d x y false (fun a b _ => extractS a b))
/-- `bfeu` (R309). -/
def execBfeu (e : Bool) (d x y : Opnd) (s : State) : Host.Outcome State Fault Refusal :=
  .next (s.two (opLen [x, y]) e d x y false (fun a b _ => extractU a b))
/-- `mad` (R309). -/
def execMad (e : Bool) (d x y : Opnd) (s : State) : Host.Outcome State Fault Refusal :=
  .next (s.two (opLen [x, y]) e d x y true (fun a b c => c + a * b))
/-- `bfi` (R313). -/
def execBfi (e : Bool) (d x y : Opnd) (s : State) : Host.Outcome State Fault Refusal :=
  .next (s.two (opLen [x, y]) e d x y true insertField)
/-- `dp4a.s` (R314). -/
def execDp4aS (e : Bool) (d x y : Opnd) (s : State) : Host.Outcome State Fault Refusal :=
  .next (s.two (opLen [x, y]) e d x y true (dot 4 8 (signedOf 8)))
/-- `dp4a.u` (R314). -/
def execDp4aU (e : Bool) (d x y : Opnd) (s : State) : Host.Outcome State Fault Refusal :=
  .next (s.two (opLen [x, y]) e d x y true (dot 4 8 Int.ofNat))
/-- `dp8a.s` (R314). -/
def execDp8aS (e : Bool) (d x y : Opnd) (s : State) : Host.Outcome State Fault Refusal :=
  .next (s.two (opLen [x, y]) e d x y true (dot 8 4 (signedOf 4)))
/-- The 16-bit `add` (R323). -/
def execAdd16 (e : Bool) (d y : Fin 32) (s : State) : Host.Outcome State Fault Refusal :=
  .next (s.two 2 e (short d) (short d) (short y) false (fun a b _ => a + b))
/-- The 16-bit `sub` (R323). -/
def execSub16 (e : Bool) (d y : Fin 32) (s : State) : Host.Outcome State Fault Refusal :=
  .next (s.two 2 e (short d) (short d) (short y) false (fun a b _ => a - b))
/-- The 16-bit `mul` (R323). -/
def execMul16 (e : Bool) (d y : Fin 32) (s : State) : Host.Outcome State Fault Refusal :=
  .next (s.two 2 e (short d) (short d) (short y) false (fun a b _ => a * b))
/-- The 16-bit `and` (R323). -/
def execAnd16 (e : Bool) (d y : Fin 32) (s : State) : Host.Outcome State Fault Refusal :=
  .next (s.two 2 e (short d) (short d) (short y) false (fun a b _ => a &&& b))
/-- The 16-bit `or` (R323). -/
def execOr16 (e : Bool) (d y : Fin 32) (s : State) : Host.Outcome State Fault Refusal :=
  .next (s.two 2 e (short d) (short d) (short y) false (fun a b _ => a ||| b))
/-- The 16-bit `xor` (R323). -/
def execXor16 (e : Bool) (d y : Fin 32) (s : State) : Host.Outcome State Fault Refusal :=
  .next (s.two 2 e (short d) (short d) (short y) false (fun a b _ => a ^^^ b))
/-- The 16-bit `shl` (R323). -/
def execShl16 (e : Bool) (d y : Fin 32) (s : State) : Host.Outcome State Fault Refusal :=
  .next (s.two 2 e (short d) (short d) (short y) false (fun a b _ => shiftL a b))
/-- The 16-bit `shru` (R323). -/
def execShru16 (e : Bool) (d y : Fin 32) (s : State) : Host.Outcome State Fault Refusal :=
  .next (s.two 2 e (short d) (short d) (short y) false (fun a b _ => shiftRU a b))
/-- The 16-bit `mins` (R323). -/
def execMins16 (e : Bool) (d y : Fin 32) (s : State) : Host.Outcome State Fault Refusal :=
  .next (s.two 2 e (short d) (short d) (short y) false (fun a b _ => minS a b))
/-- The 16-bit `maxs` (R323). -/
def execMaxs16 (e : Bool) (d y : Fin 32) (s : State) : Host.Outcome State Fault Refusal :=
  .next (s.two 2 e (short d) (short d) (short y) false (fun a b _ => maxS a b))
/-- The 16-bit `mov` (R323): D = d and X = y. -/
def execMov16 (e : Bool) (d y : Fin 32) (s : State) : Host.Outcome State Fault Refusal :=
  .next (s.issue { len := 2, e := e, srcs := [short y], dsts := [short d] } noCheck noCheck
    (fun w => .done (w.alu1 id (short d) (short y))))
/-- `mov` (R320): the one unary instruction with an A destination. -/
def execMov (e : Bool) (d x : Opnd) (s : State) : Host.Outcome State Fault Refusal :=
  .next (s.issue (formOne e d x) noCheck (fun w => !w.clsRule d [x] true)
    (fun w => .done (match d with
      | .a n => w.doneA n (w.aval x)
      | _ => w.alu1 id d x)))
/-- `not` (R316). -/
def execNot (e : Bool) (d x : Opnd) (s : State) : Host.Outcome State Fault Refusal := .next (s.one e d x (fun a => ~~~a))
/-- `neg` (R316). -/
def execNeg (e : Bool) (d x : Opnd) (s : State) : Host.Outcome State Fault Refusal := .next (s.one e d x (fun a => 0 - a))
/-- `abs` (R316). -/
def execAbs (e : Bool) (d x : Opnd) (s : State) : Host.Outcome State Fault Refusal := .next (s.one e d x absW)
/-- `popc` (R316). -/
def execPopc (e : Bool) (d x : Opnd) (s : State) : Host.Outcome State Fault Refusal := .next (s.one e d x popc)
/-- `clz` (R316). -/
def execClz (e : Bool) (d x : Opnd) (s : State) : Host.Outcome State Fault Refusal := .next (s.one e d x clzW)
/-- `ctz` (R316). -/
def execCtz (e : Bool) (d x : Opnd) (s : State) : Host.Outcome State Fault Refusal := .next (s.one e d x ctzW)
/-- `brev` (R316). -/
def execBrev (e : Bool) (d x : Opnd) (s : State) : Host.Outcome State Fault Refusal := .next (s.one e d x brevW)
/-- `sextb` (R316). -/
def execSextb (e : Bool) (d x : Opnd) (s : State) : Host.Outcome State Fault Refusal := .next (s.one e d x (fun a => (a.setWidth 8).signExtend 32))
/-- `sexth` (R316). -/
def execSexth (e : Bool) (d x : Opnd) (s : State) : Host.Outcome State Fault Refusal := .next (s.one e d x (fun a => (a.setWidth 16).signExtend 32))
/-- `zextb` (R316). -/
def execZextb (e : Bool) (d x : Opnd) (s : State) : Host.Outcome State Fault Refusal := .next (s.one e d x (fun a => (a.setWidth 8).setWidth 32))
/-- `zexth` (R316). -/
def execZexth (e : Bool) (d x : Opnd) (s : State) : Host.Outcome State Fault Refusal := .next (s.one e d x (fun a => (a.setWidth 16).setWidth 32))
/-- `bswap` (R316). -/
def execBswap (e : Bool) (d x : Opnd) (s : State) : Host.Outcome State Fault Refusal := .next (s.one e d x bswapW)
/-- `pack.s8` (R317). -/
def execPackS8 (e : Bool) (d x : Opnd) (s : State) : Host.Outcome State Fault Refusal := .next (s.pack e d x 4 8 (-128) 127)
/-- `pack.u8` (R317). -/
def execPackU8 (e : Bool) (d x : Opnd) (s : State) : Host.Outcome State Fault Refusal := .next (s.pack e d x 4 8 0 255)
/-- `pack.s4` (R317). -/
def execPackS4 (e : Bool) (d x : Opnd) (s : State) : Host.Outcome State Fault Refusal := .next (s.pack e d x 8 4 (-8) 7)
/-- `unpk.s8` (R318). -/
def execUnpkS8 (e : Bool) (d x : Opnd) (s : State) : Host.Outcome State Fault Refusal := .next (s.unpk e d x 4 (elemS 8))
/-- `unpk.u8` (R318). -/
def execUnpkU8 (e : Bool) (d x : Opnd) (s : State) : Host.Outcome State Fault Refusal := .next (s.unpk e d x 4 (elemU 8))
/-- `unpk.s4` (R318). -/
def execUnpkS4 (e : Bool) (d x : Opnd) (s : State) : Host.Outcome State Fault Refusal := .next (s.unpk e d x 8 (elemS 4))
/-- `bcast.s` (R321): the value of X in the lowest lane of the entry mask. -/
def execBcastS (e : Bool) (d x : Opnd) (s : State) : Host.Outcome State Fault Refusal :=
  .next (s.issue (formOne e d x) noCheck (fun _ => notS d)
    (fun w => .done (match d with
      | .s n => w.doneS n (w.lane x (lowLane w.g.emask))
      | _ => w.doneNone)))

/-- The A value that `affx` gives, if its source forms one: an S or A source always does (R322). -/
def View.affxValue (w : View) (x : Opnd) : Option Affine :=
  match w.cls x with
  | some .v => affineOf w.g.emask (w.lane x)
  | _ => some (w.aval x)

/-- `affx` (R322): the A value, or AFX = 1 with the destination kept. -/
def execAffx (e : Bool) (d x : Opnd) (s : State) : Host.Outcome State Fault Refusal :=
  .next (s.issue (formOne e d x) noCheck
    (fun _ => match d with
      | .v _ => true
      | .s _ => true
      | _ => false)
    (fun w => .done (match d, w.affxValue x with
      | .a n, some v => { (w.doneA n v) with g := { w.putA w.g n v with afx := false } }
      | _, some _ => { g := { w.g with afx := false } }
      | _, none => { g := { w.g with afx := true } })))

end Sys2Proof.Machine
end

