-- ==== Sys2Proof/Machine/FloatOps.lean ====
section
/-! DEFINITION. The floating-point, conversion and companding instructions (R324 to R340): a meaning per instruction over the
datapaths of Machine/Integer.lean and the arithmetic of Machine/Float.lean. -/
namespace Sys2Proof.Machine

/-- `fadd` (R327). -/
def execFadd (e : Bool) (d x y : Opnd) (s : State) : Host.Outcome State Fault Refusal :=
  .next (s.two (opLen [x, y]) e d x y false (fun a b _ => fAdd a b))
/-- `fsub` (R327). -/
def execFsub (e : Bool) (d x y : Opnd) (s : State) : Host.Outcome State Fault Refusal :=
  .next (s.two (opLen [x, y]) e d x y false (fun a b _ => fSub a b))
/-- `fmul` (R327). -/
def execFmul (e : Bool) (d x y : Opnd) (s : State) : Host.Outcome State Fault Refusal :=
  .next (s.two (opLen [x, y]) e d x y false (fun a b _ => fMul a b))
/-- `ffma` (R327). -/
def execFfma (e : Bool) (d x y : Opnd) (s : State) : Host.Outcome State Fault Refusal :=
  .next (s.two (opLen [x, y]) e d x y true fFma)
/-- `fmin` (R328). -/
def execFmin (e : Bool) (d x y : Opnd) (s : State) : Host.Outcome State Fault Refusal :=
  .next (s.two (opLen [x, y]) e d x y false (fun a b _ => fMin a b))
/-- `fmax` (R328). -/
def execFmax (e : Bool) (d x y : Opnd) (s : State) : Host.Outcome State Fault Refusal :=
  .next (s.two (opLen [x, y]) e d x y false (fun a b _ => fMax a b))
/-- `hadd2` (R329). -/
def execHadd2 (e : Bool) (d x y : Opnd) (s : State) : Host.Outcome State Fault Refusal :=
  .next (s.two (opLen [x, y]) e d x y false (fun a b _ => hAdd2 a b))
/-- `hmul2` (R329). -/
def execHmul2 (e : Bool) (d x y : Opnd) (s : State) : Host.Outcome State Fault Refusal :=
  .next (s.two (opLen [x, y]) e d x y false (fun a b _ => hMul2 a b))
/-- `hfma2` (R329). -/
def execHfma2 (e : Bool) (d x y : Opnd) (s : State) : Host.Outcome State Fault Refusal :=
  .next (s.two (opLen [x, y]) e d x y true (xFma2 fp16))
/-- `bfma2` (R329). -/
def execBfma2 (e : Bool) (d x y : Opnd) (s : State) : Host.Outcome State Fault Refusal :=
  .next (s.two (opLen [x, y]) e d x y true (xFma2 bf16))
/-- The 16-bit `fadd` (R330). -/
def execFadd16 (e : Bool) (d y : Fin 32) (s : State) : Host.Outcome State Fault Refusal :=
  .next (s.two 2 e (short d) (short d) (short y) false (fun a b _ => fAdd a b))
/-- The 16-bit `fmul` (R330). -/
def execFmul16 (e : Bool) (d y : Fin 32) (s : State) : Host.Outcome State Fault Refusal :=
  .next (s.two 2 e (short d) (short d) (short y) false (fun a b _ => fMul a b))
/-- The 16-bit `fsub` (R330). -/
def execFsub16 (e : Bool) (d y : Fin 32) (s : State) : Host.Outcome State Fault Refusal :=
  .next (s.two 2 e (short d) (short d) (short y) false (fun a b _ => fSub a b))
/-- The 16-bit `fmin` (R330). -/
def execFmin16 (e : Bool) (d y : Fin 32) (s : State) : Host.Outcome State Fault Refusal :=
  .next (s.two 2 e (short d) (short d) (short y) false (fun a b _ => fMin a b))
/-- The 16-bit `fmax` (R330). -/
def execFmax16 (e : Bool) (d y : Fin 32) (s : State) : Host.Outcome State Fault Refusal :=
  .next (s.two 2 e (short d) (short d) (short y) false (fun a b _ => fMax a b))
/-- `cvt.f32.f16lo` and its kind: one element widened exactly (R338). -/
def widen (f : FFmt) (k : Nat) (x : Word) : Word := toWord ((valOf f (el16 x k)).to fp32)
/-- Both elements converted between the half formats (R338). -/
def recode (from_ to_ : FFmt) (x : Word) : Word := pack2 (fun k => (valOf from_ (el16 x k)).to to_)
/-- Two FP32 registers narrowed into one word (R338). -/
def State.narrow (s : State) (e : Bool) (d x : Opnd) (f : FFmt) : State :=
  let f2 := fun (a b : Word) => pack2 (fun k => (val32 (if k = 0 then a else b)).to f)
  let x1 := (opndPlus x 1).getD x
  s.issue { len := 4, e := e, srcs := opndRun x 2, dsts := [d] } (fun _ => !opndRunOk x 2)
    (fun w => !w.clsRule d [x] false) (fun w => .done (w.alu (fun a b _ => f2 a b) d x x1))

/-- `fneg` (R332). -/
def execFneg (e : Bool) (d x : Opnd) (s : State) : Host.Outcome State Fault Refusal := .next (s.one e d x (fun a => a ^^^ 0x80000000))
/-- `fabs` (R332). -/
def execFabs (e : Bool) (d x : Opnd) (s : State) : Host.Outcome State Fault Refusal := .next (s.one e d x (fun a => a &&& 0x7FFFFFFF))
/-- `frcp` (R333). -/
def execFrcp (e : Bool) (d x : Opnd) (s : State) : Host.Outcome State Fault Refusal := .next (s.one e d x fRcp)
/-- `frsq` (R333). -/
def execFrsq (e : Bool) (d x : Opnd) (s : State) : Host.Outcome State Fault Refusal := .next (s.one e d x fRsq)
/-- `fsqrt` (R334). -/
def execFsqrt (e : Bool) (d x : Opnd) (s : State) : Host.Outcome State Fault Refusal := .next (s.one e d x fSqrt)
/-- `fex2` (R333). -/
def execFex2 (e : Bool) (d x : Opnd) (s : State) : Host.Outcome State Fault Refusal := .next (s.one e d x fEx2)
/-- `flg2` (R333). -/
def execFlg2 (e : Bool) (d x : Opnd) (s : State) : Host.Outcome State Fault Refusal := .next (s.one e d x fLg2)
/-- `fsin` (R333). -/
def execFsin (e : Bool) (d x : Opnd) (s : State) : Host.Outcome State Fault Refusal := .next (s.one e d x fSin)
/-- `fcos` (R333). -/
def execFcos (e : Bool) (d x : Opnd) (s : State) : Host.Outcome State Fault Refusal := .next (s.one e d x fCos)
/-- `frint.ne` (R335). -/
def execFrintNe (e : Bool) (d x : Opnd) (s : State) : Host.Outcome State Fault Refusal := .next (s.one e d x (fRint .ne))
/-- `frint.z` (R335). -/
def execFrintZ (e : Bool) (d x : Opnd) (s : State) : Host.Outcome State Fault Refusal := .next (s.one e d x (fRint .z))
/-- `frint.dn` (R335). -/
def execFrintDn (e : Bool) (d x : Opnd) (s : State) : Host.Outcome State Fault Refusal := .next (s.one e d x (fRint .dn))
/-- `frint.up` (R335). -/
def execFrintUp (e : Bool) (d x : Opnd) (s : State) : Host.Outcome State Fault Refusal := .next (s.one e d x (fRint .up))
/-- `ffrac` (R335). -/
def execFfrac (e : Bool) (d x : Opnd) (s : State) : Host.Outcome State Fault Refusal := .next (s.one e d x fFrac)
/-- `fclass` (R336). -/
def execFclass (e : Bool) (d x : Opnd) (s : State) : Host.Outcome State Fault Refusal := .next (s.one e d x fClass)
/-- `fsat` (R335). -/
def execFsat (e : Bool) (d x : Opnd) (s : State) : Host.Outcome State Fault Refusal := .next (s.one e d x fSat)
/-- `cvt.f32.s32` (R337). -/
def execCvtF32S32 (e : Bool) (d x : Opnd) (s : State) : Host.Outcome State Fault Refusal := .next (s.one e d x (fun a => intToF a.toInt))
/-- `cvt.f32.u32` (R337). -/
def execCvtF32U32 (e : Bool) (d x : Opnd) (s : State) : Host.Outcome State Fault Refusal := .next (s.one e d x (fun a => intToF a.toNat))
/-- `cvt.s32.f32.ne` (R337). -/
def execCvtS32F32Ne (e : Bool) (d x : Opnd) (s : State) : Host.Outcome State Fault Refusal := .next (s.one e d x (fToInt .ne (-2147483648) 2147483647))
/-- `cvt.s32.f32.z` (R337). -/
def execCvtS32F32Z (e : Bool) (d x : Opnd) (s : State) : Host.Outcome State Fault Refusal := .next (s.one e d x (fToInt .z (-2147483648) 2147483647))
/-- `cvt.s32.f32.dn` (R337). -/
def execCvtS32F32Dn (e : Bool) (d x : Opnd) (s : State) : Host.Outcome State Fault Refusal := .next (s.one e d x (fToInt .dn (-2147483648) 2147483647))
/-- `cvt.s32.f32.up` (R337). -/
def execCvtS32F32Up (e : Bool) (d x : Opnd) (s : State) : Host.Outcome State Fault Refusal := .next (s.one e d x (fToInt .up (-2147483648) 2147483647))
/-- `cvt.u32.f32.ne` (R337). -/
def execCvtU32F32Ne (e : Bool) (d x : Opnd) (s : State) : Host.Outcome State Fault Refusal := .next (s.one e d x (fToInt .ne 0 4294967295))
/-- `cvt.u32.f32.z` (R337). -/
def execCvtU32F32Z (e : Bool) (d x : Opnd) (s : State) : Host.Outcome State Fault Refusal := .next (s.one e d x (fToInt .z 0 4294967295))
/-- `cvt.f32.f16lo` (R338). -/
def execCvtF32F16lo (e : Bool) (d x : Opnd) (s : State) : Host.Outcome State Fault Refusal := .next (s.one e d x (widen fp16 0))
/-- `cvt.f32.f16hi` (R338). -/
def execCvtF32F16hi (e : Bool) (d x : Opnd) (s : State) : Host.Outcome State Fault Refusal := .next (s.one e d x (widen fp16 1))
/-- `cvt.f32.bf16lo` (R338). -/
def execCvtF32Bf16lo (e : Bool) (d x : Opnd) (s : State) : Host.Outcome State Fault Refusal := .next (s.one e d x (widen bf16 0))
/-- `cvt.f32.bf16hi` (R338). -/
def execCvtF32Bf16hi (e : Bool) (d x : Opnd) (s : State) : Host.Outcome State Fault Refusal := .next (s.one e d x (widen bf16 1))
/-- `cvt.f16x2.bf16x2` (R338). -/
def execCvtF16x2Bf16x2 (e : Bool) (d x : Opnd) (s : State) : Host.Outcome State Fault Refusal := .next (s.one e d x (recode bf16 fp16))
/-- `cvt.bf16x2.f16x2` (R338). -/
def execCvtBf16x2F16x2 (e : Bool) (d x : Opnd) (s : State) : Host.Outcome State Fault Refusal := .next (s.one e d x (recode fp16 bf16))
/-- `cvt.f16x2.f32` (R338). -/
def execCvtF16x2F32 (e : Bool) (d x : Opnd) (s : State) : Host.Outcome State Fault Refusal := .next (s.narrow e d x fp16)
/-- `cvt.bf16x2.f32` (R338). -/
def execCvtBf16x2F32 (e : Bool) (d x : Opnd) (s : State) : Host.Outcome State Fault Refusal := .next (s.narrow e d x bf16)
/-- A one-source instruction under companding table j of the launch (R339, R340). -/
def State.oneC8 (s : State) (e : Bool) (j : Fin 8) (d x : Opnd) (f : CTable → Word → Word) : State :=
  s.issue (formOne e d x) noCheck (fun w => !w.clsRule d [x] false) (fun w => .done (w.alu1 (f (w.l.table j.val)) d x))

/-- `qnt.c8` (R339). -/
def execQntC8 (e : Bool) (j : Fin 8) (d x : Opnd) (s : State) : Host.Outcome State Fault Refusal :=
  .next (s.oneC8 e j d x (fun t a => BitVec.ofInt 32 (c8Fwd t a)))
/-- `dqnt.c8` (R340). -/
def execDqntC8 (e : Bool) (j : Fin 8) (d x : Opnd) (s : State) : Host.Outcome State Fault Refusal :=
  .next (s.oneC8 e j d x (fun t a => c8Inv32 t (a.setWidth 8)))

end Sys2Proof.Machine
end

