-- ==== Sys2Proof/Machine/Lanes.lean ====
section
/-! DEFINITION. Compares, predicate logic, votes, shuffles, quad exchanges, reductions, scans and rebalance (R341 to R354). -/
namespace Sys2Proof.Machine

/-! ## Shared forms -/

/-- A compare (R341, R342): the condition in every active lane. -/
def State.cmp (s : State) (e : Bool) (pd : Pred) (x y : Opnd) (c : Word → Word → Bool) : State :=
  s.issue { len := opLen [x, y], e := e, srcs := [x, y], pdst := some pd } noCheck noCheck
    (fun w => .done (w.doneP pd (maskOf (fun i => c (w.lane x i) (w.lane y i)))))

/-- Predicate logic (R343). -/
def State.plogic (s : State) (e : Bool) (pd px py : Pred) (f : Mask → Mask → Mask) : State :=
  s.issue { len := 4, e := e, preds := [px, py], pdst := some pd } noCheck noCheck
    (fun w => .done (w.doneP pd (f (w.g.predMask px) (w.g.predMask py))))

/-- One value for the group, into an S register or every active lane of a V register (R346, R350). -/
def View.spread (w : View) (d : Opnd) (x : Word) : Done := w.alu (fun _ _ _ => x) d .zero .zero

/-- `d` is an A register: what these demotions refuse. -/
def isA : Opnd → Bool
  | .a _ => true
  | _ => false

/-- `d` is an S or A register: what a V-only destination refuses. -/
def notV : Opnd → Bool
  | .s _ => true
  | .a _ => true
  | _ => false

/-- A ballot or vote (R345): a function of the active lanes and those with the predicate set. -/
def State.vote (s : State) (e : Bool) (d : Opnd) (px : Pred) (f : Mask → Mask → Word) : State :=
  s.issue { len := 4, e := e, preds := [px], dsts := [d] } noCheck (fun _ => isA d)
    (fun w => .done (w.spread d (f w.act (w.act &&& w.g.predMask px))))

/-- A V result by lane, sources read from any lane (R347, R348). -/
def State.shuffle (s : State) (e : Bool) (d : Opnd) (xs : List Opnd) (from_ : View → Fin 32 → Fin 32) (x : Opnd) : State :=
  s.issue { len := opLen xs, e := e, srcs := xs, dsts := [d] } noCheck (fun _ => notV d)
    (fun w => .done (match d with
      | .v n => w.doneV n (Vector.ofFn (fun i => w.lane x (from_ w i)))
      | _ => w.doneNone))

/-- Lane 4q + (k xor m) for lane 4q + k (R348). -/
def quadXor (m : Nat) (i : Fin 32) : Fin 32 := ⟨(i.val ^^^ m) % 32, Nat.mod_lt _ (by decide)⟩
/-- Lane 4q + k of the quad of a lane (R348). -/
def quadLane (k : Fin 4) (i : Fin 32) : Fin 32 := ⟨i.val / 4 * 4 + k.val, by omega⟩

/-- comb of R350. -/
def comb (op : Word → Word → Word) : Option Word → Option Word → Option Word
  | none, b => b
  | a, none => a
  | some a, some b => some (op a b)

/-- One level of the tree of R350: neighbours combined. -/
def treeLevel (op : Word → Word → Word) : List (Option Word) → List (Option Word)
  | a :: b :: r => comb op a b :: treeLevel op r
  | l => l

/-- tree(e) of R350: five levels over 32 entries. -/
def tree (op : Word → Word → Word) (e : List (Option Word)) : Option Word :=
  (treeLevel op (treeLevel op (treeLevel op (treeLevel op (treeLevel op e))))).head?.join

/-- The tree over the lanes of a mask. -/
def View.treeOf (w : View) (op : Word → Word → Word) (x : Opnd) (m : Mask) : Option Word :=
  tree op ((List.finRange 32).map (fun i => if m.getLsbD i.val then some (w.lane x i) else none))

/-- A reduction (R350): the tree over the active lanes, and what its result becomes: of FP32, its canonical form, also where a
single lane is active (R84). -/
def State.reduce (s : State) (e : Bool) (d x : Opnd) (op : Word → Word → Word) (fin : Word → Word) : State :=
  s.issue (formOne e d x) noCheck (fun _ => isA d) (fun w => .done (w.spread d (fin ((w.treeOf op x w.act).getD 0))))

/-- The lanes below a lane, that lane included when `incl`. -/
def below (i : Fin 32) (incl : Bool) : Mask := BitVec.ofNat 32 (2 ^ (i.val + b2n incl) - 1)

/-- A scan (R351): lane i takes the tree over the active lanes before it, in the form `fin` gives it (R84). -/
def State.scan (s : State) (e : Bool) (d x : Opnd) (op : Word → Word → Word) (fin : Word → Word) (incl : Bool) : State :=
  s.issue (formOne e d x) noCheck (fun _ => notV d)
    (fun w => .done (match d with
      | .v n => w.doneV n (Vector.ofFn (fun i => fin ((w.treeOf op x (w.act &&& below i incl)).getD 0)))
      | _ => w.doneNone))

/-! ## The meanings -/

/-- FP32 words that are not NaN in the order of their values; both zeros give 0. -/
def vKey (w : Word) : Int := if w.msb then -((w.toNat % 2 ^ 31 : Nat) : Int) else (w.toNat % 2 ^ 31 : Nat)

/-- A comparison of FP32 values, false when either is NaN; +0 equals −0 (R341). -/
def cmpF (r : Int → Int → Bool) (a b : Word) : Bool := !(isNan a || isNan b) && r (vKey a) (vKey b)

/-- `cmpi.eq` (R341). -/
def execCmpiEq (e : Bool) (pd : Pred) (x y : Opnd) (s : State) : Host.Outcome State Fault Refusal :=
  .next (s.cmp e pd x y (fun a b => a == b))
/-- `cmpi.ne` (R341). -/
def execCmpiNe (e : Bool) (pd : Pred) (x y : Opnd) (s : State) : Host.Outcome State Fault Refusal :=
  .next (s.cmp e pd x y (fun a b => a != b))
/-- `cmpi.lt` (R341). -/
def execCmpiLt (e : Bool) (pd : Pred) (x y : Opnd) (s : State) : Host.Outcome State Fault Refusal :=
  .next (s.cmp e pd x y (fun a b => a.slt b))
/-- `cmpi.ge` (R341). -/
def execCmpiGe (e : Bool) (pd : Pred) (x y : Opnd) (s : State) : Host.Outcome State Fault Refusal :=
  .next (s.cmp e pd x y (fun a b => !a.slt b))
/-- `cmpu.lt` (R341). -/
def execCmpuLt (e : Bool) (pd : Pred) (x y : Opnd) (s : State) : Host.Outcome State Fault Refusal :=
  .next (s.cmp e pd x y (fun a b => a.ult b))
/-- `cmpu.ge` (R341). -/
def execCmpuGe (e : Bool) (pd : Pred) (x y : Opnd) (s : State) : Host.Outcome State Fault Refusal :=
  .next (s.cmp e pd x y (fun a b => !a.ult b))
/-- `cmpf.eq` (R341). -/
def execCmpfEq (e : Bool) (pd : Pred) (x y : Opnd) (s : State) : Host.Outcome State Fault Refusal :=
  .next (s.cmp e pd x y (fun a b => cmpF (· == ·) a b))
/-- `cmpf.ne` (R341). -/
def execCmpfNe (e : Bool) (pd : Pred) (x y : Opnd) (s : State) : Host.Outcome State Fault Refusal :=
  .next (s.cmp e pd x y (fun a b => !cmpF (· == ·) a b))
/-- `cmpf.lt` (R341). -/
def execCmpfLt (e : Bool) (pd : Pred) (x y : Opnd) (s : State) : Host.Outcome State Fault Refusal :=
  .next (s.cmp e pd x y (fun a b => cmpF (· < ·) a b))
/-- `cmpf.ge` (R341). -/
def execCmpfGe (e : Bool) (pd : Pred) (x y : Opnd) (s : State) : Host.Outcome State Fault Refusal :=
  .next (s.cmp e pd x y (fun a b => cmpF (· ≥ ·) a b))
/-- `cmpf.uo` (R341). -/
def execCmpfUo (e : Bool) (pd : Pred) (x y : Opnd) (s : State) : Host.Outcome State Fault Refusal :=
  .next (s.cmp e pd x y (fun a b => isNan a || isNan b))
/-- `cmpf.o` (R341). -/
def execCmpfO (e : Bool) (pd : Pred) (x y : Opnd) (s : State) : Host.Outcome State Fault Refusal :=
  .next (s.cmp e pd x y (fun a b => !(isNan a || isNan b)))
/-- `pand` (R343). -/
def execPand (e : Bool) (pd px py : Pred) (s : State) : Host.Outcome State Fault Refusal :=
  .next (s.plogic e pd px py (· &&& ·))
/-- `por` (R343). -/
def execPor (e : Bool) (pd px py : Pred) (s : State) : Host.Outcome State Fault Refusal :=
  .next (s.plogic e pd px py (· ||| ·))
/-- `pxor` (R343). -/
def execPxor (e : Bool) (pd px py : Pred) (s : State) : Host.Outcome State Fault Refusal :=
  .next (s.plogic e pd px py (· ^^^ ·))
/-- `ballot` (R345, R346). -/
def execBallot (e : Bool) (d : Opnd) (px : Pred) (s : State) : Host.Outcome State Fault Refusal :=
  .next (s.vote e d px (fun _ m => m))
/-- `anyof` (R345, R346). -/
def execAnyof (e : Bool) (d : Opnd) (px : Pred) (s : State) : Host.Outcome State Fault Refusal :=
  .next (s.vote e d px (fun _ m => if m = 0 then 0 else 1))
/-- `allof` (R345, R346). -/
def execAllof (e : Bool) (d : Opnd) (px : Pred) (s : State) : Host.Outcome State Fault Refusal :=
  .next (s.vote e d px (fun a m => if a = m then 1 else 0))
/-- `pcount` (R345, R346). -/
def execPcount (e : Bool) (d : Opnd) (px : Pred) (s : State) : Host.Outcome State Fault Refusal :=
  .next (s.vote e d px (fun _ m => popc m))
/-- The lane that a source of an exchange names: bits 4:0. -/
def laneOf (y : Word) : Fin 32 := ⟨y.toNat % 32, Nat.mod_lt _ (by decide)⟩

/-- `xlane.sel` (R347): each lane reads the lane that Y names; an S destination takes one lane, named by an S source. -/
def execXlaneSel (e : Bool) (d x y : Opnd) (s : State) : Host.Outcome State Fault Refusal :=
  .next (s.issue (formTwo (opLen [x, y]) e d x y false) noCheck
    (fun w => match d with
      | .s _ => !w.atMost .s y
      | .a _ => true
      | _ => false)
    (fun w => .done (match d with
      | .v n => w.doneV n (Vector.ofFn (fun i => w.lane x (laneOf (w.lane y i))))
      | .s n => w.doneS n (w.lane x (laneOf (w.sval y)))
      | _ => w.doneNone)))
/-- `xlane.flip` (R347): each lane reads the lane whose number differs in the bits that Y names. -/
def execXlaneFlip (e : Bool) (d x y : Opnd) (s : State) : Host.Outcome State Fault Refusal :=
  .next (s.shuffle e d [x, y] (fun w i => quadXor ((w.lane y i).toNat % 32) i) x)
/-- `qswap.h` (R348). -/
def execQswapH (e : Bool) (d x : Opnd) (s : State) : Host.Outcome State Fault Refusal := .next (s.shuffle e d [x] (fun _ i => quadXor 1 i) x)
/-- `qswap.v` (R348). -/
def execQswapV (e : Bool) (d x : Opnd) (s : State) : Host.Outcome State Fault Refusal := .next (s.shuffle e d [x] (fun _ i => quadXor 2 i) x)
/-- `qswap.d` (R348). -/
def execQswapD (e : Bool) (d x : Opnd) (s : State) : Host.Outcome State Fault Refusal := .next (s.shuffle e d [x] (fun _ i => quadXor 3 i) x)
/-- `qbc0` (R348). -/
def execQbc0 (e : Bool) (d x : Opnd) (s : State) : Host.Outcome State Fault Refusal := .next (s.shuffle e d [x] (fun _ i => quadLane 0 i) x)
/-- `qbc1` (R348). -/
def execQbc1 (e : Bool) (d x : Opnd) (s : State) : Host.Outcome State Fault Refusal := .next (s.shuffle e d [x] (fun _ i => quadLane 1 i) x)
/-- `qbc2` (R348). -/
def execQbc2 (e : Bool) (d x : Opnd) (s : State) : Host.Outcome State Fault Refusal := .next (s.shuffle e d [x] (fun _ i => quadLane 2 i) x)
/-- `qbc3` (R348). -/
def execQbc3 (e : Bool) (d x : Opnd) (s : State) : Host.Outcome State Fault Refusal := .next (s.shuffle e d [x] (fun _ i => quadLane 3 i) x)
/-- `red.add.s32` (R349, R350). -/
def execRedAddS32 (e : Bool) (d x : Opnd) (s : State) : Host.Outcome State Fault Refusal := .next (s.reduce e d x (· + ·) id)
/-- `red.min.s32` (R349, R350). -/
def execRedMinS32 (e : Bool) (d x : Opnd) (s : State) : Host.Outcome State Fault Refusal := .next (s.reduce e d x minS id)
/-- `red.max.s32` (R349, R350). -/
def execRedMaxS32 (e : Bool) (d x : Opnd) (s : State) : Host.Outcome State Fault Refusal := .next (s.reduce e d x maxS id)
/-- `red.add.f32` (R349, R350). -/
def execRedAddF32 (e : Bool) (d x : Opnd) (s : State) : Host.Outcome State Fault Refusal := .next (s.reduce e d x fAdd canonWord)
/-- `red.min.f32` (R349, R350). -/
def execRedMinF32 (e : Bool) (d x : Opnd) (s : State) : Host.Outcome State Fault Refusal := .next (s.reduce e d x fMin canonWord)
/-- `red.max.f32` (R349, R350). -/
def execRedMaxF32 (e : Bool) (d x : Opnd) (s : State) : Host.Outcome State Fault Refusal := .next (s.reduce e d x fMax canonWord)
/-- `scan.add.s32` (R349, R351). -/
def execScanAddS32 (e : Bool) (d x : Opnd) (s : State) : Host.Outcome State Fault Refusal := .next (s.scan e d x (· + ·) id true)
/-- `scanx.add.s32` (R349, R351). -/
def execScanxAddS32 (e : Bool) (d x : Opnd) (s : State) : Host.Outcome State Fault Refusal := .next (s.scan e d x (· + ·) id false)
/-- `scan.add.f32` (R349, R351). -/
def execScanAddF32 (e : Bool) (d x : Opnd) (s : State) : Host.Outcome State Fault Refusal := .next (s.scan e d x fAdd canonWord true)

/-- The clamped prefix sum of R352. -/
def prefixSum (c : Fin 32 → Nat) (j : Nat) : Nat :=
  min (((List.finRange 32).map (fun m => if m.val < j then c m else 0)).sum) 0xFFFFFFFF

/-- `rebal.ld` (R352): the group's rebalance state is replaced at once, the prefixes reach the register later. -/
def execRebalLd (e : Bool) (d x : Opnd) (s : State) : Host.Outcome State Fault Refusal :=
  .next (s.issue (formOne e d x) noCheck (fun _ => notV d)
    (fun w =>
      let c := fun (i : Fin 32) => if w.act.getLsbD i.val then (w.lane x i).toNat else 0
      let p : Vector Word 32 := Vector.ofFn (fun j => toWord (prefixSum c j.val))
      .done (w.later { w.g with rbp := p, rbt := toWord (prefixSum c 32) } .rebal (w.resultFor d (fun i => p[i]) 0))))

/-- The owner of item k (R353): the lane j with RBP[j] ≤ k < next(j). -/
def Group.itemOwner (g : Group) (k : Nat) : Fin 32 :=
  ((List.finRange 32).find? (fun j =>
    let nx := if h : j.val + 1 < 32 then (g.rbp[j.val + 1]'h).toNat else g.rbt.toNat
    decide (g.rbp[j].toNat ≤ k ∧ k < nx))).getD 0

/-- `rebal.nx` (R353). -/
def execRebalNx (e : Bool) (d x : Opnd) (s : State) : Host.Outcome State Fault Refusal :=
  .next (s.issue { len := opLen [x], e := e, srcs := [x], dsts := opndRun d 2 } (fun _ => !opndRunOk d 2)
    (fun w => notV d || !w.atMost .s x)
    (fun w =>
      let k := fun (i : Fin 32) => (w.sval x).toNat + i.val
      let own := fun i => if k i < w.g.rbt.toNat then BitVec.ofNat 32 (w.g.itemOwner (k i)).val else 0xFFFFFFFF#32
      let rank := fun i => if k i < w.g.rbt.toNat then toWord (k i - (w.g.rbp[w.g.itemOwner (k i)]).toNat) else 0xFFFFFFFF#32
      .done (w.later w.g .rebal (w.resultFor d own 0 ++ (match opndPlus d 1 with
        | some d1 => w.resultFor d1 rank 0
        | none => [])))))

end Sys2Proof.Machine
end

