-- ==== Sys2Proof/Machine/Dispatch.lean ====
section
/-! DEFINITION. The dispatch: one arm per constructor of Instr. -/
namespace Sys2Proof.Machine

/-- The meaning of every instruction and of every step of the device. -/
def exec (i : Instr) (s : State) : Host.Outcome State Fault Refusal :=
  match i with
  | .add16 x0 x1 x2 => Sys2Proof.Machine.execAdd16 x0 x1 x2 s
  | .sub16 x0 x1 x2 => Sys2Proof.Machine.execSub16 x0 x1 x2 s
  | .mul16 x0 x1 x2 => Sys2Proof.Machine.execMul16 x0 x1 x2 s
  | .and16 x0 x1 x2 => Sys2Proof.Machine.execAnd16 x0 x1 x2 s
  | .or16 x0 x1 x2 => Sys2Proof.Machine.execOr16 x0 x1 x2 s
  | .xor16 x0 x1 x2 => Sys2Proof.Machine.execXor16 x0 x1 x2 s
  | .shl16 x0 x1 x2 => Sys2Proof.Machine.execShl16 x0 x1 x2 s
  | .shru16 x0 x1 x2 => Sys2Proof.Machine.execShru16 x0 x1 x2 s
  | .fadd16 x0 x1 x2 => Sys2Proof.Machine.execFadd16 x0 x1 x2 s
  | .fmul16 x0 x1 x2 => Sys2Proof.Machine.execFmul16 x0 x1 x2 s
  | .fsub16 x0 x1 x2 => Sys2Proof.Machine.execFsub16 x0 x1 x2 s
  | .fmin16 x0 x1 x2 => Sys2Proof.Machine.execFmin16 x0 x1 x2 s
  | .fmax16 x0 x1 x2 => Sys2Proof.Machine.execFmax16 x0 x1 x2 s
  | .mov16 x0 x1 x2 => Sys2Proof.Machine.execMov16 x0 x1 x2 s
  | .mins16 x0 x1 x2 => Sys2Proof.Machine.execMins16 x0 x1 x2 s
  | .maxs16 x0 x1 x2 => Sys2Proof.Machine.execMaxs16 x0 x1 x2 s
  | .add x0 x1 x2 x3 => Sys2Proof.Machine.execAdd x0 x1 x2 x3 s
  | .sub x0 x1 x2 x3 => Sys2Proof.Machine.execSub x0 x1 x2 x3 s
  | .mul x0 x1 x2 x3 => Sys2Proof.Machine.execMul x0 x1 x2 x3 s
  | .mulhs x0 x1 x2 x3 => Sys2Proof.Machine.execMulhs x0 x1 x2 x3 s
  | .mulhu x0 x1 x2 x3 => Sys2Proof.Machine.execMulhu x0 x1 x2 x3 s
  | .mad x0 x1 x2 x3 => Sys2Proof.Machine.execMad x0 x1 x2 x3 s
  | .mins x0 x1 x2 x3 => Sys2Proof.Machine.execMins x0 x1 x2 x3 s
  | .maxs x0 x1 x2 x3 => Sys2Proof.Machine.execMaxs x0 x1 x2 x3 s
  | .minu x0 x1 x2 x3 => Sys2Proof.Machine.execMinu x0 x1 x2 x3 s
  | .maxu x0 x1 x2 x3 => Sys2Proof.Machine.execMaxu x0 x1 x2 x3 s
  | .and x0 x1 x2 x3 => Sys2Proof.Machine.execAnd x0 x1 x2 x3 s
  | .or x0 x1 x2 x3 => Sys2Proof.Machine.execOr x0 x1 x2 x3 s
  | .xor x0 x1 x2 x3 => Sys2Proof.Machine.execXor x0 x1 x2 x3 s
  | .andn x0 x1 x2 x3 => Sys2Proof.Machine.execAndn x0 x1 x2 x3 s
  | .shl x0 x1 x2 x3 => Sys2Proof.Machine.execShl x0 x1 x2 x3 s
  | .shru x0 x1 x2 x3 => Sys2Proof.Machine.execShru x0 x1 x2 x3 s
  | .shrs x0 x1 x2 x3 => Sys2Proof.Machine.execShrs x0 x1 x2 x3 s
  | .rotl x0 x1 x2 x3 => Sys2Proof.Machine.execRotl x0 x1 x2 x3 s
  | .bfes x0 x1 x2 x3 => Sys2Proof.Machine.execBfes x0 x1 x2 x3 s
  | .bfeu x0 x1 x2 x3 => Sys2Proof.Machine.execBfeu x0 x1 x2 x3 s
  | .bfi x0 x1 x2 x3 => Sys2Proof.Machine.execBfi x0 x1 x2 x3 s
  | .fadd x0 x1 x2 x3 => Sys2Proof.Machine.execFadd x0 x1 x2 x3 s
  | .fsub x0 x1 x2 x3 => Sys2Proof.Machine.execFsub x0 x1 x2 x3 s
  | .fmul x0 x1 x2 x3 => Sys2Proof.Machine.execFmul x0 x1 x2 x3 s
  | .ffma x0 x1 x2 x3 => Sys2Proof.Machine.execFfma x0 x1 x2 x3 s
  | .fmin x0 x1 x2 x3 => Sys2Proof.Machine.execFmin x0 x1 x2 x3 s
  | .fmax x0 x1 x2 x3 => Sys2Proof.Machine.execFmax x0 x1 x2 x3 s
  | .hadd2 x0 x1 x2 x3 => Sys2Proof.Machine.execHadd2 x0 x1 x2 x3 s
  | .hmul2 x0 x1 x2 x3 => Sys2Proof.Machine.execHmul2 x0 x1 x2 x3 s
  | .hfma2 x0 x1 x2 x3 => Sys2Proof.Machine.execHfma2 x0 x1 x2 x3 s
  | .bfma2 x0 x1 x2 x3 => Sys2Proof.Machine.execBfma2 x0 x1 x2 x3 s
  | .dp4aS x0 x1 x2 x3 => Sys2Proof.Machine.execDp4aS x0 x1 x2 x3 s
  | .dp4aU x0 x1 x2 x3 => Sys2Proof.Machine.execDp4aU x0 x1 x2 x3 s
  | .dp8aS x0 x1 x2 x3 => Sys2Proof.Machine.execDp8aS x0 x1 x2 x3 s
  | .xlaneSel x0 x1 x2 x3 => Sys2Proof.Machine.execXlaneSel x0 x1 x2 x3 s
  | .xlaneFlip x0 x1 x2 x3 => Sys2Proof.Machine.execXlaneFlip x0 x1 x2 x3 s
  | .cmpiEq x0 x1 x2 x3 => Sys2Proof.Machine.execCmpiEq x0 x1 x2 x3 s
  | .cmpiNe x0 x1 x2 x3 => Sys2Proof.Machine.execCmpiNe x0 x1 x2 x3 s
  | .cmpiLt x0 x1 x2 x3 => Sys2Proof.Machine.execCmpiLt x0 x1 x2 x3 s
  | .cmpiGe x0 x1 x2 x3 => Sys2Proof.Machine.execCmpiGe x0 x1 x2 x3 s
  | .cmpuLt x0 x1 x2 x3 => Sys2Proof.Machine.execCmpuLt x0 x1 x2 x3 s
  | .cmpuGe x0 x1 x2 x3 => Sys2Proof.Machine.execCmpuGe x0 x1 x2 x3 s
  | .cmpfEq x0 x1 x2 x3 => Sys2Proof.Machine.execCmpfEq x0 x1 x2 x3 s
  | .cmpfNe x0 x1 x2 x3 => Sys2Proof.Machine.execCmpfNe x0 x1 x2 x3 s
  | .cmpfLt x0 x1 x2 x3 => Sys2Proof.Machine.execCmpfLt x0 x1 x2 x3 s
  | .cmpfGe x0 x1 x2 x3 => Sys2Proof.Machine.execCmpfGe x0 x1 x2 x3 s
  | .cmpfUo x0 x1 x2 x3 => Sys2Proof.Machine.execCmpfUo x0 x1 x2 x3 s
  | .cmpfO x0 x1 x2 x3 => Sys2Proof.Machine.execCmpfO x0 x1 x2 x3 s
  | .pand x0 x1 x2 x3 => Sys2Proof.Machine.execPand x0 x1 x2 x3 s
  | .por x0 x1 x2 x3 => Sys2Proof.Machine.execPor x0 x1 x2 x3 s
  | .pxor x0 x1 x2 x3 => Sys2Proof.Machine.execPxor x0 x1 x2 x3 s
  | .ld x0 x1 x2 x3 => Sys2Proof.Machine.execLd x0 x1 x2 x3 s
  | .st x0 x1 x2 x3 => Sys2Proof.Machine.execSt x0 x1 x2 x3 s
  | .ldl x0 x1 x2 x3 => Sys2Proof.Machine.execLdl x0 x1 x2 x3 s
  | .stl x0 x1 x2 x3 => Sys2Proof.Machine.execStl x0 x1 x2 x3 s
  | .atom x0 x1 x2 x3 => Sys2Proof.Machine.execAtom x0 x1 x2 x3 s
  | .atoml x0 x1 x2 x3 => Sys2Proof.Machine.execAtoml x0 x1 x2 x3 s
  | .mov x0 x1 x2 => Sys2Proof.Machine.execMov x0 x1 x2 s
  | .not x0 x1 x2 => Sys2Proof.Machine.execNot x0 x1 x2 s
  | .neg x0 x1 x2 => Sys2Proof.Machine.execNeg x0 x1 x2 s
  | .abs x0 x1 x2 => Sys2Proof.Machine.execAbs x0 x1 x2 s
  | .popc x0 x1 x2 => Sys2Proof.Machine.execPopc x0 x1 x2 s
  | .clz x0 x1 x2 => Sys2Proof.Machine.execClz x0 x1 x2 s
  | .ctz x0 x1 x2 => Sys2Proof.Machine.execCtz x0 x1 x2 s
  | .brev x0 x1 x2 => Sys2Proof.Machine.execBrev x0 x1 x2 s
  | .sextb x0 x1 x2 => Sys2Proof.Machine.execSextb x0 x1 x2 s
  | .sexth x0 x1 x2 => Sys2Proof.Machine.execSexth x0 x1 x2 s
  | .zextb x0 x1 x2 => Sys2Proof.Machine.execZextb x0 x1 x2 s
  | .zexth x0 x1 x2 => Sys2Proof.Machine.execZexth x0 x1 x2 s
  | .bswap x0 x1 x2 => Sys2Proof.Machine.execBswap x0 x1 x2 s
  | .packS8 x0 x1 x2 => Sys2Proof.Machine.execPackS8 x0 x1 x2 s
  | .packU8 x0 x1 x2 => Sys2Proof.Machine.execPackU8 x0 x1 x2 s
  | .packS4 x0 x1 x2 => Sys2Proof.Machine.execPackS4 x0 x1 x2 s
  | .unpkS8 x0 x1 x2 => Sys2Proof.Machine.execUnpkS8 x0 x1 x2 s
  | .unpkU8 x0 x1 x2 => Sys2Proof.Machine.execUnpkU8 x0 x1 x2 s
  | .unpkS4 x0 x1 x2 => Sys2Proof.Machine.execUnpkS4 x0 x1 x2 s
  | .fneg x0 x1 x2 => Sys2Proof.Machine.execFneg x0 x1 x2 s
  | .fabs x0 x1 x2 => Sys2Proof.Machine.execFabs x0 x1 x2 s
  | .frcp x0 x1 x2 => Sys2Proof.Machine.execFrcp x0 x1 x2 s
  | .frsq x0 x1 x2 => Sys2Proof.Machine.execFrsq x0 x1 x2 s
  | .fsqrt x0 x1 x2 => Sys2Proof.Machine.execFsqrt x0 x1 x2 s
  | .fex2 x0 x1 x2 => Sys2Proof.Machine.execFex2 x0 x1 x2 s
  | .flg2 x0 x1 x2 => Sys2Proof.Machine.execFlg2 x0 x1 x2 s
  | .fsin x0 x1 x2 => Sys2Proof.Machine.execFsin x0 x1 x2 s
  | .fcos x0 x1 x2 => Sys2Proof.Machine.execFcos x0 x1 x2 s
  | .frintNe x0 x1 x2 => Sys2Proof.Machine.execFrintNe x0 x1 x2 s
  | .frintZ x0 x1 x2 => Sys2Proof.Machine.execFrintZ x0 x1 x2 s
  | .frintDn x0 x1 x2 => Sys2Proof.Machine.execFrintDn x0 x1 x2 s
  | .frintUp x0 x1 x2 => Sys2Proof.Machine.execFrintUp x0 x1 x2 s
  | .ffrac x0 x1 x2 => Sys2Proof.Machine.execFfrac x0 x1 x2 s
  | .fclass x0 x1 x2 => Sys2Proof.Machine.execFclass x0 x1 x2 s
  | .fsat x0 x1 x2 => Sys2Proof.Machine.execFsat x0 x1 x2 s
  | .cvtF32S32 x0 x1 x2 => Sys2Proof.Machine.execCvtF32S32 x0 x1 x2 s
  | .cvtF32U32 x0 x1 x2 => Sys2Proof.Machine.execCvtF32U32 x0 x1 x2 s
  | .cvtS32F32Ne x0 x1 x2 => Sys2Proof.Machine.execCvtS32F32Ne x0 x1 x2 s
  | .cvtS32F32Z x0 x1 x2 => Sys2Proof.Machine.execCvtS32F32Z x0 x1 x2 s
  | .cvtS32F32Dn x0 x1 x2 => Sys2Proof.Machine.execCvtS32F32Dn x0 x1 x2 s
  | .cvtS32F32Up x0 x1 x2 => Sys2Proof.Machine.execCvtS32F32Up x0 x1 x2 s
  | .cvtU32F32Ne x0 x1 x2 => Sys2Proof.Machine.execCvtU32F32Ne x0 x1 x2 s
  | .cvtU32F32Z x0 x1 x2 => Sys2Proof.Machine.execCvtU32F32Z x0 x1 x2 s
  | .cvtF16x2F32 x0 x1 x2 => Sys2Proof.Machine.execCvtF16x2F32 x0 x1 x2 s
  | .cvtBf16x2F32 x0 x1 x2 => Sys2Proof.Machine.execCvtBf16x2F32 x0 x1 x2 s
  | .cvtF32F16lo x0 x1 x2 => Sys2Proof.Machine.execCvtF32F16lo x0 x1 x2 s
  | .cvtF32F16hi x0 x1 x2 => Sys2Proof.Machine.execCvtF32F16hi x0 x1 x2 s
  | .cvtF32Bf16lo x0 x1 x2 => Sys2Proof.Machine.execCvtF32Bf16lo x0 x1 x2 s
  | .cvtF32Bf16hi x0 x1 x2 => Sys2Proof.Machine.execCvtF32Bf16hi x0 x1 x2 s
  | .cvtF16x2Bf16x2 x0 x1 x2 => Sys2Proof.Machine.execCvtF16x2Bf16x2 x0 x1 x2 s
  | .cvtBf16x2F16x2 x0 x1 x2 => Sys2Proof.Machine.execCvtBf16x2F16x2 x0 x1 x2 s
  | .qntC8 x0 x1 x2 x3 => Sys2Proof.Machine.execQntC8 x0 x1 x2 x3 s
  | .dqntC8 x0 x1 x2 x3 => Sys2Proof.Machine.execDqntC8 x0 x1 x2 x3 s
  | .bcastS x0 x1 x2 => Sys2Proof.Machine.execBcastS x0 x1 x2 s
  | .affx x0 x1 x2 => Sys2Proof.Machine.execAffx x0 x1 x2 s
  | .ballot x0 x1 x2 => Sys2Proof.Machine.execBallot x0 x1 x2 s
  | .anyof x0 x1 x2 => Sys2Proof.Machine.execAnyof x0 x1 x2 s
  | .allof x0 x1 x2 => Sys2Proof.Machine.execAllof x0 x1 x2 s
  | .pcount x0 x1 x2 => Sys2Proof.Machine.execPcount x0 x1 x2 s
  | .redAddS32 x0 x1 x2 => Sys2Proof.Machine.execRedAddS32 x0 x1 x2 s
  | .redMinS32 x0 x1 x2 => Sys2Proof.Machine.execRedMinS32 x0 x1 x2 s
  | .redMaxS32 x0 x1 x2 => Sys2Proof.Machine.execRedMaxS32 x0 x1 x2 s
  | .redAddF32 x0 x1 x2 => Sys2Proof.Machine.execRedAddF32 x0 x1 x2 s
  | .redMinF32 x0 x1 x2 => Sys2Proof.Machine.execRedMinF32 x0 x1 x2 s
  | .redMaxF32 x0 x1 x2 => Sys2Proof.Machine.execRedMaxF32 x0 x1 x2 s
  | .scanAddS32 x0 x1 x2 => Sys2Proof.Machine.execScanAddS32 x0 x1 x2 s
  | .scanxAddS32 x0 x1 x2 => Sys2Proof.Machine.execScanxAddS32 x0 x1 x2 s
  | .scanAddF32 x0 x1 x2 => Sys2Proof.Machine.execScanAddF32 x0 x1 x2 s
  | .qswapH x0 x1 x2 => Sys2Proof.Machine.execQswapH x0 x1 x2 s
  | .qswapV x0 x1 x2 => Sys2Proof.Machine.execQswapV x0 x1 x2 s
  | .qswapD x0 x1 x2 => Sys2Proof.Machine.execQswapD x0 x1 x2 s
  | .qbc0 x0 x1 x2 => Sys2Proof.Machine.execQbc0 x0 x1 x2 s
  | .qbc1 x0 x1 x2 => Sys2Proof.Machine.execQbc1 x0 x1 x2 s
  | .qbc2 x0 x1 x2 => Sys2Proof.Machine.execQbc2 x0 x1 x2 s
  | .qbc3 x0 x1 x2 => Sys2Proof.Machine.execQbc3 x0 x1 x2 s
  | .rebalLd x0 x1 x2 => Sys2Proof.Machine.execRebalLd x0 x1 x2 s
  | .rebalNx x0 x1 x2 => Sys2Proof.Machine.execRebalNx x0 x1 x2 s
  | .nop x0 => Sys2Proof.Machine.execNop x0 s
  | .exit x0 => Sys2Proof.Machine.execExit x0 s
  | .join x0 => Sys2Proof.Machine.execJoin x0 s
  | .ret x0 => Sys2Proof.Machine.execRet x0 s
  | .callI x0 x1 => Sys2Proof.Machine.execCallI x0 x1 s
  | .jmpI x0 x1 => Sys2Proof.Machine.execJmpI x0 x1 s
  | .barBlk x0 => Sys2Proof.Machine.execBarBlk x0 s
  | .yield x0 => Sys2Proof.Machine.execYield x0 s
  | .trap x0 x1 => Sys2Proof.Machine.execTrap x0 x1 s
  | .brk x0 => Sys2Proof.Machine.execBrk x0 s
  | .rte x0 => Sys2Proof.Machine.execRte x0 s
  | .rdsr x0 x1 x2 => Sys2Proof.Machine.execRdsr x0 x1 x2 s
  | .wrsr x0 x1 x2 => Sys2Proof.Machine.execWrsr x0 x1 x2 s
  | .fenceCore x0 => Sys2Proof.Machine.execFenceCore x0 s
  | .fenceClu x0 => Sys2Proof.Machine.execFenceClu x0 s
  | .fenceDie x0 => Sys2Proof.Machine.execFenceDie x0 s
  | .fencePair x0 => Sys2Proof.Machine.execFencePair x0 s
  | .fenceSys x0 => Sys2Proof.Machine.execFenceSys x0 s
  | .endphase x0 x1 => Sys2Proof.Machine.execEndphase x0 x1 s
  | .clk x0 x1 => Sys2Proof.Machine.execClk x0 x1 s
  | .dsrd x0 x1 x2 => Sys2Proof.Machine.execDsrd x0 x1 x2 s
  | .dswr x0 x1 x2 => Sys2Proof.Machine.execDswr x0 x1 x2 s
  | .wait x0 x1 x2 x3 x4 => Sys2Proof.Machine.execWait x0 x1 x2 x3 x4 s
  | .grd x0 x1 x2 => Sys2Proof.Machine.execGrd x0 x1 x2 s
  | .bra x0 x1 => Sys2Proof.Machine.execBra x0 x1 s
  | .call x0 x1 => Sys2Proof.Machine.execCall x0 x1 s
  | .brsZ x0 x1 x2 => Sys2Proof.Machine.execBrsZ x0 x1 x2 s
  | .brsNz x0 x1 x2 => Sys2Proof.Machine.execBrsNz x0 x1 x2 s
  | .brv x0 x1 x2 x3 => Sys2Proof.Machine.execBrv x0 x1 x2 x3 s
  | .copyLin x0 x1 x2 => Sys2Proof.Machine.execCopyLin x0 x1 x2 s
  | .copyRect x0 x1 x2 => Sys2Proof.Machine.execCopyRect x0 x1 x2 s
  | .copyWin x0 x1 x2 => Sys2Proof.Machine.execCopyWin x0 x1 x2 s
  | .copyGath x0 x1 x2 => Sys2Proof.Machine.execCopyGath x0 x1 x2 s
  | .copyRed x0 x1 x2 => Sys2Proof.Machine.execCopyRed x0 x1 x2 s
  | .copyFill x0 x1 x2 => Sys2Proof.Machine.execCopyFill x0 x1 x2 s
  | .trace x0 x1 => Sys2Proof.Machine.execTrace x0 x1 s
  | .spawn x0 x1 x2 => Sys2Proof.Machine.execSpawn x0 x1 x2 s
  | .retire x0 => Sys2Proof.Machine.execRetire x0 s
  | .accum x0 x1 => Sys2Proof.Machine.execAccum x0 x1 s
  | .binp x0 x1 x2 => Sys2Proof.Machine.execBinp x0 x1 x2 s
  | .binrep x0 x1 x2 => Sys2Proof.Machine.execBinrep x0 x1 x2 s
  | .texLod x0 x1 x2 => Sys2Proof.Machine.execTexLod x0 x1 x2 s
  | .texQ x0 x1 x2 => Sys2Proof.Machine.execTexQ x0 x1 x2 s
  | .rng x0 x1 x2 => Sys2Proof.Machine.execRng x0 x1 x2 s
  | .freg x0 x1 x2 => Sys2Proof.Machine.execFreg x0 x1 x2 s
  | .fres x0 x1 x2 => Sys2Proof.Machine.execFres x0 x1 x2 s
  | .tqPush x0 x1 x2 => Sys2Proof.Machine.execTqPush x0 x1 x2 s
  | .tqPop x0 x1 x2 => Sys2Proof.Machine.execTqPop x0 x1 x2 s
  | .fpoll x0 x1 x2 => Sys2Proof.Machine.execFpoll x0 x1 x2 s
  | .tqPushv x0 x1 x2 => Sys2Proof.Machine.execTqPushv x0 x1 x2 s
  | .mstart x0 x1 => Sys2Proof.Machine.execMstart x0 x1 s
  | .accld x0 x1 x2 => Sys2Proof.Machine.execAccld x0 x1 x2 s
  | .acczero x0 x1 => Sys2Proof.Machine.execAcczero x0 x1 s
  | .mcfg x0 x1 => Sys2Proof.Machine.execMcfg x0 x1 s
  | .mbarArr x0 x1 => Sys2Proof.Machine.execMbarArr x0 x1 s
  | .mbarWait x0 x1 x2 => Sys2Proof.Machine.execMbarWait x0 x1 x2 s
  | .mnop => Sys2Proof.Machine.execMnop s
  | .mend => Sys2Proof.Machine.execMend s
  | .mwait x0 x1 => Sys2Proof.Machine.execMwait x0 x1 s
  | .marr x0 => Sys2Proof.Machine.execMarr x0 s
  | .mzero x0 => Sys2Proof.Machine.execMzero x0 s
  | .mloop x0 x1 x2 => Sys2Proof.Machine.execMloop x0 x1 x2 s
  | .mbra x0 => Sys2Proof.Machine.execMbra x0 s
  | .mmaF16 x0 => Sys2Proof.Machine.execMmaF16 x0 s
  | .mmaBf16 x0 => Sys2Proof.Machine.execMmaBf16 x0 s
  | .mmaS8 x0 => Sys2Proof.Machine.execMmaS8 x0 s
  | .mmaU8 x0 => Sys2Proof.Machine.execMmaU8 x0 s
  | .mmaC8 x0 => Sys2Proof.Machine.execMmaC8 x0 s
  | .mmaS4 x0 => Sys2Proof.Machine.execMmaS4 x0 s
  | .mmaF16Sp16 x0 => Sys2Proof.Machine.execMmaF16Sp16 x0 s
  | .mmaBf16Sp16 x0 => Sys2Proof.Machine.execMmaBf16Sp16 x0 s
  | .mmaS8Sp16 x0 => Sys2Proof.Machine.execMmaS8Sp16 x0 s
  | .mmaS8Sp8 x0 => Sys2Proof.Machine.execMmaS8Sp8 x0 s
  | .mmaS4Sp8 x0 => Sys2Proof.Machine.execMmaS4Sp8 x0 s
  | .deviceReset => Sys2Proof.Machine.execDeviceReset s
  | .firmwareImageVerify x0 x1 => Sys2Proof.Machine.execFirmwareImageVerify x0 x1 s
  | .registerWrite x0 x1 x2 x3 => Sys2Proof.Machine.execRegisterWrite x0 x1 x2 x3 s
  | .hostBar2Write x0 x1 x2 => Sys2Proof.Machine.execHostBar2Write x0 x1 x2 s
  | .hostBar2Read x0 x1 x2 => Sys2Proof.Machine.execHostBar2Read x0 x1 x2 s
  | .doorbellTail x0 x1 x2 => Sys2Proof.Machine.execDoorbellTail x0 x1 x2 s
  | .doorbellCcons x0 x1 x2 => Sys2Proof.Machine.execDoorbellCcons x0 x1 x2 s
  | .cqallocWrite x0 x1 x2 x3 => Sys2Proof.Machine.execCqallocWrite x0 x1 x2 x3 s
  | .pclr x0 x1 => Sys2Proof.Machine.execPclr x0 x1 s
  | .persistClearDone => Sys2Proof.Machine.execPersistClearDone s
  | .windowEnable x0 x1 x2 => Sys2Proof.Machine.execWindowEnable x0 x1 x2 s
  | .windowEnableDone x0 => Sys2Proof.Machine.execWindowEnableDone x0 s
  | .windowDisable x0 x1 x2 => Sys2Proof.Machine.execWindowDisable x0 x1 x2 s
  | .attestationRequest x0 x1 => Sys2Proof.Machine.execAttestationRequest x0 x1 s
  | .attestationReportDone => Sys2Proof.Machine.execAttestationReportDone s
  | .summaryRequest x0 x1 => Sys2Proof.Machine.execSummaryRequest x0 x1 s
  | .summaryDone => Sys2Proof.Machine.execSummaryDone s
  | .pairctlRetrain x0 x1 => Sys2Proof.Machine.execPairctlRetrain x0 x1 s
  | .colLinkTrainStart => Sys2Proof.Machine.execColLinkTrainStart s
  | .colLinkUp => Sys2Proof.Machine.execColLinkUp s
  | .flitCrcReplay => Sys2Proof.Machine.execFlitCrcReplay s
  | .colLinkReplayFail => Sys2Proof.Machine.execColLinkReplayFail s
  | .colLinkDown => Sys2Proof.Machine.execColLinkDown s
  | .powerLimitReached => Sys2Proof.Machine.execPowerLimitReached s
  | .thermalTrip => Sys2Proof.Machine.execThermalTrip s
  | .nopPacket x0 => Sys2Proof.Machine.execNopPacket x0 s
  | .illegalPacket x0 => Sys2Proof.Machine.execIllegalPacket x0 s
  | .launch x0 => Sys2Proof.Machine.execLaunch x0 s
  | .modeSwitchFlush => Sys2Proof.Machine.execModeSwitchFlush s
  | .modeSwitchDone => Sys2Proof.Machine.execModeSwitchDone s
  | .launchStart x0 => Sys2Proof.Machine.execLaunchStart x0 s
  | .branch x0 => Sys2Proof.Machine.execBranch x0 s
  | .branchEvaluate x0 => Sys2Proof.Machine.execBranchEvaluate x0 s
  | .queueWait x0 => Sys2Proof.Machine.execQueueWait x0 s
  | .queueWaitPoll x0 => Sys2Proof.Machine.execQueueWaitPoll x0 s
  | .signal x0 => Sys2Proof.Machine.execSignal x0 s
  | .inval x0 => Sys2Proof.Machine.execInval x0 s
  | .invalShootdownDone x0 => Sys2Proof.Machine.execInvalShootdownDone x0 s
  | .invalComplete x0 => Sys2Proof.Machine.execInvalComplete x0 s
  | .pmove x0 => Sys2Proof.Machine.execPmove x0 s
  | .pmoveCopyDone x0 => Sys2Proof.Machine.execPmoveCopyDone x0 s
  | .abortLost x0 => Sys2Proof.Machine.execAbortLost x0 s
  | .abortLaunch x0 => Sys2Proof.Machine.execAbortLaunch x0 s
  | .ctxctlHalt x0 => Sys2Proof.Machine.execCtxctlHalt x0 s
  | .ctxctlResume x0 => Sys2Proof.Machine.execCtxctlResume x0 s
  | .ctxctlEnd x0 => Sys2Proof.Machine.execCtxctlEnd x0 s
  | .launchComplete x0 => Sys2Proof.Machine.execLaunchComplete x0 s
  | .blockPlace x0 => Sys2Proof.Machine.execBlockPlace x0 s
  | .blockEvict x0 => Sys2Proof.Machine.execBlockEvict x0 s
  | .evictSaveDone x0 => Sys2Proof.Machine.execEvictSaveDone x0 s
  | .blockRestore x0 => Sys2Proof.Machine.execBlockRestore x0 s
  | .branchRefillDone x0 x1 => Sys2Proof.Machine.execBranchRefillDone x0 x1 s
  | .fixedLatencyWrite x0 => Sys2Proof.Machine.execFixedLatencyWrite x0 s
  | .varLatencyWrite x0 => Sys2Proof.Machine.execVarLatencyWrite x0 s
  | .storeFifoLeave x0 => Sys2Proof.Machine.execStoreFifoLeave x0 s
  | .storePerformed x0 => Sys2Proof.Machine.execStorePerformed x0 s
  | .loadResultReturn x0 => Sys2Proof.Machine.execLoadResultReturn x0 s
  | .atomicPerformed x0 => Sys2Proof.Machine.execAtomicPerformed x0 s
  | .localAccessPerformed x0 => Sys2Proof.Machine.execLocalAccessPerformed x0 s
  | .ownedAccessProceed x0 => Sys2Proof.Machine.execOwnedAccessProceed x0 s
  | .translationWalkDone x0 => Sys2Proof.Machine.execTranslationWalkDone x0 s
  | .viewLineFill x0 => Sys2Proof.Machine.execViewLineFill x0 s
  | .scrubLine x0 x1 x2 x3 => Sys2Proof.Machine.execScrubLine x0 x1 x2 x3 s
  | .rds x0 => Sys2Proof.Machine.execRds x0 s
  | .upg x0 => Sys2Proof.Machine.execUpg x0 s
  | .rdx x0 => Sys2Proof.Machine.execRdx x0 s
  | .peerAtomic x0 x1 x2 x3 x4 x5 => Sys2Proof.Machine.execPeerAtomic x0 x1 x2 x3 x4 x5 s
  | .wb x0 x1 => Sys2Proof.Machine.execWb x0 x1 s
  | .inv x0 x1 => Sys2Proof.Machine.execInv x0 x1 s
  | .invAck x0 => Sys2Proof.Machine.execInvAck x0 s
  | .recall x0 x1 x2 x3 => Sys2Proof.Machine.execRecall x0 x1 x2 x3 s
  | .recallData x0 => Sys2Proof.Machine.execRecallData x0 s
  | .fenceComplete x0 => Sys2Proof.Machine.execFenceComplete x0 s
  | .barBlkRelease x0 => Sys2Proof.Machine.execBarBlkRelease x0 s
  | .stageArrivalVisible x0 => Sys2Proof.Machine.execStageArrivalVisible x0 s
  | .copyAccept x0 => Sys2Proof.Machine.execCopyAccept x0 s
  | .copyLineRead x0 => Sys2Proof.Machine.execCopyLineRead x0 s
  | .copyLineWrite x0 => Sys2Proof.Machine.execCopyLineWrite x0 s
  | .binAppend x0 => Sys2Proof.Machine.execBinAppend x0 s
  | .binrepAccept x0 => Sys2Proof.Machine.execBinrepAccept x0 s
  | .scatterReplayStart x0 => Sys2Proof.Machine.execScatterReplayStart x0 s
  | .scatterReplayDone x0 => Sys2Proof.Machine.execScatterReplayDone x0 s
  | .accumAppend x0 => Sys2Proof.Machine.execAccumAppend x0 s
  | .accTileReplay x0 => Sys2Proof.Machine.execAccTileReplay x0 s
  | .accTileReplayDone x0 => Sys2Proof.Machine.execAccTileReplayDone x0 s
  | .fregPerform x0 => Sys2Proof.Machine.execFregPerform x0 s
  | .fresPerform x0 => Sys2Proof.Machine.execFresPerform x0 s
  | .fpollPerform x0 => Sys2Proof.Machine.execFpollPerform x0 s
  | .waitListWalk x0 => Sys2Proof.Machine.execWaitListWalk x0 s
  | .tqPushPerform x0 => Sys2Proof.Machine.execTqPushPerform x0 s
  | .tqPopPerform x0 => Sys2Proof.Machine.execTqPopPerform x0 s
  | .tqPopWake x0 => Sys2Proof.Machine.execTqPopWake x0 s
  | .rayHandoffPerformed x0 => Sys2Proof.Machine.execRayHandoffPerformed x0 s
  | .prefetchHintRead x0 => Sys2Proof.Machine.execPrefetchHintRead x0 s
  | .traversalPull x0 x1 => Sys2Proof.Machine.execTraversalPull x0 x1 s
  | .traversalBinTimeout x0 x1 x2 => Sys2Proof.Machine.execTraversalBinTimeout x0 x1 x2 s
  | .nodeVisit x0 x1 x2 => Sys2Proof.Machine.execNodeVisit x0 x1 x2 s
  | .shadeBinTimeout x0 x1 x2 => Sys2Proof.Machine.execShadeBinTimeout x0 x1 x2 s
  | .waveForm x0 x1 => Sys2Proof.Machine.execWaveForm x0 x1 s
  | .waveFormerStarvation x0 x1 => Sys2Proof.Machine.execWaveFormerStarvation x0 x1 s
  | .spawnHandleWrite x0 => Sys2Proof.Machine.execSpawnHandleWrite x0 s
  | .textureResult x0 => Sys2Proof.Machine.execTextureResult x0 s
  | .rngResult x0 => Sys2Proof.Machine.execRngResult x0 s
  | .streamFetchReturn x0 => Sys2Proof.Machine.execStreamFetchReturn x0 s
  | .ksliceApply x0 => Sys2Proof.Machine.execKsliceApply x0 s
  | .talusStallRetry x0 => Sys2Proof.Machine.execTalusStallRetry x0 s
  | .talusStallTimeout x0 => Sys2Proof.Machine.execTalusStallTimeout x0 s
  | .matrixWatchdogReset x0 => Sys2Proof.Machine.execMatrixWatchdogReset x0 s
  | .matrixResetDone x0 => Sys2Proof.Machine.execMatrixResetDone x0 s
  | .accldResult x0 => Sys2Proof.Machine.execAccldResult x0 s
  | .acczeroPerformed x0 => Sys2Proof.Machine.execAcczeroPerformed x0 s
  | .mcfgPerformed x0 => Sys2Proof.Machine.execMcfgPerformed x0 s
  | .haltLineArrive x0 => Sys2Proof.Machine.execHaltLineArrive x0 s
  | .haltAgentStop x0 x1 => Sys2Proof.Machine.execHaltAgentStop x0 x1 s
  | .deferredCauseDelivery x0 => Sys2Proof.Machine.execDeferredCauseDelivery x0 s
  | .profileSample x0 => Sys2Proof.Machine.execProfileSample x0 s
  | .dispatchTraceTimeout x0 => Sys2Proof.Machine.execDispatchTraceTimeout x0 s
  | .codeCacheFill x0 x1 x2 => Sys2Proof.Machine.execCodeCacheFill x0 x1 x2 s
  | .hostRegisterRead x0 x1 x2 => Sys2Proof.Machine.execHostRegisterRead x0 x1 x2 s

end Sys2Proof.Machine
end

