-- ==== Sys2Proof/Machine/Plan.lean ====
section
/-! DEFINITION. What a step does: the issue of a slot's instruction, the taking of a stream word, and the order in which the
device does what it does of itself; and the parts of a state in which a placed word runs next. -/
namespace Sys2Proof.Machine

/-! ## What may run next -/

/-- What a step answers. -/
abbrev Outcome := Host.Outcome State Fault Refusal

/-- The state in which a slot's instruction issues. -/
def State.at_ (s : State) (c : Cand) : State := { s.ageOthers c with cur := c.k, curSlot := c.n }

/-- Issue the instruction of a slot: what its fetch gives. -/
def State.issueAt (s : State) (c : Cand) : Outcome :=
  let s := s.at_ c
  match s.view? with
  | none => .next s
  | some w =>
    if w.dueCause.isSome then .next s.issueBad
    else match w.fetch with
      | .ok i => exec i s
      | .bad => .next s.issueBad
      | .line => .next (s.cutRun w .fetch)
      | .walk va => .next ((s.askWalk w va).endRun w.g.core w.k w.n 4)
      | .fault f va => .next (s.coreFault w f va .fetch w.sl.mask)

/-- The next instruction of a group. (DESIGN CHOICE, log 5.) -/
def State.issueNext? (s : State) : Option Outcome := s.choose.map s.issueAt

/-- Stream words that need no finished step before them. (DEDUCED, log 78.) -/
def Instr.anyTime : Instr → Bool
  | .mnop => true
  | .mloop .. => true
  | .mbra .. => true
  | _ => false

/-- The word of a sequencer that may be taken now: its instruction, or none for a word that is no instruction (R247).
(DEDUCED, log 78.) -/
def State.wordOf? (s : State) (x : Sequencer) : Option (Word × Block × Option Instr) :=
  if x.st != .run || 4 ≤ x.key.index then none
  else match x.wordHere, s.block? x.blk with
    | some w, some b =>
      if !s.ctxRuns b.asid then none
      else match decodeStream w with
        | .ok i _ => if x.step.isNone || Instr.anyTime i then some (w, b, some i) else none
        | .reject _ => if x.step.isNone then some (w, b, none) else none
    | _, _ => none

/-- The sequencers in turn after the one that took a word last. (DESIGN CHOICE, log 99.) -/
def State.seqTurn (s : State) : List Sequencer :=
  let p := s.seqs.span (fun x => x.key != s.curSeq)
  p.2.tail ++ p.1 ++ p.2.take 1

/-- The state in which a sequencer takes a word. -/
def State.atWord (s : State) (k : SeqKey) (w : Word) : State := { s with curSeq := k }.modSeq k (fun x => { x with word := w })

/-- Take a word of a stream. -/
def State.takeWord (s : State) (x : Sequencer) (w : Word) (b : Block) (i : Option Instr) : Outcome :=
  let t := s.atWord x.key w
  match i with
  | some i => exec i t
  | none => .next (t.seqIllegal b { x with word := w })

/-- The next word of a matrix stream. (DESIGN CHOICE, log 5.) -/
def State.wordNext? (s : State) : Option Outcome :=
  s.seqTurn.findSome? (fun x => (s.wordOf? x).map (fun c => s.takeWord x c.1 c.2.1 c.2.2))

/-- The next completion or event; the families of events take turns with the clock. (DESIGN CHOICE, log 5.) -/
def State.eventNext? (s : State) : Option Outcome := (s.complete? (s.clk / 3)).map Host.Outcome.next

/-! ## What a step does -/

/-- With nothing from outside due: an instruction of a group, a word of a matrix stream, or an event, whichever there is,
each of them first in every third step; a time limit when there is none of them, and now and then before them; else time
passes. (DESIGN CHOICE, log 3; DESIGN CHOICE, log 5.) -/
def State.plan (s : State) (phase : Nat) : Outcome :=
  (s.overdue?.map Host.Outcome.next <|> (match phase with
    | 0 => s.issueNext? <|> s.wordNext? <|> s.eventNext?
    | 1 => s.wordNext? <|> s.eventNext? <|> s.issueNext?
    | _ => s.eventNext? <|> s.issueNext? <|> s.wordNext?) <|> s.late?.map Host.Outcome.next).getD (.next s)

/-- Once the clock has stopped (R523) only a device reset is carried out. -/
def State.whileStopped (s : State) : Outcome :=
  match s.agenda with
  | i :: r => if i = .deviceReset then exec .deviceReset { s with agenda := r, clk := s.clk + 1 } else .next { s with agenda := r, clk := s.clk + 1 }
  | [] => .fault .clockStopped

/-! ## A word placed where the next step fetches -/

/-- The longest instruction in bytes (R271). -/
def longest : Nat := 12

/-- The line that holds some bytes at its start. -/
def lineWith (bs : List Byte) : Vector Byte 128 := Vector.ofFn (fun i => bs.getD i.val 0)

/-- The bytes of a word of the opcode table: the words as the hardware stores them, low byte first, the rest zero. -/
def tableBytes (nbits w : Nat) : List Byte := leBytes longest (w % 2 ^ nbits)

/-- The context under which the placed word runs. (DESIGN CHOICE, log 7.) -/
def fetchCtx (asid : Nat) : Ctx :=
  { asid := asid, v := true, priv := false, part := 0, evict := false, repro := false, fth := false, vfn := 0, root := 0, save := 0,
    hpc := 0, fring := none, sring := none, flog := 0, slog := 0, msix := 0xFFFF, bxall := false, wbArea := none, dtr := none, dtlog := 0,
    dtMode := 0, own := 0, rva := 0, rlen := 0, spillArea := none, splog := 0, halt := .running, agents := [], haltPkts := [],
    afterPkts := [], fhead := 0, shead := 0, drops := 0, dtBytes := 0, dtStatus := 0, dtPos := [], spillUsed := 0, conts := [],
    linkFault := false }

/-- The descriptor of the placed block: one group with every register, the matrix engine, no local store.
(DESIGN CHOICE, log 7.) -/
def fetchDesc : Desc := { Desc.blank with entry := 0x10000, mx := true, vregs := 16, sregs := 64, aregs := 32, tiles := 8 }

/-- Its launch. (DESIGN CHOICE, log 7.) -/
def fetchLaunch (id asid : Nat) : Launch :=
  { id := id, q := 0, n := 0, irq := false, corr := 0, asid := asid, fn := 0, prio := 0, descVa := 0, refs := [], waits := [], ser := false,
    flush := [], st := .started, desc := fetchDesc, tables := List.replicate 8 none, hdr := none, shaders := [], result := 0,
    ctr := { impl := 0, misuse := 0, spfail := 0, badsh := 0, accdrop := 0, terms := 0 }, nextBlock := 1, lseq := 1,
    formed := Vector.replicate 8 0, binSets := [], binKeys := [], abort := none }

/-- The address at which the placed word stands. -/
def fetchVa : DWord := 0x10000

/-- The TLB entry that maps it. (DESIGN CHOICE, log 7.) -/
def fetchTlb (asid : Nat) : TlbEnt :=
  { at_ := .core 0, asid := asid, vbase := 0x10000, size := .k64, kind := 0, w := true, x := true, p := false, pbase := 0x10000,
    ent := 0x10061 }

end Sys2Proof.Machine
end

