-- ==== Sys2Proof/Machine/Step.lean ====
section
/-! DEFINITION. One step of the machine, and a word placed where the next step fetches. -/
namespace Sys2Proof.Machine

/-- One step: the next event of the agenda; without one, what the device does of itself.
(DESIGN CHOICE, log 1; DESIGN CHOICE, log 2; DESIGN CHOICE, log 3; DESIGN CHOICE, log 5.) -/
def step (s : State) : Host.Outcome State Fault Refusal :=
  if s.regs.clockStopped then s.whileStopped
  else match s.agenda with
    | i :: r => exec i { s with agenda := r, clk := s.clk + 1 }
    | [] => State.plan { s with clk := s.clk + 1 } (s.clk % 3)

/-- A state in which the very next step runs an instruction whose bits are `w`: a block of one group whose slot 0 is Ready at
the instruction's bytes, in the code cache; for a word of a matrix stream, a sequencer in Run whose stream line holds the
word; no time limit passes in that step. (DESIGN CHOICE, log 7; DESIGN CHOICE, log 8.) -/
def State.withFetchWord (s : State) (nbits w : Nat) : State :=
  let asid := 1
  let id := s.ids
  let l := fetchLaunch id asid
  let line := lineWith (tableBytes nbits w)
  let g := Group.start fetchDesc 0 0 0 .gen 0 128 fetchVa fullMask s.clk
  let b := { Block.start (id + 1) l 0 0 fetchDesc.need [g] with seq := some 0 }
  let stream := nbits = 32 ∧ w % 2 = 0
  let x := { Sequencer.start ⟨0, 0⟩ (id + 1) 8 false with
    st := if stream then .run else .idle, pc := fetchVa, lines := if stream then [(fetchVa, line)] else [] }
  { s with
    regs := { s.regs with clockStopped := false },
    ctxs := [fetchCtx asid], launches := [l], blocks := [b], seqs := [x], runs := [],
    tlb := fetchTlb asid :: s.tlb.filter (fun e => e.asid != asid),
    mem := { s.mem with code := (0, asid, fetchVa.toNat / 128, line) :: s.mem.code.filter (fun c => !(c.1 == 0 && c.2.1 == asid)) },
    agenda := [], ids := id + 2, clk := s.clk / 196608 * 196608 + (if stream then 1 else 0) }

end Sys2Proof.Machine
end

