-- ==== Sys2Proof/Safety.lean ====
section
/-! DEFINITION. What counts as a safe run, the invariants that steps keep, and the words in which the claims speak: when an
instruction issues, what a step leaves alone, where a slot goes, what a destination receives. -/
namespace Sys2Proof.Machine

/-- A step that goes on. -/
def Safe (s : State) : Prop := ∃ t, step s = .next t

/-- The three byte memories and the local store of every block have their canonical form. -/
def State.MemoryWf (s : State) : Prop :=
  s.dram.wf = true ∧ s.host.wf = true ∧ s.peer.wf = true ∧ ∀ b ∈ s.blocks, b.loc.wf = true

/-! ## When an instruction issues (R192, R198) -/

/-- The conditions under which the slot in turn issues its instruction and meets none of the checks of R192: its slot is Ready
and its context runs, no cause is due, no breakpoint matches, its operands are allocated and of legal class, its role may issue
it, nothing it reads or writes is pending, the latch is valid where it is read, every lane of the entry mask is active where a
uniform register or a barrier asks for it, no fence holds it back, and it is not the first to read a token that has come since
(R53: such a read is an acquire as well). -/
structure State.Issues (s : State) (f : Form) (bad clsBad : View → Bool) (w : View) : Prop where
  view : s.view? = some w
  ready : w.sl.st = .ready
  running : w.g.stopped = false ∧ w.g.ended = false ∧ w.c.runs = true ∧ w.b.st = .resident
  noCause : w.dueCause = none
  guardKnown : ∀ p ∈ w.g.pend, p.reg ∉ w.sl.guardRegs
  noBreak : f.guardOf.isSome = true ∨ w.breakpoint = none
  allocated : ∀ x ∈ f.srcs ++ f.dsts ++ f.toks, w.g.hasOpnd x = true
  legal : bad w = false
  role : roleOk w.g.role w.b.mx f = true
  cls : clsBad w = false
  arrived : ∀ p ∈ w.g.pend, p.reg ∉ f.reads w.g.hm ∧ (p.kind = .fixed ∨ p.reg ∉ f.writes w.g.hm)
  latched : f.srcs.contains .latch = false ∨ w.sl.latch.isSome = true
  uniform : f.dsts.any (uniformDst w.g.hm) = false ∨ w.act = w.g.emask
  atBarrier : f.barrier = false ∨ w.act = w.g.emask
  unfenced : f.access = false ∨ w.fenced = false
  acquired : w.acquired f = w

/-- No trap follows the group's instructions and no trace records them (R465, R474). -/
def View.Calm (w : View) : Prop := w.g.sstep = false ∧ ∀ t ∈ w.s.traces, t.gk ≠ w.k

/-! ## What a step leaves alone -/

/-- Every byte that any agent reads, at every place of every memory, is the same in both states. -/
def SameBytes (s t : State) : Prop := ∀ a l, t.byteAt a l = s.byteAt a l

/-- `t` is `s` with group `k` become `g`, and nothing else changed but what issue itself notes: the runs, the turn, the
last issue, and the answers of walks that the slot has used. -/
structure OnlyGroup (s t : State) (k : GroupKey) (g : Group) : Prop where
  group : t.group? k = some g
  others : ∀ j, j ≠ k → t.group? j = s.group? j
  blocks : ∀ n, (t.block? n).map (fun b => { b with groups := [] }) = (s.block? n).map (fun b => { b with groups := [] })
  rest : t = { s with blocks := t.blocks, runs := t.runs, turn := t.turn, fails := t.fails, lastIssue := t.lastIssue }
  bytes : SameBytes s t

/-- `t` is `s` with group `k` become `g` and work `o` added at the end of program order, and nothing else changed but what
issue itself notes. -/
structure OnlyGroupOp (s t : State) (k : GroupKey) (g : Group) (slot : Nat) (o : OpBody) : Prop where
  group : t.group? k = some g
  others : ∀ j, j ≠ k → t.group? j = s.group? j
  blocks : ∀ n, (t.block? n).map (fun b => { b with groups := [] }) = (s.block? n).map (fun b => { b with groups := [] })
  rest : t = { s with blocks := t.blocks, runs := t.runs, turn := t.turn, fails := t.fails, lastIssue := t.lastIssue,
                      ops := s.ops ++ [{ id := s.ids, gk := k, slot := slot, seen := ((s.group? k).map (·.seen)).getD 0, body := o }], ids := s.ids + 1 }
  bytes : SameBytes s t

/-- A group's registers of every kind are those of another. -/
structure SameRegs (g h : Group) : Prop where
  v : g.v = h.v
  s : g.s = h.s
  a : g.a = h.a
  p : g.p = h.p
  k : g.k = h.k

/-- `g'` is `g` but for its registers, their pending marks, its slots and its count of instructions. -/
def SameFrame (g g' : Group) : Prop :=
  g' = { g with v := g'.v, s := g'.s, a := g'.a, p := g'.p, k := g'.k, pend := g'.pend, slot0 := g'.slot0, slot1 := g'.slot1,
                icnt := g'.icnt }

/-- A group's S register as its instructions read it: in handler mode codes from 56 name the shadow registers (R365). -/
def Group.sOf (g : Group) (n : Fin 64) : Word :=
  if h : g.hm = true ∧ 56 ≤ n.val then g.k[n.val - 56]'(by omega) else g.s[n]

/-! ## Where the slot goes -/

/-- The issuing slot stands behind its instruction of `len` bytes, Ready, with one instruction of its guard's span used; the
other slot is untouched, and the instruction counts (R279, R292). -/
structure Advanced (w : View) (len : Nat) (g' : Group) : Prop where
  pc : (g'.slot w.n).pc = w.sl.pc + BitVec.ofNat 64 len
  mask : (g'.slot w.n).mask = w.sl.mask
  st : (g'.slot w.n).st = .ready
  gleft : (g'.slot w.n).gleft = w.sl.gleft - 1
  other : g'.slot (sib w.n) = w.g.slot (sib w.n)
  icnt : g'.icnt = w.g.icnt + 1

/-- The slot behind a taken branch: it waits for the refill at its target, outside any guard, and the instruction counts (R197). -/
structure Jumped (w : View) (pc : DWord) (g' : Group) : Prop where
  pc : (g'.slot w.n).pc = pc &&& ~~~1#64
  mask : (g'.slot w.n).mask = w.sl.mask
  st : (g'.slot w.n).st = .wait
  wait : (g'.slot w.n).wait = some .refill
  gleft : (g'.slot w.n).gleft = 0
  other : g'.slot (sib w.n) = w.g.slot (sib w.n)
  icnt : g'.icnt = w.g.icnt + 1

/-- The slot waits at its instruction, which has not completed (R194, R279). -/
structure Stays (w : View) (r : WaitReason) (g' : Group) : Prop where
  pc : (g'.slot w.n).pc = w.sl.pc
  mask : (g'.slot w.n).mask = w.sl.mask
  st : (g'.slot w.n).st = .wait
  wait : (g'.slot w.n).wait = some r
  gleft : (g'.slot w.n).gleft = w.sl.gleft
  other : g'.slot (sib w.n) = w.g.slot (sib w.n)
  icnt : g'.icnt = w.g.icnt

/-- A pop into slot `n` of a group that becomes `g'`: the top of the stack, Ready, or nothing where the stack is empty (R194). -/
def Popped (g g' : Group) (n : Nat) : Prop :=
  g'.stack = g.stack ∧ if g.sd = 0 then g'.slot n = g.slot n ∧ g'.sd = 0
    else ∃ e, g.stack.toList[g.sd - 1]? = some e ∧ g'.slot n = Slot.readyAt e.pc e.mask ∧ g'.sd = g.sd - 1

/-- Two states that differ at most in the runs in progress. -/
structure SameButRuns (u t : State) : Prop where
  groups : ∀ j, t.group? j = u.group? j
  blocks : ∀ n, (t.block? n).map (fun b => { b with groups := [] }) = (u.block? n).map (fun b => { b with groups := [] })
  rest : t = { u with blocks := t.blocks, runs := t.runs }

/-! ## What a destination receives (R186, R280) -/

/-- A V destination takes a value in each active lane and keeps the others, an S destination (in handler mode a shadow
register) takes one value, and 0xFF takes nothing; every other register keeps its value. -/
def WroteVS (w : View) (d : Opnd) (lv : Fin 32 → Word) (sv : Word) (g' : Group) : Prop :=
  g'.a = w.g.a ∧ g'.p = w.g.p ∧
  match d with
  | .v n => (∀ i : Fin 32, g'.v[n][i] = if w.act.getLsbD i.val then lv i else w.g.v[n][i]) ∧
      (∀ m : Fin 128, m ≠ n → g'.v[m] = w.g.v[m]) ∧ g'.s = w.g.s ∧ g'.k = w.g.k
  | .s n => g'.v = w.g.v ∧
      (if w.g.hm = true ∧ 56 ≤ n.val then
        g'.s = w.g.s ∧ ∀ m : Fin 8, g'.k[m] = if m.val = n.val - 56 then sv else w.g.k[m]
      else g'.k = w.g.k ∧ ∀ m : Fin 64, g'.s[m] = if m = n then sv else w.g.s[m])
  | _ => g'.v = w.g.v ∧ g'.s = w.g.s ∧ g'.k = w.g.k

/-- An instruction completes with a result in the V or S datapath: it answers a next state in which only its group differs,
its slot has gone on, its destination has its value, and nothing else of the group changed. -/
def Computes (i : Instr) (s : State) (w : View) (len : Nat) (d : Opnd) (lv : Fin 32 → Word) (sv : Word) : Prop :=
  ∃ t g', exec i s = .next t ∧ OnlyGroup s t w.k g' ∧ Advanced w len g' ∧ SameFrame w.g g' ∧ WroteVS w d lv sv g'

/-- An instruction completes with an affine result: as `Computes`, with one A register written. -/
def ComputesA (i : Instr) (s : State) (w : View) (len : Nat) (n : Fin 32) (x : Affine) : Prop :=
  ∃ t g', exec i s = .next t ∧ OnlyGroup s t w.k g' ∧ Advanced w len g' ∧ SameFrame w.g g' ∧
    g'.v = w.g.v ∧ g'.s = w.g.s ∧ g'.k = w.g.k ∧ g'.p = w.g.p ∧ ∀ m : Fin 32, g'.a[m] = if m = n then x else w.g.a[m]

/-- An instruction completes with predicate bits: as `Computes`, with the active lanes of one predicate register written. -/
def ComputesP (i : Instr) (s : State) (w : View) (len : Nat) (n : Fin 96) (c : Fin 32 → Bool) : Prop :=
  ∃ t g', exec i s = .next t ∧ OnlyGroup s t w.k g' ∧ Advanced w len g' ∧ SameFrame w.g g' ∧
    g'.v = w.g.v ∧ g'.s = w.g.s ∧ g'.k = w.g.k ∧ g'.a = w.g.a ∧ (∀ m : Fin 96, m ≠ n → g'.p[m] = w.g.p[m]) ∧
    ∀ i : Fin 32, (g'.p[n]).getLsbD i.val = if w.act.getLsbD i.val then c i else (w.g.p[n]).getLsbD i.val

/-- An instruction completes and writes no register: only its slot goes on. -/
def Passes (i : Instr) (s : State) (w : View) (len : Nat) : Prop :=
  ∃ t g', exec i s = .next t ∧ OnlyGroup s t w.k g' ∧ Advanced w len g' ∧ SameFrame w.g g' ∧ SameRegs w.g g'

/-- An instruction jumps: only its group differs, and of it only the slot. -/
def Jumps (i : Instr) (s : State) (w : View) (pc : DWord) : Prop :=
  ∃ t g', exec i s = .next t ∧ OnlyGroup s t w.k g' ∧ Jumped w pc g' ∧ SameFrame w.g g' ∧ SameRegs w.g g'

/-- A call: it jumps, and every lane of the slot holds the return address in v126 (low word) and v127 (R355). -/
def Links (i : Instr) (s : State) (w : View) (ret pc : DWord) : Prop :=
  ∃ t g', exec i s = .next t ∧ OnlyGroup s t w.k g' ∧ Jumped w pc g' ∧ SameFrame w.g g' ∧
    g'.s = w.g.s ∧ g'.k = w.g.k ∧ g'.a = w.g.a ∧ g'.p = w.g.p ∧ (∀ m : Fin 128, m.val < 126 → g'.v[m] = w.g.v[m]) ∧
    ∀ i : Fin 32, g'.v[127][i] ++ g'.v[126][i] =
      if w.sl.mask.getLsbD i.val then ret else w.g.v[127][i] ++ w.g.v[126][i]

/-- An instruction makes its slot wait: only its group differs, and of it only the slot. -/
def Waits (i : Instr) (s : State) (w : View) (r : WaitReason) : Prop :=
  ∃ t g', exec i s = .next t ∧ OnlyGroup s t w.k g' ∧ Stays w r g' ∧ SameFrame w.g g' ∧ SameRegs w.g g'

/-- An instruction leaves a group `g'` and then acts on the rest of the machine as `post` says. -/
def Leaves (i : Instr) (s : State) (w : View) (g' : Group) (post : State → State) : Prop :=
  ∃ u t, exec i s = .next t ∧ OnlyGroup s u w.k g' ∧ SameButRuns (post u) t

/-- An instruction goes on to the next one, writes no register, and acts on the rest of the machine as `post` says. -/
def PassesThen (i : Instr) (s : State) (w : View) (len : Nat) (post : State → State) : Prop :=
  ∃ g', Leaves i s w g' post ∧ Advanced w len g' ∧ SameFrame w.g g' ∧ SameRegs w.g g'

/-- An instruction sends off a piece of work that brings results later: the work is added at the end of program order, the
registers in `rs` are marked as pending from it, and nothing else changes. -/
def Sends (i : Instr) (s : State) (w : View) (len : Nat) (o : OpBody) (rs : List RegId) (kind : PendKind) : Prop :=
  ∃ t g', exec i s = .next t ∧ OnlyGroupOp s t w.k g' w.n o ∧ Advanced w len g' ∧ SameFrame w.g g' ∧ SameRegs w.g g' ∧
    ∀ r ∈ rs, ∃ p ∈ g'.pend, p.reg = r ∧ p.kind = kind ∧ p.op = s.ids

/-- An instruction raises a cause at its own address and is not performed (R192, R443). -/
def Raises (i : Instr) (s : State) (w : View) (c : Cause) : Prop := exec i s = .next (s.raiseAt w c)

/-! ## When work of a group comes to its end -/

/-- A piece of issued work, its block, which is on its cores, and its group, which has not ended. -/
structure State.Holds (s : State) (o : Op) (b : Block) (g : Group) : Prop where
  op : s.op? o.id = some o
  block : s.block? o.gk.block = some b
  group : s.group? o.gk = some g
  resident : b.st = .resident
  live : g.ended = false

/-- A piece of work ends: its registers take their values and are pending from it no more, the group's counts fall as `dn` says,
the work is gone, and every other group of a block that goes on is as it was. -/
structure Landed (s t : State) (o : Op) (g : Group) (ws : List RegWrite) (dn : Group → Group) : Prop where
  group : ∃ g', t.group? o.gk = some g' ∧ SameRegs (ws.foldl Group.writeReg g) g' ∧ (ws ≠ [] → ∀ p ∈ g'.pend, p.op ≠ o.id) ∧
    g'.ldCnt = (dn g).ldCnt ∧ g'.stCnt = (dn g).stCnt ∧ g'.cpCnt = (dn g).cpCnt ∧ g'.tlCnt = (dn g).tlCnt
  gone : t.op? o.id = none
  others : ∀ j c, j ≠ o.gk → s.block? j.block = some c → c.st ≠ .ended → t.group? j = s.group? j

end Sys2Proof.Machine
end

