-- ==== Sys2Proof/Certificates/Slice0/Obligations.lean ====
section
/-! DEFINITION. The statements for the provers: what the rules of the spec say that the machine does. -/
namespace Sys2Proof.Machine

/-! ## Tables of instructions of one shape -/

/-- A two-source instruction: its constructor, whether it reads D, its class check and its result from X, Y and D. -/
structure TwoSource where
  make : Bool → Opnd → Opnd → Opnd → Instr
  reads : Bool
  clsBad : Opnd → Opnd → Opnd → View → Bool
  f : Word → Word → Word → Word

/-- A one-source instruction of the V and S datapaths: its constructor and its result. -/
structure OneSource where
  make : Bool → Opnd → Opnd → Instr
  f : Word → Word

/-- A 16-bit instruction: its constructor and its result from D and Y. -/
structure ShortForm where
  make : Bool → Fin 32 → Fin 32 → Instr
  f : Word → Word → Word

/-- The class check of a two-source instruction without an A destination (R188). -/
def plainClasses (d x y : Opnd) (w : View) : Bool := !w.clsRule d [x, y] false
/-- The class check where an A destination is legal (R188, R315). -/
def affineClasses (d x y : Opnd) (w : View) : Bool := !w.clsRule d [x, y] true

/-- The bits of a field at position p of length len that lie inside the word (R312). -/
def fieldBits (y : Word) : Nat := min (y.toNat / 256 % 32) (32 - y.toNat % 32)

/-- The integer two-source instructions with their results as R309 and R311 to R314 give them. -/
def integerTwo : List TwoSource :=
  [⟨.add, false, affineClasses, fun x y _ => x + y⟩,
   ⟨.sub, false, affineClasses, fun x y _ => x - y⟩,
   ⟨.mul, false, fun d x y w => !(w.clsRule d [x, y] true && mulCls d x y w), fun x y _ => x * y⟩,
   ⟨.mulhs, false, plainClasses, fun x y _ => (x.signExtend 64 * y.signExtend 64).extractLsb' 32 32⟩,
   ⟨.mulhu, false, plainClasses, fun x y _ => (x.setWidth 64 * y.setWidth 64).extractLsb' 32 32⟩,
   ⟨.mad, true, plainClasses, fun x y d => d + x * y⟩,
   ⟨.mins, false, plainClasses, fun x y _ => if x.toInt ≤ y.toInt then x else y⟩,
   ⟨.maxs, false, plainClasses, fun x y _ => if x.toInt ≤ y.toInt then y else x⟩,
   ⟨.minu, false, plainClasses, fun x y _ => if x.toNat ≤ y.toNat then x else y⟩,
   ⟨.maxu, false, plainClasses, fun x y _ => if x.toNat ≤ y.toNat then y else x⟩,
   ⟨.and, false, plainClasses, fun x y _ => x &&& y⟩,
   ⟨.or, false, plainClasses, fun x y _ => x ||| y⟩,
   ⟨.xor, false, plainClasses, fun x y _ => x ^^^ y⟩,
   ⟨.andn, false, plainClasses, fun x y _ => x &&& ~~~y⟩,
   ⟨.shl, false, fun d x y w => !(w.clsRule d [x, y] true && shlCls d y w),
     fun x y _ => if 32 ≤ y.toNat % 64 then 0 else BitVec.ofNat 32 (x.toNat * 2 ^ (y.toNat % 64))⟩,
   ⟨.shru, false, plainClasses, fun x y _ => if 32 ≤ y.toNat % 64 then 0 else BitVec.ofNat 32 (x.toNat / 2 ^ (y.toNat % 64))⟩,
   ⟨.shrs, false, plainClasses, fun x y _ =>
     if 32 ≤ y.toNat % 64 then (if x.msb then 0xFFFFFFFF else 0) else BitVec.ofInt 32 (x.toInt / 2 ^ (y.toNat % 64))⟩,
   ⟨.rotl, false, plainClasses, fun x y _ =>
     BitVec.ofNat 32 (x.toNat * 2 ^ (y.toNat % 32) + x.toNat / 2 ^ (32 - y.toNat % 32))⟩,
   ⟨.bfeu, false, plainClasses, fun x y _ =>
     if fieldBits y = 0 then 0 else ((x >>> (y.toNat % 32)).setWidth (fieldBits y)).setWidth 32⟩,
   ⟨.bfes, false, plainClasses, fun x y _ =>
     if fieldBits y = 0 then 0 else ((x >>> (y.toNat % 32)).setWidth (fieldBits y)).signExtend 32⟩,
   ⟨.bfi, true, plainClasses, fun x y d => maskOf (fun j =>
     if y.toNat % 32 ≤ j.val ∧ j.val < y.toNat % 32 + fieldBits y then x.getLsbD (j.val - y.toNat % 32) else d.getLsbD j.val)⟩,
   ⟨.dp4aS, true, plainClasses, fun x y d => BitVec.ofInt 32 (d.toInt + (x.extractLsb' 0 8).toInt * (y.extractLsb' 0 8).toInt +
     (x.extractLsb' 8 8).toInt * (y.extractLsb' 8 8).toInt + (x.extractLsb' 16 8).toInt * (y.extractLsb' 16 8).toInt +
     (x.extractLsb' 24 8).toInt * (y.extractLsb' 24 8).toInt)⟩,
   ⟨.dp4aU, true, plainClasses, fun x y d => BitVec.ofNat 32 (d.toNat + (x.extractLsb' 0 8).toNat * (y.extractLsb' 0 8).toNat +
     (x.extractLsb' 8 8).toNat * (y.extractLsb' 8 8).toNat + (x.extractLsb' 16 8).toNat * (y.extractLsb' 16 8).toNat +
     (x.extractLsb' 24 8).toNat * (y.extractLsb' 24 8).toNat)⟩,
   ⟨.dp8aS, true, plainClasses, fun x y d => BitVec.ofInt 32 (d.toInt +
     ((List.range 8).map (fun k => (x.extractLsb' (4 * k) 4).toInt * (y.extractLsb' (4 * k) 4).toInt)).sum)⟩]

/-- R310, with the results of R309 and R311 to R314: an integer two-source instruction with a V, S or absent destination. -/
def Part.IntegerTwoSource : Prop :=
  ∀ (s : State) (w : View) (e : Bool) (d x y : Opnd), ∀ c ∈ integerTwo, (∀ n, d ≠ .a n) →
    s.Issues (formTwo (opLen [x, y]) e d x y c.reads) noCheck (c.clsBad d x y) w → w.Calm →
    Computes (c.make e d x y) s w (opLen [x, y]) d (fun i => c.f (w.lane x i) (w.lane y i) (w.lane d i))
      (c.f (w.sval x) (w.sval y) (w.sval d))

/-- The affine two-source instructions: base and exact stride of the result (R189). -/
structure AffineTwo where
  make : Bool → Opnd → Opnd → Opnd → Instr
  clsBad : Opnd → Opnd → Opnd → View → Bool
  base : View → Opnd → Opnd → DWord
  stride : View → Opnd → Opnd → Int

/-- R189, R315: `add`, `sub`, `mul` by the S source, `shl` by s<5:0>. -/
def affineTwo : List AffineTwo :=
  [⟨.add, affineClasses, fun w x y => (w.aval x).base + (w.aval y).base, fun w x y => (w.aval x).stride.toInt + (w.aval y).stride.toInt⟩,
   ⟨.sub, affineClasses, fun w x y => (w.aval x).base - (w.aval y).base, fun w x y => (w.aval x).stride.toInt - (w.aval y).stride.toInt⟩,
   ⟨.mul, fun d x y w => !(w.clsRule d [x, y] true && mulCls d x y w),
     fun w x y => if w.atMost .s x then (w.aval y).base * (w.sval x).signExtend 64 else (w.aval x).base * (w.sval y).signExtend 64,
     fun w x y => if w.atMost .s x then (w.aval y).stride.toInt * (w.sval x).toInt else (w.aval x).stride.toInt * (w.sval y).toInt⟩,
   ⟨.shl, fun d x y w => !(w.clsRule d [x, y] true && shlCls d y w),
     fun w x y => BitVec.ofNat 64 ((w.aval x).base.toNat * 2 ^ ((w.sval y).toNat % 64)),
     fun w x y => (w.aval x).stride.toInt * 2 ^ ((w.sval y).toNat % 64)⟩]

end Sys2Proof.Machine

open Sys2Proof Sys2Proof.Machine in
/-- R189, R315: an affine result is written when its exact stride fits in 32 bits, and raises 0x14 otherwise. -/
def Obligations.AffineTwoSource : Prop :=
  ∀ (s : State) (w : View) (e : Bool) (n : Fin 32) (x y : Opnd), ∀ c ∈ affineTwo,
    s.Issues (formTwo (opLen [x, y]) e (.a n) x y false) noCheck (c.clsBad (.a n) x y) w → w.Calm →
    (-(2 ^ 31 : Int) ≤ c.stride w x y ∧ c.stride w x y < (2 ^ 31 : Int) →
      ComputesA (c.make e (.a n) x y) s w (opLen [x, y]) n ⟨c.base w x y, BitVec.ofInt 32 (c.stride w x y)⟩) ∧
    (¬(-(2 ^ 31 : Int) ≤ c.stride w x y ∧ c.stride w x y < (2 ^ 31 : Int)) →
      Raises (c.make e (.a n) x y) s w { code := 0x14, sub := 0, tval := 0, slot := w.n })

namespace Sys2Proof.Machine

/-- The integer 16-bit forms with their results (R323). -/
def shortForms : List ShortForm :=
  [⟨.add16, fun x y => x + y⟩, ⟨.sub16, fun x y => x - y⟩, ⟨.mul16, fun x y => x * y⟩, ⟨.and16, fun x y => x &&& y⟩,
   ⟨.or16, fun x y => x ||| y⟩, ⟨.xor16, fun x y => x ^^^ y⟩,
   ⟨.shl16, fun x y => if 32 ≤ y.toNat % 64 then 0 else BitVec.ofNat 32 (x.toNat * 2 ^ (y.toNat % 64))⟩,
   ⟨.shru16, fun x y => if 32 ≤ y.toNat % 64 then 0 else BitVec.ofNat 32 (x.toNat / 2 ^ (y.toNat % 64))⟩,
   ⟨.mins16, fun x y => if x.toInt ≤ y.toInt then x else y⟩, ⟨.maxs16, fun x y => if x.toInt ≤ y.toInt then y else x⟩,
   ⟨.fadd16, fAdd⟩, ⟨.fsub16, fSub⟩, ⟨.fmul16, fMul⟩, ⟨.fmin16, fMin⟩, ⟨.fmax16, fMax⟩]

/-- R323, R330: the 16-bit forms, with D = X = d and Y = y, 2 bytes long; `mov` takes Y alone. -/
def Part.SixteenBitForms : Prop :=
  (∀ (s : State) (w : View) (e : Bool) (d y : Fin 32), ∀ c ∈ shortForms,
    s.Issues (formTwo 2 e (short d) (short d) (short y) false) noCheck (plainClasses (short d) (short d) (short y)) w → w.Calm →
    Computes (c.make e d y) s w 2 (.v ⟨d.val, by omega⟩)
      (fun i => c.f (w.g.v[d.val][i]) (w.g.v[y.val][i])) 0) ∧
  (∀ (s : State) (w : View) (e : Bool) (d y : Fin 32),
    s.Issues { len := 2, e := e, srcs := [short y], dsts := [short d] } noCheck noCheck w → w.Calm →
    Computes (.mov16 e d y) s w 2 (.v ⟨d.val, by omega⟩) (fun i => w.g.v[y.val][i]) 0)

/-- The integer unary instructions with their results (R316). -/
def integerOne : List OneSource :=
  [⟨.not, fun x => ~~~x⟩, ⟨.neg, fun x => 0 - x⟩, ⟨.abs, fun x => if x.toInt < 0 then 0 - x else x⟩,
   ⟨.popc, fun x => BitVec.ofNat 32 ((List.range 32).countP (fun k => x.getLsbD k))⟩,
   ⟨.clz, fun x => if x = 0 then 32 else BitVec.ofNat 32 (31 - x.toNat.log2)⟩,
   ⟨.ctz, fun x => BitVec.ofNat 32 ((List.range 32).takeWhile (fun k => !x.getLsbD k)).length⟩,
   ⟨.brev, fun x => x.reverse⟩,
   ⟨.sextb, fun x => (x.extractLsb' 0 8).signExtend 32⟩, ⟨.sexth, fun x => (x.extractLsb' 0 16).signExtend 32⟩,
   ⟨.zextb, fun x => x &&& 0xFF⟩, ⟨.zexth, fun x => x &&& 0xFFFF⟩,
   ⟨.bswap, fun x => BitVec.ofNat 32 (x.toNat / 2 ^ 24 + x.toNat / 2 ^ 16 % 256 * 2 ^ 8 + x.toNat / 2 ^ 8 % 256 * 2 ^ 16 +
     x.toNat % 256 * 2 ^ 24)⟩]

/-- The class check of a one-source instruction without an A destination (R188). -/
def oneClasses (d x : Opnd) (w : View) : Bool := !w.clsRule d [x] false

/-- R316: the integer unary instructions. -/
def Part.IntegerUnary : Prop :=
  ∀ (s : State) (w : View) (e : Bool) (d x : Opnd), ∀ c ∈ integerOne,
    s.Issues (formOne e d x) noCheck (oneClasses d x) w → w.Calm →
    Computes (c.make e d x) s w (opLen [x]) d (fun i => c.f (w.lane x i)) (c.f (w.sval x))

/-- A pack: its constructor, the registers of its run, the bits of an element and the range it saturates to (R317). -/
structure PackForm where
  make : Bool → Opnd → Opnd → Instr
  n : Nat
  bits : Nat
  lo : Int
  hi : Int

/-- The packs (R317). -/
def packForms : List PackForm := [⟨.packS8, 4, 8, -128, 127⟩, ⟨.packU8, 4, 8, 0, 255⟩, ⟨.packS4, 8, 4, -8, 7⟩]

/-- Elements packed into a word, element k at bit k × bits, each saturated (R317). -/
def packed (c : PackForm) (el : Nat → Word) : Word :=
  BitVec.ofNat 32 (((List.range c.n).map (fun k => ((max c.lo (min c.hi (el k).toInt)) % 2 ^ c.bits).toNat * 2 ^ (c.bits * k))).sum)

/-- The value of the register `k` places on, in the V datapath and in the S datapath. -/
def laneOn (w : View) (x : Opnd) (i : Fin 32) (k : Nat) : Word := ((opndPlus x k).map (fun o => w.lane o i)).getD 0
/-- The value of the S register `k` places on. -/
def valOn (w : View) (x : Opnd) (k : Nat) : Word := ((opndPlus x k).map w.sval).getD 0

/-- An unpack: its constructor, the registers it writes and element k of its source (R318). -/
structure UnpackForm where
  make : Bool → Opnd → Opnd → Instr
  n : Nat
  el : Nat → Word → Word

/-- The unpacks (R318). -/
def unpackForms : List UnpackForm :=
  [⟨.unpkS8, 4, fun k x => (x.extractLsb' (8 * k) 8).signExtend 32⟩, ⟨.unpkU8, 4, fun k x => (x.extractLsb' (8 * k) 8).setWidth 32⟩,
   ⟨.unpkS4, 8, fun k x => (x.extractLsb' (4 * k) 4).signExtend 32⟩]

/-- R317, R318: packs saturate a run into one register; unpacks write a run of registers, all from X as it was before. -/
def Part.PackAndUnpack : Prop :=
  (∀ (s : State) (w : View) (e : Bool) (d x : Opnd), ∀ c ∈ packForms, x.isReg = true →
    s.Issues { len := 4, e := e, srcs := opndRun x c.n, dsts := [d] } (fun _ => !opndRunOk x c.n) (oneClasses d x) w → w.Calm →
    Computes (c.make e d x) s w 4 d (fun i => packed c (laneOn w x i)) (packed c (valOn w x))) ∧
  (∀ (s : State) (w : View) (e : Bool) (d x : Opnd), ∀ c ∈ unpackForms,
    s.Issues { len := opLen [x], e := e, srcs := [x], dsts := opndRun d c.n } (fun _ => !opndRunOk d c.n) (oneClasses d x) w → w.Calm →
    ∃ t g', exec (c.make e d x) s = .next t ∧ OnlyGroup s t w.k g' ∧ Advanced w (opLen [x]) g' ∧ SameFrame w.g g' ∧
      g'.a = w.g.a ∧ g'.p = w.g.p ∧
      match d with
      | .v n => g'.s = w.g.s ∧ g'.k = w.g.k ∧ ∀ (m : Fin 128) (i : Fin 32),
          g'.v[m][i] = if n.val ≤ m.val ∧ m.val < n.val + c.n ∧ w.act.getLsbD i.val = true then c.el (m.val - n.val) (w.lane x i)
            else w.g.v[m][i]
      | .s n => g'.v = w.g.v ∧ (∀ m : Fin 64, g'.sOf m = if n.val ≤ m.val ∧ m.val < n.val + c.n then c.el (m.val - n.val) (w.sval x)
            else w.g.sOf m) ∧ (w.g.hm = false → g'.k = w.g.k) ∧ (w.g.hm = true → ∀ m : Fin 64, 56 ≤ m.val → g'.s[m] = w.g.s[m])
      | _ => SameRegs w.g g')

/-- R320: `mov` into A takes base and stride, into V and S the bits of its source. -/
def Part.MoveBetweenClasses : Prop :=
  ∀ (s : State) (w : View) (e : Bool) (d x : Opnd), s.Issues (formOne e d x) noCheck (fun w => !w.clsRule d [x] true) w → w.Calm →
    match d with
    | .a n => ComputesA (.mov e (.a n) x) s w (opLen [x]) n (w.aval x)
    | _ => Computes (.mov e d x) s w (opLen [x]) d (w.lane x) (w.sval x)

/-- R321: `bcast.s` takes the value of X in the lowest lane of the entry mask. -/
def Part.BroadcastScalar : Prop :=
  ∀ (s : State) (w : View) (e : Bool) (d x : Opnd) (j : Fin 32), s.Issues (formOne e d x) noCheck (fun _ => notS d) w → w.Calm →
    w.g.emask.getLsbD j.val = true → (∀ i : Fin 32, i < j → w.g.emask.getLsbD i.val = false) →
    Computes (.bcastS e d x) s w (opLen [x]) d (w.lane x) (w.lane x j)

/-- R322: `affx` writes an affine register whose value in every lane of the entry mask is that of its source, and clears AFX; or it
keeps the register and sets AFX. Without a destination only AFX changes. -/
def Part.ExtractAffine : Prop :=
  ∀ (s : State) (w : View) (e : Bool) (d x : Opnd),
    s.Issues (formOne e d x) noCheck (fun _ => match d with
      | .v _ => true
      | .s _ => true
      | _ => false) w → w.Calm →
    (∀ v, w.affxValue x = some v → ∀ j : Fin 32, w.g.emask.getLsbD j.val = true → (v.at j.val).setWidth 32 = w.lane x j) ∧
    ∃ t g', exec (.affx e d x) s = .next t ∧ OnlyGroup s t w.k g' ∧ Advanced w (opLen [x]) g' ∧
      g' = { w.g with a := g'.a, afx := (w.affxValue x).isNone, pend := g'.pend, slot0 := g'.slot0, slot1 := g'.slot1, icnt := g'.icnt } ∧
      ∀ m : Fin 32, g'.a[m] = match w.affxValue x with
        | some v => if d = .a m then v else w.g.a[m]
        | none => w.g.a[m]

/-! ## Floating point, conversion, companding -/

/-- The two-source floating-point instructions, on the sums of R326 (R327 to R329). -/
def floatTwo : List TwoSource :=
  [⟨.fadd, false, plainClasses, fun x y _ => toWord (fsum fp32 [soleTerm (val32 x), soleTerm (val32 y)])⟩,
   ⟨.fsub, false, plainClasses, fun x y _ => toWord (fsum fp32 [soleTerm (val32 x), soleTerm (val32 y).negate])⟩,
   ⟨.fmul, false, plainClasses, fun x y _ => toWord (fsum fp32 [prodTerm (val32 x) (val32 y)])⟩,
   ⟨.ffma, true, plainClasses, fun x y d => toWord (fsum fp32 [soleTerm (val32 d), prodTerm (val32 x) (val32 y)])⟩,
   ⟨.fmin, false, plainClasses, fun x y _ => fMin x y⟩, ⟨.fmax, false, plainClasses, fun x y _ => fMax x y⟩,
   ⟨.hadd2, false, plainClasses, fun x y _ => hAdd2 x y⟩, ⟨.hmul2, false, plainClasses, fun x y _ => hMul2 x y⟩,
   ⟨.hfma2, true, plainClasses, fun x y d => xFma2 fp16 x y d⟩, ⟨.bfma2, true, plainClasses, fun x y d => xFma2 bf16 x y d⟩]

/-- R310, R326, R327, R329: the two-source floating-point instructions. -/
def Part.FloatTwoSource : Prop :=
  ∀ (s : State) (w : View) (e : Bool) (d x y : Opnd), ∀ c ∈ floatTwo,
    s.Issues (formTwo (opLen [x, y]) e d x y c.reads) noCheck (c.clsBad d x y) w → w.Calm →
    Computes (c.make e d x y) s w (opLen [x, y]) d (fun i => c.f (w.lane x i) (w.lane y i) (w.lane d i))
      (c.f (w.sval x) (w.sval y) (w.sval d))

/-- The one-source floating-point and conversion instructions (R332 to R338). -/
def floatOne : List OneSource :=
  [⟨.fneg, fun x => x ^^^ 0x80000000⟩, ⟨.fabs, fun x => x &&& 0x7FFFFFFF⟩, ⟨.frcp, fRcp⟩, ⟨.frsq, fRsq⟩, ⟨.fsqrt, fSqrt⟩, ⟨.fex2, fEx2⟩,
   ⟨.flg2, fLg2⟩, ⟨.fsin, fSin⟩, ⟨.fcos, fCos⟩, ⟨.frintNe, fRint .ne⟩, ⟨.frintZ, fRint .z⟩, ⟨.frintDn, fRint .dn⟩, ⟨.frintUp, fRint .up⟩,
   ⟨.ffrac, fFrac⟩, ⟨.fclass, fClass⟩, ⟨.fsat, fSat⟩, ⟨.cvtF32S32, fun x => intToF x.toInt⟩, ⟨.cvtF32U32, fun x => intToF x.toNat⟩,
   ⟨.cvtS32F32Ne, fToInt .ne (-2147483648) 2147483647⟩, ⟨.cvtS32F32Z, fToInt .z (-2147483648) 2147483647⟩,
   ⟨.cvtS32F32Dn, fToInt .dn (-2147483648) 2147483647⟩, ⟨.cvtS32F32Up, fToInt .up (-2147483648) 2147483647⟩,
   ⟨.cvtU32F32Ne, fToInt .ne 0 4294967295⟩, ⟨.cvtU32F32Z, fToInt .z 0 4294967295⟩,
   ⟨.cvtF32F16lo, fun x => toWord ((valOf fp16 (x.toNat % 65536)).to fp32)⟩,
   ⟨.cvtF32F16hi, fun x => toWord ((valOf fp16 (x.toNat / 65536)).to fp32)⟩,
   ⟨.cvtF32Bf16lo, fun x => toWord ((valOf bf16 (x.toNat % 65536)).to fp32)⟩,
   ⟨.cvtF32Bf16hi, fun x => toWord ((valOf bf16 (x.toNat / 65536)).to fp32)⟩,
   ⟨.cvtF16x2Bf16x2, fun x => toWord ((valOf bf16 (x.toNat % 65536)).to fp16 + 65536 * (valOf bf16 (x.toNat / 65536)).to fp16)⟩,
   ⟨.cvtBf16x2F16x2, fun x => toWord ((valOf fp16 (x.toNat % 65536)).to bf16 + 65536 * (valOf fp16 (x.toNat / 65536)).to bf16)⟩]

/-- R332 to R340: the one-source floating-point and conversion instructions, the conversions that narrow two registers, and the
companding conversions under a table of the launch. How `frcp`, `frsq`, `fex2`, `flg2`, `fsin` and `fcos` are worked out, by the model's
series in guard bits, is its choice (log 101). -/
def Part.FloatUnary : Prop :=
  (∀ (s : State) (w : View) (e : Bool) (d x : Opnd), ∀ c ∈ floatOne,
    s.Issues (formOne e d x) noCheck (oneClasses d x) w → w.Calm →
    Computes (c.make e d x) s w (opLen [x]) d (fun i => c.f (w.lane x i)) (c.f (w.sval x))) ∧
  (∀ (s : State) (w : View) (e : Bool) (d x : Opnd), ∀ c ∈ [(Instr.cvtF16x2F32, fp16), (Instr.cvtBf16x2F32, bf16)], x.isReg = true →
    s.Issues { len := 4, e := e, srcs := opndRun x 2, dsts := [d] } (fun _ => !opndRunOk x 2) (oneClasses d x) w → w.Calm →
    Computes (c.1 e d x) s w 4 d
      (fun i => toWord ((val32 (laneOn w x i 0)).to c.2 + 65536 * (val32 (laneOn w x i 1)).to c.2))
      (toWord ((val32 (valOn w x 0)).to c.2 + 65536 * (val32 (valOn w x 1)).to c.2))) ∧
  (∀ (s : State) (w : View) (e : Bool) (j : Fin 8) (d x : Opnd), s.Issues (formOne e d x) noCheck (oneClasses d x) w → w.Calm →
    Computes (.qntC8 e j d x) s w (opLen [x]) d (fun i => BitVec.ofInt 32 (c8Fwd (w.l.table j.val) (w.lane x i)))
      (BitVec.ofInt 32 (c8Fwd (w.l.table j.val) (w.sval x))) ∧
    Computes (.dqntC8 e j d x) s w (opLen [x]) d (fun i => c8Inv32 (w.l.table j.val) ((w.lane x i).setWidth 8))
      (c8Inv32 (w.l.table j.val) ((w.sval x).setWidth 8)))

/-! ## Compares, predicates, votes, exchanges, reductions (R341 to R353) -/

/-- A compare: its constructor and its condition. -/
structure Compare where
  make : Bool → Pred → Opnd → Opnd → Instr
  cond : Word → Word → Bool

/-- The compares with the conditions of R341. -/
def compares : List Compare :=
  [⟨.cmpiEq, fun x y => x == y⟩, ⟨.cmpiNe, fun x y => x != y⟩, ⟨.cmpiLt, fun x y => decide (x.toInt < y.toInt)⟩,
   ⟨.cmpiGe, fun x y => decide (x.toInt ≥ y.toInt)⟩, ⟨.cmpuLt, fun x y => decide (x.toNat < y.toNat)⟩,
   ⟨.cmpuGe, fun x y => decide (x.toNat ≥ y.toNat)⟩,
   ⟨.cmpfEq, fun x y => !isNan x && !isNan y && decide (vKey x = vKey y)⟩,
   ⟨.cmpfNe, fun x y => isNan x || isNan y || decide (vKey x ≠ vKey y)⟩,
   ⟨.cmpfLt, fun x y => !isNan x && !isNan y && decide (vKey x < vKey y)⟩,
   ⟨.cmpfGe, fun x y => !isNan x && !isNan y && decide (vKey x ≥ vKey y)⟩,
   ⟨.cmpfUo, fun x y => isNan x || isNan y⟩, ⟨.cmpfO, fun x y => !isNan x && !isNan y⟩]

/-- R341 to R343: compares and predicate logic write the active lanes of one predicate. -/
def Part.ComparesAndPredicates : Prop :=
  (∀ (s : State) (w : View) (e : Bool) (n : Fin 96) (x y : Opnd), ∀ c ∈ compares,
    s.Issues { len := opLen [x, y], e := e, srcs := [x, y], pdst := some (.p n) } noCheck noCheck w → w.Calm →
    ComputesP (c.make e (.p n) x y) s w (opLen [x, y]) n (fun i => c.cond (w.lane x i) (w.lane y i))) ∧
  (∀ (s : State) (w : View) (e : Bool) (n : Fin 96) (px py : Pred),
    s.Issues { len := 4, e := e, preds := [px, py], pdst := some (.p n) } noCheck noCheck w → w.Calm →
    ComputesP (.pand e (.p n) px py) s w 4 n (fun i => (w.g.predMask px).getLsbD i.val && (w.g.predMask py).getLsbD i.val) ∧
    ComputesP (.por e (.p n) px py) s w 4 n (fun i => (w.g.predMask px).getLsbD i.val || (w.g.predMask py).getLsbD i.val) ∧
    ComputesP (.pxor e (.p n) px py) s w 4 n (fun i => (w.g.predMask px).getLsbD i.val ^^ (w.g.predMask py).getLsbD i.val))

/-- R345, R346: the votes over the active lanes with the predicate set, one result for the group. -/
def Part.Votes : Prop :=
  ∀ (s : State) (w : View) (e : Bool) (d : Opnd) (px : Pred),
    s.Issues { len := 4, e := e, preds := [px], dsts := [d] } noCheck (fun _ => isA d) w → w.Calm →
    let m := w.act &&& w.g.predMask px
    Computes (.ballot e d px) s w 4 d (fun _ => m) m ∧
    Computes (.anyof e d px) s w 4 d (fun _ => if m = 0 then 0 else 1) (if m = 0 then 0 else 1) ∧
    Computes (.allof e d px) s w 4 d (fun _ => if w.act = m then 1 else 0) (if w.act = m then 1 else 0) ∧
    Computes (.pcount e d px) s w 4 d (fun _ => BitVec.ofNat 32 ((List.range 32).countP (fun k => m.getLsbD k)))
      (BitVec.ofNat 32 ((List.range 32).countP (fun k => m.getLsbD k)))

/-- The lane 4q + s of the quad of a lane 4q + k, s a function of k (R348). -/
def quadFrom (f : Nat → Nat) (i : Fin 32) : Fin 32 := ⟨(4 * (i.val / 4) + f (i.val % 4)) % 32, Nat.mod_lt _ (by decide)⟩

/-- The quad exchanges with s as a function of k (R348). -/
def quads : List ((Bool → Opnd → Opnd → Instr) × (Nat → Nat)) :=
  [(.qswapH, fun k => k ^^^ 1), (.qswapV, fun k => k ^^^ 2), (.qswapD, fun k => k ^^^ 3), (.qbc0, fun _ => 0), (.qbc1, fun _ => 1),
   (.qbc2, fun _ => 2), (.qbc3, fun _ => 3)]

/-- R347, R348: cross-lane selects and quad exchanges read X in the lane that Y or the quad names. -/
def Part.LaneExchanges : Prop :=
  (∀ (s : State) (w : View) (e : Bool) (d x y : Opnd),
    s.Issues (formTwo (opLen [x, y]) e d x y false) noCheck (fun w => match d with
      | .s _ => !w.atMost .s y
      | .a _ => true
      | _ => false) w → w.Calm →
    Computes (.xlaneSel e d x y) s w (opLen [x, y]) d
      (fun i => w.lane x ⟨(w.lane y i).toNat % 32, Nat.mod_lt _ (by decide)⟩) (w.lane x ⟨(w.sval y).toNat % 32, Nat.mod_lt _ (by decide)⟩)) ∧
  (∀ (s : State) (w : View) (e : Bool) (d x y : Opnd),
    s.Issues { len := opLen [x, y], e := e, srcs := [x, y], dsts := [d] } noCheck (fun _ => notV d) w → w.Calm →
    Computes (.xlaneFlip e d x y) s w (opLen [x, y]) d
      (fun i => w.lane x ⟨(i.val ^^^ ((w.lane y i).toNat % 32)) % 32, Nat.mod_lt _ (by decide)⟩) 0) ∧
  (∀ (s : State) (w : View) (e : Bool) (d x : Opnd), ∀ c ∈ quads,
    s.Issues { len := opLen [x], e := e, srcs := [x], dsts := [d] } noCheck (fun _ => notV d) w → w.Calm →
    Computes (c.1 e d x) s w (opLen [x]) d (fun i => w.lane x (quadFrom c.2 i)) 0)

/-- The values of the lanes of a mask, ascending. -/
def laneVals (w : View) (x : Opnd) (m : Mask) : List Word := m.lanes.map (w.lane x)

/-- The reductions of R349 on a list of lane values; those of FP32 take the tree of R350, and a NaN result is canonical (R84). -/
def reductions : List ((Bool → Opnd → Opnd → Instr) × (View → Opnd → Word)) :=
  [(.redAddS32, fun w x => (laneVals w x w.act).sum),
   (.redMinS32, fun w x => match laneVals w x w.act with
     | [] => 0
     | a :: r => r.foldl (fun p q => if q.toInt < p.toInt then q else p) a),
   (.redMaxS32, fun w x => match laneVals w x w.act with
     | [] => 0
     | a :: r => r.foldl (fun p q => if p.toInt < q.toInt then q else p) a),
   (.redAddF32, fun w x => canonWord ((w.treeOf fAdd x w.act).getD 0)), (.redMinF32, fun w x => canonWord ((w.treeOf fMin x w.act).getD 0)),
   (.redMaxF32, fun w x => canonWord ((w.treeOf fMax x w.act).getD 0))]

/-- R84, R349 to R351: reductions give one value to the group; scans give each lane what the lanes before it come to; a NaN result is
the canonical NaN, also where one lane only is active. -/
def Part.ReductionsAndScans : Prop :=
  (∀ (s : State) (w : View) (e : Bool) (d x : Opnd), ∀ c ∈ reductions,
    s.Issues (formOne e d x) noCheck (fun _ => isA d) w → w.Calm →
    Computes (c.1 e d x) s w (opLen [x]) d (fun _ => c.2 w x) (c.2 w x)) ∧
  (∀ (s : State) (w : View) (e : Bool) (d x : Opnd), s.Issues (formOne e d x) noCheck (fun _ => notV d) w → w.Calm →
    Computes (.scanAddS32 e d x) s w (opLen [x]) d (fun i => ((w.act.lanes.filter (· ≤ i)).map (w.lane x)).sum) 0 ∧
    Computes (.scanxAddS32 e d x) s w (opLen [x]) d (fun i => ((w.act.lanes.filter (· < i)).map (w.lane x)).sum) 0 ∧
    Computes (.scanAddF32 e d x) s w (opLen [x]) d
      (fun i => canonWord
        ((tree fAdd ((List.finRange 32).map (fun j => if w.act.getLsbD j.val ∧ j ≤ i then some (w.lane x j) else none))).getD 0)) 0) ∧
  (∀ x : Word, canonWord x = if isNan x then 0x7FC00000 else x)

/-- The clamped sum of the item counts of the active lanes below j (R352). -/
def itemsBelow (w : View) (x : Opnd) (j : Nat) : Word :=
  BitVec.ofNat 32 (min (((w.act.lanes.filter (fun m => m.val < j)).map (fun m => (w.lane x m).toNat)).sum) 0xFFFFFFFF)

/-- R352, R353: `rebal.ld` replaces the group's rebalance state at once and sends the prefixes to its register; `rebal.nx` sends
owner and rank of 32 consecutive items. Their results reach the registers by VAR_LATENCY_WRITE. -/
def Part.Rebalance : Prop :=
  (∀ (s : State) (w : View) (e : Bool) (n : Fin 128) (x : Opnd),
    s.Issues (formOne e (.v n) x) noCheck (fun _ => notV (.v n)) w → w.Calm →
    ∃ t g', exec (.rebalLd e (.v n) x) s = .next t ∧
      OnlyGroupOp s t w.k g' w.n (.regs .rebal [⟨.v n, w.act, .v (Vector.ofFn (fun j => itemsBelow w x j.val))⟩]) ∧
      Advanced w (opLen [x]) g' ∧
      g' = { w.g with rbp := g'.rbp, rbt := g'.rbt, pend := g'.pend, slot0 := g'.slot0, slot1 := g'.slot1, icnt := g'.icnt } ∧
      g'.rbt = itemsBelow w x 32 ∧ ∀ j : Fin 32, g'.rbp[j] = itemsBelow w x j.val) ∧
  (∀ (s : State) (w : View) (e : Bool) (n m : Fin 128) (x : Opnd), m.val = n.val + 1 →
    s.Issues { len := opLen [x], e := e, srcs := [x], dsts := opndRun (.v n) 2 } (fun _ => !opndRunOk (.v n) 2)
      (fun w => notV (.v n) || !w.atMost .s x) w → w.Calm →
    ∃ t g' own rank, exec (.rebalNx e (.v n) x) s = .next t ∧
      OnlyGroupOp s t w.k g' w.n (.regs .rebal [⟨.v n, w.act, .v own⟩, ⟨.v m, w.act, .v rank⟩]) ∧
      Advanced w (opLen [x]) g' ∧ SameRegs w.g g' ∧ SameFrame w.g g' ∧
      ∀ i : Fin 32, let k := (w.sval x).toNat + i.val
        if k < w.g.rbt.toNat then own[i] = BitVec.ofNat 32 (w.g.itemOwner k).val ∧
          rank[i] = BitVec.ofNat 32 (k - (w.g.rbp[w.g.itemOwner k]).toNat)
        else own[i] = 0xFFFFFFFF ∧ rank[i] = 0xFFFFFFFF) ∧
  (∀ (s : State) (w : View) (e : Bool) (x : Opnd),
    s.Issues (formOne e .none x) noCheck (fun _ => notV .none) w → w.Calm →
    ∃ t g', exec (.rebalLd e .none x) s = .next t ∧ OnlyGroupOp s t w.k g' w.n (.regs .rebal []) ∧ SameRegs w.g g' ∧
      g'.rbt = itemsBelow w x 32 ∧ ∀ j : Fin 32, g'.rbp[j] = itemsBelow w x j.val)

/-! ## Control -/

end Sys2Proof.Machine

open Sys2Proof Sys2Proof.Machine in
/-- R355, R356, R358, R359: branches and calls go to their targets; a call leaves its return address in v126 and v127 of every
lane of the slot; `ret` goes to the address all lanes hold, and raises 0x17 where they differ. -/
def Obligations.BranchesAndCalls : Prop :=
  (∀ (s : State) (w : View) (e : Bool) (disp : BitVec 23), s.Issues { len := 4, e := e } noCheck noCheck w → w.Calm →
    Jumps (.bra e disp) s w (w.sl.pc + 2 * disp.signExtend 64)) ∧
  (∀ (s : State) (w : View) (e : Bool) (si : Fin 64) (disp : BitVec 16),
    s.Issues { len := 4, e := e, srcs := [.s si] } noCheck noCheck w → w.Calm →
    (if w.sval (.s si) = 0 then Jumps (.brsZ e si disp) s w (w.sl.pc + 2 * disp.signExtend 64) ∧ Passes (.brsNz e si disp) s w 4
      else Passes (.brsZ e si disp) s w 4 ∧ Jumps (.brsNz e si disp) s w (w.sl.pc + 2 * disp.signExtend 64))) ∧
  (∀ (s : State) (w : View) (e : Bool) (x : Opnd),
    s.Issues { len := opLen [x], e := e, srcs := indirectSrcs x } (fun _ => badTarget x) (fun _ => isV x) w → w.Calm →
    match x with
    | .a n => Jumps (.jmpI e x) s w (w.g.a[n]).base
    | .lit64 y => Jumps (.jmpI e x) s w y
    | .s n => ∃ m : Fin 64, m.val = n.val + 1 ∧ Jumps (.jmpI e x) s w (w.sval (.s m) ++ w.sval (.s n))
    | _ => False) ∧
  (∀ (s : State) (w : View) (e : Bool) (disp : BitVec 23),
    s.Issues { len := 4, e := e, impl := linkRegs } noCheck noCheck w → w.Calm →
    Links (.call e disp) s w (w.sl.pc + 4) (w.sl.pc + 2 * disp.signExtend 64)) ∧
  (∀ (s : State) (w : View) (e : Bool) (x : Opnd),
    s.Issues { len := opLen [x], e := e, srcs := indirectSrcs x, impl := linkRegs } (fun _ => badTarget x) (fun _ => isV x) w → w.Calm →
    Links (.callI e x) s w (w.sl.pc + BitVec.ofNat 64 (opLen [x])) (w.indirect x)) ∧
  (∀ (s : State) (w : View) (e : Bool) (i : Fin 32), s.Issues { len := 4, e := e, impl := linkRegs } noCheck noCheck w → w.Calm →
    w.sl.mask.getLsbD i.val = true →
    if ∀ j : Fin 32, w.sl.mask.getLsbD j.val = true → w.g.v[127][j] ++ w.g.v[126][j] = w.g.v[127][i] ++ w.g.v[126][i] then
      Jumps (.ret e) s w (w.g.v[127][i] ++ w.g.v[126][i])
    else Raises (.ret e) s w { code := 0x17, sub := 0, tval := 0, slot := w.n })

namespace Sys2Proof.Machine

/-- R195, R357: `brv` jumps where every lane of the slot goes, goes on where none does, and else splits the slot, the sibling
taking the target; a live sibling is pushed first, and a full stack raises the spill trap. -/
def Part.Divergence : Prop :=
  ∀ (s : State) (w : View) (e : Bool) (pr : Pred) (sns : Bool) (disp : BitVec 16),
    s.Issues { len := 4, e := e, preds := [pr], kind := .brv } View.inHandler noCheck w → w.Calm → w.g.sd ≤ 16 →
    let t := w.act &&& (if sns then ~~~(w.g.predMask pr) else w.g.predMask pr)
    let target := w.sl.pc + 2 * disp.signExtend 64
    let o := w.g.slot (sib w.n)
    if t = w.sl.mask then Jumps (.brv e pr sns disp) s w target
    else if t = 0 then Passes (.brv e pr sns disp) s w 4
    else if o.st ≠ .free ∧ w.g.sd = 16 then Raises (.brv e pr sns disp) s w { code := 4, sub := 0, tval := 0, slot := w.n }
    else ∃ u g', exec (.brv e pr sns disp) s = .next u ∧ OnlyGroup s u w.k g' ∧ SameRegs w.g g' ∧
      (g'.slot w.n).pc = w.sl.pc + 4 ∧ (g'.slot w.n).mask = w.sl.mask &&& ~~~t ∧ (g'.slot w.n).st = .ready ∧
      (g'.slot (sib w.n)).pc = target &&& ~~~1#64 ∧ (g'.slot (sib w.n)).mask = t ∧ (g'.slot (sib w.n)).wait = some .refill ∧
      (if o.st = .free then g'.sd = w.g.sd ∧ g'.stack = w.g.stack
        else g'.sd = w.g.sd + 1 ∧ ∀ j : Fin 16, g'.stack[j] = if j.val = w.g.sd then ⟨o.pc, o.mask⟩ else w.g.stack[j])

/-- R195: `join` with a Free sibling goes on and pops the top of the stack into it; at the same `join` as its sibling the two
become slot 0 behind it, and the stack pops into slot 1; with a sibling elsewhere the slot waits in Join; a sibling at another
`join` raises 0x16; an empty stack with spilled entries raises the refill trap behind the instruction, whose entry is held while the
other slot's `tq.pop` has a record (R448; log 109). -/
def Part.Reconvergence : Prop :=
  ∀ (s : State) (w : View) (e : Bool), s.Issues { len := 4, e := e, ends := true } View.inHandler noCheck w → w.Calm →
    w.g.sd ≤ 16 →
    let o := w.g.slot (sib w.n)
    let next := w.sl.pc + 4
    (o.st = .free → w.g.sd = 0 → w.g.sc ≠ 0 → let c : Cause := { code := 5, sub := 0, tval := 0, slot := w.n }
      ∃ u g', OnlyGroup s u w.k g' ∧ SameRegs w.g g' ∧ Advanced w 4 g' ∧
        exec (.join e) s = .next ((if s.entryHeld w.k w.b.asid c then u.holdEntry w.k c else u.raise w.k w.b.asid c).endRun w.g.core
          w.k w.n (u.causeEnd w.k w.b.asid c))) ∧
    (o.st = .join → o.pc = w.sl.pc → w.g.sd = 0 → w.g.sc ≠ 0 → let c : Cause := { code := 5, sub := 0, tval := 0, slot := w.n }
      ∃ u g', OnlyGroup s u w.k g' ∧ SameRegs w.g g' ∧ g'.slot0.pc = next ∧ g'.slot0.mask = w.sl.mask ||| o.mask ∧
        g'.slot0.st = .ready ∧ g'.slot1 = Slot.free ∧
        exec (.join e) s = .next ((u.raise w.k w.b.asid c).endRun w.g.core w.k w.n (u.causeEnd w.k w.b.asid c))) ∧
    match o.st with
    | .free => (w.g.sd ≠ 0 ∨ w.g.sc = 0) → ∃ u g', exec (.join e) s = .next u ∧ OnlyGroup s u w.k g' ∧ SameRegs w.g g' ∧
        (g'.slot w.n).pc = next ∧ (g'.slot w.n).mask = w.sl.mask ∧ (g'.slot w.n).st = .ready ∧ Popped w.g g' (sib w.n)
    | .join => if o.pc = w.sl.pc then
          (w.g.sd ≠ 0 ∨ w.g.sc = 0) → ∃ u g', exec (.join e) s = .next u ∧ OnlyGroup s u w.k g' ∧ SameRegs w.g g' ∧
            g'.slot0.pc = next ∧ g'.slot0.mask = w.sl.mask ||| o.mask ∧ g'.slot0.st = .ready ∧
            Popped { w.g with slot1 := Slot.free } g' 1
        else Raises (.join e) s w { code := 0x16, sub := 0, tval := 0, slot := w.n }
    | _ => ∃ u g', exec (.join e) s = .next u ∧ OnlyGroup s u w.k g' ∧ SameRegs w.g g' ∧ (g'.slot w.n).st = .join ∧
        (g'.slot w.n).pc = w.sl.pc ∧ (g'.slot w.n).mask = w.sl.mask ∧ g'.slot (sib w.n) = o ∧ g'.sd = w.g.sd ∧ g'.stack = w.g.stack

/-- R195, R361: `exit` takes the active lanes out of the entry mask and the slot; lanes that stay go on behind it; a slot left
without lanes is Free, and then its sibling's `join` completes or the stack pops into it. -/
def Part.LaneExit : Prop :=
  ∀ (s : State) (w : View) (e : Bool), s.Issues { len := 4, e := e, ends := true } View.inHandler noCheck w → w.Calm →
    w.g.sd ≤ 16 → w.g.sd ≠ 0 ∨ w.g.sc = 0 →
    (w.act = 0 → Passes (.exit e) s w 4) ∧
    (w.act ≠ 0 → ∃ g', Leaves (.exit e) s w g' (fun t => (t.retireLanes w.k w.act).endIfEmpty w.k 3) ∧ SameRegs w.g g' ∧
      g'.emask = w.g.emask &&& ~~~w.act ∧ g'.icnt = w.g.icnt + 1 ∧
      let rest := w.sl.mask &&& ~~~w.act
      let o := w.g.slot (sib w.n)
      if rest ≠ 0 then (g'.slot w.n).pc = w.sl.pc + 4 ∧ (g'.slot w.n).mask = rest ∧ (g'.slot w.n).st = .ready ∧ g'.slot (sib w.n) = o
      else if g'.emask = 0 then g'.slot w.n = Slot.free ∧ g'.slot (sib w.n) = o
      else match o.st with
        | .join => (g'.slot (sib w.n)).pc = o.pc + 4 ∧ (g'.slot (sib w.n)).mask = o.mask ∧ (g'.slot (sib w.n)).st = .ready ∧
            Popped (w.g.setSlot w.n Slot.free) g' w.n
        | .free => g'.slot (sib w.n) = o ∧ Popped (w.g.setSlot w.n Slot.free) g' w.n
        | _ => g'.slot w.n = Slot.free ∧ g'.slot (sib w.n) = o)

/-- R360, R362, R363, R398: `nop` only goes on; `yield` marks its slot; `endphase` joins its value into the launch's result;
`bar.blk` counts its group's arrival and waits at the barrier's phase, which changes when every live group has arrived. -/
def Part.NopYieldBarrier : Prop :=
  (∀ (s : State) (w : View) (e : Bool), s.Issues { len := 4, e := e } noCheck noCheck w → w.Calm → Passes (.nop e) s w 4) ∧
  (∀ (s : State) (w : View) (e : Bool), s.Issues { len := 4, e := e, ends := true } noCheck noCheck w → w.Calm →
    ∃ t g', exec (.yield e) s = .next t ∧ OnlyGroup s t w.k g' ∧ Advanced w 4 g' ∧ (g'.slot w.n).yielded = true ∧ SameFrame w.g g' ∧
      SameRegs w.g g') ∧
  (∀ (s : State) (w : View) (e : Bool) (x : Opnd),
    s.Issues { len := opLen [x], e := e, srcs := [x] } noCheck (fun w => !w.atMost .s x) w → w.Calm →
    if w.act = 0 then Passes (.endphase e x) s w (opLen [x])
    else PassesThen (.endphase e x) s w (opLen [x])
      (fun t => t.modLaunch w.b.launch (fun l => { l with result := l.result ||| w.sval x }))) ∧
  (∀ (s : State) (w : View) (e : Bool),
    s.Issues { len := 4, e := e, barrier := true, ends := true } View.inHandler noCheck w → w.Calm →
    ∃ g', Leaves (.barBlk e) s w g' (fun t => t.modBlock w.k.block Block.arrive) ∧ Stays w (.barBlk w.b.barPh) g' ∧
      SameFrame w.g g' ∧ SameRegs w.g g') ∧
  (∀ b : Block, b.arrive = if b.nlive ≤ b.barPend + 1 then { b with barPend := 0, barPh := !b.barPh }
    else { b with barPend := b.barPend + 1 })

/-- R290 to R292: `grd` opens a span of GCNT + 1 instructions whose guard is the predicate or its complement, read when the
first instruction of the span issues. -/
def Part.GuardSpan : Prop :=
  ∀ (s : State) (w : View) (gp : Pred) (neg : Bool) (gcnt : Fin 8),
    s.Issues { len := 4, e := false, guardOf := some gp } (fun w => w.sl.gleft != 0) noCheck w →
    ∃ t g', exec (.grd gp neg gcnt) s = .next t ∧ OnlyGroup s t w.k g' ∧ SameRegs w.g g' ∧
      g' = w.g.setSlot w.n { w.g.slot w.n with pc := (w.g.slot w.n).pc + 4, gleft := gcnt.val + 1, gmask := 0,
                                               gpend := some (gp, neg) } ∧
      (∀ v, { t with cur := w.k, curSlot := w.n }.view? = some v →
        v.act = w.sl.mask &&& (if neg then ~~~(w.g.predMask gp) else w.g.predMask gp))

/-- R364, R366, R443, R448: `trap` completes and enters trap 6 with its operand as TVAL, the entry held while the other slot's `tq.pop`
has a record (log 109); `brk` raises trap 7 at itself; `rte` in the
handler reloads both slots and leaves handler mode, and a check that fails is a double fault. -/
def Part.TrapsAndReturn : Prop :=
  (∀ (s : State) (w : View) (e : Bool) (x : Opnd),
    s.Issues { len := opLen [x], e := e, srcs := [x] } noCheck (fun w => !w.atMost .s x) w → w.Calm →
    (w.act = 0 → Passes (.trap e x) s w (opLen [x])) ∧
    (w.act ≠ 0 → let c : Cause := { code := 6, sub := 0, tval := w.sval x, slot := w.n }
      ∃ u g', OnlyGroup s u w.k g' ∧ Advanced w (opLen [x]) g' ∧ SameFrame w.g g' ∧ SameRegs w.g g' ∧
        exec (.trap e x) s = .next ((if s.entryHeld w.k w.b.asid c then u.holdEntry w.k c else u.raise w.k w.b.asid c).endRun w.g.core
          w.k w.n (u.causeEnd w.k w.b.asid c)))) ∧
  (∀ (s : State) (w : View) (e : Bool), s.Issues { len := 4, e := e } noCheck noCheck w →
    Raises (.brk e) s w { code := 7, sub := 0, tval := 0, slot := w.n }) ∧
  (∀ (s : State) (w : View) (e : Bool), s.Issues { len := 4, e := e, ends := true } (fun w => !w.g.hm) noCheck w → w.Calm →
    if w.g.rteOk then ∃ g', Leaves (.rte e) s w g' (fun t => t.seqReturn w) ∧ SameRegs w.g g' ∧ g'.hm = false ∧
      ((w.g.cause.extractLsb' 0 8).toNat ≠ 1 → (w.g.cause.extractLsb' 0 8).toNat ≠ 5 →
        g'.slot0 = w.g.save0.reload ∧ g'.slot1 = w.g.save1.reload)
    else Raises (.rte e) s w { code := 0, sub := 0, tval := 0, slot := w.n })

/-- R366: what a reloaded slot holds, and what the checks of `rte` ask of it. -/
def Part.ReloadedSlot : Prop :=
  (∀ x : SavedSlot, x.reload.pc = x.pc ∧ x.reload.mask = x.mask ∧ x.reload.gmask = x.gmask ∧ x.reload.gleft = x.gleft.toNat ∧
    (x.reload.st = .free ↔ x.st = 0) ∧ (x.reload.st = .ready ↔ x.st = 1 ∨ x.st = 2) ∧ (x.reload.st = .join ↔ x.st = 3)) ∧
  (∀ g : Group, g.rteOk = true → g.sd ≤ 16 ∧ g.save0.pc.getLsbD 0 = false ∧ g.save1.pc.getLsbD 0 = false ∧
    (g.save0.st = 0 → g.save0.mask = 0) ∧ (g.save1.st = 0 → g.save1.mask = 0) ∧
    (g.save0.st ≠ 0 → g.save1.st ≠ 0 → g.save0.mask &&& g.save1.mask = 0) ∧
    (g.save0.st ≠ 0 → g.save0.mask &&& ~~~g.emask = 0) ∧ (g.save1.st ≠ 0 → g.save1.mask &&& ~~~g.emask = 0))

/-! ## Single steps and traces -/

/-- The run record of a traced group, 32 bytes (R474). -/
def runRecord (tr : TraceRun) (why : Nat) (gid : Word) : List Byte :=
  [1, BitVec.ofNat 8 tr.slot, BitVec.ofNat 8 tr.count, BitVec.ofNat 8 why] ++ leBytes 4 gid.toNat ++ leBytes 8 tr.pc.toNat ++
    leBytes 4 tr.mask.toNat ++ [0, 0, 0, 0] ++ leBytes 8 tr.clk.toNat

/-- R465: with SSTEP = 1 outside handler mode an instruction is followed by the step trap, cause 3, whose saved PC is the slot's next
one: at once where the slot is Ready behind it, else at its next boundary, for which the trap is kept (log 18); an entry waits while
the other slot's pop has a record (log 109). -/
def Part.StepTraps : Prop :=
  (∀ (s : State) (w : View) (e : Bool), s.Issues { len := 4, e := e } noCheck noCheck w → w.g.sstep = true → w.g.hm = false →
    (∀ t ∈ w.s.traces, t.gk ≠ w.k) → let c : Cause := { code := 3, sub := 0, tval := 0, slot := w.n }
    ∃ u g', OnlyGroup s u w.k g' ∧ Advanced w 4 g' ∧ SameFrame w.g g' ∧ SameRegs w.g g' ∧
      exec (.nop e) s = .next ((if u.entryHeld w.k w.b.asid c then u.holdEntry w.k c else u.raise w.k w.b.asid c).endRun w.g.core w.k w.n
        (u.causeEnd w.k w.b.asid c))) ∧
  (∀ (s : State) (w : View) (e : Bool) (disp : BitVec 23), s.Issues { len := 4, e := e } noCheck noCheck w → w.g.sstep = true →
    w.g.hm = false → (∀ t ∈ w.s.traces, t.gk ≠ w.k) →
    ∃ t g', exec (.bra e disp) s = .next t ∧ OnlyGroup s t w.k g' ∧ Jumped w (w.sl.pc + 2 * disp.signExtend 64) g' ∧ SameRegs w.g g' ∧
      g'.deferred = w.g.deferred ++ [{ code := 3, sub := 0, tval := 0, slot := w.n }])

/-- R470, R474: an instruction of a traced group begins its run or is counted in it, and the end of a run writes the run record to the
trace buffer; a group that ends untraced while TEN = 1 writes its summary; a record that the buffer does not hold is counted in DROPS
and lost; the first candidate of a core on which no group is traced is traced. The clk that a step stands for is a free value
(log 4). -/
def Part.TraceRecords : Prop :=
  (∀ (s : State) (w : View) (e : Bool) (tr : TraceRun), s.Issues { len := 4, e := e } noCheck noCheck w → w.g.sstep = false →
    s.traces.find? (fun t => t.gk == w.k) = some tr →
    let run := if tr.count = 0 then { tr with slot := w.n, count := 1, pc := w.sl.pc, mask := w.sl.mask, clk := Config.deviceClk s.clk }
      else { tr with count := tr.count + 1 }
    ∃ t, exec (.nop e) s = .next t ∧
      (e = false → s.runCount w.g.core w.k w.n ≠ 23 →
        t.traces.find? (fun t => t.gk == w.k) = some run ∧ t.asids = s.asids ∧ SameBytes s t) ∧
      (e = true ∨ s.runCount w.g.core w.k w.n = 23 → let u := s.dbgAppend w.b.asid 0x88 (runRecord run (if e then 0 else 1) w.g.gid)
        t.traces.find? (fun t => t.gk == w.k) = some { run with count := 0 } ∧ t.asids = u.asids ∧ SameBytes u t)) ∧
  (∀ (s : State) (core slot why : Nat) (k : GroupKey) (b : Block) (g : Group) (tr : TraceRun), s.block? k.block = some b →
    s.group? k = some g → s.traces.find? (fun t => t.gk == k) = some tr → let t := s.endRun core k slot why
    (tr.count = 0 → t.asids = s.asids ∧ SameBytes s t) ∧
    (tr.count ≠ 0 → let u := s.dbgAppend b.asid 0x88 (runRecord tr why g.gid)
      t.traces.find? (fun t => t.gk == k) = some { tr with count := 0 } ∧ t.asids = u.asids ∧ SameBytes u t)) ∧
  (∀ (s : State) (k : GroupKey) (g : Group) (b : Block), s.block? k.block = some b →
    let ten := bitAt ((s.asidInfo b.asid).reg 0x80) 5
    (ten = true → (∀ t ∈ s.traces, t.gk ≠ k) → s.traceSummary k g = s.dbgAppend b.asid 0x88 ([2, 0, 0, 0] ++ leBytes 4 g.gid.toNat ++
      leBytes 4 (s.corrOfBlock b).toNat ++ leBytes 4 g.core ++ leBytes 8 g.icnt.toNat ++ leBytes 4 (Config.deviceClk g.born).toNat ++
      leBytes 4 (Config.deviceClk s.clk).toNat)) ∧
    (ten = false ∨ (∃ t ∈ s.traces, t.gk = k) → s.traceSummary k g = s)) ∧
  (∀ (s : State) (asid base : Nat) (bs : List Byte), base = 0x81 ∨ base = 0x88 → let a := s.asidInfo asid
    let log := a.reg (base + 2) % 32
    let buf := s.ringPlace (((s.ctx? asid).map (·.vfn)).getD 0) (a.reg base + a.reg (base + 1) * 2 ^ 32) 12 (2 ^ log)
    let used := (a.reg (base + 3) + 2 ^ 32 - a.reg (base + 4)) % 2 ^ 32
    let t := s.dbgAppend asid base bs
    (∀ l, buf = some l → 12 ≤ log → log ≤ 24 → used + bs.length ≤ 2 ^ log →
      t = (s.writeRing l log (a.reg (base + 3)) bs).putAsid (a.setReg (base + 3) ((a.reg (base + 3) + bs.length) % 2 ^ 32)) ∧
      (t.asidInfo asid).reg (base + 3) = (a.reg (base + 3) + bs.length) % 2 ^ 32) ∧
    (buf = none ∨ log < 12 ∨ 24 < log ∨ 2 ^ log < used + bs.length →
      (t.asidInfo asid).reg 0x98 = min (a.reg 0x98 + 1) 0xFFFFFFFF ∧ SameBytes s t ∧ (t.asidInfo asid).reg (base + 3) = a.reg (base + 3))) ∧
  (∀ (s : State) (b : Block) (g : Group), b.groups = [g] → g.ended = false → let a := s.asidInfo b.asid
    let cand := bitAt (a.reg 0x80) 5 = true ∧ (g.gid ^^^ BitVec.ofNat 32 (a.reg 0x90)) &&& BitVec.ofNat 32 (a.reg 0x91) = 0 ∧
      (bitAt (a.reg 0x92) 31 = true → (s.corrOfBlock b).toNat / 2 ^ 20 = a.reg 0x92 % 4096)
    (cand → (∀ t ∈ s.traces, t.core ≠ g.core) → s.enrol b = { s with traces := s.traces ++ [⟨g.core, ⟨b.serial, g.index⟩, 0, 0, 0, 0, 0⟩] }) ∧
    (¬ cand ∨ (∃ t ∈ s.traces, t.core = g.core) → s.enrol b = s))

/-! ## Status and debug registers, fences, waits -/

/-- The bits of a status register that a write sets (R368, R369): of GSTAT AFX, and SSTEP in handler mode only; 0 for a read-only or
unlisted number. -/
def statusMask (hm : Bool) (n : Nat) : Word :=
  if n = 0 then (if hm then 0x5 else 0x1)
  else if n = 4 ∨ n = 6 ∨ n = 8 ∨ n = 9 ∨ n = 0xB ∨ n = 0xD ∨ n = 0x11 ∨ n = 0x12 then 0xFFFFFFFF
  else if n = 5 ∨ n = 0xA then 0x3FFFFF
  else if n = 7 ∨ n = 0xC then 0x3B
  else if n = 0x10 then 0xFFFFFF1F
  else if 0x20 ≤ n ∧ n < 0x30 ∨ 0x40 ≤ n ∧ n < 0x50 then 0xFFFFFFFF
  else if 0x30 ≤ n ∧ n < 0x40 then 0x3FFFFF
  else 0

end Sys2Proof.Machine

open Sys2Proof Sys2Proof.Machine in
/-- R367 to R369: `rdsr` sends the register's value to an S or shadow register; `wrsr`, in either mode, writes the bits of the named
register that are writable in that mode and no other register of the group; BAR and SBARn are written in the block and make their
tests at once: a zero COUNT leaves the count, and PEND at COUNT or more ends the phase. -/
def Obligations.StatusRegisters : Prop :=
  (∀ (s : State) (w : View) (e : Bool) (d : Opnd) (n : BitVec 8),
    s.Issues { len := 4, e := e, dsts := [d] } (fun w => w.badStatus n.toNat) (fun _ => !isS d && d != .none) w → w.Calm →
    Sends (.rdsr e d n) s w 4 (.regs .rdsr ((regOf w.g.hm d).toList.map (fun r => ⟨r, 0, .s (w.statusReg n.toNat)⟩)))
      (regOf w.g.hm d).toList .var) ∧
  (∀ (s : State) (w : View) (e : Bool) (n : BitVec 8) (x : Opnd),
    s.Issues { len := opLen [x], e := e, srcs := [x] } (fun w => w.badStatus n.toNat) (fun w => !w.atMost .s x) w → w.Calm →
    ∃ g', Leaves (.wrsr e n x) s w g' (fun t => t.withBlockStatus w.k.block n.toNat (w.sval x)) ∧
      (g'.slot w.n).pc = w.sl.pc + BitVec.ofNat 64 (opLen [x]) ∧ SameRegs w.g g' ∧ g'.emask = w.g.emask ∧ g'.lfmask = w.g.lfmask ∧
      ∀ m, srListed m = true → ({ w with g := g' } : View).statusReg m =
        if m = 0x18 then g'.icnt.extractLsb' 32 32
        else if m = n.toNat then (w.statusReg m &&& ~~~(statusMask w.g.hm m)) ||| (w.sval x &&& statusMask w.g.hm m)
        else w.statusReg m) ∧
  (∀ (b : Block) (x : Word), b.withBar x = { b with barPend := (x.extractLsb' 0 6).toNat, barPh := x.getLsbD 8 }.barTest) ∧
  (∀ (y : StageBar) (x : Word), let c := if (x.extractLsb' 0 6).toNat = 0 then y.count else (x.extractLsb' 0 6).toNat
    y.withWord x = if c ≤ (x.extractLsb' 8 6).toNat then { count := c, pend := 0, ph := !x.getLsbD 16 }
      else { count := c, pend := (x.extractLsb' 8 6).toNat, ph := x.getLsbD 16 }) ∧
  (∀ (s : State) (serial : Nat) (x : Word), s.withBlockStatus serial 0x14 x = s.modBlock serial (fun b => b.withBar x)) ∧
  (∀ (s : State) (serial : Nat) (i : Fin 16) (x : Word), s.withBlockStatus serial (0x50 + i.val) x =
    (s.modBlock serial (fun b => { b with sbar := b.sbar.set i.val (b.sbar[i.val].withWord x) })).stageWake serial)

open Sys2Proof Sys2Proof.Machine in
/-- R370 to R372, R470: `dsrd` and `clk` send their values; `dswr` writes the writable bits of a debug register of the context,
and no other debug register (of number 0x80 a rate above 8 in bits 4:1 leaves the rate as it was); `clk` gives the group's count of retired instructions as a pair. -/
def Obligations.DebugRegistersAndClk : Prop :=
  (∀ (s : State) (w : View) (e : Bool) (d : Opnd) (n : BitVec 8),
    s.Issues { len := 4, e := e, dsts := [d] } (fun w => w.badDebug n.toNat) (fun _ => !isS d && d != .none) w → w.Calm →
    Sends (.dsrd e d n) s w 4 (.regs .dsrd ((regOf w.g.hm d).toList.map
      (fun r => ⟨r, 0, .s (BitVec.ofNat 32 ((s.asidInfo w.b.asid).reg n.toNat))⟩))) (regOf w.g.hm d).toList .var) ∧
  (∀ (s : State) (w : View) (e : Bool) (n : BitVec 8) (x : Opnd),
    s.Issues { len := opLen [x], e := e, srcs := [x] } (fun w => w.badDebug n.toNat) (fun w => !w.atMost .s x) w → w.Calm →
    PassesThen (.dswr e n x) s w (opLen [x]) (fun t => t.putAsid ((t.asidInfo w.b.asid).dbgWrite n.toNat (w.sval x)))) ∧
  (∀ (a : AsidInfo) (n m : Nat) (x : Word), n < 160 → n ≠ 0x80 →
    (a.dbgWrite n x).reg m = if m = n ∧ dbgWritable n = true then (x &&& BitVec.ofNat 32 (dbgMask n)).toNat else a.reg m) ∧
  (∀ (a : AsidInfo) (m : Nat) (x : Word), let v := (x &&& 0x3FFFF).toNat
    (a.dbgWrite 0x80 x).reg m = if m ≠ 0x80 then a.reg m
      else if 8 < bitsAt v 1 4 then v - 2 * bitsAt v 1 4 + 2 * bitsAt (a.reg 0x80) 1 4 else v) ∧
  (∀ (s : State) (w : View) (e : Bool) (n m : Fin 64) (r t : RegId), m.val = n.val + 1 → regOf w.g.hm (.s n) = some r →
    regOf w.g.hm (.s m) = some t →
    s.Issues { len := 4, e := e, dsts := opndRun (.s n) 2 } (fun _ => !opndRunOk (.s n) 2) noCheck w → w.Calm →
    Sends (.clk e (.s n)) s w 4 (.regs .clk [⟨r, 0, .s (w.g.icnt.extractLsb' 0 32)⟩, ⟨t, 0, .s (w.g.icnt.extractLsb' 32 32)⟩])
      [r, t] .var) ∧
  (∀ (s : State) (w : View) (e : Bool) (n m : Fin 128), m.val = n.val + 1 →
    s.Issues { len := 4, e := e, dsts := opndRun (.v n) 2 } (fun _ => !opndRunOk (.v n) 2) noCheck w → w.Calm →
    Sends (.clk e (.v n)) s w 4 (.regs .clk [⟨.v n, w.act, .v (Vector.ofFn (fun _ => w.g.icnt.extractLsb' 0 32))⟩,
      ⟨.v m, w.act, .v (Vector.ofFn (fun _ => w.g.icnt.extractLsb' 32 32))⟩]) [.v n, .v m] .var) ∧
  (∀ (s : State) (w : View) (e : Bool),
    s.Issues { len := 4, e := e, dsts := opndRun .none 2 } (fun _ => !opndRunOk .none 2) noCheck w → w.Calm →
    Sends (.clk e .none) s w 4 (.regs .clk []) [] .var)

namespace Sys2Proof.Machine

/-- The five fences with their scopes. -/
def fences : List ((Bool → Instr) × Scope) :=
  [(.fenceCore, .core), (.fenceClu, .clu), (.fenceDie, .die), (.fencePair, .pair), (.fenceSys, .sys)]

end Sys2Proof.Machine

open Sys2Proof Sys2Proof.Machine in
/-- R119, R386: a fence whose conditions hold completes at issue and, beyond core scope, empties the core's L1; otherwise its
slot waits until FENCE_COMPLETE. `wait` passes when the four counts are at most its fields, and waits otherwise. -/
def Obligations.FencesAndWait : Prop :=
  (∀ (s : State) (w : View) (e : Bool), ∀ c ∈ fences, s.Issues { len := 4, e := e } noCheck noCheck w → w.Calm →
    if s.fenceHolds w.k c.2 s.ops = true ∧ ¬(c.2 = .sys ∧ s.regs.l2cfg.mode = true) then
      PassesThen (c.1 e) s w 4 (fun t => if c.2 = .core then t else t.l1Drop (fun l => l.core == w.g.core))
    else ∃ t g', exec (c.1 e) s = .next t ∧ OnlyGroupOp s t w.k g' w.n (.fence c.2) ∧ Stays w (.fence s.ids) g' ∧ SameFrame w.g g' ∧
      SameRegs w.g g') ∧
  (∀ (s : State) (o : Op) (sc : Scope), s.op? o.id = some o → o.body = .fence sc → s.released o sc = true →
    sc ≠ .sys ∨ s.regs.l2cfg.mode = false → ∀ b g, s.block? o.gk.block = some b → b.st = .resident → s.group? o.gk = some g →
    (g.slot o.slot).st = .wait → (g.slot o.slot).wait = some (.fence o.id) → o.slot < 2 →
    ∃ t g', exec (.fenceComplete o.id) s = .next t ∧ t.op? o.id = none ∧ t.group? o.gk = some g' ∧ SameRegs g g' ∧
      (g'.slot o.slot).st = .ready ∧ (g'.slot o.slot).pc = (g.slot o.slot).pc + 4 ∧ SameBytes s t ∧
      (sc ≠ .core → ∀ l ∈ t.mem.l1, l.core ≠ g.core)) ∧
  (∀ (s : State) (w : View) (e : Bool) (l st c t : BitVec 6), s.Issues { len := 4, e := e, ends := true } noCheck noCheck w → w.Calm →
    if w.g.ldCnt ≤ l.toNat ∧ w.g.stCnt ≤ st.toNat ∧ w.g.cpCnt ≤ c.toNat ∧ w.g.tlCnt ≤ t.toNat then
      PassesThen (.wait e l st c t) s w 4 (fun u => u.l1Drop (fun x => x.core == w.g.core))
    else Waits (.wait e l st c t) s w (.counts l.toNat st.toNat c.toNat t.toNat))

namespace Sys2Proof.Machine

/-! ## Memory accesses as a core issues them -/

/-- What an access of memory does at issue (R14, R29, R38, R467, R480): a misaligned lane raises 0x1C with its address; a page
that no TLB maps makes the slot wait for a walk; a claim in conflict raises 0x1B, one whose ownership words are owned by an engine or
held by the peer stalls the run, and one whose words are lost or poisoned faults; else the access is sent, with a raised count
and its registers pending, and a watchpoint that matches traps behind it, its entry held while the other slot's `tq.pop` has a record
(R448; log 109). -/
def Accesses (i : Instr) (s : State) (w : View) (len bytes bit : Nat) (u : Use) (as : List (Nat × DWord)) (up : Group → Group)
    (rs : List RegId) (body : List LaneAcc → OpBody) : Prop :=
  (∀ a, as.find? (fun x => x.2.toNat % bytes ≠ 0) = some a →
    Raises i s w { code := 0x1C, sub := 0, tval := a.2.setWidth 32, slot := w.n }) ∧
  ((∀ x ∈ as, x.2.toNat % bytes = 0) →
    (∀ va, w.xlateAll u as = .inl (.walk va) → exec i s = .next ((s.askWalk w va).endRun w.g.core w.k w.n 4)) ∧
    (∀ f va acc ls, w.xlateAll u as = .inl (.fault f va acc ls) → exec i s = .next (s.coreFault w f va acc ls)) ∧
    (∀ accs, w.xlateAll u as = .inr accs →
      let stop := s.claimStop w.c (w.c.ownLines (accs.map (·.va.toNat)))
      (∀ ls, stop = some (.wait ls) → exec i s = .next ((s.askPeerFor true ls).holdRun w)) ∧
      (∀ f, stop = some (.fault f) →
        exec i s = .next (s.coreFault w f (((accs.head?).map (·.va)).getD 0) u.acc (laneMask (accs.map (·.lane))))) ∧
      (stop = none → w.claims s accs = none → Raises i s w { code := 0x1B, sub := 0, tval := 0, slot := w.n }) ∧
      (stop = none → w.claims s accs ≠ none → w.watch bit bytes accs = none →
        ∃ g', Leaves i s w g' (fun t => ((w.claims t accs).getD t).addOp w.k w.n (body accs)) ∧ Advanced w len g' ∧
          g' = { up w.g with pend := g'.pend, slot0 := g'.slot0, slot1 := g'.slot1, icnt := g'.icnt } ∧
          ∀ r ∈ rs, ∃ p ∈ g'.pend, p.reg = r ∧ p.kind = .var ∧ p.op = s.ids) ∧
      (stop = none → w.claims s accs ≠ none → ∀ c, w.watch bit bytes accs = some c →
        ∃ u t g', OnlyGroup s u w.k g' ∧ Advanced w len g' ∧ SameButRuns (((w.claims u accs).getD u).addOp w.k w.n (body accs)) t ∧
          exec i s = .next ((if s.entryHeld w.k w.b.asid c then t.holdEntry w.k c else t.raise w.k w.b.asid c).endRun w.g.core w.k w.n
            (t.causeEnd w.k w.b.asid c)))))

end Sys2Proof.Machine

open Sys2Proof Sys2Proof.Machine in
/-- R375 to R380, R382 to R385: `ld`, `st` and `atom` with active lanes and room in their counts go through the checks of an
access; without an active lane they only go on, and at a count of 63 they wait. -/
def Obligations.MemoryAccesses : Prop :=
  (∀ (s : State) (w : View) (e : Bool) (d x : Opnd) (m : MemFields),
    s.Issues { len := opLen [x] + (if m.off.isSome then 4 else 0), e := e, srcs := addrSrcs x, dsts := opndRun d (widthRegs m.wid),
               access := true }
      (fun _ => badAddr true x || !opndRunOk d (widthRegs m.wid) || m.wid == .rsvd || (x.isLit && m.off.isSome))
      (fun w => !w.clsRule d [x] false) w → w.Calm →
    let len := opLen [x] + (if m.off.isSome then 4 else 0)
    (w.act = 0 → Passes (.ld e d x m) s w len) ∧ (w.act ≠ 0 → 63 ≤ w.g.ldCnt → exec (.ld e d x m) s = .next (s.cutRun w (.count 0))) ∧
    (w.act ≠ 0 → w.g.ldCnt < 63 → Accesses (.ld e d x m) s w len (widthBytes m.wid) 0 ⟨.load, w.g.hm, false⟩
      (w.addrs x (m.off.getD 0)) (fun g => { g with ldCnt := g.ldCnt + 1 }) ((opndRun d (widthRegs m.wid)).filterMap (regOf w.g.hm))
      (fun accs => .load accs m.wid d m.cache m.ord (isBroadcast x) false))) ∧
  (∀ (s : State) (w : View) (e : Bool) (d x : Opnd) (m : MemFields),
    s.Issues { len := opLen [x] + (if m.off.isSome then 4 else 0), e := e, srcs := addrSrcs x ++ storeSrcs d m.wid, access := true }
      (fun _ => badAddr true x || badStoreData d m.wid || m.wid == .rsvd || m.wid == .s8 || m.wid == .s16 || (x.isLit && m.off.isSome))
      (fun _ => wideA d m.wid) w → w.Calm →
    let len := opLen [x] + (if m.off.isSome then 4 else 0)
    (w.act = 0 → Passes (.st e d x m) s w len) ∧ (w.act ≠ 0 → 63 ≤ w.g.stCnt → exec (.st e d x m) s = .next (s.cutRun w (.count 1))) ∧
    (w.act ≠ 0 → w.g.stCnt < 63 → Accesses (.st e d x m) s w len (widthBytes m.wid) 1 ⟨.store, w.g.hm, false⟩
      (w.addrs x (m.off.getD 0)) (fun g => { g with stCnt := g.stCnt + 1 }) []
      (fun accs => .store (w.storeBytes d m.wid accs) m.cache m.ord none false))) ∧
  (∀ (s : State) (w : View) (e : Bool) (d x : Opnd) (f : AtomFields),
    s.Issues { len := opLen [x], e := e, srcs := addrSrcs x ++ atomSrcs d f.op, dsts := atomDsts d f, access := true }
      (fun _ => badAddr true x || badAtomData d f.op) (fun _ => atomCls d f) w → w.Calm →
    (w.act = 0 → Passes (.atom e d x f) s w (opLen [x])) ∧
    (w.act ≠ 0 → w.atomFull f = true → exec (.atom e d x f) s = .next (s.cutRun w (.count (if f.ret then 0 else 1)))) ∧
    (w.act ≠ 0 → w.atomFull f = false → Accesses (.atom e d x f) s w (opLen [x]) (atomBytes f.op) 2
      ⟨.atomic, w.g.hm, atomOnHost f.op⟩ (w.addrs x 0)
      (fun g => if f.ret then { g with ldCnt := g.ldCnt + 1 } else { g with stCnt := g.stCnt + 1 })
      ((atomDsts d f).filterMap (regOf w.g.hm))
      (fun accs => .atomic (accs.filterMap (fun a => if h : a.lane < 32 then
        some { lane := a.lane, loc := a.loc, d := (w.atomData d f.op ⟨a.lane, h⟩).1, n := (w.atomData d f.op ⟨a.lane, h⟩).2 } else none))
        f.op f.ret f.scope d none false)))

namespace Sys2Proof.Machine

/-- What a local access does at issue (R33, R112, R380): with every lane in range and aligned it is sent; a lane out of the
block's allocation is switched off for the rest of the block, the others are sent, and with none left nothing is sent and no count
rises; a misaligned lane in range raises 0x1C, after the lanes out of range are off (log 20). -/
def LocalAccesses (i : Instr) (s : State) (w : View) (len bytes : Nat) (as : List (Nat × Nat)) (up : Group → Group)
    (rs : List RegId) (body : List (Nat × Nat) → OpBody) : Prop :=
  ((∀ a ∈ as, a.2 + bytes ≤ w.b.alloc ∧ a.2 % bytes = 0) →
    ∃ t g', exec i s = .next t ∧ OnlyGroupOp s t w.k g' w.n (body as) ∧ Advanced w len g' ∧
      g' = { up w.g with pend := g'.pend, slot0 := g'.slot0, slot1 := g'.slot1, icnt := g'.icnt } ∧
      ∀ r ∈ rs, ∃ p ∈ g'.pend, p.reg = r ∧ p.kind = .var ∧ p.op = s.ids) ∧
  (∀ a, (∀ x ∈ as, x.2 + bytes ≤ w.b.alloc) → as.find? (fun x => x.2 % bytes ≠ 0) = some a →
    Raises i s w { code := 0x1C, sub := 0, tval := BitVec.ofNat 32 a.2, slot := w.n }) ∧
  (let off := laneMask ((as.filter (fun a => w.b.alloc < a.2 + bytes)).map (·.1))
   let rest := as.filter (fun a => a.2 + bytes ≤ w.b.alloc)
   off ≠ 0 → rest ≠ [] → (∀ a ∈ rest, a.2 % bytes = 0) → w.sl.mask &&& ~~~off ≠ 0 →
    ∃ g', Leaves i s w g' (fun t => (t.addOp w.k w.n (body rest)).retireLanes w.k off) ∧
      g'.emask = w.g.emask &&& ~~~off ∧ g'.lfmask = w.g.lfmask ||| off ∧ (g'.slot w.n).mask = w.sl.mask &&& ~~~off ∧
      (g'.slot w.n).pc = w.sl.pc + BitVec.ofNat 64 len ∧ SameRegs w.g g' ∧ g'.ldCnt = (up w.g).ldCnt ∧ g'.stCnt = (up w.g).stCnt ∧
      g'.cpCnt = w.g.cpCnt ∧ g'.tlCnt = w.g.tlCnt ∧ ∀ r ∈ rs, ∃ p ∈ g'.pend, p.reg = r ∧ p.kind = .var ∧ p.op = s.ids) ∧
  (let off := laneMask (as.map (·.1))
   off ≠ 0 → (∀ a ∈ as, w.b.alloc < a.2 + bytes) → w.sl.mask &&& ~~~off ≠ 0 →
    ∃ g', Leaves i s w g' (fun t => (t.retireLanes w.k off).endIfEmpty w.k 4) ∧
      g'.emask = w.g.emask &&& ~~~off ∧ g'.lfmask = w.g.lfmask ||| off ∧ (g'.slot w.n).mask = w.sl.mask &&& ~~~off ∧
      (g'.slot w.n).pc = w.sl.pc + BitVec.ofNat 64 len ∧ SameRegs w.g g' ∧ g'.ldCnt = w.g.ldCnt ∧ g'.stCnt = w.g.stCnt ∧
      g'.cpCnt = w.g.cpCnt ∧ g'.tlCnt = w.g.tlCnt ∧ g'.pend = w.g.pend) ∧
  (let off := laneMask ((as.filter (fun a => w.b.alloc < a.2 + bytes)).map (·.1))
   let rest := as.filter (fun a => a.2 + bytes ≤ w.b.alloc)
   off ≠ 0 → ∀ a, rest.find? (fun x => x.2 % bytes ≠ 0) = some a →
    exec i s = .next (((s.putGroup w.k (w.g.switchOff w.n off w.sl).1).retireLanes w.k off).raiseAt w
      { code := 0x1C, sub := 0, tval := BitVec.ofNat 32 a.2, slot := w.n }))

end Sys2Proof.Machine

open Sys2Proof Sys2Proof.Machine in
/-- R33, R375 to R380, R382 to R385: `ldl`, `stl` and `atoml` go through the checks of a local access. -/
def Obligations.LocalStoreAccesses : Prop :=
  (∀ (s : State) (w : View) (e : Bool) (d x : Opnd) (m : MemFields),
    s.Issues (formLdl e d x m) (fun _ => badAddr false x || !opndRunOk d (widthRegs m.wid) || m.wid == .rsvd || m.cache != .normal ||
      (x.isLit && m.off.isSome)) (fun w => !w.clsRule d [x] false) w → w.Calm →
    (w.act = 0 → Passes (.ldl e d x m) s w (formLdl e d x m).len) ∧
    (w.act ≠ 0 → 63 ≤ w.g.ldCnt → exec (.ldl e d x m) s = .next (s.cutRun w (.count 0))) ∧
    (w.act ≠ 0 → w.g.ldCnt < 63 → LocalAccesses (.ldl e d x m) s w (formLdl e d x m).len (widthBytes m.wid)
      (w.localAddrs x (m.off.getD 0)) (fun g => { g with ldCnt := g.ldCnt + 1 })
      ((opndRun d (widthRegs m.wid)).filterMap (regOf w.g.hm)) (fun as => .ldl as m.wid d m.ord (isBroadcast x) false))) ∧
  (∀ (s : State) (w : View) (e : Bool) (d x : Opnd) (m : MemFields),
    s.Issues (formStl e d x m) (fun _ => badAddr false x || badStoreData d m.wid || m.wid == .rsvd || m.wid == .s8 || m.wid == .s16 ||
      m.cache != .normal || (x.isLit && m.off.isSome)) (fun _ => wideA d m.wid) w → w.Calm →
    (w.act = 0 → Passes (.stl e d x m) s w (formStl e d x m).len) ∧
    (w.act ≠ 0 → 63 ≤ w.g.stCnt → exec (.stl e d x m) s = .next (s.cutRun w (.count 1))) ∧
    (w.act ≠ 0 → w.g.stCnt < 63 → LocalAccesses (.stl e d x m) s w (formStl e d x m).len (widthBytes m.wid)
      (w.localAddrs x (m.off.getD 0)) (fun g => { g with stCnt := g.stCnt + 1 }) []
      (fun as => .stl (w.stlBytes d m.wid as) m.ord false))) ∧
  (∀ (s : State) (w : View) (e : Bool) (d x : Opnd) (f : AtomFields),
    s.Issues (formAtoml e d x f) (fun _ => badAddr false x || badAtomData d f.op) (fun _ => atomCls d f) w → w.Calm →
    (w.act = 0 → Passes (.atoml e d x f) s w (opLen [x])) ∧
    (w.act ≠ 0 → w.atomFull f = true → exec (.atoml e d x f) s = .next (s.cutRun w (.count (if f.ret then 0 else 1)))) ∧
    (w.act ≠ 0 → w.atomFull f = false → LocalAccesses (.atoml e d x f) s w (opLen [x]) (atomBytes f.op) (w.localAddrs x 0)
      (fun g => if f.ret then { g with ldCnt := g.ldCnt + 1 } else { g with stCnt := g.stCnt + 1 })
      ((atomDsts d f).filterMap (regOf w.g.hm))
      (fun as => .atoml (as.filterMap (fun a => if h : a.1 < 32 then some (a.1, a.2, w.atomData d f.op ⟨a.1, h⟩) else none))
        f.op f.ret f.scope d false)))

namespace Sys2Proof.Machine

/-! ## Work of groups is performed -/

end Sys2Proof.Machine

open Sys2Proof Sys2Proof.Machine in
/-- R198, R352, R367, R370, R372, R402, R406: the result of a variable-latency instruction reaches its registers, which are
pending no more; that of `rng` also lowers the load count. No byte of memory changes. -/
def Obligations.VariableLatencyResults : Prop :=
  ∀ (s : State) (o : Op) (b : Block) (g : Group) (k : VarKind) (ws : List RegWrite), s.Holds o b g → o.body = .regs k ws →
    match k with
    | .spawn => ∃ t, exec (.spawnHandleWrite o.id) s = .next t ∧ Landed s t o g ws id ∧ SameBytes s t
    | .rng => ∃ t, exec (.rngResult o.id) s = .next t ∧ Landed s t o g ws (fun g => { g with ldCnt := g.ldCnt - 1 }) ∧ SameBytes s t
    | _ => ∃ t, exec (.varLatencyWrite o.id) s = .next t ∧ Landed s t o g ws id ∧ SameBytes s t

namespace Sys2Proof.Machine

/-- R64, R111, R117, R125, R126, R385, R524: the oldest store of a group leaves its FIFO once what it must follow is done; at its point of
performance its bytes are written in lane order and the store count falls (a store of system scope first has the partition's earlier
stores written back, in mode 1: R64, R117); at a line that a copy or a replay owns it waits, and
OWNED_ACCESS_PROCEED performs it later. -/
def Part.StoresPerformed : Prop :=
  (∀ (s : State) (k : GroupKey) (o : Op) (bs : List (Loc × Byte)) (c : CachePol) (ord : Order) (pk : Bool),
    s.ops.find? (fun x => x.gk == k && (match x.body with
      | .store _ _ _ none _ => true
      | _ => false)) = some o → o.body = .store bs c ord none pk → s.mayLeave o = true →
    ∃ t, exec (.storeFifoLeave k) s = .next t ∧ (∃ o', t.op? o.id = some o' ∧ ∃ n, (s.op? o.id).map (fun x => { x with body := o'.body }) = some o' ∧
      o'.body = .store bs c ord (some n) pk) ∧ t.blocks = s.blocks ∧ SameBytes s t) ∧
  (∀ (s : State) (o : Op) (b : Block) (g : Group) (bs : List (Loc × Byte)) (c : CachePol) (ord : Order) (n : Nat) (pk : Bool),
    s.Holds o b g → o.body = .store bs c ord (some n) pk →
    let ls := linesOfLocs (bs.map (·.1))
    let a := s.agentFor o.gk (ord == .sys)
    let i : Instr := if pk then .ownedAccessProceed o.id else .storePerformed o.id
    s.earlierLeft g.core o.id n ls = false → s.hostInOrder o ls = true → (ord ≠ .plain → s.released o .die = true) →
    (s.statusOf a true ls = .ok → ∃ t, exec i s = .next t ∧
      Landed s t o g [] (fun g => { g with stCnt := g.stCnt - 1 }) ∧ SameBytes ((s.sysRelease a).writeAt a bs (allocOf c)) t) ∧
    (s.statusOf a true ls = .owned → pk = false → ∃ t, exec i s = .next t ∧ SameBytes s t ∧ t.blocks = s.blocks ∧
      t.op? o.id = some { o with body := .store bs c ord (some n) true }))

/-- R106, in shared mode: bytes of one device line written where no line is displaced, or bytes written to
host memory, are what every agent then reads at their places, the last of the list winning; every other byte of every memory reads
as before. -/
def Part.WritesReachEveryReader : Prop :=
  (∀ (s : State) (a b : Agent) (bs : List (Loc × Byte)) (al : L2Alloc) (ln : Nat) (l : Loc), s.regs.l2cfg.mode = false →
    (∀ x ∈ bs, x.1.kind = .device ∧ lineOf x.1.pa = ln) →
    s.persistOver (sliceShared (128 * ln)) ln = none →
    (s.mem.l2Find (sliceShared (128 * ln)) .device ln).isSome = true ∨
      (s.l2Room (sliceShared (128 * ln)) ln (s.l2Kind al)).bind (·.2) = none →
    (s.writeAt a bs al).byteAt b l = (storedByte bs l).getD (s.byteAt b l)) ∧
  (∀ (s : State) (a b : Agent) (bs : List (Loc × Byte)) (al : L2Alloc) (l : Loc), s.host.wf = true → (∀ x ∈ bs, x.1.kind = .hostCoh) →
    (s.writeAt a bs al).byteAt b l =
      if l.kind.isHost then (storedByte bs { l with kind := .hostCoh }).getD (s.byteAt b l) else s.byteAt b l)

/-- R64, R111, R116, R126, R378, R385: a load's data returns when the loads and atomics of its group before it are done and its lines
are free, an acquire load's once no earlier store of its core to those lines is left over: its run takes what the lanes read, own
stores included (at system scope in mode 1, what memory holds after the slice has written the lines back), and the load count
falls. -/
def Part.LoadsReturn : Prop :=
  ∀ (s : State) (o : Op) (b : Block) (g : Group) (accs : List LaneAcc) (wid : Width) (d : Opnd) (c : CachePol) (ord : Order)
    (bc pk : Bool), s.Holds o b g → o.body = .load accs wid d c ord bc pk →
    let a := s.agentFor o.gk (ord == .sys)
    let miss := s.missLocs o accs (widthBytes wid) c ord
    let i : Instr := if pk then .ownedAccessProceed o.id else .loadResultReturn o.id
    let s1 := s.beforeSys a (linesOf ((miss.filter (fun l => l.kind == .device)).map (·.pa)))
    (∀ x ∈ s.before o, x.body.holdsMemory = false) → (ord ≠ .plain → s.acquireClear o (linesOfLocs miss) = true) →
    (s.statusOf a false miss = .ok → (∀ l ∈ miss, s1.poisonIn a l (widthBytes wid) = false) →
      ∃ t, exec i s = .next t ∧ Landed s t o g (g.runFor o d (widthRegs wid) (accs.map (fun x => (x.lane, loadWords wid
        ((upFrom 0 (widthBytes wid)).map (fun k => s1.loadByte o a c ord (x.loc.add k))))))) (fun g => { g with ldCnt := g.ldCnt - 1 })) ∧
    (s.statusOf a false miss = .owned → pk = false → ∃ t, exec i s = .next t ∧ SameBytes s t ∧ t.blocks = s.blocks ∧
      t.op? o.id = some { o with body := .load accs wid d c ord bc true }) ∧
    (∀ l, s.fifoByte o l = none → s.leftByte g.core l = none → usesL1 l c ord = false → s.loadByte o a c ord l = s.byteAt a l)

/-- R383: what the atomic operations leave at their place from the old value, the data and the new value. -/
def Part.AtomicOperations : Prop :=
  ∀ old d n : DWord, let lo := old.extractLsb' 0 32; let dl := d.extractLsb' 0 32
    atomNew .add old d n = (lo + dl).setWidth 64 ∧ atomNew .add64 old d n = old + d ∧
    atomNew .mins old d n = (if dl.toInt < lo.toInt then dl else lo).setWidth 64 ∧
    atomNew .maxs old d n = (if lo.toInt < dl.toInt then dl else lo).setWidth 64 ∧
    atomNew .minu old d n = (if dl.toNat < lo.toNat then dl else lo).setWidth 64 ∧
    atomNew .maxu old d n = (if lo.toNat < dl.toNat then dl else lo).setWidth 64 ∧
    atomNew .and old d n = (lo &&& dl).setWidth 64 ∧ atomNew .or old d n = (lo ||| dl).setWidth 64 ∧
    atomNew .xor old d n = (lo ^^^ dl).setWidth 64 ∧ atomNew .swap old d n = dl.setWidth 64 ∧ atomNew .swap64 old d n = d ∧
    (atomNew .cas old d n).extractLsb' 0 32 = (if lo = dl then n.extractLsb' 0 32 else lo) ∧
    atomNew .cas64 old d n = (if old = d then n else old) ∧ atomNew .fadd old d n = (fAdd lo dl).setWidth 64

/-- R16, R56, R64, R121, R122, R384, R385: an atomic whose order and lines allow it is performed lane by lane, brings the old values
where it returns, and lowers its count; on host memory it acts at system scope, and in mode 1 an atomic of system scope finds the
partition's earlier stores written back. -/
def Part.AtomicsPerformed : Prop :=
  ∀ (s : State) (o : Op) (b : Block) (g : Group) (ls : List LaneAtom) (op : AtomOp) (ret : Bool) (sc : Scope) (d : Opnd)
    (lf : Option Nat) (pk : Bool), s.Holds o b g → o.body = .atomic ls op ret sc d lf pk →
    let lines := linesOfLocs (ls.map (·.loc))
    let a := s.agentFor o.gk (sc == .sys)
    let i : Instr := if pk then .ownedAccessProceed o.id else .atomicPerformed o.id
    let scope : Scope := if ∃ x ∈ ls, x.loc.kind.isHost = true then .sys else sc
    let s1 := s.beforeSys a (linesOf ((ls.filter (fun x => x.loc.kind == .device)).map (·.loc.pa)))
    let s2 := s1.sysRelease (s1.agentFor o.gk (scope == .sys))
    (∀ x ∈ s.before o, x.body.holdsMemory = false) → s.released o scope = true → s.earlierLeft g.core o.id s.ids lines = false →
    s.hostInOrder o lines = true →
    (s.statusOf a true lines = .ok → (∀ x ∈ ls, s1.poisonIn a x.loc (atomBytes op) = false) →
      ∃ t p, exec i s = .next t ∧ SameBytes ((s2.l1Drop p).atomLanes a op ls).1 t ∧
        Landed s t o g (if ret then g.runFor o d (if atomWide op then 2 else 1) ((s2.l1Drop p).atomLanes a op ls).2 else [])
          (fun g => if ret then { g with ldCnt := g.ldCnt - 1 } else { g with stCnt := g.stCnt - 1 })) ∧
    (s.statusOf a true lines = .owned → pk = false → ∃ t, exec i s = .next t ∧ SameBytes s t ∧ t.blocks = s.blocks ∧
      t.op? o.id = some { o with body := .atomic ls op ret sc d lf true })

end Sys2Proof.Machine

open Sys2Proof Sys2Proof.Machine in
/-- R67, R68, R112, R117, R378, R384: a local access is performed in program order unless a copy has locked a line of it: a load brings
its bytes, a store changes exactly its bytes, an atomic does both; no byte outside the block's local store changes, not of any memory
and not of the local store of another block. A release at system scope in mode 1 first has the partition's earlier stores written
back, as every release does (R64, log 106). -/
def Obligations.LocalAccessesPerformed : Prop :=
  ∀ (s : State) (o : Op) (b : Block) (g : Group), s.Holds o b g → b.loc.wf = true → o.body.localAddrs ≠ [] →
    (∀ x ∈ s.before o, x.body.holdsLocal = false) → (∀ sc, o.body.localRelease = some sc → s.released o sc = true) →
    let i : Instr := if o.body.isParked then .ownedAccessProceed o.id else .localAccessPerformed o.id
    if ∃ a ∈ o.body.localAddrs, lineOf a ∈ b.locks then
      o.body.isParked = false → ∃ t, exec i s = .next t ∧ SameBytes s t ∧ t.blocks = s.blocks ∧ t.op? o.id = some { o with body := o.body.park }
    else ∃ t, exec i s = .next t ∧ SameBytes (s.sysRelease (s.agentFor o.gk (o.body.localRelease == some .sys))) t ∧
      (∀ n c, n ≠ o.gk.block → s.block? n = some c → c.st ≠ .ended → (t.block? n).map (·.loc) = some c.loc) ∧
      match o.body with
      | .ldl accs wid d _ _ _ => Landed s t o g (g.runFor o d (widthRegs wid)
          (accs.map (fun x => (x.1, loadWords wid (b.loc.read x.2 (widthBytes wid)))))) (fun g => { g with ldCnt := g.ldCnt - 1 }) ∧
          (t.block? o.gk.block).map (·.loc) = some b.loc
      | .stl bs _ _ => Landed s t o g [] (fun g => { g with stCnt := g.stCnt - 1 }) ∧
          ∃ c, t.block? o.gk.block = some c ∧
            ∀ a, c.loc.get a = ((bs.reverse.find? (fun x => x.1 == a)).map (·.2)).getD (b.loc.get a)
      | .atoml ls op ret _ d _ => Landed s t o g
          (if ret then g.runFor o d (if atomWide op then 2 else 1) (atomLocal b.loc op ls).2 else [])
          (fun g => if ret then { g with ldCnt := g.ldCnt - 1 } else { g with stCnt := g.stCnt - 1 }) ∧
          (t.block? o.gk.block).map (·.loc) = some (atomLocal b.loc op ls).1
      | _ => False

namespace Sys2Proof.Machine

/-- R197, R198: a slot at a branch target becomes Ready after the refill, and the oldest fixed-latency write of a group arrives. -/
def Part.RefillsAndFixedWrites : Prop :=
  (∀ (s : State) (k : GroupKey) (g : Group) (n : Fin 2), s.group? k = some g → (g.slot n).st = .wait → (g.slot n).wait = some .refill →
    ∃ t g', exec (.branchRefillDone k n) s = .next t ∧ OnlyGroup s t k g' ∧
      g' = g.setSlot n { g.slot n with st := .ready, wait := none, latch := none }) ∧
  (∀ (s : State) (k : GroupKey) (g : Group) (p : Pending), s.group? k = some g → g.pend.find? (fun p => p.kind == .fixed) = some p →
    ∃ t, exec (.fixedLatencyWrite k) s = .next t ∧ OnlyGroup s t k { g with pend := g.pend.erase p })

/-- R134, R263, R264, R363: when the phase of the block barrier is over and the arrivals' accesses are performed, every slot that
waits for it goes on behind its `bar.blk`; an arrival on a stage barrier becomes visible when what its group did before is
performed, and completes the phase when the count is reached. -/
def Part.BarriersRelease : Prop :=
  (∀ (s : State) (n : Nat) (b : Block) (i : Nat) (g : Group) (m : Fin 2), s.block? n = some b → b.st = .resident →
    b.groups[i]? = some g → (∃ ph, (g.slot m).wait = some (.barBlk ph) ∧ ph ≠ b.barPh) → (g.slot m).st = .wait →
    (∀ o ∈ s.ops, o.gk.block = n → o.body.holdsFence .clu = false) → (∀ c ∈ s.cmds, c.gk.block = n → c.accepted = true) →
    (∀ h ∈ b.groups, s.observedDone ⟨n, h.index⟩ h.seen = true) →
    ∃ t g', exec (.barBlkRelease n) s = .next t ∧ t.group? ⟨n, i⟩ = some g' ∧ SameRegs g g' ∧ SameBytes s t ∧
      (g'.slot m).st = .ready ∧ (g'.slot m).pc = (g.slot m).pc + 4 ∧ (g'.slot m).mask = (g.slot m).mask ∧
      ∀ l ∈ t.mem.l1, l.core ≠ g.core) ∧
  (∀ (s : State) (o : Op) (b : Block) (blk : Nat) (n : Fin 16), s.op? o.id = some o → o.body = .stageArr blk n → s.block? blk = some b →
    b.st = .resident → s.released o .clu = true → (∀ x ∈ s.before o, x.body.writesRegs = false) →
    ∃ t b', exec (.stageArrivalVisible o.id) s = .next t ∧ t.op? o.id = none ∧ t.block? blk = some b' ∧ SameBytes s t ∧
      (∀ m : Fin 16, b'.sbar[m] = if m = n then (b.sbar[n]).arrive else b.sbar[m]) ∧
      (b.sbar[n]).arrive = if (b.sbar[n]).count ≤ (b.sbar[n]).pend + 1
        then { (b.sbar[n]) with pend := 0, ph := !(b.sbar[n]).ph } else { (b.sbar[n]) with pend := (b.sbar[n]).pend + 1 }) 

/-- R34, R35, R37, R273: a page walk that is under way (among the 32 of its partition, and joined to no other) and finds a mapping
leaves an answer without a cause, one that fails leaves its first failing check, and the slot that waits issues again; the mapping
then stands in the TLB of the partition and in the core's. A code-cache line comes with the bytes of its place. -/
def Part.WalksAndCodeFills : Prop :=
  (∀ (s : State) (x : Walk) (c : Ctx) (g : Group), s.walks.find? (fun y => y.id == x.id) = some x → s.walkRuns x = true →
    s.ctx? x.asid = some c →
    s.group? x.gk = some g → x.slot < 2 → (g.slot x.slot).st = .wait → (g.slot x.slot).wait = some .walk →
    (∀ y ∈ s.walks, y.lead = some x.id → y.gk ≠ x.gk) →
    (∀ e rds, s.walkFor x.part c x.va.toNat = (.ok e, rds) → (∀ y ∈ s.walks, y.lead ≠ some x.id) →
      ∃ t, exec (.translationWalkDone x.id) s = .next t ∧ { e with at_ := .part x.part } ∈ t.tlb ∧ { e with at_ := .core x.core } ∈ t.tlb) ∧
    ∀ r, (∃ e rds, s.walkFor x.part c x.va.toNat = (.ok e, rds) ∧ r = 0) ∨ (∃ f rds, s.walkFor x.part c x.va.toNat = (.fault f, rds) ∧ r = f.cause) →
    ∃ t g', exec (.translationWalkDone x.id) s = .next t ∧ (∀ y ∈ t.walks, y.id ≠ x.id) ∧ t.group? x.gk = some g' ∧ SameRegs g g' ∧
      (g'.slot x.slot).st = .ready ∧ (g'.slot x.slot).pc = (g.slot x.slot).pc ∧
      ∃ y ∈ t.fails, y.gk = x.gk ∧ y.slot = x.slot ∧ y.vpage = x.va.toNat / 65536 ∧ y.fault.cause = r) ∧
  (∀ (s u : State) (cluster asid line : Nat) (l : Loc) (k : GroupKey) (n : Nat), (k, n, line) ∈ s.lineWaiters cluster asid →
    s.engineXlate (partOfCluster cluster) asid (BitVec.ofNat 64 (128 * line)) ⟨.fetch, true, false⟩ = (.ok l, u) →
    u.lineStatus ⟨some asid, false⟩ false l = .ok → u.poisonIn ⟨some asid, false⟩ l 128 = false →
    ∃ t d, exec (.codeCacheFill cluster asid line) s = .next t ∧ t.codeLine cluster asid line = some d ∧
      ∀ i : Fin 128, d[i] = u.byteAt ⟨some asid, false⟩ (l.add i.val))

/-- An entry of a page table that a walk can read: its line is there, nothing of it is poisoned, and it has a value. -/
structure State.Entry (s : State) (a : Agent) (pa : Nat) (e : DWord) : Prop where
  line : s.lineStatus a false ⟨.device, pa⟩ = .ok
  whole : s.poisonIn a ⟨.device, pa⟩ 8 = false
  word : s.numAt a ⟨.device, pa⟩ 8 = e.toNat

/-- What is wrong with the address of a table (R23, R24): subcode 0x05 or 0x07. -/
def State.tableBad (s : State) (vfn base : Nat) : Option Nat :=
  if base % 65536 ≠ 0 ∨ Config.deviceEnd ≤ base then some 5 else if vfn ≠ 0 ∧ s.inRange vfn base = false then some 7 else none

/-- The translation that a mapping entry gives to a VA (R25, R26). -/
def mappedBy (asid va bytes : Nat) (size : PageSize) (pbase : Nat) (e : DWord) : TlbEnt :=
  { at_ := .part 0, asid := asid, vbase := va / bytes * bytes, size := size, kind := e.toNat / 4 % 8, w := e.getLsbD 5, x := e.getLsbD 6,
    p := e.getLsbD 7, pbase := pbase, ent := e }

/-- R24 to R27, R29, R30: a walk from ROOT reads its tables from the top down and answers its first failing check: a table's address
(0x05, 0x07), an entry that is not valid (0x02), a shape that its level does not have (0x03), each with the level and the last entry
read; a middle entry maps 512 MiB, a leaf 64 KiB, or 2 MiB where the 32 entries of its run agree. The checks of a mapping follow in
their order. -/
def Part.PageWalk : Prop :=
  (∀ (s : State) (part : Nat) (c : Ctx) (va : Nat), s.walkCached part c.asid 1 (bitsAt va 29 25) = none →
    s.walkCached part c.asid 0 (bitsAt va 42 12) = none →
    let a : Agent := ⟨some c.asid, false⟩
    let w := s.walkFor part c va
    let bad := fun (sub level : Nat) (e : DWord) (pa : Nat) => WalkRes.fault { cause := 0x20, sub := sub, level := level, ent := e, pa := pa }
    let badTable := fun (level base : Nat) (e : DWord) => ∀ k, s.tableBad c.vfn base = some k → w.1 = bad k level e (if k = 7 then base else 0)
    let addr := fun (e : DWord) => e.toNat / 65536 % 2 ^ 36 * 65536
    let p0 := c.root + 8 * (va / 2 ^ 42 % 4096)
    badTable 0 c.root 0 ∧
    (s.tableBad c.vfn c.root = none → s.lineStatus a false ⟨.device, p0⟩ = .lost →
      w.1 = .fault { cause := 0x25, sub := 0, level := 3, ent := 0 }) ∧
    (s.tableBad c.vfn c.root = none → s.lineStatus a false ⟨.device, p0⟩ = .ok → s.poisonIn a ⟨.device, p0⟩ 8 = true → w.1 = .poison p0) ∧
    (s.tableBad c.vfn c.root = none → ∀ e0, s.Entry a p0 e0 →
      (e0.getLsbD 0 = false → w.1 = bad 2 0 e0 0) ∧
      (e0.getLsbD 0 = true → e0.getLsbD 1 = false → w.1 = bad 3 0 e0 0) ∧
      (e0.getLsbD 0 = true → e0.getLsbD 1 = true →
        let p1 := addr e0 + 8 * (va / 2 ^ 29 % 8192)
        badTable 1 (addr e0) e0 ∧
        (s.tableBad c.vfn (addr e0) = none → ∀ e1, s.Entry a p1 e1 →
          (e1.getLsbD 0 = false → w.1 = bad 2 1 e1 0) ∧
          (e1.getLsbD 0 = true → e1.getLsbD 1 = false → addr e1 % 2 ^ 29 ≠ 0 → w.1 = bad 3 1 e1 0) ∧
          (e1.getLsbD 0 = true → e1.getLsbD 1 = false → addr e1 % 2 ^ 29 = 0 →
            w = (.ok (mappedBy c.asid va (2 ^ 29) .m512 (addr e1) e1), [⟨0, p0, e0⟩, ⟨1, p1, e1⟩])) ∧
          (e1.getLsbD 0 = true → e1.getLsbD 1 = true →
            let n := va / 65536 % 8192
            let page := fun (e2 : DWord) => mappedBy c.asid va 65536 .k64 (addr e2) e2
            badTable 2 (addr e1) e1 ∧
            (s.tableBad c.vfn (addr e1) = none → ∀ e2, s.Entry a (addr e1 + 8 * n) e2 →
              (e2.getLsbD 0 = false → w.1 = bad 2 2 e2 0) ∧
              (e2.getLsbD 0 = true → e2.getLsbD 1 = true → w.1 = bad 3 2 e2 0) ∧
              (e2.getLsbD 0 = true → e2.getLsbD 1 = false → e2.getLsbD 8 = false →
                w = (.ok (page e2), [⟨0, p0, e0⟩, ⟨1, p1, e1⟩, ⟨2, addr e1 + 8 * n, e2⟩])) ∧
              (e2.getLsbD 0 = true → e2.getLsbD 1 = false → e2.getLsbD 8 = true →
                ∀ es : Fin 32 → DWord, (∀ j, s.Entry a (addr e1 + 8 * (n / 32 * 32 + j.val)) (es j)) →
                ((∀ j, (es j).getLsbD 0 = true ∧ (es j).getLsbD 8 = true ∧ (es j).extractLsb' 0 16 = (es 0).extractLsb' 0 16 ∧
                    addr (es j) = addr (es 0) + 65536 * j.val) ∧ addr (es 0) % 2 ^ 21 = 0 →
                  w.1 = .ok (mappedBy c.asid va (2 ^ 21) .m2 (addr (es 0)) e2)) ∧
                (¬((∀ j, (es j).getLsbD 0 = true ∧ (es j).getLsbD 8 = true ∧ (es j).extractLsb' 0 16 = (es 0).extractLsb' 0 16 ∧
                    addr (es j) = addr (es 0) + 65536 * j.val) ∧ addr (es 0) % 2 ^ 21 = 0) → w.1 = .ok (page e2))))))))) ∧
  (∀ (s : State) (vfn : Nat) (e : TlbEnt) (va : Nat) (u : Use) (ent : DWord), let pa := e.pbase + (va - e.vbase)
    let f := fun (c sub : Nat) => XFault.mk c sub 3 ent 0
    (kindOf e.kind = none → s.checkMapping vfn e va u ent = .fault (f 0x20 4)) ∧
    ∀ k, kindOf e.kind = some k →
      let inMem := u.acc = .fetch → k = .device ∨ k = .peer
      let atomOk := u.acc = .atomic → k ≠ .hostUnc ∧ (k = .hostCoh → u.hostAtom = true)
      let checks : List (Bool × XFault) :=
        [(decide ((k = .device ∨ k = .view) ∧ vfn ≠ 0 ∧ s.inRange vfn pa = false), { f 0x20 7 with pa := pa }),
         (decide ((k = .device ∨ k = .peer) ∧ Config.deviceEnd ≤ pa), f 0x20 6),
         (decide (k = .peer ∧ s.regs.pairstat = 0), f 0x20 8), (decide (k = .peer ∧ s.regs.pairstat = 3), f 0x25 0),
         (e.p && !u.hm, f 0x21 3), (u.writes && !e.w, f 0x21 1), (decide (u.acc = .fetch) && !e.x, f 0x21 2),
         (decide ¬inMem, f 0x21 4), (decide ¬atomOk, f 0x21 5), (u.writes && decide (k = .view), f 0x22 1),
         (decide (k = .view) && !s.windowFor vfn pa, f 0x20 9)]
      s.checkMapping vfn e va u ent = match checks.find? (·.1) with
        | some x => .fault x.2
        | none => .ok ⟨k, pa⟩)

/-- R29, R34: a translation looks in the core's TLB and then in the partition's; an address with a bit of VA<63:54> set fails first. A
walk's result then serves its VA in the partition and in the core, in place of what served it before, at most 64 entries to a core and 8
to a set (which set holds an entry and which entry gives way: log 14), and the walk cache holds the tables' entries that it read (log
24). -/
def Part.TranslationsHeld : Prop :=
  (∀ (s : State) (core : Option Nat) (part asid : Nat) (va : DWord) (u : Use) (ent : DWord),
    (va.toNat / 2 ^ 54 ≠ 0 → s.translate core part asid va u ent = .fault { cause := 0x20, sub := 1, level := 3, ent := 0 }) ∧
    (va.toNat / 2 ^ 54 = 0 → (∀ e, s.tlbFind core part asid va.toNat = some e →
        s.translate core part asid va u ent = s.checkMapping (((s.ctx? asid).map (·.vfn)).getD 0) e va.toNat u ent) ∧
      (s.tlbFind core part asid va.toNat = none → s.translate core part asid va u ent = .miss))) ∧
  (∀ (s : State) (n part asid va : Nat) (e : TlbEnt), s.tlbFind (some n) part asid va = some e →
    e ∈ s.tlb ∧ e.covers asid va = true ∧ (e.at_ = .core n ∨ e.at_ = .part part ∧ ∀ x ∈ s.tlb, x.at_ = .core n → x.covers asid va = false)) ∧
  (∀ (s : State) (core : Option Nat) (part : Nat) (c : Ctx) (va : Nat) (e : TlbEnt) (rds : List WalkRead), e.covers c.asid va = true →
    let t := s.installWalk core part c va e rds
    t.tlbFind none part c.asid va = some { e with at_ := .part part } ∧
    (∀ n, core = some n → t.tlbFind (some n) part c.asid va = some { e with at_ := .core n } ∧
      ((s.tlb.filter (fun x => x.at_ == .core n)).length ≤ 64 → (t.tlb.filter (fun x => x.at_ == .core n)).length ≤ 64)) ∧
    ((∀ k, (s.tlb.filter (fun x => x.at_ == .part part && x.set == k)).length ≤ 8) →
      ∀ k, (t.tlb.filter (fun x => x.at_ == .part part && x.set == k)).length ≤ 8) ∧
    (∀ r ∈ rds, (r.level = 0 → (t.walkCached part c.asid 0 (bitsAt va 42 12)).isSome = true) ∧
      (r.level = 1 → r.ent.getLsbD 1 = true → (t.walkCached part c.asid 1 (bitsAt va 29 25)).isSome = true)) ∧
    (∀ x ∈ t.tlb, x ∈ s.tlb ∨ x = { e with at_ := .part part } ∨ ∃ n, core = some n ∧ x = { e with at_ := .core n }) ∧ SameBytes s t)

/-- R97 to R100: a view line that a load or a texture read waits for is decoded from its codes and scales; where its slice has room it
is held clean there, for its window and the window's generation. -/
def Part.ViewLinesFill : Prop :=
  ∀ (s : State) (a : Agent) (ln i sl : Nat) (al : L2Alloc) (w : Window),
    (s.viewWants.filter (fun x => x.2.1 == ln)).head? = some (a, ln, al) →
    s.windowAt (128 * ln) = some (i, w) → s.viewSlice a (128 * ln) = some sl →
    s.statusOf Agent.device false (w.fillPlaces ln) = .ok →
    let u := (s.touchFor Agent.device (w.fillPlaces ln) .normal false).dropL2 (·.is sl .view ln)
    ∃ t, exec (.viewLineFill ln) s = .next t ∧ (u.l2Kind al ≠ .persist → (u.l2Room sl ln (u.l2Kind al)).isSome = true →
      (t.viewLine a (128 * ln)).isSome = true) ∧
      ∀ x, t.viewLine a (128 * ln) = some x → x.valid = 0xF ∧ x.dirty = 0 ∧ x.win = i ∧ x.gen = s.winGen i ∧
        ∀ k : Fin 64, x.data[2 * k.val + 1] ++ x.data[2 * k.val] = BitVec.ofNat 16 (w.decodeElem ((128 * ln - w.view) / 2 + k.val)
          (s.byteAt Agent.device ⟨.device, w.codePlace ((128 * ln - w.view) / 2 + k.val)⟩)
          (s.numAt Agent.device ⟨.device, w.scalePlace ((128 * ln - w.view) / 2 + k.val)⟩ 2))

end Sys2Proof.Machine

open Sys2Proof Sys2Proof.Machine in
/-- R448: a deferred cause is delivered at the boundary of a Ready slot, the oldest that belongs there (a step trap at its own slot
alone, in the order of the causes: log 18), and leaves the list. CAUSE.SLOT is the delivering slot; for the 0x19 of a refused
resolution the slot that issued it, while that lives (log 40). The entry waits while the other slot's `tq.pop` has a record (log 109),
and is made, before any other, once that pop has completed. -/
def Obligations.DeferredCauses : Prop :=
  (∀ (s : State) (k : GroupKey) (g : Group) (b : Block) (x : Ctx) (n : Nat) (c : Cause), s.group? k = some g → s.block? k.block = some b →
    s.ctx? b.asid = some x → x.runs = true → b.st = .resident → g.hm = false → g.stopped = false → g.ended = false →
    g.entering = none → [0, 1].find? (fun n => (g.slot n).st == .ready && g.deferred.any (fun c => c.code != 3 || c.slot == n)) = some n →
    g.deferred.find? (fun c => c.code != 3 || c.slot == n) = some c →
    if s.entryHeld k b.asid c then exec (.deferredCauseDelivery k) s = .next s
    else ∃ u, OnlyGroup s u k { g with deferred := g.deferred.erase c } ∧
      exec (.deferredCauseDelivery k) s = .next ((u.raise k b.asid { c with slot :=
        if c.code = 0x19 ∧ (g.slot c.slot).st.live = true then c.slot else n }).endRun g.core k n (s.causeEnd k b.asid c))) ∧
  (∀ (s : State) (k : GroupKey) (g : Group) (b : Block) (x : Ctx) (c : Cause), s.group? k = some g → s.block? k.block = some b →
    s.ctx? b.asid = some x → x.runs = true → b.st = .resident → g.hm = false → g.stopped = false → g.ended = false →
    g.entering = some c → s.entryHeld k b.asid c = false →
    ∃ u, OnlyGroup s u k { g with entering := none } ∧
      exec (.deferredCauseDelivery k) s = .next ((u.raise k b.asid c).endRun g.core k c.slot (s.causeEnd k b.asid c)))

namespace Sys2Proof.Machine

/-! ## Copies -/

/-- The six copy instructions: constructor, registers of the parameter run, whether they read a record, the command they send. -/
def copyInstrs : List ((Bool → Opnd → Opnd → Instr) × Nat × Bool × (View → Opnd → Opnd → CopyCmd)) :=
  [(.copyLin, 8, false, fun w t b => w.linCommand t b), (.copyRect, 1, true, fun w t b => w.recordCommand 1 t b),
   (.copyWin, 1, true, fun w t b => w.recordCommand 2 t b), (.copyGath, 1, true, fun w t b => w.recordCommand 3 t b),
   (.copyRed, 1, true, fun w t b => w.recordCommand 4 t b), (.copyFill, 7, false, fun w t b => w.fillCommand t b)]

/-- The bits of a flags word in a command (R151). -/
def FlagsOf (c : CopyCmd) (v : Word) : Prop :=
  c.dls = v.getLsbD 0 ∧ c.fr = v.getLsbD 2 ∧ c.sba = v.getLsbD 3 ∧ c.sb.val = (v.extractLsb' 4 4).toNat ∧
    c.dcache = (v.extractLsb' 8 2).toNat ∧ c.ils = v.getLsbD 10

/-- Where a command comes from: the group that issued it, its engine and its token register, and that it is new. -/
def FreshCommand (c : CopyCmd) (w : View) (t : Opnd) (kind : Nat) : Prop :=
  c.id = w.s.ids ∧ c.gk = w.k ∧ c.launch = w.b.launch ∧ c.asid = w.b.asid ∧ c.cluster = w.b.cluster ∧ c.engine = engineOf w.b.cluster ∧
    c.hm = w.g.hm ∧ c.kind = kind ∧ c.tok = t ∧ c.slot = w.n ∧ c.accepted = false ∧ c.status = 0 ∧ c.owned = []

end Sys2Proof.Machine

open Sys2Proof Sys2Proof.Machine in
/-- R148 to R155, R161, R163, R385, R388 to R390: a copy instruction with an active lane and room at its engine sends its command,
raises the copy count and leaves its token pending; at 63 commands or a full engine, whose 32 commands count from their issue
(log 32), its slot waits. The fields of the commands that name their parameters in registers, those of a record that lies in the
block and is aligned, by kind, and what becomes of one that does not: of such a record nothing is read, its flags neither (log 123). -/
def Obligations.CopyCommandsIssue : Prop :=
  (∀ (s : State) (w : View) (e : Bool) (t b : Opnd), ∀ c ∈ copyInstrs,
    s.Issues (copyForm e t b c.2.1) (fun _ => !opndRunOk b c.2.1) noCheck w → w.Calm →
    (w.act = 0 → Passes (c.1 e t b) s w 4) ∧
    (w.act ≠ 0 → 63 ≤ w.g.cpCnt → exec (c.1 e t b) s = .next (s.cutRun w (.count 2))) ∧
    (w.act ≠ 0 → w.g.cpCnt < 63 → 32 ≤ s.engineLoad (engineOf w.b.cluster) → exec (c.1 e t b) s = .next (s.cutRun w .engine)) ∧
    (w.act ≠ 0 → w.g.cpCnt < 63 → s.engineLoad (engineOf w.b.cluster) < 32 →
      c.2.2.1 = false ∨ w.localReady (w.param b 0).toNat 64 = true →
      ∃ g', Leaves (c.1 e t b) s w g' (fun u => { u with cmds := u.cmds ++ [c.2.2.2 w t b], ids := u.ids + 1 }) ∧ Advanced w 4 g' ∧
        g' = { w.g with cpCnt := w.g.cpCnt + 1, pend := g'.pend, slot0 := g'.slot0, slot1 := g'.slot1, icnt := g'.icnt } ∧
        ∀ r, regOf w.g.hm t = some r → ∃ p ∈ g'.pend, p.reg = r ∧ p.kind = .token ∧ p.op = s.ids)) ∧
  (∀ (w : View) (t : Opnd) (n : Fin 64), n.val + 7 < 64 →
    let q := fun k => w.sval (.s ⟨(n.val + k) % 64, Nat.mod_lt _ (by decide)⟩)
    let c := w.linCommand t (.s n)
    c.dst = q 1 ++ q 0 ∧ c.src = q 3 ++ q 2 ∧ c.body = .lin (q 4).toNat ∧ FlagsOf c (q 5) ∧ c.sls = (q 5).getLsbD 1 ∧ c.fut = q 7 ++ q 6 ∧
      FreshCommand c w t 0) ∧
  (∀ (w : View) (t : Opnd) (n : Fin 64), n.val + 6 < 64 →
    let q := fun k => w.sval (.s ⟨(n.val + k) % 64, Nat.mod_lt _ (by decide)⟩)
    let c := w.fillCommand t (.s n)
    c.dst = q 1 ++ q 0 ∧ c.body = .fill (q 2).toNat (q 4) ∧ FlagsOf c (q 3) ∧ c.fut = q 6 ++ q 5 ∧ FreshCommand c w t 5) ∧
  (∀ (w : View) (k : Nat) (t b : Opnd), let a := (w.param b 0).toNat
    let f := fun (o n : Nat) => leNat ((upFrom (a + o) n).map w.b.loc.get)
    let c := w.recordCommand k t b
    a + 64 ≤ w.b.alloc → a % 64 = 0 →
    c.dst = BitVec.ofNat 64 (f 0 8) ∧ c.src = BitVec.ofNat 64 (f 8 8) ∧ FlagsOf c (BitVec.ofNat 32 (f 0x10 4)) ∧
      c.sls = (BitVec.ofNat 32 (f 0x10 4)).getLsbD 1 ∧ c.fut = BitVec.ofNat 64 (f 0x38 8) ∧ FreshCommand c w t k ∧
      (k = 1 → c.body = .rect (f 0x14 4) (f 0x18 4) (f 0x1C 2) (f 0x20 4) (f 0x24 4) (f 0x28 8) (f 0x30 8)) ∧
      (k = 2 → c.body = .win (f 0x14 2) (f 0x16 2) (f 0x18 2) (min (f 0x1A 1) 3) (f 0x1C 1) (f 0x1D 1) (f 0x1E 1) (f 0x1F 1) (f 0x20 1)
        (f 0x21 1) (f 0x22 1) (f 0x23 1) (f 0x24 4) (f 0x28 4) (f 0x2C 2) (f 0x2E 2) (f 0x30 2) (f 0x32 2)) ∧
      (k = 3 → c.body = .gath (f 0x14 4) (f 0x18 8) (f 0x20 4) (f 0x24 4) (f 0x28 4)) ∧
      (k = 4 → c.body = .red (f 0x14 4) (f 0x18 1) (f 0x19 1) (f 0x1A 1) (BitVec.ofNat 64 (f 0x20 8)) (BitVec.ofNat 64 (f 0x28 8)))) ∧
  (∀ (w : View) (k : Nat) (t b : Opnd), let c := w.recordCommand k t b
    (w.b.alloc < (w.param b 0).toNat + 64 → c.body = .bad 2 ∧ c.fr = false ∧ c.sba = false ∧ FreshCommand c w t k) ∧
    ((w.param b 0).toNat + 64 ≤ w.b.alloc → (w.param b 0).toNat % 64 ≠ 0 →
      c.body = .bad 3 ∧ c.fr = false ∧ c.sba = false ∧ FreshCommand c w t k))

namespace Sys2Proof.Machine

/-- A copy command has completed with a status (R156, R157): it is gone, its token holds the status with bit 31 set and is pending
no more, and the copy count of its group has fallen. -/
def CopyCompletes (t : State) (c : CopyCmd) (g : Group) (st : Nat) : Prop :=
  t.cmd? c.id = none ∧ ∃ g', t.group? c.gk = some g' ∧ g'.cpCnt = g.cpCnt - 1 ∧ (∀ p ∈ g'.pend, p.op ≠ c.id) ∧
    SameRegs ((tokReg c.hm c.tok).foldl (fun g r => g.writeReg ⟨r, 0, .s (0x80000000#32 ||| BitVec.ofNat 32 (st % 256))⟩) g) g'

/-- A command of an engine, with its block and its group, which may be accepted (R125, R148, R450). -/
structure State.AtEngine (s : State) (c : CopyCmd) (b : Block) (g : Group) : Prop where
  cmd : s.cmd? c.id = some c
  block : s.block? c.gk.block = some b
  group : s.group? c.gk = some g
  resident : b.st = .resident
  live : g.ended = false
  runs : s.ctxRuns c.asid = true

/-- R41, R125, R148, R156, R158, R480, R530: the oldest command of an engine, once what its group did and observed before is performed,
reads the indices of its gather, and stops on a fault of that read (log 35); it is refused with the status of its first failing check
and completes at once; its claims in a reproducible range wait for their words, and fault where those are lost or poisoned; a command
that writes nothing completes with status 1; any other is accepted once no line of its destinations is busy and its entries fit: it
then owns those of its lines that are not lost and has its units to do. R60, R70: the peer die's engine takes lines homed here, of
which none is busy or lost, in the same way. -/
def Part.CopiesAccepted : Prop :=
  (∀ (s : State) (c : CopyCmd) (b : Block) (g : Group), s.AtEngine c b g → c.accepted = false → s.groupDone c.gk c.id c.seen = true →
    (∀ x ∈ s.cmds, x.engine = c.engine → x.id < c.id → x.accepted = true) →
    ((∀ n idx d p nr, c.body ≠ .gath n idx d p nr) → s.gathRows c b.alloc = .ok s []) ∧
    ∀ s0 f va, s.gathRows c b.alloc = .fault s0 f va →
      exec (.copyAccept (.own c.id)) s = .next (s0.copyFault c f va .copyRead)) ∧
  (∀ (s s0 : State) (c : CopyCmd) (b : Block) (g : Group) (rows : List Nat), s.AtEngine c b g → c.accepted = false →
    s.groupDone c.gk c.id c.seen = true → (∀ x ∈ s.cmds, x.engine = c.engine → x.id < c.id → x.accepted = true) →
    s.gathRows c b.alloc = .ok s0 rows → s0.AtEngine c b g →
    let c1 := { c with rows := rows }
    (c.fr = false → c1.refusal b.alloc ≠ 0 → ∃ t, exec (.copyAccept (.own c.id)) s = .next t ∧ CopyCompletes t c g (c1.refusal b.alloc)) ∧
    (c1.refusal b.alloc = 0 → ∀ f, s0.copyClaimStop c1 = some (.fault f) →
      exec (.copyAccept (.own c.id)) s = .next (s0.copyFault c1 f c1.dstAt .copyWrite)) ∧
    (c1.refusal b.alloc = 0 → s0.copyClaimStop c1 = none → s0.copyClaims c1 = none → c.fr = false →
      ∃ t, exec (.copyAccept (.own c.id)) s = .next t ∧ CopyCompletes t c g 6) ∧
    (c1.refusal b.alloc = 0 → s0.copyClaimStop c1 = none → ∀ s1, s0.copyClaims c1 = some s1 →
      (c.fr = false → c1.empty = true → ∃ t, exec (.copyAccept (.own c.id)) s = .next t ∧ CopyCompletes t c g 1) ∧
      (c1.empty = false → ∀ s2 pages, s1.acceptPages c1 [] c1.destVas = .inr (s2, pages) →
        let all := c1.linesOwned pages
        let own := all.filter (fun o => s1.lineFree c1.agent true o.loc != .lost)
        ((s1.cmds.filter (fun x => x.engine == c.engine)).map (·.entries)).sum + c1.entriesFor all ≤ 8 →
        (∀ o ∈ own, s1.lineFree c1.agent true o.loc ≠ .busy) →
        exec (.copyAccept (.own c.id)) s = .next (s2.copyOwn c1 pages own (c1.entriesFor all)) ∧
        ((s2.cmd? c.id).isSome = true → ∃ c', (s2.copyOwn c1 pages own (c1.entriesFor all)).cmd? c.id = some c' ∧
          c'.accepted = true ∧ c'.todo = c1.units ∧ c'.owned = own ∧ c'.entries = c1.entriesFor all ∧ c'.body = c.body)))) ∧
  (∀ (s : State) (lns : List Nat), s.linkUp = true →
    (∀ l ∈ lns.map (fun n => (⟨.device, 128 * n⟩ : Loc)), s.lineFree .device true l = .ok) →
    exec (.copyAccept (.peer lns)) s =
      .next { s with mem := { s.mem with peerOwned := s.mem.peerOwned ++ lns.map (fun n => (n, s.ids)) }, ids := s.ids + 1 })

/-- R41, R101, R155, R157 to R160, R527: the engine reads the unit next in line and then writes the lines that are complete; with
nothing left the command completes, with status 5 where an index was out of range. Of a unit that is done again after a halt, what was
written before is left out (R450, log 38). A write of the peer die's
engine to a line it took gives that line up (R60, R70). -/
def Part.CopiesMove : Prop :=
  (∀ (s s1 s2 : State) (c c1 c2 : CopyCmd) (b : Block) (g : Group) (u : Nat) (us : List Nat), s.AtEngine c b g →
    s.copyWorks c = true → c.todo = u :: us → c.buf = none → (∀ n op fmt tbl res scl, c.body ≠ .red n op fmt tbl res scl) →
    let refs := c.lineRefs u
    let ws := refs.map (fun x => (0, x.1))
    let ix := c.indexAddrs refs
    let rows := refs.filterMap (fun x => s1.refAddr c1 x.2)
    s.unitPages c { writes := ws, src := if c.ils then [] else ix, dst := [], loc := if c.ils then ix else [] } = .ok s1 c1 →
    s1.unitPages c1 { writes := ws, src := if c1.sls then [] else rows, dst := [], loc := if c1.sls then rows else [] } = .ok s2 c2 →
    c2.id = c.id → (s2.cmd? c.id).isSome = true →
    ∃ t c' bs, exec (.copyLineRead c.id) s = .next t ∧ t.cmd? c.id = some c' ∧ c'.todo = c2.todo ∧ c'.buf = some bs ∧ SameBytes s2 t ∧
      bs.map (fun x => (x.1, x.2.1)) = ws ∧
      ∀ x ∈ refs, match x.2 with
        | .zero => (0, x.1, 0) ∈ bs
        | .lit v => (0, x.1, v) ∈ bs
        | y => (0, x.1, match s2.refAddr c2 y with
            | some a => s2.engineByte c2 c2.sls c2.spages a
            | none => 0) ∈ bs) ∧
  (∀ (s s1 : State) (c c1 : CopyCmd) (b : Block) (g : Group) (u : Nat) (us : List Nat) (n op fmt tbl : Nat) (res scl : DWord),
    s.AtEngine c b g → s.copyWorks c = true → c.todo = u :: us → c.buf = none → c.body = .red n op fmt tbl res scl →
    s.unitPages c (c.redRefs n op fmt res scl u) = .ok s1 c1 → c1.id = c.id → (s1.cmd? c.id).isSome = true →
    ∃ t c', exec (.copyLineRead c.id) s = .next t ∧ t.cmd? c.id = some c' ∧ c'.buf = some (s1.redBytes c1 n op fmt res scl u) ∧
      SameBytes s1 t) ∧
  (∀ (s : State) (c : CopyCmd) (b : Block) (g : Group), s.AtEngine c b g → s.copyWorks c = true → c.buf = none → c.todo = [] →
    c.fr = false → ∃ t, exec (.copyLineWrite (.own c.id)) s = .next t ∧
      CopyCompletes t c g (if c.status = 0 ∧ c.idxBad = true then 5 else c.status)) ∧
  (∀ (s : State) (c : CopyCmd) (b : Block) (g : Group) (new : List (Nat × Nat × Byte)) (u v : Nat) (us : List Nat),
    s.AtEngine c b g → s.copyWorks c = true → c.buf = some new → c.todo = u :: v :: us →
    let c1 := { c with todo := v :: us }
    let fresh := new.filter (fun x => c.skip ≤ x.2.1 || x.1 != 0)
    let out := (c.held ++ fresh).filter (fun x => c1.complete x.1 x.2.1)
    s.copyMayPut c1 out = .ok →
    ∃ t c', exec (.copyLineWrite (.own c.id)) s = .next t ∧ t.cmd? c.id = some c' ∧ c'.todo = v :: us ∧ c'.buf = none ∧
      c'.held = (c.held ++ fresh).filter (fun x => !c1.complete x.1 x.2.1) ∧ SameBytes ((s.copyWatch c1 out).1.copyPut c1 out) t) ∧
  (∀ (s : State) (ln : Nat) (bs : List (Nat × Byte)) (x : Nat × Nat), s.mem.peerOwned.find? (fun x => x.1 == ln) = some x →
    s.linkUp = true → s.ownedBefore x.2 ⟨.device, 128 * ln⟩ = false →
    exec (.copyLineWrite (.peer ln bs)) s =
      .next (({ s with mem := { s.mem with peerOwned := s.mem.peerOwned.erase x } }).writeAt .device
        (bs.map (fun (y : Nat × Byte) => ((⟨.device, 128 * ln + y.1 % 128⟩ : Loc), y.2))) .normal))

/-! ## The Cirque -/

/-- The value of an operand `k` registers on in the lane, 0 past the class. -/
def runLane (w : View) (x : Opnd) (k : Nat) (i : Fin 32) : Word :=
  match opndPlus x k with
  | some y => w.lane y i
  | none => 0

/-- An instruction that sends work off with other fields of its group changed as `up` says: in a reproducible context its slot
waits for the Cirque (R481), else it goes on. -/
def SendsToCirque (i : Instr) (s : State) (w : View) (up : Group → Group) (o : OpBody) : Prop :=
  ∃ t g', exec i s = .next t ∧ OnlyGroupOp s t w.k g' w.n o ∧
    g' = { up w.g with slot0 := g'.slot0, slot1 := g'.slot1, icnt := g'.icnt } ∧
    if w.c.repro = true then Stays w (.binFull s.ids) g' else Advanced w 4 g'

end Sys2Proof.Machine

open Sys2Proof Sys2Proof.Machine in
/-- R167, R385, R391, R392, R404, R481: `binp` sends one update for each active lane in ascending order, `accum` one contribution, `binrep`
one request with a token; a descriptor that is not 64-byte aligned raises 0x1C, and at a count of 63 the slot waits. In a reproducible
context the slot of `binp` and `accum` waits until its append is made (log 47). -/
def Obligations.CirqueInstructions : Prop :=
  (∀ (s : State) (w : View) (e : Bool) (t b : Opnd),
    s.Issues { len := 4, e := e, srcs := opndRun t 2 ++ opndRun b 2, kind := .ray, access := true }
      (fun _ => !opndRunOk t 2 || !opndRunOk b 2) noCheck w → w.Calm →
    (w.act = 0 → Passes (.binp e t b) s w 4) ∧
    (w.act ≠ 0 → 63 ≤ w.g.stCnt → exec (.binp e t b) s = .next (s.cutRun w (.count 1))) ∧
    (w.act ≠ 0 → w.g.stCnt < 63 → (w.param64 t 0).toNat % 64 ≠ 0 →
      Raises (.binp e t b) s w { code := 0x1C, sub := 0, tval := (w.param64 t 0).setWidth 32, slot := w.n }) ∧
    (w.act ≠ 0 → w.g.stCnt < 63 → (w.param64 t 0).toNat % 64 = 0 →
      SendsToCirque (.binp e t b) s w (fun g => { g with stCnt := g.stCnt + 1, ord := { g.ord with binp := g.ord.binp + 1 } })
        (.binp (w.param64 t 0) w.g.hm (w.act.lanes.map (fun i => (i.val, w.lane b i, runLane w b 1 i))) (s.ikey w.k w.g.ord.binp)))) ∧
  (∀ (s : State) (w : View) (e : Bool) (t b : Opnd),
    s.Issues { len := 4, e := e, srcs := opndRun b 2, toks := [t], kind := .ray, access := true } (fun _ => !opndRunOk b 2) noCheck w →
    w.Calm →
    (w.act = 0 → Passes (.binrep e t b) s w 4) ∧
    (w.act ≠ 0 → 63 ≤ w.g.cpCnt → exec (.binrep e t b) s = .next (s.cutRun w (.count 2))) ∧
    (w.act ≠ 0 → w.g.cpCnt < 63 → (w.param64 b 0).toNat % 64 ≠ 0 →
      Raises (.binrep e t b) s w { code := 0x1C, sub := 0, tval := (w.param64 b 0).setWidth 32, slot := w.n }) ∧
    (w.act ≠ 0 → w.g.cpCnt < 63 → (w.param64 b 0).toNat % 64 = 0 →
      ∃ u g', exec (.binrep e t b) s = .next u ∧ OnlyGroupOp s u w.k g' w.n (.binrep (w.param64 b 0) w.g.hm t false []) ∧
        Advanced w 4 g' ∧ g' = { w.g with cpCnt := w.g.cpCnt + 1, pend := g'.pend, slot0 := g'.slot0, slot1 := g'.slot1, icnt := g'.icnt } ∧
        ∀ r, regOf w.g.hm t = some r → ∃ p ∈ g'.pend, p.reg = r ∧ p.kind = .token ∧ p.op = s.ids)) ∧
  (∀ (s : State) (w : View) (e : Bool) (b : Opnd),
    s.Issues { len := 4, e := e, srcs := opndRun b 4, kind := .ray, access := true } (fun w => !opndRunOk b 4 || w.l.desc.kind == 0)
      noCheck w → w.Calm →
    (w.act = 0 → Passes (.accum e b) s w 4) ∧
    (w.act ≠ 0 → SendsToCirque (.accum e b) s w (fun g => { g with ord := { g.ord with accum := g.ord.accum + 1 } })
      (.accum (w.act.lanes.map (fun i => (i.val, runLane w b 0 i, runLane w b 1 i &&& 0xFFFFFF#32, runLane w b 2 i, runLane w b 3 i)))
        (s.rid w.k w.g.ord.accum 0))))

namespace Sys2Proof.Machine

/-- R166 to R168: what one append comes to: a discarded update counts in DROP and sets STAT 3; a full bin asks for a replay of its
region; any other update is stored behind the bin's records, and the fill count grows. -/
def Part.AppendsToBins : Prop :=
  ∀ (s s1 : State) (w : CirqueWho) (launch : Nat) (desc ikey : DWord) (item : Nat × Word × Word) (d : BinSet),
    s.binSet w desc = .ok (s1, d) →
    (d.bad = true → ∀ s2, s1.binStat w desc d 1 = .ok s2 → s.appendOne w launch desc ikey item = .ok s2) ∧
    (d.bad = false → s1.replBytes w.part w.asid < 2 ^ d.rlog → ∀ s2, s1.binStat w desc d 2 = .ok s2 →
      s.appendOne w launch desc ikey item = .ok s2) ∧
    (d.bad = false → 2 ^ d.rlog ≤ s1.replBytes w.part w.asid →
      let r := item.2.1.toNat / 2 ^ (d.rlog - 2)
      (d.nreg ≤ r → ∀ s2 s3, s1.cirquePut w (desc.toNat + 0x1C) 4 (d.drop + 1) = .ok s2 → s2.binStat w desc d 3 = .ok s3 →
        s.appendOne w launch desc ikey item = .ok s3) ∧
      (r < d.nreg → s1.replaying w.asid desc r = true → s.appendOne w launch desc ikey item = .full s1) ∧
      (r < d.nreg → s1.replaying w.asid desc r = false → ∀ s2 n, s1.cirqueNum w (d.bins + r * (2 ^ d.clog * 8 + 128)) 8 = .ok (s2, n) →
        (2 ^ d.clog ≤ n → ∃ s3, s.appendOne w launch desc ikey item = .full s3 ∧ s3.replaying w.asid desc r = true ∧ SameBytes s2 s3) ∧
        (n < 2 ^ d.clog → ∀ s3 s4,
          s2.cirquePut w (d.bins + r * (2 ^ d.clog * 8 + 128) + 128 + 8 * n) 8 (item.2.1.toNat + item.2.2.toNat * 2 ^ 32) = .ok s3 →
          s3.cirquePut w (d.bins + r * (2 ^ d.clog * 8 + 128)) 8 (n + 1) = .ok s4 →
          ∃ s5, s.appendOne w launch desc ikey item = .ok s5 ∧ SameBytes s4 s5)))

/-- R116, R168, R392, R481, R529: a `binp` behind whose group's acquires and appends nothing is left, whose update is appended (in a
reproducible context once its bin has room, log 97), is performed and its store count falls; `binrep` with nothing to replay
gives its token the set's STAT, and otherwise begins a replay of every region that has records. -/
def Part.CirqueAppends : Prop :=
  (∀ (s : State) (o : Op) (b : Block) (g : Group) (desc ikey : DWord) (hm : Bool) (item : Nat × Word × Word), s.Holds o b g →
    o.body = .binp desc hm [item] ikey → (∀ x ∈ s.before o, x.body.acquires = false ∧ ∀ d h i k, x.body ≠ .binp d h i k) → s.ctxOpen b.asid = true →
    let w := s.cirqueFor o.gk hm
    let s1 := s.modLaunch b.launch (fun l => if l.binSets.any (fun x => x.2.1 == desc) then l
      else { l with binSets := l.binSets ++ [(w.part, desc, hm)] })
    ∀ s0, (if s.isRepro b.asid = true then s1.appendFits w desc [item] = .ok (s0, true) else s0 = s1) →
    ∀ s2, s0.appendOne w b.launch desc ikey item = .ok s2 → s2.group? o.gk = some g → s2.block? o.gk.block = some b →
    ∃ t g', exec (.binAppend o.id) s = .next t ∧ t.op? o.id = none ∧ t.group? o.gk = some g' ∧ SameRegs g g' ∧
      g'.stCnt = g.stCnt - 1 ∧ SameBytes s2 t) ∧
  (∀ (s s1 : State) (o : Op) (b : Block) (g : Group) (desc : DWord) (hm : Bool) (tk : Opnd) (d : BinSet), s.Holds o b g →
    o.body = .binrep desc hm tk false [] → (∀ x ∈ s.before o, x.body.acquires = false ∧ ∀ d h i k, x.body ≠ .binp d h i k) → s.ctxOpen b.asid = true →
    s.binSet (s.cirqueFor o.gk hm) desc = .ok (s1, d) →
    (d.bad = true ∨ s.isRepro b.asid = true →
      let u := s1.setOp o.id (.binrep desc hm tk true [])
      u.ctxOpen b.asid = true → ∀ s2 n, u.cirqueNum (u.cirqueFor o.gk hm) (desc.toNat + 0x18) 4 = .ok (s2, n) →
      (s2.group? o.gk = some g ∧ s2.block? o.gk.block = some b) →
      ∃ t g', exec (.binrepAccept o.id) s = .next t ∧ t.op? o.id = none ∧ t.group? o.gk = some g' ∧ g'.cpCnt = g.cpCnt - 1 ∧
        SameRegs ((tokReg hm tk).foldl (fun g r => g.writeReg ⟨r, 0, .s (tokenOf n)⟩) g) g') ∧
    (d.bad = false → s.isRepro b.asid = false → ∀ s2 rs, s1.filledRegions (s.cirqueFor o.gk hm) d (List.range d.nreg) = .ok (s2, rs) →
      rs ≠ [] → s2.op? o.id = some o →
      ∃ t reps, exec (.binrepAccept o.id) s = .next t ∧ t.op? o.id = some { o with body := .binrep desc hm tk true reps } ∧
        (∀ r ∈ rs, t.replaying b.asid desc r = true) ∧
        ∀ x ∈ t.replays, x.asid = b.asid → ∀ h q, x.scatter = some (desc, h, q) → q ∈ rs → x.id ∈ reps))

/-- R166, R169: the four operations of a scatter set, and a region replay: it takes ownership of its lines when its allocation has
room; at its end every element holds its records applied in order, written line by line, the bin is empty (its fill count is 0, and
the model's note of its records' keys is gone), and the replay has ended. -/
def Part.ScatterReplays : Prop :=
  (∀ x v : Word, binOp 0 x v = x + v ∧ binOp 1 x v = fAdd x v ∧ binOp 2 x v = (if v.toInt < x.toInt then v else x) ∧
    binOp 3 x v = (if x.toInt < v.toInt then v else x)) ∧
  (∀ (s s1 s2 : State) (x y : Replay) (desc : DWord) (hm : Bool) (r : Nat) (d : BinSet), s.replays.find? (fun y => y.id == x.id) = some x →
    x.scatter = some (desc, hm, r) → s.replayMayStart x = true → s.binSet (s.replayWho x) desc = .ok (s1, d) →
    s1.replayOwn (s.replayWho x) x (d.tgt + r * 2 ^ d.rlog) (2 ^ d.rlog) = .ok (s2, y) → s2.replays = s.replays → y.id = x.id →
    ∃ t, exec (.scatterReplayStart x.id) s = .next t ∧ t.replays.find? (fun z => z.id == x.id) = some y ∧ SameBytes s2 t) ∧
  (∀ (s s1 s2 s3 s4 : State) (x : Replay) (desc : DWord) (hm : Bool) (r n : Nat) (d : BinSet) (recs : List (Nat × Word)) (place : Loc),
    s.replays.find? (fun y => y.id == x.id) = some x → x.scatter = some (desc, hm, r) → x.started = true → x.stopped = false →
    s.ctxRuns x.asid = true → let w := s.replayWho x
    s.binSet w desc = .ok (s1, d) → s1.cirqueNum w (d.binVa r) 8 = .ok (s2, n) → s2.binRead w (d.binVa r) (List.range n) = .ok (s3, recs) →
    let mine := (s3.binRecords x desc r recs).filter (fun e => d.region e.1 == r)
    let ls := mine.filterMap (fun e => pageLoc x.pages (d.tgt + 4 * e.1))
    s3.statusAfter w.agent true x.stamp ls = .ok → (∀ l ∈ ls, s3.poisonAt w.agent l = false) →
    s3.cirquePlace w (d.binVa r) true = .ok (s4, place) →
    let old := fun (i : Nat) => match pageLoc x.pages (d.tgt + 4 * i) with
      | some l => BitVec.ofNat 32 (s3.numAt w.agent l 4)
      | none => 0
    let new := (mine.map (·.1)).eraseDups.map (fun i => (d.tgt + 4 * i,
      (mine.filter (fun e => e.1 == i)).foldl (fun acc e => binOp d.op acc e.2) (old i)))
    exec (.scatterReplayDone x.id) s = .next ((((s4.replayWrite w x 1 new).homeWrite w.agent place (leBytes 8 0)).modLaunch x.launch
      (fun l => { l with binKeys := l.binKeys.filter (fun k => !(k.1 == desc && k.2.1 == r)) })).replayEnded x.id)) ∧
  (∀ (s : State) (id : Nat), ∀ y ∈ (s.replayEnded id).replays, y.id ≠ id) ∧
  (∀ (s : State) (w : CirqueWho) (x : Replay) (src : Nat) (va : Nat) (v : Word) (l : Loc), pageLoc x.pages va = some l → l.kind ≠ .peer →
    va % 4 = 0 → (∀ u n seen, s.engineWatch x.asid u n seen = []) →
    SameBytes (s.writeBytes w.agent l (leBytes 4 v.toNat)) (s.replayWrite w x src [(va, v)]))

/-- R170, R235, R236, R404, R529: a contribution enters its tile's bin, a 65th replays the bin first; a tile replay takes ownership,
adds the contributions to their pixels in order, and is gone. -/
def Part.Accumulation : Prop :=
  (∀ (s : State) (o : Op) (b : Block) (g : Group) (l : Launch) (h : RayHeader) (key : DWord)
    (items : List (Nat × Word × Word × Word × Word)), s.Holds o b g → o.body = .accum items key →
    (∀ x ∈ s.before o, x.body.acquires = false ∧ ∀ i k, x.body ≠ .accum i k) → s.ctxOpen b.asid = true → s.launch? b.launch = some l → l.hdr = some h →
    s.isRepro b.asid = false →
    ∃ t g', exec (.accumAppend o.id) s = .next t ∧ t.op? o.id = none ∧ t.group? o.gk = some g' ∧ SameRegs g g' ∧
      t.accBins = (s.accumAll (s.cirqueFor o.gk false) b.launch h (items.map (fun e => (key + BitVec.ofNat 64 e.1, e.2)))).accBins) ∧
  (∀ (s : State) (w : CirqueWho) (launch tile : Nat) (e : DWord × Word × Word × Word × Word) (b : AccBin),
    s.accBins.find? (fun b => b.part == w.part && b.launch == launch && b.tile == tile) = some b → b.items.length < 64 →
    { b with items := b.items ++ [e] } ∈ (s.accumOne w launch tile e).accBins) ∧
  (∀ (s s1 : State) (x y : Replay) (h : RayHeader), s.replays.find? (fun z => z.id == x.id) = some x → x.scatter = none →
    s.replayHeader x = some h → s.replayMayStart x = true →
    s.replayOwn (s.replayWho x) x (h.acc.toNat + 1024 * x.tile) 1024 = .ok (s1, y) → s1.replays = s.replays → y.id = x.id →
    ∃ t, exec (.accTileReplay x.id) s = .next t ∧ t.replays.find? (fun z => z.id == x.id) = some y ∧ SameBytes s1 t) ∧
  (∀ (s : State) (x : Replay) (h : RayHeader), s.replays.find? (fun z => z.id == x.id) = some x → x.scatter = none →
    s.replayHeader x = some h → x.started = true → x.stopped = false → s.ctxRuns x.asid = true →
    let w := s.replayWho x
    let items := s.tileItems x
    let vas := (items.map (fun e => h.pixelVa e.2.1.toNat)).eraseDups
    let ls := vas.filterMap (pageLoc x.pages)
    s.statusAfter w.agent true x.stamp ls = .ok → (∀ l ∈ ls, s.poisonIn w.agent l 16 = false) →
    let old := fun (va k : Nat) => match pageLoc x.pages (va + 4 * k) with
      | some l => BitVec.ofNat 32 (s.numAt w.agent l 4)
      | none => 0
    exec (.accTileReplayDone x.id) s = .next ((s.replayWrite w x 2 (vas.flatMap (fun va => [0, 1, 2, 3].map (fun k =>
      (va + 4 * k, (items.filter (fun e => h.pixelVa e.2.1.toNat == va)).foldl
        (fun acc e => fAdd acc ((channels e.2.2.2.1 e.2.2.2.2).getD k 0)) (old va k)))))).replayEnded x.id)) ∧
  (∀ (s : State) (id : Nat), ∀ y ∈ (s.replayEnded id).replays, y.id ≠ id)

/-! ## Futures and task queues -/

/-- A transaction at the place of a word or a descriptor, not started. -/
def freshTxn (l : Loc) (va : DWord) (t : Opnd) (hm : Bool) (ikey : DWord) : SliceTxn :=
  { place := l, va := va, t := t, hm := hm, ikey := ikey, acts := [], started := false, data := [], tok := [], stopped := false,
    tried := false }

/-- An instruction that sends an operation to the slice logic: its address is aligned and translated by the core, its token
registers are pending, and its group changes as `up` says; a misaligned address raises 0x1C, a missing translation walks. -/
def SendsToSlice (i : Instr) (s : State) (w : View) (va : DWord) (n : Nat) (rs : List RegId) (up : Group → Group) (o : Loc → OpBody)
    (wait : Bool) : Prop :=
  (va.toNat % n ≠ 0 → Raises i s w { code := 0x1C, sub := 0, tval := va.setWidth 32, slot := w.n }) ∧
  (va.toNat % n = 0 → w.xlate va ⟨.atomic, w.g.hm, true⟩ = .miss → exec i s = .next ((s.askWalk w va).endRun w.g.core w.k w.n 4)) ∧
  (va.toNat % n = 0 → ∀ f, w.xlate va ⟨.atomic, w.g.hm, true⟩ = .fault f → exec i s = .next (s.coreFault w f va .atomic w.act)) ∧
  (va.toNat % n = 0 → ∀ l, w.xlate va ⟨.atomic, w.g.hm, true⟩ = .ok l →
    ∃ t g', exec i s = .next t ∧ OnlyGroupOp s t w.k g' w.n (o l) ∧ (if wait then Stays w (.tqPop s.ids) g' else Advanced w 4 g') ∧
      g' = { up w.g with pend := g'.pend, slot0 := g'.slot0, slot1 := g'.slot1, icnt := g'.icnt } ∧
      ∀ r ∈ rs, ∃ p ∈ g'.pend, p.reg = r ∧ p.kind = .token ∧ p.op = s.ids)

end Sys2Proof.Machine

open Sys2Proof Sys2Proof.Machine in
/-- R387, R393 to R397: `freg`, `fres`, `fpoll`, `tq.push`, `tq.pushv` and `tq.pop` send their operations; pushes read their records
from local store at issue, and a pop's slot waits for its record. -/
def Obligations.SliceInstructions : Prop :=
  (∀ (s : State) (w : View) (e : Bool) (t b : Opnd),
    s.Issues (sliceForm e t b 2 5 false) (fun _ => !opndRunOk b 5 || !opndRunOk t 2) noCheck w → w.Calm → w.act ≠ 0 → w.g.ldCnt < 63 →
    (w.param64 b 2).toNat % 64 = 0 →
    SendsToSlice (.freg e t b) s w (w.param64 b 0) 8 (regsOf w.g.hm (opndRun t 2)) (fun g => { g with ldCnt := g.ldCnt + 1 })
      (fun l => .slice (.freg (w.param64 b 2) ((w.param b 4).toNat % 8)) (freshTxn l (w.param64 b 0) t w.g.hm 0)) false) ∧
  (∀ (s : State) (w : View) (e : Bool) (t b : Opnd),
    s.Issues (sliceForm e t b 1 3 false) (fun _ => !opndRunOk b 3 || !opndRunOk t 1) noCheck w → w.Calm → w.act ≠ 0 → w.g.stCnt < 63 →
    SendsToSlice (.fres e t b) s w (w.param64 b 0) 8 (regsOf w.g.hm (opndRun t 1)) (fun g => { g with stCnt := g.stCnt + 1 })
      (fun l => .slice (.fres (w.param b 2) w.sl.pc) (freshTxn l (w.param64 b 0) t w.g.hm 0)) false) ∧
  (∀ (s : State) (w : View) (e : Bool) (t b : Opnd),
    s.Issues (sliceForm e t b 2 2 false) (fun _ => !opndRunOk b 2 || !opndRunOk t 2) noCheck w → w.Calm → w.act ≠ 0 → w.g.ldCnt < 63 →
    SendsToSlice (.fpoll e t b) s w (w.param64 b 0) 8 (regsOf w.g.hm (opndRun t 2)) (fun g => { g with ldCnt := g.ldCnt + 1 })
      (fun l => .slice .fpoll (freshTxn l (w.param64 b 0) t w.g.hm 0)) false) ∧
  (∀ (s : State) (w : View) (e : Bool) (t b : Opnd) (i : Instr) (n : Nat),
    (i = .tqPush e t b ∧ n = 1) ∨ (i = .tqPushv e t b ∧ n = w.act.lanes.length) →
    s.Issues (sliceForm e t b 1 3 false) (fun _ => !opndRunOk b 3) noCheck w → w.Calm → w.act ≠ 0 → w.g.stCnt < 63 →
    (let a := (w.param b 2).toNat
     w.localReady a (64 * n) = true →
     SendsToSlice i s w (w.param64 b 0) 64 (regsOf w.g.hm (opndRun t 1))
      (fun g => { g with stCnt := g.stCnt + 1, ord := { g.ord with push := g.ord.push + 1 } })
      (fun l => .slice (if a % 64 = 0 ∧ a + 64 * n ≤ w.b.alloc then .push ((List.range n).map (fun r => w.b.loc.read (a + 64 * r) 64)) none
        else .push [] (some 0x80000002)) (freshTxn l (w.param64 b 0) t w.g.hm (s.ikey w.k w.g.ord.push))) false)) ∧
  (∀ (s : State) (w : View) (e : Bool) (t b : Opnd),
    s.Issues (sliceForm e t b 1 3 true) (fun _ => !opndRunOk b 3) noCheck w → w.Calm → w.act ≠ 0 →
    let a := (w.param b 2).toNat
    SendsToSlice (.tqPop e t b) s w (w.param64 b 0) 64 (regsOf w.g.hm (opndRun t 1))
      (fun g => { g with ord := { g.ord with pop := g.ord.pop + 1 } })
      (fun l => .slice (.pop a (if a % 64 = 0 ∧ a + 64 ≤ w.b.alloc then none else some 0x80000002) none)
        (freshTxn l (w.param64 b 0) t w.g.hm (s.ikey w.k w.g.ord.pop))) true) ∧
  (∀ (s : State) (w : View) (e : Bool) (t b : Opnd),
    (s.Issues (sliceForm e t b 2 5 false) (fun _ => !opndRunOk b 5 || !opndRunOk t 2) noCheck w → w.Calm →
      (w.act = 0 → Passes (.freg e t b) s w 4) ∧
      (w.act ≠ 0 → w.g.ldCnt < 63 → (w.param64 b 0).toNat % 8 = 0 → (w.param64 b 2).toNat % 64 ≠ 0 →
        Raises (.freg e t b) s w { code := 0x1C, sub := 0, tval := (w.param64 b 2).setWidth 32, slot := w.n })) ∧
    (s.Issues (sliceForm e t b 1 3 true) (fun _ => !opndRunOk b 3) noCheck w → w.Calm → w.act = 0 → Passes (.tqPop e t b) s w 4))

namespace Sys2Proof.Machine

/-- The step that performs an operation of the slice logic. -/
def Performs (i : Instr) (id : Nat) : SliceOp → Prop
  | .freg _ _ => i = .fregPerform id
  | .fres _ _ => i = .fresPerform id
  | .fpoll => i = .fpollPerform id
  | .push _ _ => i = .tqPushPerform id
  | .pop _ _ _ => i = .tqPopPerform id

/-- Who carries out an operation of a group at a place. -/
def State.sliceWho (s : State) (o : Op) (x : SliceTxn) : SliceWho :=
  { asid := s.asidOf o.gk, slice := s.sliceFor (s.asidOf o.gk) x.place, hm := x.hm,
    launch := (s.block? o.gk.block).bind s.launchOf }

end Sys2Proof.Machine

open Sys2Proof Sys2Proof.Machine in
/-- R173, R176, R177, R397, R528: an operation that may be performed, whose word is free and whose accesses all go through, gives its
token; its count falls, a pop's record reaches local store, and the slot that waited for it goes on. Of a release on a word of the
host the stores before it are then at the memory controllers (R132, log 106). -/
def Obligations.SliceOperationsPerformed : Prop :=
  ∀ (s : State) (o : Op) (b : Block) (g : Group) (op : SliceOp) (x : SliceTxn) (i : Instr), s.Holds o b g →
    Performs i o.id op → o.body = .slice op x →
    s.sliceMay o op x = true → x.started = false → s.queueHeld o.id x.place = false →
    s.lineStatus (s.sliceWho o x).agent true x.place = .ok → s.poisonAt (s.sliceWho o x).agent x.place = false →
    ∀ s1 acts tok, (s.sysRelease ⟨some (s.asidOf o.gk), op.releases && x.place.kind.isHost⟩).sliceStart (s.sliceWho o x) o op x = .go s1 acts tok →
    let r := State.sliceActs o.id (s.sliceWho o x) (2 * acts.length + 16) s1 x.data acts
    let words := match op with
      | .freg _ _ => fregToken r.data (r.s.isRepro (s.asidOf o.gk))
      | _ => tok
    r.fin = .done → s1.blocks = s.blocks → r.s.blocks = s.blocks →
    ∃ t g', exec i s = .next t ∧ t.op? o.id = none ∧ t.group? o.gk = some g' ∧
      SameRegs ((tokenWrites x.hm x.t words).foldl Group.writeReg g) g' ∧ (∀ p ∈ g'.pend, p.op ≠ o.id) ∧ SameBytes r.s t ∧
      match op with
      | .freg _ _ => g'.ldCnt = g.ldCnt - 1
      | .fpoll => g'.ldCnt = g.ldCnt - 1
      | .fres _ _ => g'.stCnt = g.stCnt - 1
      | .push _ _ => g'.stCnt = g.stCnt - 1
      | .pop dst bad _ => (t.block? o.gk.block).map (·.loc) = some (if bad = none then b.loc.write dst r.data else b.loc) ∧
          ∀ n : Fin 2, (g.slot n).st = .wait → (g.slot n).wait = some (.tqPop o.id) →
            (g'.slot n).st = .ready ∧ (g'.slot n).pc = (g.slot n).pc + 4

namespace Sys2Proof.Machine

/-- R171, R173, R176, R177, R393 to R397: what the operations do to a word and a descriptor: a poll answers the state and, once
resolved, the value; a resolution writes the value and state 2, and a second one is refused with 0x19; a registration, which is one
access of the word, links the record in front of the list, or, on a resolved word, gives the value and lowers JOIN, and its token tells
which; a push beyond the capacity answers 6. -/
def Part.FuturesAndQueues : Prop :=
  (∀ (s : State) (w : SliceWho) (o : Op) (x : SliceTxn), let v := s.wordAt w.agent x.place
    s.sliceStart w o .fpoll x = .go s [] (if (v.extractLsb' 0 2).toNat < 2 then [0x80000000 + (v.extractLsb' 0 2).setWidth 32, 0]
      else [0x80000002, v.extractLsb' 32 32])) ∧
  (∀ (s : State) (w : SliceWho) (o : Op) (x : SliceTxn) (val : Word) (pc : DWord), let v := s.wordAt w.agent x.place
    if 2 ≤ (v.extractLsb' 0 2).toNat then
      s.sliceStart w o (.fres val pc) x = .refuse { code := 0x19, sub := 0, tval := pc.setWidth 32, slot := o.slot }
    else ∃ s1, s.sliceStart w o (.fres val pc) x = .go s1 [] [0x80000000] ∧
      SameBytes (s.homeWrite w.agent x.place (leBytes 8 (2 + val.toNat * 2 ^ 32))) s1 ∧
      (if (v.extractLsb' 0 2).toNat = 1 then s1.listWalks.length = s.listWalks.length + 1 else s1.listWalks = s.listWalks)) ∧
  (∀ (s : State) (w : SliceWho) (o : Op) (x : SliceTxn) (rcd : DWord) (slot : Nat),
    s.sliceStart w o (.freg rcd slot) x = .go s [.regist x.place rcd slot] []) ∧
  (∀ (s : State) (id : Nat) (w : SliceWho) (data : List Byte) (l : Loc) (rcd : DWord) (slot : Nat),
    s.lineStatus w.agent true l = .ok → let v := s.wordAt w.agent l
    (2 ≤ (v.extractLsb' 0 2).toNat → s.sliceAct id w data (.regist l rcd slot) = (s,
      [.put (rcd + BitVec.ofNat 64 (0x18 + 4 * slot)) (leBytes 4 (v.extractLsb' 32 32).toNat) true, .lower rcd],
      leBytes 4 (v.extractLsb' 32 32).toNat, .done)) ∧
    ((v.extractLsb' 0 2).toNat < 2 → ∀ s1 k,
      s.sliceXlate w (rcd + BitVec.ofNat 64 (0x40 + 8 * slot)) .store true = (.inr k, s1) →
      let link := if (v.extractLsb' 0 2).toNat = 1 then (v.extractLsb' 2 48).toNat * 64 + (v.extractLsb' 50 3).toNat else 0
      ∃ u, s.sliceAct id w data (.regist l rcd slot) = (u, [], [], .done) ∧
        SameBytes ((s1.homeWrite w.agent k (leBytes 8 link)).homeWrite w.agent l (leBytes 8 (regWord rcd slot))) u)) ∧
  (fregToken [] false = [0x80000000, 0] ∧ (∀ data, fregToken data true = [0x80000000, 0]) ∧
    ∀ v : Word, fregToken (leBytes 4 v.toNat) false = [0x80000001, v]) ∧
  (∀ (s : State) (w : SliceWho) (o : Op) (x : SliceTxn) (recs : List (List Byte)), s.isRepro w.asid = false →
    let q := s.queueDesc w.agent x.place
    (4 ≤ q.caplog ∧ q.caplog ≤ 24 → 2 ^ q.caplog < q.count + recs.length →
      s.sliceStart w o (.push recs none) x = .go s [] [0x80000006]) ∧
    (q.caplog < 4 ∨ 24 < q.caplog → s.sliceStart w o (.push recs none) x = .go s [] [0x80000003]) ∧
    (4 ≤ q.caplog ∧ q.caplog ≤ 24 → q.count + recs.length ≤ 2 ^ q.caplog →
      ∃ s1 acts, s.sliceStart w o (.push recs none) x = .go s1 (acts ++ [.store (x.place.add 0x18) (leBytes 8 (q.tail + recs.length))])
        [0x80000000] ∧ acts.length = recs.length ∧ ∀ j : Nat, ∀ rec, recs[j]? = some rec →
          acts[j]? = some (.put (BitVec.ofNat 64 (q.base + 64 * ((q.tail + j) % 2 ^ q.caplog))) rec false)))

/-- R397: a pop that found the queue empty waits, and tries again when TAIL has changed; in a block that is off its core the
wake is latched (R463). R174: a visit of the wait list writes the
value, lowers JOIN and goes on to the link; a walk whose next is 0 ends. -/
def Part.PopWakesAndListWalks : Prop :=
  (∀ (s : State) (o : Op) (b : Block) (g : Group) (x : SliceTxn) (dst t : Nat) (bad : Option Word), s.Holds o b g →
    o.body = .slice (.pop dst bad (some t)) x → (s.queueDesc (Agent.ctx (s.asidOf o.gk)) x.place).tail ≠ t →
    ∃ u, exec (.tqPopWake o.id) s = .next u ∧ u.op? o.id = some { o with body := .slice (.pop dst bad none) x } ∧
      u.blocks = s.blocks ∧ SameBytes s u) ∧
  (∀ (s : State) (o : Op) (b : Block) (x : SliceTxn) (dst t : Nat) (bad : Option Word), s.op? o.id = some o →
    s.block? o.gk.block = some b → b.st ≠ .resident → b.woken = false →
    o.body = .slice (.pop dst bad (some t)) x → (s.queueDesc (Agent.ctx (s.asidOf o.gk)) x.place).tail ≠ t →
    exec (.tqPopWake o.id) s = .next (s.modBlock b.serial (fun b => { b with woken := true }))) ∧
  (∀ (s : State) (x : ListWalk), s.listWalks.find? (fun y => y.id == x.id) = some x → x.stopped = false → x.next = 0 → x.acts = [] →
    exec (.waitListWalk x.id) s = .next { s with listWalks := s.listWalks.filter (fun y => !(y.id == x.id)) }) ∧
  (∀ (s : State) (x : ListWalk), s.listWalks.find? (fun y => y.id == x.id) = some x → x.stopped = false → x.next ≠ 0 → x.acts = [] →
    let rcd := BitVec.ofNat 64 (bitsAt x.next.toNat 6 48 * 64)
    let slot := bitsAt x.next.toNat 0 3
    let w : SliceWho := { asid := x.asid, slice := x.slice, hm := false, launch := s.launch? x.launch }
    let r := State.sliceActs x.id w 32 s x.data
      [.link rcd slot, .put (rcd + BitVec.ofNat 64 (0x18 + 4 * slot)) (leBytes 4 x.val.toNat) true, .lower rcd]
    r.fin = .done → r.s.listWalks = s.listWalks →
    ∃ t y, exec (.waitListWalk x.id) s = .next t ∧ t.listWalks.find? (fun y => y.id == x.id) = some y ∧
      y.next = BitVec.ofNat 64 (leNat r.data) ∧ y.acts = [] ∧ y.val = x.val ∧ SameBytes r.s t)

/-! ## Poison -/

/-- The soft-error record of an access that meets poison, 32 bytes (R76). -/
def errorRecord (l : Loc) (asid code agent : Nat) (corr lanes : Word) : List Byte :=
  leBytes 8 (128 * (l.pa / 128)) ++ leBytes 2 (asid % 1024) ++ [0x23, BitVec.ofNat 8 code] ++ leBytes 2 agent ++ [0, 0] ++
    leBytes 4 corr.toNat ++ leBytes 4 lanes.toNat ++ List.replicate 8 0

/-- An access of a core has met poison at a place (R75, R76): it is gone, no register is written, its group is stopped with cause 0x23,
its context halts, and the record is appended. -/
structure MetPoison (s t : State) (o : Op) (b : Block) (g : Group) (a : Agent) (l : Loc) (lanes : Word) (dn : Group → Group) : Prop where
  gone : t.op? o.id = none
  group : ∃ g', t.group? o.gk = some g' ∧ SameRegs g g' ∧ g'.stopped = true ∧
    g'.stopCause = some { code := 0x23, sub := s.poisonCode a l, tval := 0, slot := o.slot } ∧
    g'.ldCnt = (dn g).ldCnt ∧ g'.stCnt = (dn g).stCnt
  bytes : SameBytes (s.pushRecord b.asid false (errorRecord l b.asid (s.poisonCode a l) g.core (s.corrOfBlock b) lanes)) t
  halt : ∀ c, s.ctx? b.asid = some c → c.halt = .running → (t.ctx? b.asid).map (·.halt) = some .raised

/-- R73, R75, R76: a load, an atomic or a texture read that reaches a poisoned place, and an operation of the slice logic whose word or
descriptor is poisoned, writes nothing: its context takes cause 0x23 with the structure that holds the poison (how it is told: log 21)
and the record of the line; the slice logic keeps its operation for a resume. -/
def Part.PoisonMet : Prop :=
  (∀ (s : State) (o : Op) (b : Block) (g : Group) (accs : List LaneAcc) (wid : Width) (d : Opnd) (c : CachePol) (ord : Order)
    (bc pk : Bool) (l : Loc), s.Holds o b g → o.body = .load accs wid d c ord bc pk →
    let n := widthBytes wid
    let a := s.agentFor o.gk (ord == .sys)
    let miss := s.missLocs o accs n c ord
    let s1 := s.beforeSys a (linesOf ((miss.filter (fun l => l.kind == .device)).map (·.pa)))
    (∀ x ∈ s.before o, x.body.holdsMemory = false) → (ord ≠ .plain → s.acquireClear o (linesOfLocs miss) = true) →
    s.statusOf a false miss = .ok → miss.find? (fun l => s1.poisonIn a l n) = some l →
    ∃ t, exec (if pk then .ownedAccessProceed o.id else .loadResultReturn o.id) s = .next t ∧
      MetPoison s1 t o b g a l (maskOf (fun i => accs.any (fun x => x.lane == i.val && s1.poisonIn a x.loc n)))
        (fun g => { g with ldCnt := g.ldCnt - 1 })) ∧
  (∀ (s : State) (o : Op) (b : Block) (g : Group) (ls : List LaneAtom) (op : AtomOp) (ret : Bool) (sc : Scope) (d : Opnd)
    (lf : Option Nat) (pk : Bool) (x : LaneAtom), s.Holds o b g → o.body = .atomic ls op ret sc d lf pk →
    let lines := linesOfLocs (ls.map (·.loc))
    let a := s.agentFor o.gk (sc == .sys)
    let scope : Scope := if ∃ x ∈ ls, x.loc.kind.isHost = true then .sys else sc
    let s1 := s.beforeSys a (linesOf ((ls.filter (fun x => x.loc.kind == .device)).map (·.loc.pa)))
    (∀ x ∈ s.before o, x.body.holdsMemory = false) → s.released o scope = true → s.earlierLeft g.core o.id s.ids lines = false →
    s.hostInOrder o lines = true → s.statusOf a true lines = .ok →
    ls.find? (fun x => s1.poisonIn a x.loc (atomBytes op)) = some x →
    ∃ t, exec (if pk then .ownedAccessProceed o.id else .atomicPerformed o.id) s = .next t ∧
      MetPoison s1 t o b g a x.loc (maskOf (fun i => ls.any (fun x => x.lane == i.val && s1.poisonIn a x.loc (atomBytes op))))
        (fun g => if ret then { g with ldCnt := g.ldCnt - 1 } else { g with stCnt := g.stCnt - 1 })) ∧
  (∀ (s : State) (o : Op) (b : Block) (g : Group) (fmt : Nat) (plans : List (Nat × Option (List (Nat × DWord)))) (d : Opnd)
    (locs : List (DWord × Loc)) (l : Loc), s.Holds o b g → o.body = .tex fmt plans d locs →
    let n := texelBytes fmt
    let a := s.agentFor o.gk false
    let miss := (locs.map (·.2)).filter (fun l => !(usesL1 l .normal .plain && (upFrom 0 n).all (fun k => s.mem.l1Hit g.core (l.add k))))
    (∀ x ∈ s.before o, x.body.holdsMemory = false) → s.statusOf a false miss = .ok → miss.find? (fun l => s.poisonIn a l n) = some l →
    ∃ t, exec (.textureResult o.id) s = .next t ∧
      MetPoison s t o b g a l (maskOf (fun i => plans.any (fun p => p.1 == i.val && (p.2.getD []).any (fun x => locs.any (fun y =>
        y.1 == x.2 && miss.contains y.2 && s.poisonIn a y.2 n))))) (fun g => { g with ldCnt := g.ldCnt - 1 })) ∧
  (∀ (s : State) (o : Op) (b : Block) (g : Group) (op : SliceOp) (x : SliceTxn) (i : Instr), s.Holds o b g → Performs i o.id op →
    o.body = .slice op x → s.sliceMay o op x = true → x.started = false → s.queueHeld o.id x.place = false →
    let w := s.sliceWho o x
    s.lineStatus w.agent true x.place = .ok → s.poisonAt w.agent x.place = true →
    ∃ t, exec i s = .next t ∧ t.op? o.id = some { o with body := .slice op { x with stopped := true } } ∧ t.group? o.gk = some g ∧
      SameBytes (s.pushRecord b.asid false (errorRecord x.place b.asid (s.poisonCode w.agent x.place) (0xD000 + w.slice) w.corr 0)) t ∧
      ∀ c, s.ctx? b.asid = some c → c.halt = .running → (t.ctx? b.asid).map (·.halt) = some .raised)

/-! ## Rays and textures -/

/-- A group that only goes on, but for what `up` changes. -/
def GoesOn (w : View) (up : Group → Group) (g' : Group) : Prop :=
  Advanced w 4 g' ∧ g' = { up w.g with pend := g'.pend, slot0 := g'.slot0, slot1 := g'.slot1, icnt := g'.icnt }

/-- What a hand-off leaves at issue: the records are written by `f`, lanes that hold no ray count as misuse, and the rays given on are
one piece of work. -/
def HandsOff (w : View) (kind : Handoff) (f : Fin 32 → Vector Word 16 → Vector Word 16) (u t : State) : Prop :=
  (∀ l, u.launch? w.b.launch = some l → (t.launch? w.b.launch).map (·.ctr.misuse) =
    some (satAdd l.ctr.misuse (w.act.lanes.length - w.myRays.length))) ∧
  t.ops = (if w.myRays = [] then u.ops
    else u.ops ++ [⟨u.ids, w.k, w.n, ((u.group? w.k).map (·.seen)).getD 0, .handoff kind (w.myRays.map (·.2)) (w.g.shKind == 2)⟩]) ∧
  ((w.myRays.map (·.2)).Nodup → ∀ x ∈ w.myRays, ∀ r, u.rayOf w.b.asid x.2 = some r →
    t.rayOf w.b.asid x.2 = some { r with w := f x.1 r.w }) ∧
  (∀ r ∈ u.rays, (r.asid ≠ w.b.asid ∨ ∀ x ∈ w.myRays, x.2.toNat / 65536 ≠ r.part ∨ x.2.toNat % 65536 ≠ r.slot) → r ∈ t.rays)

/-- R400 to R403, R211, R217, R218, R406: `trace` and `retire` hand the rays of the active lanes on and take their handles; `spawn`
makes rays in free slots of the pool as far as its reservation goes, and brings their handles; `rng` draws its numbers. -/
def Part.RayInstructions : Prop :=
  (∀ (s : State) (w : View) (e : Bool) (b : Opnd),
    s.Issues { len := 4, e := e, srcs := opndRun b 16, kind := .ray, access := true } (fun w => !opndRunOk b 16 || w.inGrid) noCheck w →
    w.Calm → ∃ g' post, Leaves (.trace e b) s w g' post ∧
      GoesOn w (fun g => { g with handle := clearHandles g.handle w.act }) g' ∧
      ∀ u : State, HandsOff w .trace (fun i _ => w.record b i) u (post u)) ∧
  (∀ (s : State) (w : View) (e : Bool),
    s.Issues { len := 4, e := e, kind := .ray, access := true } View.inGrid noCheck w →
    w.Calm → ∃ g' post, Leaves (.retire e) s w g' post ∧
      GoesOn w (fun g => { g with handle := clearHandles g.handle w.act }) g' ∧
      ∀ u : State, HandsOff w .retire (fun _ r => r) u (post u)) ∧
  (∀ (s : State) (w : View) (e : Bool) (t b : Opnd),
    s.Issues { len := 4, e := e, srcs := opndRun b 16, dsts := [t], kind := .ray, access := true }
      (fun w => !opndRunOk b 16 || w.inGrid) noCheck w → w.Calm →
    (w.act = 0 → Passes (.spawn e t b) s w 4) ∧
    (w.act ≠ 0 → let new := w.spawned
      let handle := fun (i : Fin 32) => ((new.find? (fun x => x.2 == i)).map (fun x => handleOf w.part x.1)).getD 0xFFFFFFFF#32
      let ws := w.resultFor t handle 0
      new.length = min w.act.lanes.length w.g.rsv ∧
      (let free := (List.range (w.s.poolCap w.part w.b.asid)).filter (fun k => !((w.s.raysOf w.part w.b.asid).map (·.slot)).contains k)
       new.length ≤ free.length → (new.map (·.1)).Nodup ∧ ∀ x ∈ new, x.1 ∈ free) ∧
      ∃ g' post, Leaves (.spawn e t b) s w g' post ∧
        GoesOn w (fun g => { g with rsv := g.rsv - new.length, ord := { g.ord with spawn := g.ord.spawn + 1 } }) g' ∧
        (∀ x ∈ ws, ∃ p ∈ g'.pend, p.reg = x.reg ∧ p.kind = .var ∧ p.op = s.ids) ∧
        let ray := fun (x : Nat × Fin 32) =>
          ({ part := w.part, asid := w.b.asid, slot := x.1, launch := w.b.launch, w := w.record b x.2, st := .inEpisode, stamp := 0,
             resume := false, walk := none, rid := w.s.rid w.k w.g.ord.spawn x.2.val } : Ray)
        ∀ u : State, (post u).rays = u.rays ++ new.map ray ∧
          let seen := ((u.group? w.k).map (·.seen)).getD 0
          (post u).ops = u.ops ++ [{ id := u.ids, gk := w.k, slot := w.n, seen := seen, body := .regs .spawn ws }] ++
            (if new = [] then [] else [⟨u.ids + 1, w.k, w.n, seen, .handoff .spawn (new.map (fun x => handleOf w.part x.1)) false⟩]) ∧
          ∀ l, u.launch? w.b.launch = some l → ((post u).launch? w.b.launch).map (·.ctr.spfail) =
            some (satAdd l.ctr.spfail (w.act.lanes.length - new.length)))) ∧
  (∀ (s : State) (w : View) (e : Bool) (t b : Opnd),
    s.Issues { len := 4, e := e, srcs := opndRun t 4 ++ opndRun b 2, dsts := opndRun t 4, kind := .ray, access := true }
      (fun _ => !opndRunOk t 4 || !opndRunOk b 2) noCheck w → w.Calm →
    (w.act = 0 → Passes (.rng e t b) s w 4) ∧ (w.act ≠ 0 → 63 ≤ w.g.ldCnt → exec (.rng e t b) s = .next (s.cutRun w (.count 0))) ∧
    (w.act ≠ 0 → w.g.ldCnt < 63 →
      let src := fun (i : Fin 32) (k : Nat) => ((opndPlus t k).map (fun y => w.lane y i)).getD 0
      let out := fun (i : Fin 32) => philox (src i 0, src i 1, src i 2, src i 3) (w.param b 0) (w.param b 1)
      let dst := fun (k : Nat) (f : Fin 32 → Word) => ((opndPlus t k).map (fun y => w.resultFor y f 0)).getD []
      let ws := dst 0 (fun i => (out i).1) ++ dst 1 (fun i => (out i).2.1) ++ dst 2 (fun i => (out i).2.2.1) ++ dst 3 (fun i => (out i).2.2.2)
      ∃ u g', exec (.rng e t b) s = .next u ∧ OnlyGroupOp s u w.k g' w.n (.regs .rng ws) ∧
        GoesOn w (fun g => { g with ldCnt := g.ldCnt + 1 }) g' ∧ ∀ x ∈ ws, ∃ p ∈ g'.pend, p.reg = x.reg ∧ p.kind = .var ∧ p.op = s.ids))

/-- The level of detail of a lane of `tex.q`, from the coordinates of its quad (R240). -/
def View.quadLod (w : View) (d : TexDesc) (t : Opnd) (i : Fin 32) : Lod :=
  let val := fun (k : Nat) (i : Fin 32) => ((opndPlus t k).map (fun y => w.lane y i)).getD 0
  let quad := fun (k : Nat) => (upFrom 0 3).map (fun j => if h : i.val / 4 * 4 + j < 32 then val k ⟨i.val / 4 * 4 + j, h⟩ else 0)
  lodOf d (quad 0) (quad 1)

/-- R75, R236 to R240, R405, R480: `tex.lod` and `tex.q` read their descriptor, which must be aligned to 32 bytes, find the texels of each
active lane, claim what they read, and send their reads off; the load count rises. The descriptor is read, and its faults are raised,
in the step that issues (log 71); poison met there is cause 0x23. The level of detail of `tex.q` is worked out to 768 fraction bits
(log 71). -/
def Part.TextureInstructions : Prop :=
  ∀ (s : State) (w : View) (e q : Bool) (t b : Opnd) (i : Instr), i = (if q then .texQ e t b else .texLod e t b) →
    s.Issues { len := 4, e := e, srcs := opndRun t (if q then 2 else 3) ++ opndRun b 2, dsts := opndRun t 4, kind := .ray, access := true }
      (fun _ => !opndRunOk t 4 || !opndRunOk b 2) noCheck w → w.Calm →
    let va := w.param64 b 0
    (w.act = 0 → Passes i s w 4) ∧ (w.act ≠ 0 → 63 ≤ w.g.ldCnt → exec i s = .next (s.cutRun w (.count 0))) ∧
    (w.act ≠ 0 → w.g.ldCnt < 63 →
      (va.toNat % 32 ≠ 0 → Raises i s w { code := 0x1C, sub := 0, tval := va.setWidth 32, slot := w.n }) ∧
      (va.toNat % 32 = 0 →
        (∀ f, w.xlate va ⟨.load, w.g.hm, false⟩ = .fault f → exec i s = .next (s.coreFault w f va .load w.act)) ∧
        (w.xlate va ⟨.load, w.g.hm, false⟩ = .miss → exec i s = .next ((s.askWalk w va).endRun w.g.core w.k w.n 4)) ∧
        (∀ l, w.xlate va ⟨.load, w.g.hm, false⟩ = .ok l → (∀ x ∈ s.ops, x.gk = w.k → x.body.holdsMemory = false) →
          (upFrom 0 32).all (fun k => s.mem.l1Hit w.g.core (l.add k)) = false → s.lineStatus (.ctx w.b.asid) false l = .ok → s.poisonIn (.ctx w.b.asid) l 32 = true →
          let f : XFault := { cause := 0x23, sub := s.poisonCode (.ctx w.b.asid) l, level := 3, ent := BitVec.ofNat 64 l.lineLoc.pa }
          exec i s = .next (s.coreFault w f va .load w.act)) ∧
        (∀ dl bs, w.readDesc va = .ok dl bs →
          let d := texDescOf bs
          let val := fun (k : Nat) (i : Fin 32) => ((opndPlus t k).map (fun y => w.lane y i)).getD 0
          let plans := w.act.lanes.map (fun i => (i.val, d.plan (val 0 i) (val 1 i) (if q then w.quadLod d t i else Lod.ofWord (val 2 i))))
          (∀ va, w.texels plans = .inl (.walk va) → exec i s = .next ((s.askWalk w va).endRun w.g.core w.k w.n 4)) ∧
          (∀ f va acc ls, w.texels plans = .inl (.fault f va acc ls) → exec i s = .next (s.coreFault w f va acc ls)) ∧
          (∀ accs, w.texels plans = .inr accs →
            let stop := s.claimStop w.c (w.c.ownLines (accs.map (·.va.toNat)))
            (∀ ls, stop = some (.wait ls) → exec i s = .next ((s.askPeerFor true ls).holdRun w)) ∧
            (∀ f, stop = some (.fault f) →
              exec i s = .next (s.coreFault w f (((accs.head?).map (·.va)).getD 0) .load (laneMask (accs.map (·.lane))))) ∧
            (stop = none → w.claims s accs = none → Raises i s w (.plain 0x1B w.n)) ∧
            (stop = none → w.claims s accs ≠ none → ∃ g' post, Leaves i s w g' post ∧ GoesOn w (fun g => { g with ldCnt := g.ldCnt + 1 }) g' ∧
              (∀ r ∈ regsOf w.g.hm (opndRun t 4), ∃ p ∈ g'.pend, p.reg = r ∧ p.kind = .var ∧ p.op = s.ids) ∧
              ∀ u : State, ∃ id seen, (post u).ops = u.ops ++
                  [⟨id, w.k, w.n, seen, .tex d.fmt plans t ((accs.map (fun x => (x.va, x.loc))).eraseDups)⟩] ∧ (post u).blocks = u.blocks)))))

/-- R238, R239, R378, R405: the texels of a texture operation return, and each lane receives four channels, each the weighted sum of
its texels' channels; without texels every channel is the canonical NaN. -/
def Part.TextureResults : Prop :=
  ∀ (s : State) (o : Op) (b : Block) (g : Group) (fmt : Nat) (plans : List (Nat × Option (List (Nat × DWord)))) (t : Opnd)
    (locs : List (DWord × Loc)), s.Holds o b g → o.body = .tex fmt plans t locs →
    let a := s.agentFor o.gk false
    let n := texelBytes fmt
    let miss := (locs.map (·.2)).filter (fun l => !(usesL1 l .normal .plain && (upFrom 0 n).all (fun k => s.mem.l1Hit (s.coreOf o.gk) (l.add k))))
    (∀ x ∈ s.before o, x.body.holdsMemory = false) → s.statusOf a false miss = .ok → (∀ l ∈ miss, s.poisonIn a l n = false) →
    let bytes := fun (va : DWord) => ((locs.find? (fun x => x.1 == va)).map
      (fun x => (upFrom 0 n).map (fun k => s.loadByte o a .normal .plain (x.2.add k)))).getD []
    ∃ u, exec (.textureResult o.id) s = .next u ∧ Landed s u o g (g.runFor o t 4 (plans.map (fun p => (p.1, (upFrom 0 4).map (fun c =>
      match p.2 with
      | some ts => blend (ts.map (fun x => (x.1, channelOf fmt (bytes x.2) c)))
      | none => 0x7FC00000#32))))) (fun g => { g with ldCnt := g.ldCnt - 1 })

/-- R129, R203, R204, R206, R212 to R214, R228, R231: rays leave a performed hand-off: a retired ray's slot is free, others enter
traversal bins, and a ray whose walk would be invalid goes on to shading with TERM; what a walk leaves in a record; a shader id that
names no shader retires its ray. -/
def Part.RaysHandedOn : Prop :=
  (∀ (s : State) (o : Op) (kind : Handoff) (hs : List Word) (resume : Bool), s.op? o.id = some o → o.body = .handoff kind hs resume →
    s.released o .die = true →
    (kind = .retire → ∃ t, exec (.rayHandoffPerformed o.id) s = .next t ∧ t.op? o.id = none ∧
      (∀ h ∈ hs, t.rayOf (s.asidOf o.gk) h = none) ∧
      ∀ r ∈ s.rays, (r.asid ≠ s.asidOf o.gk ∨ ∀ h ∈ hs, h.toNat / 65536 ≠ r.part ∨ h.toNat % 65536 ≠ r.slot) → r ∈ t.rays) ∧
    (kind ≠ .retire → ∀ h r, hs = [h] → s.rayOf (s.asidOf o.gk) h = some r →
      exec (.rayHandoffPerformed o.id) s = .next ((s.enterTraversal r resume).dropOp o.id))) ∧
  (∀ (s : State) (r : Ray) (h : RayHeader) (resume : Bool), r.invalid = false → s.rayHeader r = some h →
    (h.pf = 0 ∨ h.hint = 0) →
    s.enterTraversal r resume =
      { s.putRay { r with st := .travBinned (travBin (r.travKey h)), stamp := s.ids, resume := resume, walk := none } with ids := s.ids + 1 }) ∧
  (∀ (s : State) (r : Ray) (l : Launch) (resume : Bool), r.invalid = true → s.launch? r.launch = some l → r.shid < l.desc.nsh →
    let t := s.enterTraversal r resume
    (t.launch? r.launch).map (·.ctr.terms) = some (satAdd l.ctr.terms 1) ∧
    (r ∈ s.rays → ∃ q ∈ t.rays, q.part = r.part ∧ q.asid = r.asid ∧ q.slot = r.slot ∧ q.st = .shadeBinned (shadeBin r.shid) ∧
      q.w = r.w.set 9 (r.w[9] ||| 0x80000000#32))) ∧
  (∀ (s : State) (r : Ray) (l : Launch), s.launch? r.launch = some l → l.desc.nsh ≤ r.shid →
    let t := s.enterShade r
    (t.launch? r.launch).map (·.ctr.badsh) = some (satAdd l.ctr.badsh 1) ∧
      ∀ q ∈ t.rays, ¬ (q.part = r.part ∧ q.asid = r.asid ∧ q.slot = r.slot)) ∧
  (∀ (r : Ray) (w : RayWalk) (h : Hit), w.hit = some h → w.cand = none → h.shid < 4096 →
    let q := r.walked w false
    q.w[7] = h.t ∧ q.w[12] = h.inst ∧ q.w[13] = h.prim ∧ q.w[14] = h.v ++ h.u ∧ q.shid = h.shid ∧ q.w[9].getLsbD 28 = true ∧
      q.w[6] = r.w[6] ∧ ∀ k : Fin 16, k.val ∉ [7, 9, 12, 13, 14] → q.w[k] = r.w[k]) ∧
  (∀ (r : Ray) (w : RayWalk) (c : Word × Word × Nat), w.cand = some c → w.hit = none → c.2.2 < 4096 →
    let q := r.walked w false
    q.w[6] = c.1 ∧ q.w[14] = c.2.1 ∧ q.shid = c.2.2 ∧ q.w[9].getLsbD 28 = false ∧ ∀ k : Fin 16, k.val ∉ [6, 9, 14] → q.w[k] = r.w[k]) ∧
  (∀ (r : Ray) (w : RayWalk), w.cand = none → w.hit = none → (r.walked w false).w = r.w ∧ (r.walked w true).w = r.w.set 9 (r.w[9] ||| 0x80000000#32))

end Sys2Proof.Machine

open Sys2Proof Sys2Proof.Machine in
/-- R215, R216, R220 to R232: a traversal unit with room pulls a batch from the first bin in drain order, and each step of a walk takes
the child at the top of its stack: a box node gives its children, an instance its root, a triangle a hit, a procedural box a
candidate; a malformed reference ends the walk with TERM. A primitive that the opaque rule leaves out is passed without counting a
visit, and a walk that reaches TLIM ends with TERM even with nothing left (log 64); a reference is judged in the visit of the node it
names (log 63); of equal bins in drain order the model takes its own choice (log 113); of candidates with equal keys the one met
first stays (log 128). -/
def Obligations.Traversal : Prop :=
  (∀ (s : State) (cluster asid bin : Nat) (bins : List Nat), s.ctxRuns asid = true → (s.batches cluster).length < 4 →
    cluster < Config.clusters → drainOrder (s.binInfos (partOfCluster cluster) asid false) = bin :: bins →
    ∃ t, exec (.traversalPull cluster asid) s = .next t ∧ t.ids = s.ids + 1 ∧ t.blocks = s.blocks ∧
      (∀ r ∈ (s.binRays (partOfCluster cluster) asid false bin).take 32, ∃ q ∈ t.rays, q.part = r.part ∧ q.asid = r.asid ∧ q.slot = r.slot ∧
        q.st = .walking ∧ ∃ w, q.walk = some w ∧ w.cluster = cluster ∧ w.batch = s.ids ∧ w.stack = [⟨none, 1, 0, none⟩] ∧
          w.hit = none ∧ w.cand = none ∧ w.visits = 0)) ∧
  (∀ (s : State) (part asid slot : Nat) (r : Ray) (w : RayWalk) (h : RayHeader) (x : WalkItem) (rest : List WalkItem),
    s.ray? part asid slot = some r → r.walk = some w → s.rayHeader r = some h → s.ctxOpen asid = true → w.stack = x :: rest →
    let w0 : RayWalk := { w with stack := rest }
    let count : RayWalk := { w0 with visits := w.visits + 1 }
    let full : Bool := decide ((if h.tlim = 0 then 2 ^ 24 else h.tlim) ≤ w.visits + 1)
    let base : Nat := (x.inst.map (·.blas)).getD h.tlas.toNat + 4096 * x.treelet
    let kind := refKind x.ref.toNat x.inst.isNone x.treelet h.ninst
    let i : Instr := .nodeVisit part asid slot
    (kind = .bad → exec i s = .next (s.walkOn r w0 true false)) ∧
    (∀ t sl s' bs, kind = .node t sl →
      (let va := (x.inst.map (·.blas)).getD h.tlas.toNat + 4096 * t + 128 * sl
       s.travRead r w.cluster va 128 va = .ok (s', bs)) →
      (∀ items, boxChildren r w x t h.ninst bs = some items →
        exec i s = .next (s'.walkOn r { count with stack := items ++ rest } full false)) ∧
      (boxChildren r w x t h.ninst bs = none → exec i s = .next (s'.walkOn r count true false))) ∧
    (∀ n s' bs, kind = .inst n → s.travRead r w.cluster (h.inst.toNat + 64 * n) 64 (h.inst.toNat + 64 * n) = .ok (s', bs) →
      (r.enterInst bs = .skip → exec i s = .next (s'.walkOn r w0 false false)) ∧
      (r.enterInst bs = .bad → exec i s = .next (s'.walkOn r w0 true false)) ∧
      (∀ y, r.enterInst bs = .root y → exec i s = .next (s'.walkOn r { w with stack := y :: rest } false false))) ∧
    (∀ u left inst s' bs, kind = .tris u left → x.inst = some inst →
      s.travRead r w.cluster (base + 64 * u) 64 ((base + 64 * u) / 128 * 128) = .ok (s', bs) →
      let more := if left = 0 then [] else [{ x with dist := none, ref := BitVec.ofNat 32 (2 + 4 * (u + 1) + 256 * (left - 1)) }]
      (r.opq = true → bitAt (fieldAt bs 0x28 4) 12 = false → inst.fopq = false →
        exec i s = .next (s'.walkOn r { w0 with stack := more ++ rest } false false)) ∧
      (r.opq = false ∨ bitAt (fieldAt bs 0x28 4) 12 = true ∨ inst.fopq = true →
        (∀ hit, r.triangle w inst bs = some hit →
          exec i s = .next (s'.walkOn r { count with stack := more ++ rest, hit := some hit } full r.first)) ∧
        (r.triangle w inst bs = none → exec i s = .next (s'.walkOn r { count with stack := more ++ rest } full false)))) ∧
    (∀ u inst, kind = .proc u → x.inst = some inst →
      (r.opq = true → exec i s = .next (s.walkOn r w0 false false)) ∧
      (∀ s' bs, r.opq = false → s.travRead r w.cluster (base + 64 * u) 64 ((base + 64 * u) / 128 * 128) = .ok (s', bs) →
        (∀ k, r.procedural w inst bs = some k → exec i s = .next (s'.walkOn r { count with cand := some (lowerCand w.cand k) } full r.first)) ∧
        (r.procedural w inst bs = none → exec i s = .next (s'.walkOn r count full false))))) ∧
  (∀ (s : State) (r : Ray) (w : RayWalk) (stop : Bool),
    let left := w.stack.dropWhile (fun x => !r.keeps w x)
    s.walkOn r w true stop = s.walkEnd r { w with stack := left } true ∧
    (left = [] ∨ stop = true → s.walkOn r w false stop = s.walkEnd r { w with stack := left } false) ∧
    (left ≠ [] → s.walkOn r w false false = s.putRay { r with walk := some { w with stack := left } })) ∧
  (∀ (s : State) (part asid bin : Nat) (shade : Bool), s.binRays part asid shade bin ≠ [] →
    (part, asid, shade, bin) ∉ s.timedOut →
    exec (if shade then .shadeBinTimeout part asid bin else .traversalBinTimeout part asid bin) s =
      .next { s with timedOut := (part, asid, shade, bin) :: s.timedOut }) ∧
  (∀ (s : State) (p : Prefetch) (h : RayHeader), s.prefetches.find? (fun x => x.id == p.id) = some p →
    (s.launch? p.launch).bind (·.hdr) = some h →
    let u := { s with prefetches := s.prefetches.filter (fun x => !(x.id == p.id)) }
    ∀ l s', u.engineXlate p.part p.asid (BitVec.ofNat 64 (h.hint.toNat + 32 * p.cell)) ⟨.travRead, false, false⟩ = (.ok l, s') →
      (s'.lineStatus (.ctx p.asid) false l ≠ .ok ∨ s'.poisonIn (.ctx p.asid) l 32 = true → exec (.prefetchHintRead p.id) s = .next s') ∧
      (s'.lineStatus (.ctx p.asid) false l = .ok → s'.poisonIn (.ctx p.asid) l 32 = false →
        ∃ t, exec (.prefetchHintRead p.id) s = .next t ∧ t.rays = s.rays ∧ t.blocks = s.blocks ∧ ∀ x ∈ t.prefetches, x.id ≠ p.id))

namespace Sys2Proof.Machine

/-! ## The distributor -/

/-- The registers of a group at its start, but for v0 to v15 and s2, and its one live slot (R182, R210). -/
structure Fresh (d : Desc) (entry : DWord) (mask : Mask) (g : Group) : Prop where
  slots : g.slot0 = Slot.readyAt entry mask ∧ g.slot1 = Slot.free
  stack : g.sd = 0 ∧ g.sc = 0
  emask : g.emask = mask
  v : ∀ n : Fin 128, 16 ≤ n.val → g.v[n] = Vector.replicate 32 0
  p : ∀ n : Fin 96, g.p[n] = 0
  consts : g.s[0] = d.const.setWidth 32 ∧ g.s[1] = d.const.extractLsb' 32 32
  s : ∀ n : Fin 64, 3 ≤ n.val → g.s[n] = 0
  a : ∀ n : Fin 32, g.a[n] = ⟨0, 0⟩
  modes : g.hm = false ∧ g.sstep = false ∧ g.ended = false ∧ g.stopped = false
  counts : g.icnt = 0 ∧ g.ldCnt = 0 ∧ g.stCnt = 0 ∧ g.cpCnt = 0 ∧ g.tlCnt = 0 ∧ g.pend = []

end Sys2Proof.Machine

open Sys2Proof Sys2Proof.Machine in
/-- R182, R209, R210, R217, R219, R434, R494: a wave former, a starving one too, forms a group from rays: lane i holds the i-th ray, whose record
stands in v0 to v15, and s2 the shader id; the rays are in an episode, and the group holds its reservation; its queue has had its turn.
Where a bin can form a group in the regular way, none is formed by starvation. -/
def Obligations.RayGroupsForm : Prop :=
  (∀ (s : State) (part asid : Nat) (p : FormPlan) (starve : Bool),
    (if starve then s.starvePlan? part asid = some p else s.formPlan? part asid = some p) → s.serves (s.formRank p.l) = true →
    exec (if starve then .waveFormerStarvation part asid else .waveForm part asid) s = .next (s.formGroup part asid p)) ∧
  (∀ (s : State) (part asid : Nat) (p : FormPlan), p.rays.length ≤ 32 →
    let t := s.formGroup part asid p
    (∃ b g, b ∈ t.blocks ∧ b.serial = s.ids ∧ b.launch = p.l.id ∧ b.asid = p.l.asid ∧ b.cluster = p.cluster ∧ b.isRay = true ∧
      b.st = .resident ∧ b.groups = [g] ∧ g.core = 8 * p.cluster + p.c0 ∧ g.role = .gen ∧ g.vregs = 8 * p.ent.vregs ∧ g.rsv = p.rsv ∧
      Fresh p.l.desc p.ent.pc (maskOf (fun i => decide (i.val < p.rays.length))) g ∧
      (∀ (i : Fin 32) (k : Fin 16), (g.v[k.val]'(by omega))[i] = ((p.rays[i.val]?).map (fun r => r.w[k])).getD 0) ∧
      (∀ i : Fin 32, g.handle[i] = ((p.rays[i.val]?).map (fun r => handleOf part r.slot)).getD 0xFFFFFFFF#32) ∧
      (∀ r, p.rays.head? = some r → g.s[2] = BitVec.ofNat 32 r.shid)) ∧
    (∀ r ∈ p.rays, r ∈ s.rays → ∃ q ∈ t.rays, q.part = r.part ∧ q.asid = r.asid ∧ q.slot = r.slot ∧ q.st = .inEpisode) ∧
    t.lastQueue = p.l.q) ∧
  (∀ (s : State) (part asid : Nat), (s.formPlan? part asid).isSome = true → s.starvePlan? part asid = none)

open Sys2Proof Sys2Proof.Machine in
/-- R180, R182, R184, R434 to R436: the block that is served next goes to the first cluster in rotation that takes it, its groups in
their starting state; a gang that does not fit becomes the waiting gang of its priority. -/
def Obligations.BlocksPlaced : Prop :=
  (∀ (s : State) (l : Launch), s.launch? l.id = some l → s.hasBlocks l = true →
    (∀ t, s.placing l = .placed t → s.serves (s.rankOf l.cls l) = true →
      exec (.blockPlace l.id) s = .next { t with gangs := t.gangs.filter (fun g => g.1 != l.id) }) ∧
    (s.placing l = .full → l.desc.gang ≠ 0 → (∀ g ∈ s.gangs, g.2 ≠ l.prio) →
      exec (.blockPlace l.id) s = .next { s with gangs := s.gangs ++ [(l.id, l.prio)] })) ∧
  (∀ (s : State) (l : Launch) (c : Ctx) (k : Nat), s.launch? l.id = some l → s.hasBlocks l = true → s.ctx? l.asid = some c →
    c.repro = false → (s.rotation c.confined).find? (fun c => s.takes l c (s.bestCore c)) = some k →
    s.placeOne l.id = .placed (s.putNext l k (s.bestCore k))) ∧
  (∀ (s : State) (l : Launch) (cluster c0 : Nat), s.launch? l.id = some l →
    let t := s.putNext l cluster c0
    (t.launch? l.id).map (·.nextBlock) = some (l.nextBlock + 1) ∧ t.lastCluster = cluster ∧ t.lastQueue = l.q ∧
    ∃ b ∈ t.blocks, b.serial = s.ids ∧ b.launch = l.id ∧ b.asid = l.asid ∧ b.b = l.nextBlock ∧ b.cluster = cluster ∧
      b.bx = BitVec.ofNat 32 (l.nextBlock % l.desc.gx) ∧ b.by_ = BitVec.ofNat 32 (l.nextBlock / l.desc.gx % l.desc.gy) ∧
      b.bz = BitVec.ofNat 32 (l.nextBlock / (l.desc.gx * l.desc.gy)) ∧
      b.alloc = 1024 * l.desc.lskb ∧ b.loc = ⟨[]⟩ ∧ b.tiles = l.desc.tiles ∧ b.mx = l.desc.mx ∧ b.st = .resident ∧
      b.groups.length = l.desc.ng ∧ ∀ n g, b.groups[n]? = some g → g.index = n ∧ g.core = 8 * cluster + (c0 + n) % 8 ∧
        g.role = l.desc.role n ∧ g.vregs = 8 * l.desc.vregs ∧ Fresh l.desc l.desc.entry 0xFFFFFFFF#32 g ∧
        (∀ m : Fin 128, g.v[m] = Vector.replicate 32 0) ∧ g.s[2] = 0)

namespace Sys2Proof.Machine

/-- The fields of a save slot above the V registers, as the table of R462 gives them: offset, size, value. -/
def slotTable (g : Group) (corr : Word) (repro : Bool) : List (Nat × Nat × Nat) :=
  (List.finRange 96).map (fun i => (0x4000 + 4 * i.val, 4, (g.p[i]).toNat)) ++
  (List.finRange 64).map (fun i => (0x4180 + 4 * i.val, 4, (g.s[i]).toNat)) ++
  (List.finRange 32).flatMap (fun i => [(0x4280 + 12 * i.val, 8, (g.a[i]).base.toNat), (0x4288 + 12 * i.val, 4, (g.a[i]).stride.toNat)]) ++
  (List.finRange 8).map (fun i => (0x4400 + 4 * i.val, 4, (g.k[i]).toNat)) ++
  [(0x4420, 8, g.slot0.pc.toNat), (0x4428, 8, g.slot1.pc.toNat), (0x4430, 4, g.slot0.mask.toNat), (0x4434, 4, g.slot1.mask.toNat),
   (0x4438, 4, g.slot0.stByte), (0x443C, 4, g.slot1.stByte), (0x4440, 4, g.slot0.gmask.toNat), (0x4444, 4, g.slot1.gmask.toNat),
   (0x4448, 4, g.emask.toNat), (0x444C, 4, g.lfmask.toNat), (0x4450, 4, (dstkWord g.sd g.sc).toNat), (0x4454, 4, (g.gstat repro).toNat),
   (0x4458, 8, g.spill.toNat), (0x4460, 8, g.icnt.toNat),
   (0x4468, 4, g.ldCnt + 64 * g.stCnt + 4096 * g.cpCnt + 262144 * g.tlCnt), (0x446C, 4, g.rbt.toNat)] ++
  (List.finRange 32).map (fun i => (0x4480 + 4 * i.val, 4, (g.rbp[i]).toNat)) ++
  (List.finRange 16).flatMap (fun i => [(0x4500 + 16 * i.val, 8, (g.stack[i]).pc.toNat), (0x4508 + 16 * i.val, 4, (g.stack[i]).mask.toNat),
    (0x450C + 16 * i.val, 4, 0)]) ++
  [(0x4600, 4, g.gid.toNat), (0x4604, 4, corr.toNat), (0x4608, 4, g.tokenMap 0), (0x460C, 4, g.tokenMap 32)]

/-- R460 to R462: the bytes that saving a group writes to its slot at SAVE + 18,432 × (16c + r): the V registers that it has, 128 bytes
each, the fields of the table, the wake condition of its first slot that waits at a blocking point, and 496 zeros. -/
def SavesGroup (s : State) (g : Group) (save : Nat) (corr : Word) (repro : Bool) : Prop :=
  let at_ : Nat → Loc := fun off => ⟨.device, save + 18432 * (16 * g.core + g.res) + off⟩
  let put := fun (s : State) (fs : List (Nat × Nat × Nat)) => fs.foldl (fun s f => s.postBytes (at_ f.1) (leBytes f.2.1 f.2.2)) s
  let vs := (List.finRange 128).filter (fun i => i.val + 2 < g.vregs || 126 ≤ i.val)
  let s1 := vs.foldl (fun s i => s.postBytes (at_ (128 * i.val)) ((g.v[i]).toList.flatMap (fun w => leBytes 4 w.toNat))) s
  let s2 := put s1 (slotTable g corr repro)
  (∀ (n : Fin 2) (t ph b v : Nat), s.wakeCond g (g.slot n) = some (t, ph, b, v) → (n = 1 → s.wakeCond g g.slot0 = none) →
    s.saveGroup g save corr repro = (put s2 [(0x4470, 1, t), (0x4471, 1, n.val), (0x4472, 1, ph), (0x4473, 1, b), (0x4474, 4, 0),
      (0x4478, 8, v)]).postBytes (at_ 0x4610) (List.replicate 496 0)) ∧
  (s.wakeCond g g.slot0 = none → s.wakeCond g g.slot1 = none → s.saveGroup g save corr repro =
    (put s2 [(0x4470, 8, 0), (0x4478, 8, 0)]).postBytes (at_ 0x4610) (List.replicate 496 0)) ∧
  ∀ n : Fin 2, let x := g.slot n
    (∀ ph : Bool, x.wait = some (.barBlk ph) → s.wakeCond g x = some (1, if ph then 1 else 0, 0, 0)) ∧
    (∀ (i : Fin 16) (ph : Bool), x.wait = some (.stage i ph) → s.wakeCond g x = some (2, if ph then 1 else 0, i.val, 0)) ∧
    ∀ rs p, x.wait = some (.regs rs) → g.pend.find? (fun p => p.far && rs.contains p.reg) = some p →
      s.wakeCond g x = some (4, 0, 0, p.reg.code)

end Sys2Proof.Machine

open Sys2Proof Sys2Proof.Machine in
/-- R437, R460 to R463: a block that may be evicted and stands in the way of a launch of higher priority begins to leave; once its
work has drained its groups are written to their save slots, its local store to its image, and it is saved; woken, it comes back on a
cluster of its partition with its registers. The saved block is kept in the state beside its images and comes back from there
(log 73), its sequencer unbound meanwhile (log 74). -/
def Obligations.EvictionAndRestore : Prop :=
  (∀ (s : State) (b : Block) (i r : Nat) (l : Launch), s.block? b.serial = some b → s.imageFor b = some i → s.recordFor b = some r →
    s.evictable b = true → l ∈ s.launches → s.wants l b = true →
    exec (.blockEvict b.serial) s =
      .next (s.modBlock b.serial (fun b => { b with st := .evicting, woken := false, image := i, record := r }))) ∧
  (∀ (s : State) (b : Block) (c : Ctx), s.block? b.serial = some b → s.ctx? b.asid = some c → b.st = .evicting → c.halt = .running →
    s.draining b = false →
    ∃ t, exec (.evictSaveDone b.serial) s = .next t ∧ t.block? b.serial = some { b with st := .saved, seq := none } ∧
      (∀ n, n ≠ b.serial → t.block? n = s.block? n) ∧ t.launches = s.launches ∧ t.rays = s.rays ∧ t.ops = s.ops ∧
      (∀ x ∈ t.traces, x.gk.block ≠ b.serial) ∧
      let region := c.save + 452984832 + 589824 * b.cluster
      let u := (b.groups.filter (fun g => !g.ended)).foldl (fun u g => u.saveGroup g c.save (s.corrOfBlock b) c.repro) s
      SameBytes ((u.postBytes ⟨.device, region + b.image⟩ (b.loc.read 0 b.alloc)).postBytes
        ⟨.device, region + 262144 + 10240 * b.record⟩ (blockRecord b)) t) ∧
  (∀ (s : State) (g : Group) (save : Nat) (corr : Word) (repro : Bool), SavesGroup s g save corr repro) ∧
  (∀ (s : State) (l : Loc) (bs : List Byte), let places := (upFrom 0 bs.length).map (fun i => l.add i)
    s.posted = [] → s.statusOf .device true (linesOfLocs places) = .ok →
    s.postBytes l bs = s.writeAt .device (places.zip bs) .normal) ∧
  (∀ (s : State) (b : Block) (l : Launch) (k c0 : Nat), s.block? b.serial = some b → s.launchOf b = some l →
    s.restoreTo b = some (k, c0) →
    b.st = .saved → b.woken = true → s.ctxOpen b.asid = true → s.serves (s.rankOf 1 l) = true →
    ∃ (t : State) (u : Block), exec (.blockRestore b.serial) s = .next t ∧ t.block? b.serial = some u ∧ u.cluster = k ∧ u.st = .resident ∧
      u.loc = b.loc ∧ t.lastCluster = k ∧ t.lastQueue = l.q ∧ u.groups.length = b.groups.length ∧
      ∀ (n : Nat) (g h : Group), b.groups[n]? = some g → u.groups[n]? = some h → SameRegs g h ∧ h.stack = g.stack ∧ h.emask = g.emask ∧
        (g.ended = false → h.core / 8 = k))

namespace Sys2Proof.Machine

/-! ## The matrix engine -/

end Sys2Proof.Machine

open Sys2Proof Sys2Proof.Machine in
/-- R261, R407 to R414, R135: the group's matrix instructions. `mstart` starts an Idle sequencer, waits for a busy one, and rejects an
unaligned stream, and drops the lines that the sequencer held (log 79); `accld`, `acczero`, `mcfg` and `mbar.arr` send their work; `mbar.wait` goes on once the phase differs. -/
def Obligations.MatrixInstructions : Prop :=
  (∀ (s : State) (w : View) (e : Bool) (b : Opnd),
    s.Issues { len := 4, e := e, srcs := opndRun b 2, kind := .seqCtl } (fun _ => !opndRunOk b 2) noCheck w → w.Calm →
    let va := w.param64 b 0
    (va.toNat % 4 ≠ 0 → Raises (.mstart e b) s w { code := 0x1C, sub := 0, tval := va.setWidth 32, slot := w.n }) ∧
    (va.toNat % 4 = 0 → ∀ x, s.seqOfBlock w.k.block = some x →
      (x.st ≠ .idle → exec (.mstart e b) s = .next (s.cutRun w .seqBusy)) ∧
      (x.st = .idle → PassesThen (.mstart e b) s w 4 (fun u => u.putSeq { x with
        st := .run, pc := va, ctr := Vector.replicate 4 0, starter := w.k, starterGid := w.g.gid, word := 0, lines := [] })))) ∧
  (∀ (s : State) (w : View) (e : Bool) (t b : Opnd),
    s.Issues { len := 4, e := e, srcs := [b], dsts := opndRun t 16, kind := .tile } (fun _ => !opndRunOk t 16) noCheck w → w.Calm →
    let tile := bitsAt (w.sval b).toNat 0 3
    (w.act = 0 → Passes (.accld e t b) s w 4) ∧
    (w.act ≠ 0 → w.b.tiles ≤ tile → Raises (.accld e t b) s w (.plain 0x10 w.n)) ∧
    (w.act ≠ 0 → tile < w.b.tiles → 63 ≤ w.g.tlCnt → exec (.accld e t b) s = .next (s.cutRun w (.count 3))) ∧
    (w.act ≠ 0 → tile < w.b.tiles → w.g.tlCnt < 63 →
      ∃ u g', exec (.accld e t b) s = .next u ∧ OnlyGroupOp s u w.k g' w.n (.accld tile (bitsAt (w.sval b).toNat 3 3) t w.act) ∧
        GoesOn w (fun g => { g with tlCnt := g.tlCnt + 1 }) g' ∧
        ∀ r ∈ (opndRun t 16).filterMap (regOf w.g.hm), ∃ p ∈ g'.pend, p.reg = r ∧ p.kind = .var ∧ p.op = s.ids)) ∧
  (∀ (s : State) (w : View) (e : Bool) (b : Opnd), s.Issues { len := 4, e := e, srcs := [b], kind := .tile } noCheck noCheck w → w.Calm →
    let tile := bitsAt (w.sval b).toNat 0 3
    (w.act = 0 → Passes (.acczero e b) s w 4) ∧
    (w.act ≠ 0 → w.b.tiles ≤ tile → Raises (.acczero e b) s w (.plain 0x10 w.n)) ∧
    (w.act ≠ 0 → tile < w.b.tiles → 63 ≤ w.g.tlCnt → exec (.acczero e b) s = .next (s.cutRun w (.count 3))) ∧
    (w.act ≠ 0 → tile < w.b.tiles → w.g.tlCnt < 63 →
      ∃ u g', exec (.acczero e b) s = .next u ∧ OnlyGroupOp s u w.k g' w.n (.acczero tile) ∧
        GoesOn w (fun g => { g with tlCnt := g.tlCnt + 1 }) g')) ∧
  (∀ (s : State) (w : View) (e : Bool) (b : Opnd), s.Issues { len := 4, e := e, srcs := [b], kind := .seqCtl } noCheck noCheck w →
    w.Calm → (w.act = 0 → Passes (.mcfg e b) s w 4) ∧
    (w.act ≠ 0 → ∃ u g', exec (.mcfg e b) s = .next u ∧ OnlyGroupOp s u w.k g' w.n (.mcfg (w.sval b)) ∧ GoesOn w id g')) ∧
  (∀ (s : State) (w : View) (e : Bool) (n : Fin 16), s.Issues { len := 4, e := e, kind := .stage, barrier := true } noCheck noCheck w →
    w.Calm → ∃ u g', exec (.mbarArr e n) s = .next u ∧ OnlyGroupOp s u w.k g' w.n (.stageArr w.k.block n) ∧ GoesOn w id g') ∧
  (∀ (s : State) (w : View) (e : Bool) (n : Fin 16) (t : Opnd),
    s.Issues { len := 4, e := e, srcs := [t], kind := .stage, barrier := true, ends := true } noCheck noCheck w → w.Calm →
    let ph := (w.sval t).getLsbD 0
    (w.b.sbar[n].ph ≠ ph → PassesThen (.mbarWait e n t) s w 4 (fun u => u.l1Drop (fun l => l.core == w.g.core))) ∧
    (w.b.sbar[n].ph = ph → Waits (.mbarWait e n t) s w (.stage n ph)))

namespace Sys2Proof.Machine

/-- The sequencer of the current stream word, in Run, with its block and its context running. -/
structure State.AtWord (s : State) (x : Sequencer) (b : Block) : Prop where
  seq : s.seq? s.curSeq = some x
  block : s.block? x.blk = some b
  run : x.st = .run
  context : s.ctxRuns b.asid = true

/-- The `mma` word of a mode. -/
def IsMma (i : Instr) (m : MmaFields) : MmaMode → Prop
  | .f16 => i = .mmaF16 m
  | .bf16 => i = .mmaBf16 m
  | .s8 => i = .mmaS8 m
  | .u8 => i = .mmaU8 m
  | .c8 => i = .mmaC8 m
  | .s4 => i = .mmaS4 m
  | .f16sp16 => i = .mmaF16Sp16 m
  | .bf16sp16 => i = .mmaBf16Sp16 m
  | .s8sp16 => i = .mmaS8Sp16 m
  | .s8sp8 => i = .mmaS8Sp8 m
  | .s4sp8 => i = .mmaS4Sp8 m

end Sys2Proof.Machine

open Sys2Proof Sys2Proof.Machine in
/-- R243, R244, R247, R248, R252, R260, R264, R293, R415 to R417: a stream word acts on its sequencer in Run: the control words move its
PC, loop counters and state; `mzero`, `marr`, `mwait`, `mend` and `mma` act once no step is left; an `mma` that passes its checks
issues a step, and a tile or operand that it may not name ends the stream with cause 0x10. -/
def Obligations.StreamWords : Prop :=
  ∀ (s : State) (x : Sequencer) (b : Block), s.AtWord x b →
    exec .mnop s = .next (s.putSeq (x.goto (x.pc + 4))) ∧
    (∀ disp, exec (.mbra disp) s = .next (s.putSeq (x.goto (x.pc + 4 * disp.signExtend 64)))) ∧
    (∀ (c : Fin 4) (nm1 disp : BitVec 12), exec (.mloop c nm1 disp) s = .next (s.putSeq
      (if (x.ctr[c] + 1).toNat < nm1.toNat + 1 then
        { x.goto (x.pc + 4 * disp.signExtend 64) with ctr := x.ctr.set c (x.ctr[c] + 1) }
       else { x.goto (x.pc + 4) with ctr := x.ctr.set c 0 }))) ∧
    (∀ pc, x.goto pc = { x with pc := pc, lines := (x.goto pc).lines } ∧ ∀ l ∈ (x.goto pc).lines,
      l ∈ x.lines ∧ (l.1 = lineBase pc ∨ l.1 = lineBase pc + 128)) ∧
    (x.step = none →
      exec .mend s = .next ((s.putSeq { x with st := .idle }).wakeStart b.serial) ∧
      (∀ (n : Fin 16) (ph : Bool), exec (.mwait n ph) s = .next (s.putSeq
        (if b.sbar[n].ph = ph then { x with st := .wait, waitOn := some (n, ph) } else x.goto (x.pc + 4)))) ∧
      (∀ n : Fin 16, exec (.marr n) s = .next ((s.putSeq (x.goto (x.pc + 4))).addOp ⟨b.serial, 32⟩ 0 (.stageArr b.serial n))) ∧
      (∀ tile : Fin 8,
        (b.tiles ≤ tile.val → exec (.mzero tile) s = .next (s.seqIllegal b x)) ∧
        (tile.val < b.tiles → exec (.mzero tile) s = .next (s.putSeq { x.goto (x.pc + 4) with
          tiles := x.tiles.set tile.val Tile.zero, talus := x.talus.filter (fun e => e.tile != tile.val) }))) ∧
      ∀ (i : Instr) (mode : MmaMode) (m : MmaFields), IsMma i m mode →
        (stepOk b x mode m = false → exec i s = .next (s.seqIllegal b x)) ∧
        (stepOk b x mode m = true → exec i s = .next (s.putSeq { x.goto (x.pc + 4) with
          tiles := x.tiles.set m.tile.val { x.tile m.tile.val with kind := mode.kind },
          step := some { mode := mode, m := m, word := x.word, pc := x.pc, slice := 0, acc := Vector.replicate 4096 FpAcc.zero } })))

namespace Sys2Proof.Machine

/-- The value of an element of a tile (R259). -/
def Sequencer.value (x : Sequencer) (n : Nat) (e : Fin 4096) : Word :=
  let t := x.tile n
  match t.kind with
  | .none => 0
  | .fp => t.v[e]
  | k => t.v[e] + BitVec.ofInt 32 (t.p0[e] + t.p1[e] +
      2 ^ k.width * ((x.talus.filter (fun y => y.tile == n && y.row == e.val / 64 && y.col == e.val % 64)).map (·.cnt)).sum)

end Sys2Proof.Machine

open Sys2Proof Sys2Proof.Machine in
/-- R242, R244, R251 to R259, R266: k-slices, each at its sequencer's turn at the array. Sixteen of them make a step; one whose
A register or B registers are zero contributes nothing (log 118); a step reads a register when the first k-slice that uses it is
applied, and keeps it as it was then (log 75); an FP step rounds each element once at its end; an integer slice
keeps its partials, with their carry, equal to the sum of the products; a slice that lacks Talus entries stalls or traps, and one
that stalls is evaluated again, made ready once its entries fit, and traps where `mcfg` has set TMODE meanwhile (log 78); a drain gives
each element's value, 0 for a tile of no kind (log 76), and leaves it in the accumulator; the word of a Talus entry. -/
def Obligations.KSlices : Prop :=
  (∀ (s : State) (k : SeqKey) (x : Sequencer) (b : Block) (t : MmaStep) (i : SliceIn), s.stepOf k .run = some (x, b, t, i) →
    s.arrayTurn k = true →
    let u := { s with arrays := k :: s.arrays.filter (fun y => !(y.cluster == k.cluster)) }
    (∀ y, x.applySlice i t = some y → exec (.ksliceApply k) s = .next (u.putSeq y)) ∧
    (x.applySlice i t = none → exec (.ksliceApply k) s =
      .next (if x.tmode then (u.putSeq { x with st := .trapped }).seqRaise b x 0x1A else u.putSeq { x with st := .stall }))) ∧
  (∀ (s : State) (k : SeqKey) (x : Sequencer) (b : Block) (t : MmaStep) (i : SliceIn), s.stepOf k .stall = some (x, b, t, i) →
    (∀ y, x.applySlice i t = some y → exec (.talusStallRetry k) s = .next (s.putSeq { x with st := .run })) ∧
    (x.applySlice i t = none → x.tmode = true →
      exec (.talusStallRetry k) s = .next ((s.putSeq { x with st := .trapped }).seqRaise b x 0x1A)) ∧
    exec (.talusStallTimeout k) s = .next ((s.putSeq { x with st := .trapped }).seqRaise b x 0x1A)) ∧
  (∀ (x : Sequencer) (i : SliceIn) (t : MmaStep), t.mode.kind = .fp → t.m.tile.val < x.tiles.length →
    let out := fun (e : Fin 4096) => if i.skipped t.slice = true then t.acc[e]
      else i.fpSlice t.slice (e.val / 64) (e.val % 64) t.acc[e]
    ∃ y, x.applySlice i t = some y ∧ y.talus = x.talus ∧
      (t.slice < 15 → y.tiles = x.tiles ∧ y.step = some { t.applied i with acc := Vector.ofFn out }) ∧
      (15 ≤ t.slice → y.step = none ∧ (y.tile t.m.tile.val).kind = .fp ∧
        ∀ e : Fin 4096, (y.tile t.m.tile.val).v[e] = (out e).finish (x.tile t.m.tile.val).v[e])) ∧
  (∀ (x : Sequencer) (i : SliceIn) (t : MmaStep), t.mode.kind ≠ .fp →
    x.applySlice i t = (if i.skipped t.slice = true then some x else x.intApply i t.slice).map (fun y =>
      if t.slice < 15 then { y with step := some (t.applied i) }
      else { y with step := none, tiles := y.tiles.set t.m.tile.val { y.tile t.m.tile.val with kind := t.mode.kind } })) ∧
  (∀ (t : MmaStep) (i : SliceIn), let u := t.applied i
    u.slice = t.slice + 1 ∧ u.mode = t.mode ∧ u.m = t.m ∧ u.word = t.word ∧ u.pc = t.pc ∧ u.acc = t.acc ∧
      ∀ x, x ∈ u.regs ↔ x ∈ t.regs ∨ x ∈ i.reads t.slice) ∧
  (∀ (t : MmaStep) (n : Fin 32) (g : Group) (r : Fin 128) (v : Lanes), t.regs = [(n, r.val, v)] →
    (∀ m : Fin 128, (t.seen n g).v[m] = if m = r then v else g.v[m]) ∧ ∀ k : Fin 32, k ≠ n → t.seen k g = g) ∧
  (∀ e : TalusEnt, e.tile < 8 → e.row < 64 → e.col < 64 → -32768 ≤ e.cnt → e.cnt < 32768 →
    (e.word.extractLsb' 0 16).toInt = e.cnt ∧ (e.word.extractLsb' 16 6).toNat = e.col ∧ (e.word.extractLsb' 22 6).toNat = e.row ∧
      (e.word.extractLsb' 28 3).toNat = e.tile ∧ e.word.getLsbD 31 = true) ∧
  (∀ (i : SliceIn) (j row col : Nat) (p0 p1 : Int), let r := i.intSlice j row col p0 p1
    let products := (i.range j).map (fun c => i.mode.int i.ta (i.factors row col c).1 * i.mode.int i.tb (i.factors row col c).2)
    r.q0 + r.q1 + 2 ^ i.mode.kind.width * r.net = p0 + p1 + products.sum) ∧
  (∀ (x y : Sequencer) (i : SliceIn) (j : Nat), x.intApply i j = some y → i.m.tile.val < x.tiles.length →
    (x.tile i.m.tile.val).kind = i.mode.kind → i.mode.kind ≠ .fp → i.mode.kind ≠ .none →
    y.talus.length ≤ max 512 x.talus.length ∧
    ∀ e : Fin 4096, y.value i.m.tile.val e = x.value i.m.tile.val e + BitVec.ofInt 32
      ((i.range j).map (fun c => i.mode.int i.ta (i.factors (e.val / 64) (e.val % 64) c).1 *
        i.mode.int i.tb (i.factors (e.val / 64) (e.val % 64) c).2)).sum) ∧
  (∀ (x : Sequencer) (n : Nat) (slab : Fin 8), let r := x.drain n slab
    r.2.length = 512 ∧
    (∀ j : Fin 512, r.2[j.val]? = some (x.value n ⟨512 * slab.val + j.val, by omega⟩)) ∧
    (∀ e, r.1.value n e = x.value n e) ∧
    (n < x.tiles.length → (x.tile n).kind ≠ .none → (x.tile n).kind ≠ .fp → ∀ j : Fin 512,
      ∀ e : Fin 4096, e.val = 512 * slab.val + j.val → (r.1.tile n).p0[e] = 0 ∧ (r.1.tile n).p1[e] = 0 ∧
        ∀ y ∈ r.1.talus, ¬ (y.tile = n ∧ y.row = e.val / 64 ∧ y.col = e.val % 64)))

open Sys2Proof Sys2Proof.Machine in
/-- R246, R258 to R261, R264, R265, R269, R410 to R412: the work of the engine is performed in the order of its group: a drain writes its
registers, a zeroing its tile, a configuration its fields; a stream line arrives; a watchdog takes tiles, sequencers and barriers
back to their reset values, and the engine's reset ends. -/
def Obligations.EngineWork : Prop :=
  (∀ (s : State) (o : Op) (b : Block) (g : Group) (x : Sequencer), s.Holds o b g → (∀ y ∈ s.before o, y.body.onEngine = false) →
    s.seqOfBlock o.gk.block = some x →
    (∀ tile slab t act, o.body = .accld tile slab t act → slab < 8 →
      let r := x.drain tile ⟨slab % 8, Nat.mod_lt _ (by decide)⟩
      let ws := (upFrom 0 16).filterMap (fun i => match opndPlus t i with
        | some (.v n) => some (⟨.v n, act, .v (Vector.ofFn (fun l : Fin 32 => r.2.getD (32 * i + l.val) 0))⟩ : RegWrite)
        | _ => none)
      ∃ u, exec (.accldResult o.id) s = .next u ∧ Landed s u o g ws (fun g => { g with tlCnt := g.tlCnt - 1 }) ∧
        u.seqs = s.seqs.map (fun y => if y.key = r.1.key then r.1 else y)) ∧
    (∀ tile, o.body = .acczero tile → ∃ u, exec (.acczeroPerformed o.id) s = .next u ∧
      Landed s u o g [] (fun g => { g with tlCnt := g.tlCnt - 1 }) ∧
      u.seqs = s.seqs.map (fun y => if y.key = x.key then
        { x with tiles := x.tiles.set tile Tile.zero, talus := x.talus.filter (fun e => e.tile != tile) } else y)) ∧
    (∀ word, o.body = .mcfg word → let w := word.toNat
      let y := { x with tmode := if bitAt w 12 then bitAt w 11 else x.tmode, ta := if bitAt w 16 then fin8 (bitsAt w 13 3) else x.ta,
                        tb := if bitAt w 20 then fin8 (bitsAt w 17 3) else x.tb }
      let n : Fin 16 := ⟨w % 16, Nat.mod_lt _ (by decide)⟩
      ∃ u c, exec (.mcfgPerformed o.id) s = .next u ∧ u.op? o.id = none ∧ u.block? o.gk.block = some c ∧
        c.sbar = (if bitAt w 10 then b.sbar.set n (b.sbar[n].setCount (bitsAt w 4 6)) else b.sbar) ∧
        (x.st ≠ .wait → y ∈ u.seqs))) ∧
  (∀ (s : State) (k : SeqKey) (x : Sequencer) (b : Block) (s' : State) (d : Vector Byte 128), s.seq? k = some x →
    s.block? x.blk = some b → x.st = .run → s.ctxRuns b.asid = true →
    let here := lineBase x.pc
    ((∀ l ∈ x.lines, l.1 ≠ here) → s.streamRead x b.asid here = .ok (s', some d) →
      exec (.streamFetchReturn k) s = .next (s'.putSeq { x with lines := x.lines ++ [(here, d)] })) ∧
    ((∃ l ∈ x.lines, l.1 = here) → (∀ l ∈ x.lines, l.1 ≠ here + 128) → s.streamRead x b.asid (here + 128) = .ok (s', some d) →
      exec (.streamFetchReturn k) s = .next (s'.putSeq { x with lines := x.lines ++ [(here + 128, d)] }))) ∧
  (∀ (s : State) (cluster : Nat), (∃ x ∈ s.seqs, x.key.cluster = cluster ∧ x.key.index < 4 ∧ x.st = .run ∧ x.step.isSome = true) →
    cluster ∉ s.resetting →
    ∃ t, exec (.matrixWatchdogReset cluster) s = .next t ∧ t.resetting = s.resetting ++ [cluster] ∧ t.seqs.length = s.seqs.length ∧
      (∀ x ∈ t.seqs, x.key.cluster = cluster → x.key.index < 4 → x.st = .idle ∧ x.step = none ∧ x.talus = [] ∧ x.ta = 0 ∧ x.tb = 0 ∧
        ∀ n, x.tile n = Tile.zero) ∧
      ∀ x ∈ s.seqs, x.key.cluster = cluster → x.key.index < 4 → ∀ b, s.block? x.blk = some b →
        (∀ c, s.ctx? b.asid = some c → ∃ c', t.ctx? b.asid = some c' ∧ c'.halt ≠ .running) ∧
        ∃ b', t.block? x.blk = some b' ∧ b'.sbar = Vector.replicate 16 StageBar.reset ∧ ∀ g ∈ b'.groups, g.lost = true) ∧
  (∀ (s : State) (cluster : Nat),
    exec (.matrixResetDone cluster) s = .next { s with resetting := s.resetting.filter (fun c => c != cluster) })

namespace Sys2Proof.Machine

/-! ## The host's side -/

/-- R8, R20, R420, R446, R471, R515, R518: a host write of a register of the physical function's BAR 0 changes the bits that may be
written and no others, and a read answers the register; a virtual function's write of one is aborted and logged, an offset without
a register is refused, as are the offsets at which only the physical function's BAR 0 has debug windows; a debug window reads and writes
its address space's register, for a virtual function at its own offsets, 0x20_0000 less, and only where the context's VFN names it: any
other access is aborted and logged with kind 7. -/
def Part.HostRegisters : Prop :=
  (∀ (s : State) (v : DWord), let r := s.regs
    let base := fun (cur : DWord) (lo : Nat) => let m := 1#64 ||| bitsMask 51 lo
      (cur &&& ~~~m) ||| (v &&& m)
    exec (.registerWrite 0 0x100000 true v) s = .next { s with regs := { r with ctxtBase := base r.ctxtBase 14 } } ∧
    exec (.registerWrite 0 0x102000 true v) s = .next { s with regs := { r with qtab := base r.qtab 18 } } ∧
    exec (.registerWrite 0 0x103000 true v) s = .next { s with regs := { r with exctBase := base r.exctBase 16 } } ∧
    exec (.registerWrite 0 0x103100 true v) s = .next { s with regs := { r with reproBase := base r.reproBase 16 } } ∧
    exec (.registerWrite 0 0x105404 false v) s = .next { s with regs := { r with elcons := v.setWidth 32 } } ∧
    ∀ n : Fin 9, 1 ≤ n.val → r.vfOn.getLsbD n.val = false →
      let x := (r.vfrange[n] &&& ~~~bitsMask 45 16) ||| (v &&& bitsMask 45 16)
      exec (.registerWrite 0 (0x104000 + 8 * n.val) true v) s =
        .next { s with regs := { r with vfrange := r.vfrange.set n.val x n.isLt } }) ∧
  (∀ (s : State) (p : Fin 8) (v : DWord), let x := s.regs.serr[p]
    let y := { x with cnt := v.setWidth 32, thr := v.extractLsb' 32 16, int := x.int && !v.getLsbD 48, ue := x.ue && !v.getLsbD 49 }
    exec (.registerWrite 0 (0x100200 + 8 * p.val) true v) s =
      .next { s with regs := { s.regs with serr := s.regs.serr.set p.val y p.isLt } }) ∧
  (∀ (s : State) (off : Nat) (cur : DWord), off % 8 = 0 → off < 0x200000 → s.regWord64 off = some cur →
    exec (.hostRegisterRead 0 off true) s = .next { s with resps := s.resps ++ [.ok (leBytes 8 cur.toNat)] } ∧
    exec (.hostRegisterRead 0 off false) s = .next { s with resps := s.resps ++ [.ok (leBytes 4 (cur.toNat % 2 ^ 32))] } ∧
    exec (.hostRegisterRead 0 (off + 4) false) s = .next { s with resps := s.resps ++ [.ok (leBytes 4 (cur.toNat / 2 ^ 32))] }) ∧
  (∀ (s : State) (fn off : Nat) (wide : Bool) (v : DWord), fn ≠ 0 → 0x100000 ≤ off → off < 0x200000 → off % 8 = 0 →
    (s.regWord64 off).isSome = true → exec (.registerWrite fn off wide v) s =
      .next
        { s.logError off fn 1 0xFFFF 0 with resps := s.resps ++ [.completerAbort] }) ∧
  (∀ (s : State) (off : Nat) (wide : Bool) (v : DWord), off < 0x200000 → (s.regWord64 (off / 8 * 8) = none ∨ off % (if wide then 8 else 4) ≠ 0) →
    let refused := { s.logError off 0 8 0xFFFF 0 with resps := s.resps ++ [.unsupported] }
    exec (.registerWrite 0 off wide v) s = .next refused ∧ exec (.hostRegisterRead 0 off wide) s = .next refused) ∧
  (∀ (s : State) (fn off : Nat) (wide : Bool) (v : DWord), fn ≠ 0 → 0x200000 ≤ off → off < 0x300000 →
    let refused := { s.logError off fn 8 0xFFFF 0 with resps := s.resps ++ [.unsupported] }
    exec (.registerWrite fn off wide v) s = .next refused ∧ exec (.hostRegisterRead fn off wide) s = .next refused) ∧
  (∀ (s : State) (asid n : Nat) (v : DWord), asid < 1024 → n < 0xA0 → let off := 0x200000 + 1024 * asid + 4 * n
    exec (.hostRegisterRead 0 off false) s = .next { s with resps := s.resps ++ [.ok (leBytes 4 ((s.asidInfo asid).reg n))] } ∧
    exec (.registerWrite 0 off false v) s = .next (s.putAsid ((s.asidInfo asid).dbgWrite n (v.setWidth 32)))) ∧
  (∀ (s : State) (fn asid n : Nat) (v : DWord), fn ≠ 0 → asid < 1024 → n < 0xA0 → let off := 1024 * asid + 4 * n
    (s.ctxFn asid = some fn →
      exec (.hostRegisterRead fn off false) s = .next { s with resps := s.resps ++ [.ok (leBytes 4 ((s.asidInfo asid).reg n))] } ∧
      exec (.registerWrite fn off false v) s = .next (s.putAsid ((s.asidInfo asid).dbgWrite n (v.setWidth 32)))) ∧
    (s.ctxFn asid ≠ some fn →
      let aborted := { s.logError off fn 7 0xFFFF 0 with resps := s.resps ++ [.completerAbort] }
      exec (.hostRegisterRead fn off false) s = .next aborted ∧ exec (.registerWrite fn off false v) s = .next aborted))

/-- R61, R95, R96, R97, R99, R165: clearing the persist marks; a format window is enabled by way of BUSY and its checks, and is disabled
at once, GEN advancing with every change of EN: a write of EN = 0 where EN was 0 leaves GEN as it was, and gives up a change in progress
(log 54); a write of CQALLOC is accepted, or refused with ERR 1 or 2 and no other effect. -/
def Part.WindowsAndAllocation : Prop :=
  (∀ (s : State) (v : DWord), exec (.pclr 0 v) s =
    .next { s with regs := { s.regs with l2cfg := s.regs.l2cfg.written (v ||| 0x100), pclr := true } }) ∧
  (∀ s : State, s.regs.pclr = true → exec .persistClearDone s = .next
    { s with regs := { s.regs with pclr := false }, mem := { s.mem with l2 := s.mem.l2.map (fun l => { l with persist := false }) } }) ∧
  (∀ (s : State) (i : Fin 16) (v : DWord), (s.regs.win[i]).en = false →
    let w := { s.regs.win[i] with cfmt := v.extractLsb' 1 2, dfmt := v.getLsbD 3, vfn := v.extractLsb' 4 4, busy := true }
    exec (.windowEnable 0 i v) s = .next { s with regs := { s.regs with win := s.regs.win.set i.val w i.isLt } }) ∧
  (∀ (s : State) (i : Fin 16) (v : DWord), let w := s.regs.win[i]
    ∃ t, exec (.windowDisable 0 i v) s = .next t ∧ (t.regs.win[i]).en = false ∧ (t.regs.win[i]).busy = false ∧
      (t.regs.win[i]).gen = (if w.en then w.gen + 1 else w.gen) ∧ ∀ j : Fin 16, j ≠ i → t.regs.win[j] = s.regs.win[j]) ∧
  (∀ (s : State) (i : Fin 16), (s.regs.win[i]).busy = true → let w := s.regs.win[i]
    (s.windowErr i w ≠ 0 → let w' := { w with busy := false, err := BitVec.ofNat 3 (s.windowErr i w) }
      exec (.windowEnableDone i) s = .next { s with regs := { s.regs with win := s.regs.win.set i.val w' i.isLt } }) ∧
    (s.windowErr i w = 0 → w.cfmt ≠ 2 ∨ s.statusOf .device false w.tablePlaces = .ok → ∃ t, exec (.windowEnableDone i) s = .next t ∧ (t.regs.win[i]).en = true ∧ (t.regs.win[i]).busy = false ∧
      (t.regs.win[i]).err = 0 ∧ (t.regs.win[i]).gen = w.gen + 1 ∧
      (w.cfmt = 2 → ∀ c : Fin 256, (t.regs.win[i]).held[c] = canonWord (BitVec.ofNat 32 (s.devNum (w.tbl + 4 * c.val) 4))))) ∧
  (∀ (s : State) (i : Fin 16) (w : Window),
    (w.cfmt = 3 ∨ 8 < w.vfn.toNat → s.windowErr i w = 1) ∧
    (w.cfmt ≠ 3 → w.vfn.toNat ≤ 8 → w.pages = 0 ∨ 2 ^ 52 < w.view + 65536 * w.pages → s.windowErr i w = 2) ∧
    (w.cfmt ≠ 3 → w.vfn.toNat ≤ 8 → w.pages ≠ 0 → w.view + 65536 * w.pages ≤ 2 ^ 52 → ∀ j : Fin 16, j ≠ i → (s.regs.win[j]).en = true →
      w.view < (s.regs.win[j]).view + 65536 * (s.regs.win[j]).pages → (s.regs.win[j]).view < w.view + 65536 * w.pages →
      s.windowErr i w = 3)) ∧
  (∀ (s : State) (p e : Fin 8) (v : DWord), let old := s.regs.cq[p][e]
    let new : CqEnt := { v := v.getLsbD 0, asid := v.extractLsb' 1 10, pool := v.extractLsb' 16 5, repl := v.extractLsb' 24 5, err := 0 }
    let steps := (((s.regs.cq[p]).set e.val new e.isLt).toList.map (fun (x : CqEnt) => if x.v then x.pool.toNat + x.repl.toNat else 0)).sum
    let busy := (old.v && s.hasCirqueWork p.val old.asid.toNat) || (new.v && s.hasCirqueWork p.val new.asid.toNat)
    let left := if 16 < steps then { old with err := 1 } else if busy then { old with err := 2 } else new
    let row := (s.regs.cq[p]).set e.val left e.isLt
    exec (.cqallocWrite 0 p e v) s = .next { s with regs := { s.regs with cq := s.regs.cq.set p.val row p.isLt } })

end Sys2Proof.Machine

open Sys2Proof Sys2Proof.Machine in
/-- R519 to R523, R70, R72: attestation and the summary end with a signal of vector 3, the report and the summary in their buffers (the
layout of the report, and of what R521 lists without one, is the model's: log 59); a GO while a summary is being written is ignored; the
images are verified in order, each against the fused key hash, its signature and its minimum version (logs 98, 122); the link trains,
comes up, replays, fails and goes down, and retrains on request unless faulted contexts or lost lines are outstanding: PAIRSTAT reads
1 then, with vector 2 at each change (log 53); the clock is lowered, and stops at the trip. -/
def Obligations.FirmwareLinkAndPower : Prop :=
  (∀ (s : State) (v : DWord), s.regs.attBusy = false →
    exec (.attestationRequest 0 v) s = .next { s with regs := { s.regs with attreq := v, attBusy := true } }) ∧
  (∀ (s : State) (v : DWord), s.regs.attBusy = true → exec (.attestationRequest 0 v) s = .next s) ∧
  (∀ s : State, s.regs.attBusy = true → s.host.wf = true → ∃ t, exec .attestationReportDone s = .next t ∧
    t.regs = { s.regs with attBusy := false } ∧
    t.msix = s.msix ++ [(0, 3)] ∧ t.blocks = s.blocks ∧ t.dram = s.dram ∧
    let r := s.regs
    let parts := [Config.serial] ++ r.images.flatMap (fun x => [x.1, leBytes 4 x.2]) ++
      [sha256 (([r.ctxtBase, r.l2word, r.qtab, r.exctBase, r.reproBase] ++ r.vfrange.toList.drop 1).flatMap (fun w => leBytes 8 w.toNat)),
       r.nonce.toList.flatMap (fun w => leBytes 4 w.toNat)]
    ∀ k, k < 512 → t.host.get (r.attreq.toNat + k) = Config.reportByte (parts ++ [Config.identitySign parts s.ids]) k) ∧
  (∀ (s : State) (v : DWord), let pa := (v &&& bitsMask 51 12).toNat
    (s.regs.sumBusy = false → exec (.summaryRequest 0 v) s =
      .next { s with regs := { s.regs with sumPa := pa, sumBusy := true, sumBuf := pa } }) ∧
    (s.regs.sumBusy = true → exec (.summaryRequest 0 v) s = .next { s with regs := { s.regs with sumPa := pa } })) ∧
  (∀ s : State, s.regs.sumBusy = true → s.host.wf = true →
    let u : State := { s with regs := { s.regs with sumBusy := false, sumSeq := s.regs.sumSeq + 1 },
                              host := s.host.clear s.regs.sumBuf 131072 }
    ∃ t, exec .summaryDone s = .next t ∧ t.regs = u.regs ∧ t.msix = s.msix ++ [(0, 3)] ∧ t.blocks = s.blocks ∧ t.dram = s.dram ∧
      let num := fun (off : Nat) => leNat ((upFrom (s.regs.sumBuf + off) 4).map t.host.get)
      num 0 = (s.regs.sumSeq + 1) % 2 ^ 32 ∧ num 4 = s.regs.fwstat % 2 ^ 32 ∧ num 8 = s.regs.pairstat % 2 ^ 32 ∧
      num 12 = (s.ctxs.filter (fun c => c.halt == .raised || c.halt == .stopping)).length % 2 ^ 32 ∧
      (∀ x ∈ s.queues, x.q < 4096 → (∀ y ∈ s.queues, y.q = x.q → y = x) → let q := 0x40 + 16 * x.q
        num q = x.head % 2 ^ 32 ∧ num (q + 4) = x.tail % 2 ^ 32 ∧ num (q + 8) = x.cdone % 2 ^ 32 ∧ num (q + 12) = x.lastCorr.toNat) ∧
      (∀ q, q < 4096 → (∀ y ∈ s.queues, y.q ≠ q) → num (0x40 + 16 * q) = 0) ∧
      ∀ c ∈ s.ctxs, c.asid < 1024 →
        (upFrom (s.regs.sumBuf + 0x10040 + 16 * c.asid) 16).map t.host.get = u.sumCtx c.asid) ∧
  (∀ (s : State) (x : FwImage) (key : List Byte),
    (s.regs.fwstat = 0 → s.regs.fwDone < 3 → exec (.firmwareImageVerify x key) s = .next (if imageOk s.regs.fwDone x key = true then
        { s with regs := { s.regs with fwDone := s.regs.fwDone + 1, fwstat := if s.regs.fwDone = 2 then 1 else 0,
                                       images := s.regs.images ++ [(sha256 (x.head ++ x.body), Config.imageVersion x.head)] } }
      else { s with regs := { s.regs with fwstat := 0x80 + s.regs.fwDone } })) ∧
    (s.regs.fwstat ≠ 0 ∨ 3 ≤ s.regs.fwDone → exec (.firmwareImageVerify x key) s = .next s) ∧
    ∀ n, imageOk n x key = true ↔ x.head.length = 64 ∧ sha256 key = Config.fusedKeyHash ∧
      ecdsaOk key (sha256 (x.head ++ x.body)) x.r x.s = true ∧ Config.minVersion n ≤ Config.imageVersion x.head) ∧
  (∀ s : State, s.regs.pairstat = 1 → s.regs.fwstat = 1 →
    exec .colLinkTrainStart s = .next { s with regs := { s.regs with retraining := true } }) ∧
  (∀ s : State, s.regs.retraining = true → s.regs.pairstat ≠ 2 → exec .colLinkUp s =
    .next { s with regs := { s.regs with pairstat := 2, retraining := false }, msix := s.msix ++ [(0, 2)] }) ∧
  (∀ s : State, exec .flitCrcReplay s = .next s) ∧
  (∀ s : State, s.regs.pairstat = 2 → exec .colLinkReplayFail s =
    .next { s with regs := { s.regs with pairstat := 1, retraining := true }, msix := s.msix ++ [(0, 2)] }) ∧
  (∀ s : State, s.regs.retraining = true → s.regs.pairstat ≠ 3 → ∃ t, exec .colLinkDown s = .next t ∧
    t.regs = { s.regs with pairstat := 3, retraining := false } ∧ t.msix = s.msix ++ [(0, 2)] ∧ t.mem.rdc = [] ∧
    t.mem.homeTxn = [] ∧ (∀ ln, (ln, DirState.pm) ∈ s.mem.dir → (ln, DirState.pl) ∈ t.mem.dir) ∧
    (∀ x ∈ t.mem.dir, x.2 = .pl)) ∧
  (∀ (s : State) (v : Word), (v = 1 → s.regs.pairstat = 3 → (∀ c ∈ s.ctxs, c.linkFault = false) →
      (∀ a ∈ s.asids, a.linkFault = false) → (∀ e ∈ s.mem.dir, e.2 ≠ .pl) → exec (.pairctlRetrain 0 v) s = .next { s with regs := { s.regs with pairstat := 1, retraining := true }, msix := s.msix ++ [(0, 2)] }) ∧
    (v ≠ 1 ∨ s.regs.pairstat ≠ 3 → exec (.pairctlRetrain 0 v) s = .next s) ∧
    ((∃ c ∈ s.ctxs, c.linkFault = true) ∨ (∃ a ∈ s.asids, a.linkFault = true) ∨ (∃ e ∈ s.mem.dir, e.2 = .pl) →
      exec (.pairctlRetrain 0 v) s = .next s)) ∧
  (∀ s : State, exec .powerLimitReached s = .next { s with regs := { s.regs with clkSteps := s.regs.clkSteps + 1 } }) ∧
  (∀ s : State, ∃ t, exec .thermalTrip s = .next t ∧ t.regs.clockStopped = true ∧ t.msix = s.msix ++ [(0, 1)] ∧
    t.dram = s.dram ∧ t.blocks = s.blocks ∧ t.ctxs = s.ctxs)

namespace Sys2Proof.Machine

/-- No earlier write of a queue's doorbell waits, and the queue's entry can be read. -/
def State.Rings (s : State) (q : Nat) : Prop := (∀ b ∈ s.bells, b.2.1 ≠ q) ∧ s.queueReads q = .ok

end Sys2Proof.Machine

open Sys2Proof Sys2Proof.Machine in
/-- R75, R106, R515, R518, R422, R423, R424, R519: a host access through BAR 2 to a function's range is performed once its lines are to be
had, a poisoned read is aborted and logged with kind 5 (log 58), and one outside is refused; doorbell writes, which reach the doorbells
of BAR 4, move TAIL and CCONS, are dropped while no table is set or an image has failed (which leaves what they wrote before: log 61),
and stop a queue with QERR 1 whose entry is invalid; one that needs an entry that the peer holds waits for it, and one whose entry is
poisoned or lost stops the queue with QERR 3 (log 121). -/
def Obligations.HostAccessesAndDoorbells : Prop :=
  (∀ (s : State) (fn off : Nat) (bs : List Byte), s.hostAcc = [] → (s.fnRange fn).1 + off + bs.length ≤ (s.fnRange fn).2 →
    let pa := (s.fnRange fn).1 + off
    s.statusOf .device true ((upFrom pa bs.length).map (fun a => (⟨.device, a⟩ : Loc))) = .ok →
    exec (.hostBar2Write fn off bs) s = .next (s.writeBytes .device ⟨.device, pa⟩ bs).noteCleared) ∧
  (∀ (s : State) (fn off len : Nat), s.hostAcc = [] → (s.fnRange fn).1 + off + len ≤ (s.fnRange fn).2 →
    let pa := (s.fnRange fn).1 + off
    let ls := (upFrom pa len).map (fun a => (⟨.device, a⟩ : Loc))
    s.statusOf .device false ls = .ok →
    (s.poisonIn .device ⟨.device, pa⟩ len = true → exec (.hostBar2Read fn off len) s =
      .next { s.logError pa 0 5 0xFFFF 0 with resps := s.resps ++ [.completerAbort] }) ∧
    (s.poisonIn .device ⟨.device, pa⟩ len = false → exec (.hostBar2Read fn off len) s =
      .next { s.touchFor .device ls .normal false with resps := s.resps ++ [.ok (s.bytesAt .device ⟨.device, pa⟩ len)] })) ∧
  (∀ (s : State) (fn off len : Nat) (bs : List Byte), s.hostAcc = [] → (s.fnRange fn).2 < (s.fnRange fn).1 + off + len → bs.length = len →
    let refused := { s.logError off fn 3 0xFFFF 0 with resps := s.resps ++ [.unsupported] }
    exec (.hostBar2Write fn off bs) s = .next refused ∧ exec (.hostBar2Read fn off len) s = .next refused) ∧
  (∀ (s : State) (fn q : Nat) (v : DWord), q < 4096 →
    exec (.registerWrite fn (0x4000000 + 256 * q) false v) s = exec (.doorbellTail fn q (v.setWidth 32)) s ∧
    exec (.registerWrite fn (0x4000000 + 256 * q + 4) false v) s = exec (.doorbellCcons fn q (v.setWidth 32)) s ∧
    ∀ off, off < 0x100000 → off % 256 ≠ 0 → off % 256 ≠ 4 → exec (.registerWrite fn (0x4000000 + off) false v) s =
      .next { s.logError off fn 8 0xFFFF 0 with resps := s.resps ++ [.unsupported] }) ∧
  (∀ (s : State) (fn q : Nat) (v : Word), (∀ b ∈ s.bells, b.2.1 ≠ q % 4096) → s.regs.qtab.getLsbD 0 = false ∨ 0x80 ≤ s.regs.fwstat →
    exec (.doorbellTail fn q v) s = .next s ∧ exec (.doorbellCcons fn q v) s = .next s) ∧
  (∀ (s : State) (fn q : Nat) (v : Word), q < 4096 → s.regs.qtab.getLsbD 0 = true → s.regs.fwstat < 0x80 → (∀ b ∈ s.bells, b.2.1 ≠ q) →
    s.bellReads q = true →
    (∀ u, s.queueReads q = .wait u → exec (.doorbellTail fn q v) s = .next { u with bells := s.bells ++ [(fn, q, v)] }) ∧
    (∀ w, s.queueReads q = .bad w → exec (.doorbellTail fn q v) s =
      .next (s.queueError ((s.queue? q).getD (Queue.none_ q)) 3 ((s.queue? q).map (·.swb))))) ∧
  (∀ (s : State) (fn q : Nat) (v : Word), q < 4096 → s.regs.qtab.getLsbD 0 = true → s.regs.fwstat < 0x80 → s.Rings q → s.queueFn q ≠ fn →
    exec (.doorbellTail fn q v) s = .next (s.logError (256 * q) fn 2 0xFFFF 0) ∧
    exec (.doorbellCcons fn q v) s = .next (s.logError (256 * q + 4) fn 2 0xFFFF 0)) ∧
  (∀ (s : State) (q : Nat) (x : Queue) (v : Word), q < 4096 → s.regs.qtab.getLsbD 0 = true → s.regs.fwstat < 0x80 → s.Rings q →
    let fn := s.queueFn q
    (s.noteCleared.queue? q = some x → x.cleared = false → x.qerr = 0 → x.idle = false →
      let y := { x with tail := v.toNat }
      (countDiff v.toNat x.head ≤ 2 ^ x.rlog → exec (.doorbellTail fn q v) s = .next ((s.noteCleared.putQueue y).skipPackets q x.skip)) ∧
      (2 ^ x.rlog < countDiff v.toNat x.head → exec (.doorbellTail fn q v) s = .next (s.noteCleared.queueError y 2 (some x.swb)))) ∧
    (s.noteCleared.queue? q = none → let r := s.noteCleared.readEntryQ (Queue.none_ q)
      let y := { r.x with tail := v.toNat }
      (r.ok = true → v.toNat ≤ 2 ^ y.rlog → exec (.doorbellTail fn q v) s = .next ((s.noteCleared.putQueue y).skipPackets q 0)) ∧
      (r.ok = false → exec (.doorbellTail fn q v) s = .next (s.noteCleared.queueError { r.x with cleared := !r.v } 1 r.swb))) ∧
    (s.noteCleared.queue? q = some x → x.cleared = true → x.qerr = 0 → bitAt (s.noteCleared.queueCtl q) 0 = false →
      let r := s.noteCleared.readEntryQ x
      exec (.doorbellTail fn q v) s = .next (s.noteCleared.queueError { r.x with cleared := true } 1 r.swb)) ∧
    (s.queue? q = some x → let y := { x with ccons := v.toNat }
      exec (.doorbellCcons fn q v) s = .next (((s.putQueue y).flushRecords q x.held.length).skipPackets q x.skip)))

namespace Sys2Proof.Machine

/-! ## Queues, packets, launches -/

/-- The next packet of a queue, of an OP, legal in all its fields, not skipped, and free to start. -/
structure State.Reads (s : State) (q code : Nat) (p : Packet) : Prop where
  next : s.nextPacket q = .packet p
  kept : p.x.skip = 0
  good : s.packetGood p = true
  op : p.op = code
  free : p.ser = false ∨ code = 1 ∨ code = 4 ∨ p.x.inFlight = []

end Sys2Proof.Machine

open Sys2Proof Sys2Proof.Machine in
/-- R421, R424, R425, R427, R428, R433: a packet is read when it is next: HEAD passes it, and it does what its OP says; an illegal one
completes with 0x1E; a completion posts its record where the ring has room; a branch tests the result of the packet it names and
skips, each skipped packet with 0x1F. -/
def Obligations.QueuePackets : Prop :=
  (∀ (s : State) (q : Nat) (p : Packet), s.Reads q 0 p → exec (.nopPacket q) s = .next ((s.takePacket p).finishPacket p 0)) ∧
  (∀ (s : State) (q : Nat) (p : Packet), s.nextPacket q = .packet p → p.x.skip = 0 → s.packetGood p = false →
    p.legal = false ∨ p.ser = false ∨ p.op = 1 ∨ p.op = 4 ∨ p.x.inFlight = [] → exec (.illegalPacket q) s = .next ((s.takePacket p).finishPacket p 0x1E)) ∧
  (∀ (s : State) (q : Nat) (p : Packet), s.nextPacket q = .packet p → ∃ y, (s.takePacket p).queue? q = some y ∧
    y.head = (p.x.head + 1) % 2 ^ 32 ∧ y.inFlight = p.x.inFlight ++ [p.n] ∧ p.n = p.x.head ∧ s.queue? q = some p.x) ∧
  (∀ (s : State) (q : Nat) (x : Queue) (c : Completion), s.queue? q = some x → x.held = [] → x.full = false →
    ∃ y, (s.completePacket q c).queue? q = some y ∧ y.cdone = (x.cdone + 1) % 2 ^ 32 ∧ y.held = [] ∧ y.lastCorr = c.corr ∧
      y.inFlight = x.inFlight.erase c.n ∧ y.head = x.head ∧
      (c.irq = true → x.msix ≤ 2047 → (s.completePacket q c).msix = s.msix ++ [(x.vfn, x.msix)])) ∧
  (∀ (s : State) (q : Nat) (x : Queue), s.queue? q = some x → 2 ^ x.clog ≤ countDiff x.cdone x.ccons →
    (∀ p, s.nextPacket q ≠ .packet p) ∧ s.signalGo? q = none ∧ (∀ l : Launch, l.q = q → s.mayStart l = false) ∧
    ∀ c : Completion, ∃ y, s.completePacket q c = s.putQueue y ∧ y.cdone = x.cdone ∧ y.held = x.held ++ [c]) ∧
  (∀ (s : State) (q : Nat) (p : Packet), s.Reads q 2 p → exec (.branch q) s = .next ((s.takePacket p).holdQueue q
    (.branch p.n (p.f 4 1) (p.f 5 1) (p.f 6 1 == 1) (BitVec.ofNat 32 (p.f 8 4)) (BitVec.ofNat 32 (p.f 0xC 4)) p.irq))) ∧
  (∀ (s : State) (q : Nat) (x : Queue) (n back skip : Nat) (cmp irq : Bool) (mask val : Word), s.queue? q = some x →
    x.hold = some (.branch n back skip cmp mask val irq) → countDiff n back ∉ x.inFlight →
    let result := ((x.results.find? (fun r => r.1 == countDiff n back)).map (·.2)).getD 0
    let take := if cmp then result &&& mask ≠ val else result &&& mask = val
    (take → exec (.branchEvaluate q) s = .next
      (((s.putQueue { x with hold := none, skip := skip }).completePacket q (x.plainDone n 2 0 irq)).skipPackets q skip)) ∧
    (¬ take → exec (.branchEvaluate q) s = .next
      ((s.putQueue { x with hold := none, skip := 0 }).completePacket q (x.plainDone n 2 0 irq)))) ∧
  (∀ (s : State) (q : Nat) (p : Packet) (l : Loc), s.Reads q 3 p → (s.takePacket p).packetWord p = some l → let t := s.takePacket p
    (t.waitMet l (p.f 0x10 8) = true → exec (.queueWait q) s = .next (t.finishPacket p 0)) ∧
    (t.waitMet l (p.f 0x10 8) = false →
      (t.holdQueue q (.wait p.n l (p.f 0x10 8) p.irq)).poisonIn .device l 8 = false →
      exec (.queueWait q) s = .next (t.holdQueue q (.wait p.n l (p.f 0x10 8) p.irq)))) ∧
  (∀ (s : State) (q : Nat) (x : Queue) (n c : Nat) (l : Loc) (irq : Bool), s.queue? q = some x → x.hold = some (.wait n l c irq) →
    s.waitMet l c = true →
    exec (.queueWaitPoll q) s = .next ((s.putQueue { x with hold := none }).completePacket q (x.plainDone n 3 0 irq))) ∧
  (∀ (s : State) (q : Nat) (x : Queue) (n : Nat) (l : Loc) (v : DWord) (irq : Bool) (r : List (Nat × Loc × DWord × Bool)),
    s.queue? q = some x → x.sigs = (n, l, v, irq) :: r → x.full = false → x.earlierDone n = true → s.posted = [] →
    s.lineStatus .device true l = .ok →
    exec (.signal q) s = .next (((s.writeNum .device l 8 v.toNat).putQueue { x with sigs := r }).completePacket q (x.plainDone n 4 0 irq))) ∧
  (∀ (s : State) (q : Nat) (p : Packet) (l : Loc) (y : Queue), s.Reads q 4 p → (s.takePacket p).packetWord p = some l →
    (s.takePacket p).queue? q = some y → s.signalGo? q = none →
    let t := (s.takePacket p).putQueue { y with sigs := y.sigs ++ [(p.n, l, BitVec.ofNat 64 (p.f 0x10 8), p.irq)] }
    exec (.signal q) s = .next ((t.signalGo? q).getD t))

open Sys2Proof Sys2Proof.Machine in
/-- R22, R42 to R47, R427, R445, R450, R458, R459: the management packets. An invalidate reads the context's entry and its exception
entry again, once their lines can be read (log 121: where they cannot be had, the context keeps what it holds), drops the
translations of its range (the address space is made new where no context of it is resident, log 120), drains what was translated
through the dropped mappings, writes its lines back, discards what is poisoned, and completes (log 93). A page move is refused with a
status, or copies its sectors, rewrites its leaf entries and then invalidates (log 93; its VA is rounded down to its size, log 116). An
abort takes the blocks that lost work, or a launch (log 91: one that has started completes when its discarded work is gone); context
control halts, resumes and ends (log 90: the answers for a context that is not resident or that is halting are the model's). -/
def Obligations.ManagementPackets : Prop :=
  (∀ (s : State) (q : Nat) (p : Packet), s.Reads q 5 p → (∀ u, s.rereadReads p.asid ≠ .wait u) → let t := s.takePacket p
    let pa := if bitAt (p.f 0x18 8) 0 then some (bitsAt (p.f 0x18 8) 16 36 * 65536) else none
    let j : Job := ⟨t.ids, q, p.n, p.irq, p.asid, p.f 8 8, p.f 0x10 8, pa, none, 1, t.droppedBy p.asid (p.f 8 8) (p.f 0x10 8)⟩
    let u := t.rereadTables p.asid
    exec (.inval q) s = .next ((({ u with ids := t.ids + 1, jobs := t.jobs ++ [j] }).renewAsid p.asid j.va j.pages).dropRange
      p.asid j.va j.pages)) ∧
  (∀ (s : State) (c : Ctx) (w : Nat × Nat), s.ctx? c.asid = some c → s.ctxtWords c.asid = some w →
    let c' := { c with v := bitAt w.1 0, root := bitsAt w.1 16 36 * 65536, fth := bitAt w.1 7 }
    (s.rereadCtx c.asid).ctx? c.asid = some c' ∧
    (s.rereadReads c.asid = .ok → (s.rereadTables c.asid).ctx? c.asid = some ((s.rereadCtx c.asid).rereadExc c')) ∧
    (∀ l, s.rereadReads c.asid = .bad l → s.rereadTables c.asid = s.entryFault c.asid l)) ∧
  (∀ (s : State) (c : Ctx), let d := s.rereadExc c
    d.hpc = (s.readExc c).hpc ∧ d.fring = (s.readExc c).fring ∧ d.sring = (s.readExc c).sring ∧ d.wbArea = (s.readExc c).wbArea ∧ (d.wbArea = c.wbArea → d = s.readExc c)) ∧
  (∀ (s : State) (asid va pages : Nat), let t := s.dropRange asid va pages
    (∀ e, e ∈ t.tlb ↔ e ∈ s.tlb ∧ ¬ (e.asid = asid ∧ e.vbase < va + 65536 * pages ∧ va < e.vbase + e.size.bytes)) ∧
    (∀ f, f ∈ t.fails ↔ f ∈ s.fails ∧ s.asidOf f.gk ≠ asid) ∧ t.blocks = s.blocks ∧ t.mem = s.mem ∧ t.dram = s.dram) ∧
  (∀ (s : State) (j : Job), s.job? j.id = some j → j.phase = 1 →
    (∀ o ∈ s.ops, o.id < j.id → s.asidOf o.gk = j.asid → o.body.holdsJob j = false) → (∀ l ∈ s.ownedLocs, j.covers l.pa = false) →
    (∀ x ∈ s.mem.peerOwned, j.covers (128 * x.1) = false) → s.peerHeld (fun ln => j.covers (128 * ln)) = [] →
    let t := s.discardLines (fun ln => j.covers (128 * ln))
    let mem := { t.mem with dir := t.mem.dir.filter (fun e => !(j.covers (128 * e.1))) }
    exec (.invalShootdownDone j.id) s = .next ({ t with mem := mem }.putJob { j with phase := 2 })) ∧
  (∀ (s : State) (j : Job) (x : Queue), s.job? j.id = some j → j.phase = 2 → s.queue? j.q = some x →
    exec (.invalComplete j.id) s = .next ({ s with jobs := s.jobs.filter (fun x => x.id != j.id) }.completePacket j.q
      (x.plainDone j.n (if j.move.isSome then 6 else 5) 0 j.irq))) ∧
  (∀ (s : State) (q : Nat) (p : Packet), s.Reads q 6 p → let big := p.f 6 2 == 1
    let size := if big then 2097152 else 65536
    let va := p.f 8 8 / size * size
    let t := s.takePacket p
    (s.ctx? p.asid).isSome = true ∨ (∀ u, s.tableRead (s.entryPlaces p.asid) ≠ .wait u) →
    (∀ st, s.moveCheck p.asid va (p.f 0x10 8) big = .refuse st → exec (.pmove q) s = .next (t.finishPacket p st)) ∧
    (∀ old leaves, s.moveCheck p.asid va (p.f 0x10 8) big = .go old leaves →
      let j : Job := ⟨t.ids, q, p.n, p.irq, p.asid, va, size / 65536, none, some (old, p.f 0x10 8, size, leaves), 0, []⟩
      exec (.pmove q) s = .next { t with ids := t.ids + 1, jobs := t.jobs ++ [j] }) ∧
    (s.mayMove p.asid = false → s.moveCheck p.asid va (p.f 0x10 8) big = .refuse 1)) ∧
  (∀ (s : State) (j : Job) (old new size : Nat) (leaves : List Nat), s.job? j.id = some j → j.move = some (old, new, size, leaves) →
    j.phase = 0 → let a := Agent.ctx j.asid
    let lines := fun (base : Nat) => (upFrom 0 (size / 128)).map (fun i => Loc.mk .device (base + 128 * i))
    (∀ l ∈ lines old, s.lineStatus a false l = .ok) →
    (∀ l ∈ lines new, s.lineStatus a true l = .ok) → (∀ pa ∈ leaves, s.lineStatus a true ⟨.device, pa⟩ = .ok) →
    let leaf := fun (u : State) (x : Nat × Nat) => let e := u.numAt a ⟨.device, x.1⟩ 8
      u.writeNum a ⟨.device, x.1⟩ 8 (e - bitsAt e 16 36 * 65536 + (new / 65536 + x.2) * 65536)
    let t := (leaves.zip (upFrom 0 leaves.length)).foldl leaf (s.copyRange a old new size)
    exec (.pmoveCopyDone j.id) s = .next ((t.dropRange j.asid j.va j.pages).putJob
      { j with pa := some old, phase := 1, dropped := t.droppedBy j.asid j.va j.pages })) ∧
  (∀ (s : State) (a : Agent) (old new n : Nat),
    s.copyRange a old new 0 = s ∧
    s.copyRange a old new (32 * (n + 1)) = (s.copyRange a old new (32 * n)).copySector a (old + 32 * n) (new + 32 * n) ∧
    s.copySector a old new = (if s.poisonIn a ⟨.device, old⟩ 32 = true then s.spoil (new / 32)
      else s.writeBytes a ⟨.device, new⟩ (s.bytesAt a ⟨.device, old⟩ 32))) ∧
  (∀ (s : State) (q : Nat) (p : Packet), s.Reads q 7 p → let t := s.takePacket p
    (p.f 6 2 = 0 → exec (.abortLost q) s =
      .next (((t.blocks.filter (fun b => b.asid == p.asid && b.lostOrDbl)).foldl State.abortBlock t).finishPacket p 0)) ∧
    (p.f 6 2 = 1 → (t.launches.find? (fun l => l.asid == p.asid && l.corr.toNat == p.f 8 4) = none →
        exec (.abortLaunch q) s = .next (t.finishPacket p 0)) ∧
      ∀ l, t.launches.find? (fun l => l.asid == p.asid && l.corr.toNat == p.f 8 4) = some l →
      (l.st = .started → exec (.abortLaunch q) s =
        .next (((t.discardLaunch l.id true).modLaunch l.id (fun l => { l with abort := some 0x15 })).finishPacket p 0)) ∧
      (l.st ≠ .started → exec (.abortLaunch q) s = .next (((t.postLaunch l.id 0x15).boundary l.asid).finishPacket p 0)))) ∧
  (∀ (s : State) (q : Nat) (p : Packet) (c : Ctx), s.Reads q 8 p → (s.takePacket p).ctx? p.asid = some c →
    c.halt ≠ .halted ∨ c.afterPkts = [] → let t := s.takePacket p
    (p.f 6 2 = 0 → exec (.ctxctlHalt q) s = .next (if c.halt = .halted then t.finishPacket p 0
      else (t.haltContext p.asid).modCtx p.asid (fun c => { c with haltPkts := c.haltPkts ++ [(q, p.n, p.irq)] }))) ∧
    (p.f 6 2 = 1 → s.moving p.asid = false → (∀ u, s.rereadReads p.asid ≠ .wait u) →
      (c.halt = .running → exec (.ctxctlResume q) s = .next (t.finishPacket p 1)) ∧
      (c.halt = .raised ∨ c.halt = .stopping → exec (.ctxctlResume q) s =
        .next (t.modCtx p.asid (fun c => { c with afterPkts := c.afterPkts ++ [(p.x.q, p.n, p.irq, false)] }))) ∧
      (c.halt = .halted → (∃ b ∈ t.blocks, b.asid = p.asid ∧ b.lostOrDbl = true) → exec (.ctxctlResume q) s = .next (t.finishPacket p 2)) ∧
      (c.halt = .halted → (∀ b ∈ t.blocks, b.asid = p.asid → b.lostOrDbl = false) →
        exec (.ctxctlResume q) s = .next ((t.restart p.asid).finishPacket p 0))) ∧
    (p.f 6 2 = 2 → exec (.ctxctlEnd q) s = .next (if c.halt = .halted then (t.endContext p.asid).finishPacket p 0
      else (t.haltContext p.asid).modCtx p.asid (fun c => { c with afterPkts := c.afterPkts ++ [(p.x.q, p.n, p.irq, true)] })))) ∧
  (∀ (s : State) (q : Nat) (p : Packet), s.Reads q 8 p → (s.takePacket p).ctx? p.asid = none → let t := s.takePacket p
    (p.f 6 2 = 0 → exec (.ctxctlHalt q) s = .next (t.finishPacket p 0)) ∧
    (p.f 6 2 = 1 → s.moving p.asid = false → exec (.ctxctlResume q) s = .next (t.finishPacket p 1)) ∧
    (p.f 6 2 = 2 → exec (.ctxctlEnd q) s = .next ((t.endContext p.asid).finishPacket p 0)))

open Sys2Proof Sys2Proof.Machine in
/-- R20, R22, R43, R64, R65, R66, R136, R137, R179, R398, R428, R430, R431, R438, R477: launches: a packet enters one, which is refused
where the tables say so, and otherwise accepted with its ordinal and priority; it starts after what it waits for, with the caches
invalidated; it completes once nothing of it is left, with its result; a mode switch flushes and inverts the mode. -/
def Obligations.Launches : Prop :=
  (∀ (s : State) (q : Nat) (p : Packet), s.Reads q 1 p → s.hostQuiet = true → exec (.launch q) s = .next ((s.takePacket p).enterLaunch p)) ∧
  (∀ (s : State) (q n : Nat) (x : Queue), s.queue? q = some x → x.hold = some (Hold.launch n) → s.letAllIn.admitMark ≠ s.admitMark →
    exec (.launch q) s = .next s.letAllIn) ∧
  (∀ (s : State) (l : Launch), s.launch? l.id = some l → s.regs.ctxtBase.getLsbD 0 = false → s.acceptOne l.id = s.refuseLaunch l 0x10) ∧
  (∀ (s : State) (l : Launch) (c : Ctx), c.v = false ∨ c.vfn ≠ l.fn → s.acceptIn c l = s.refuseLaunch l 0x10) ∧
  (∀ (s : State) (l : Launch) (c : Ctx) (x : LaunchData), s.launch? l.id = some l → s.ctx? c.asid = some c → c.repro = false →
    let t := s.admitLaunch c l x
    ∃ m, t.launch? l.id = some m ∧ m.st = .accepted ∧ m.desc = x.desc ∧ m.tables = x.tables ∧ m.hdr = x.hdr ∧ m.shaders = x.shaders ∧
      m.prio = min x.desc.prio (((s.queue? l.q).map (·.pcap)).getD 0) ∧ m.lseq = ((s.asidInfo c.asid).lseq + 1) % 2 ^ 32 ∧
      ∀ y, s.queue? l.q = some y → (t.queue? l.q).map (·.hold) = some none) ∧
  (∀ (s : State) (l : Launch) (status : Nat), s.launch? l.id = some l → let t := s.postLaunch l.id status
    t.launch? l.id = none ∧ (∀ g ∈ t.gangs, g.1 ≠ l.id) ∧ ∀ e ∈ t.handles, l.id ∉ e.writers ∧ l.id ∉ e.readers) ∧
  (∀ (s : State) (l : Launch), s.launch? l.id = some l → s.mayStart l = true → ∃ t, exec (.launchStart l.id) s = .next t ∧
    t.launch? l.id = some { l with st := .started, flush := [] } ∧ t.blocks = s.blocks ∧
    (∀ x ∈ t.mem.l1, ∃ p, (s.ctx? l.asid).bind Ctx.confined = some p ∧ partOfCluster (clusterOfCore x.core) ≠ p) ∧
    (∀ x ∈ t.mem.code, ∃ p, (s.ctx? l.asid).bind Ctx.confined = some p ∧ partOfCluster x.1 ≠ p)) ∧
  (∀ (s : State) (l : Launch) (c : Ctx) (s' : State), s.launch? l.id = some l → s.ctx? l.asid = some c → l.st = .started →
    c.halt = .running ∨ l.abort.isSome = true → s.launchBusy l = false → l.binSets = [] → (∀ b ∈ s.accBins, b.launch ≠ l.id) →
    (∀ b ∈ s.spilled, b.launch ≠ l.id) → (∀ r ∈ s.replays, r.launch ≠ l.id) → s.putResult c l = .ok s' →
    exec (.launchComplete l.id) s = .next (((s'.releaseAll c).postLaunch l.id (l.abort.getD 0)).boundary l.asid)) ∧
  (∀ (s : State) (c : Ctx) (l : Launch) (t : State) (p : Loc), l.desc.result ≠ 0 →
    s.cpPlace ⟨l.asid, c.confined.getD 0, l.corr⟩ l.desc.result.toNat .store = .ok (t, p) →
    s.putResult c l = .ok (t.writeBytes ⟨some l.asid, true⟩ p (leBytes 4 (if l.abort.isSome then 0 else l.result.toNat)))) ∧
  (∀ s : State, s.regs.l2cfg.swp = true → s.ctxs = [] →
    (s.modeCached = true → s.peerHeld (fun _ => true) = [] →
      exec .modeSwitchFlush s = .next ((s.flushL2 (fun _ => true)).flushRdc (fun _ => true))) ∧
    (s.modeCached = false → let cfg := { s.regs.l2cfg with mode := !s.regs.l2cfg.mode, swp := false }
      exec .modeSwitchDone s = .next ({ s with regs := { s.regs with l2cfg := cfg } }.letAllIn)))

namespace Sys2Proof.Machine

/-! ## Halts -/

end Sys2Proof.Machine

open Sys2Proof Sys2Proof.Machine in
/-- R450 to R456, R472, R473, R479: the halt line finds a context's agents, and with none the halt is complete; each agent stops with its
record (log 89), a group keeping its registers, an engine giving up what it has read ahead (log 38), and the last one completes the
halt: the context is halted, and leaves if nothing of it is left (log 83). Samples and the time limit of a
bound trace. -/
def Obligations.Halts : Prop :=
  (∀ (s : State) (asid : Nat) (c : Ctx), s.ctx? asid = some c → c.halt = .raised →
    let t := s.modCtx asid (fun c => { c with halt := .stopping, agents := s.haltAgents asid })
    (s.haltAgents asid ≠ [] → exec (.haltLineArrive asid) s = .next t) ∧
    (s.haltAgents asid = [] → exec (.haltLineArrive asid) s = .next (t.haltDone asid))) ∧
  (∀ (s : State) (asid : Nat) (c : Ctx) (a : HaltAgent), s.ctx? asid = some c → c.halt = .stopping → a ∈ c.agents →
    let t := (s.stopAgent asid a).modCtx asid (fun c => { c with agents := c.agents.filter (fun x => x != a) })
    ((∃ x ∈ c.agents, x ≠ a) → exec (.haltAgentStop asid a) s = .next t) ∧
    ((∀ x ∈ c.agents, x = a) → exec (.haltAgentStop asid a) s = .next (t.haltDone asid))) ∧
  (∀ (s : State) (asid : Nat) (k : GroupKey) (g : Group) (b : Block), s.group? k = some g → s.block? k.block = some b → g.ended = false →
    ∃ h, (s.stopAgent asid (.group k)).group? k = some h ∧ h.stopped = true ∧ SameRegs g h ∧ h.stack = g.stack ∧
      ∀ n : Fin 2, (h.slot n).pc = (g.slot n).pc ∧ (h.slot n).mask = (g.slot n).mask ∧ (h.slot n).st = (g.slot n).st) ∧
  (∀ (s : State) (asid : Nat) (k : SeqKey) (x : Sequencer), s.seq? k = some x → x.st ≠ .stopped →
    (s.stopAgent asid (.sequencer k)).seq? k = some { x with st := .stopped, was := x.st }) ∧
  (∀ (s : State) (asid e : Nat), s.engineCmds asid e ≠ [] →
    (s.stopAgent asid (.engine e)).cmds = s.cmds.map (fun x => if x.asid = asid ∧ x.engine = e then x.discardReads else x)) ∧
  (∀ (s : State) (asid : Nat) (c : Ctx), s.ctx? asid = some c → c.afterPkts = [] →
    ∃ u : State, s.haltDone asid = u.boundary asid ∧ (u.ctx? asid).map (·.halt) = some .halted ∧
      (s.busyCtx c = true → u.dropIdle asid = u) ∧
      (s.busyCtx c = false → (∀ l ∈ s.launches, l.asid ≠ asid) → (u.dropIdle asid).ctx? asid = none)) ∧
  (∀ (s : State) (asid : Nat) (c : Ctx), s.ctx? asid = some c → c.halt = .running →
    ((s.haltContext asid).ctx? asid).map (·.halt) = some .raised ∧ ((s.haltContext asid).asidInfo asid).hseq = (s.asidInfo asid).hseq + 1) ∧
  (∀ (s : State) (core : Nat), (∀ c ∈ s.ctxs, bitAt ((s.asidInfo c.asid).reg 0x80) 0 = false) →
    exec (.profileSample core) s = .next s) ∧
  (∀ (s : State) (core : Nat) (c : Ctx), s.ctxs = [c] → exec (.profileSample core) s = .next (s.sampleOne core c.asid)) ∧
  (∀ (s : State) (asid : Nat) (c : Ctx) (w : Stream × Nat × Option Launch) (r : List (Stream × Nat × Option Launch)),
    s.ctx? asid = some c → c.repro = true → c.dtMode = 2 →
    c.halt = .running → s.traceWaits asid = w :: r → exec (.dispatchTraceTimeout asid) s = .next (s.dtMismatch asid w.1 w.2.1 w.2.2))

namespace Sys2Proof.Machine

/-! ## Coherence and errors -/

/-- A line of this die that a request of the peer may be handled for: the link is up, nothing is in flight for it, nothing owns it,
it is not lost, and no other entry has to give way. -/
structure State.Free (s : State) (ln : Nat) : Prop where
  link : s.linkUp = true
  quiet : s.inTxn ln = false
  free : s.owned ⟨.device, 128 * ln⟩ = false
  kept : s.mem.dirOf ln ≠ some .pl
  room : s.dirVictim ln = none

end Sys2Proof.Machine

open Sys2Proof Sys2Proof.Machine in
/-- R69, R70, R72, R122: the peer directory: what the peer's requests, its answers, and this die's Inv and recalls leave. That the first
argument of an inv or recall tells the die that it reaches is the model's form of these events (log 12), and that the peer's own stores
come with them and are written then is the model's reading (log 50). -/
def Obligations.PeerDirectory : Prop :=
  (∀ (s : State) (ln : Nat), s.Free ln →
    (s.mem.dirOf ln ≠ some .pm → exec (.rds ln) s = .next ((s.supply ln).setHome ln (some .ps) (some false)) ∧
      exec (.rdx ln) s = .next ((s.supply ln).setHome ln (some .pm) (some true))) ∧
    (s.mem.dirOf ln = some .ps → exec (.upg ln) s = .next (s.setHome ln (some .pm) (some true))) ∧
    (s.mem.dirOf ln = none → exec (.upg ln) s = .next ((s.supply ln).setHome ln (some .pm) (some true))) ∧
    (∀ data, s.mem.dirOf ln = some .pm → exec (.wb ln data) s = .next ((s.takeData ln data).setHome ln none none)) ∧
    (∀ off op d n data, let w := atomBytes op
      let l : Loc := ⟨.device, 128 * ln + off % 128 / w * w⟩
      let t := ((s.takeData ln data).setHome ln none none).touchFor .device [l] .normal false
      exec (.peerAtomic ln off op d n data) s =
        .next (t.putAtomic .device l w (atomNew op (BitVec.ofNat 64 (t.numAt .device l w)) d n)))) ∧
  (∀ (s : State) (ln : Nat) (d : Option DirState) (m : Option Bool), (s.setHome ln d m).mem.dirOf ln = d ∧
    ∀ j, j ≠ ln → (s.setHome ln d m).mem.dirOf j = s.mem.dirOf j) ∧
  (∀ (s : State) (ln : Nat), s.linkUp = true →
    ((ln, HomeWait.inv) ∈ s.mem.homeTxn → s.peerAnswered ln = false → ∀ st, exec (.inv true ⟨ln, st⟩) s = .next (s.peerAnswer ln none none)) ∧
    (∀ st, (∀ l ∈ s.mem.rdc, l.line = ln → l.dirty = false) → exec (.inv false ⟨ln, st⟩) s =
      .next { s with mem := { s.mem with rdc := s.mem.rdc.filter (fun l => !(l.line == ln)) },
                     peer := s.peer.writeAll (st.map (fun x => (128 * ln + x.1 % 128, x.2))) }) ∧
    (∀ data st keep, s.peerAnswered ln = false → (ln, HomeWait.recall) ∈ s.mem.homeTxn →
      exec (.recall true keep ⟨ln, st⟩ data) s = .next (s.peerAnswer ln (some (lineOfBytes data)) (some false))) ∧
    (∀ data st keep, s.peerAnswered ln = false → (ln, HomeWait.recall) ∉ s.mem.homeTxn → (ln, HomeWait.recallInv) ∈ s.mem.homeTxn →
      exec (.recall true keep ⟨ln, st⟩ data) s = .next (s.peerAnswer ln (some (lineOfBytes data)) none)) ∧
    (∀ data st, s.mem.rdc.any (fun l => l.line == ln && l.dirty) = true →
      exec (.recall false false ⟨ln, st⟩ data) s = .next ((s.surrender (fun l => l.line == ln)).peerStores ln st) ∧
      exec (.recall false true ⟨ln, st⟩ data) s = .next (let u := (s.mem.rdc.filter (fun l => l.line == ln)).foldl State.rdcWriteBack s
        { u with mem := { u.mem with rdc := u.mem.rdc.map (fun l => if l.line == ln then { l with dirty := false } else l) } }))) ∧
  (∀ (s : State) (ln : Nat), ((ln, HomeWait.inv) ∈ s.mem.homeTxn → s.peerAnswered ln = true →
      exec (.invAck ln) s = .next ((s.endTxn ln).setHome ln none none)) ∧
    (∀ kind d, s.mem.homeTxn.find? (fun t => t.1 == ln) = some (ln, kind) → s.mem.peerAns.find? (fun a => a.1 == ln) = some (ln, some d) →
      (kind = .recall → exec (.recallData ln) s = .next (((s.endTxn ln).takeData ln d.toList).setHome ln (some .ps) (some false))) ∧
      (kind = .recallInv → exec (.recallData ln) s = .next (((s.endTxn ln).takeData ln d.toList).setHome ln none none))) ∧
    (∀ kind, kind ≠ .inv → s.mem.homeTxn.find? (fun t => t.1 == ln) = some (ln, kind) →
      s.mem.peerAns.find? (fun a => a.1 == ln) = some (ln, none) →
      exec (.recallData ln) s = .next ((s.endTxn ln).setHome ln (some .pl) none)))

open Sys2Proof Sys2Proof.Machine in
/-- R73, R74, R76, R78 to R80: what a scrub read finds: nothing changes for a clean line; a corrected error is counted, saturating, and
signalled at the threshold; an uncorrectable one sets UE and SRC, and leaves what the table of R73 says: clean lines and translations
are dropped, dirty lines are poisoned and logged, and contexts charged. Which place a line number names is the model's choice
(log 51), and that poison which the scrubber makes is logged at once is its reading (log 52). -/
def Obligations.Scrubbing : Prop :=
  (∀ (s : State) (unit : EccUnit) (part : Fin 8) (x core : Nat) (m : Word), exec (.scrubLine unit part x ⟨core, m, .clean⟩) s = .next s) ∧
  (∀ (s : State) (unit : EccUnit) (part : Fin 8) (x core : Nat) (m : Word),
    ∃ t, exec (.scrubLine unit part x ⟨core, m, .corrected⟩) s = .next t ∧
    (t.regs.serr[part]).src = BitVec.ofNat 8 (eccCode unit) ∧
    (t.regs.serr[part]).cnt.toNat = min ((s.regs.serr[part]).cnt.toNat + 1) 0xFFFFFFFF ∧
    t.dram = s.dram ∧ t.blocks = s.blocks ∧ t.mem = s.mem ∧
    ((s.regs.serr[part]).thr ≠ 0 → (s.regs.serr[part]).cnt.toNat + 1 = (s.regs.serr[part]).thr.toNat →
      (t.regs.serr[part]).int = true ∧ t.msix = s.msix ++ [(0, 0)])) ∧
  (∀ (s : State) (unit : EccUnit) (part : Fin 8) (x core : Nat) (m : Word),
    ∃ t, exec (.scrubLine unit part x ⟨core, m, .uncorrectable⟩) s = .next t ∧
    (t.regs.serr[part]).ue = true ∧ (t.regs.serr[part]).src = BitVec.ofNat 8 (eccCode unit) ∧
    (unit = .l1 → ∀ l ∈ t.mem.l1, ¬ (l.line = x ∧ partOfCluster (clusterOfCore l.core) = part.val)) ∧
    (unit = .l2Data → ∀ l ∈ t.mem.l2, l.slice / 16 = part.val →
      (l.kind = .device → l.line = x / 4 → l.valid.getLsbD (x % 4) = true →
        l.dirty.getLsbD (x % 4) = true ∧ l.poison.getLsbD (x % 4) = true) ∧ (l.kind = .view → l.line + 2 ^ 45 ≠ x / 4)) ∧
    (unit = .rdc → (∀ l ∈ s.mem.rdc, l.part = part.val → l.line = x → l.dirty = true → { l with poison := 0xF } ∈ t.mem.rdc) ∧
      ∀ l ∈ t.mem.rdc, l.part = part.val → l.line = x → l.dirty = true ∧ l.poison = 0xF) ∧
    (unit = .tlb → (∀ e ∈ t.tlb, (∀ n, e.at_ = .core n → partOfCluster (clusterOfCore n) = part.val) → (∀ n, e.at_ = .part n → n = part.val) →
        ¬ (e.vbase ≤ 128 * x ∧ 128 * x < e.vbase + e.size.bytes)) ∧
      ∀ e ∈ t.walkCache, e.part = part.val → let span := if e.level = 0 then 2 ^ 42 else 2 ^ 29
        ¬ (e.index * span ≤ 128 * x ∧ 128 * x < e.index * span + span)) ∧
    (unit ∈ [.localStore, .vFile, .saFile, .tiles] → ∀ b c, s.block? (x / 65536) = some b → s.ctx? b.asid = some c →
      (t.ctx? b.asid).map (·.halt) ≠ some .running) ∧
    (unit = .cirque → ∀ e c, (s.regs.cq[part]).toList[x]? = some e → e.v = true → s.ctx? e.asid.toNat = some c →
      (t.ctx? e.asid.toNat).map (·.halt) ≠ some .running) ∧
    (unit = .l2Tag → ∀ c ∈ s.ctxs, s.ctx? c.asid = some c → (t.ctx? c.asid).map (·.halt) ≠ some .running)) ∧
  (∀ (s : State) (part : Fin 8) (x core : Nat) (m : Word),
    exec (.scrubLine .dram part x ⟨core, m, .uncorrectable⟩) s =
      .next ((({ s with mem := { s.mem with bad := x :: s.mem.bad } }).logUe (32 * x)).noteUe part 0xB) ∧
    (∀ b, s.block? (x / 65536) = some b → (s.ctx? b.asid).isSome = true →
      exec (.scrubLine .localStore part x ⟨core, m, .uncorrectable⟩) s =
        .next ((s.charge b.asid 6 (128 * (x % 65536)) core (s.corrOfBlock b) m).noteUe part 6)))

namespace Sys2Proof.Machine

/-! ## Encodings -/

end Sys2Proof.Machine

open Sys2Proof Sys2Proof.Machine in
/-- R271 to R294: the decoder reads back every encoded instruction: what `encode` writes for a well-formed instruction of group code,
whatever follows it in memory, decodes to that instruction and its length, and a stream word to its instruction. -/
def Obligations.DecodeReadsEncode : Prop :=
  ∀ i : Instr, i.wf = true → i.isEncoded = true →
    (i.isStream = false → ∀ rest : List Half, decode (encode i ++ rest) = .ok i (2 * (encode i).length)) ∧
    (i.isStream = true → ∀ a b : Half, encode i = [a, b] → decodeStream (b ++ a) = .ok i 4)

open Sys2Proof Sys2Proof.Machine in
/-- R8, R271, R286, R289, R293: no bit of an encoding is dropped, and nothing ill-formed is decoded: halfwords that decode to an
instruction are the ones that `encode` writes for it, and the instruction is well-formed; so for stream words. -/
def Obligations.EncodeWritesDecode : Prop :=
  (∀ (hs : List Half) (i : Instr) (n : Nat), decode hs = .ok i n →
    i.wf = true ∧ i.isStream = false ∧ n = 2 * (encode i).length ∧ hs.take (encode i).length = encode i) ∧
  (∀ (w : Word) (i : Instr) (n : Nat), decodeStream w = .ok i n →
    i.wf = true ∧ i.isStream = true ∧ n = 4 ∧ encode i = [w.extractLsb' 0 16, w.extractLsb' 16 16])

open Sys2Proof Sys2Proof.Machine in
/-- Words that the spec's examples write out decode to the instructions they stand for (R312 to R364). That a table word which is
even is read as a word of a matrix stream, here that of `mwait`, is the model's choice (log 8). -/
def Obligations.DecodeWords : Prop :=
  decodeTableWord 32 0x0C0B0A7D = some (.dp4aS false (.v 10) (.v 11) (.v 12)) ∧
  decodeTableWord 32 0x040707CD = some (.popc false (.v 7) (.v 7)) ∧
  decodeTableWord 32 0x058985CD = some (.clz false (.s 5) (.s 9)) ∧
  decodeTableWord 32 0x02010861 = some (.ffma false (.v 8) (.v 1) (.v 2)) ∧
  decodeTableWord 32 0xFC0A0975 = some (.hfma2 false (.v 9) (.v 10) (.inl 0x0C)) ∧
  decodeTableWord 32 0x00FFFFD9 = some (.nop false) ∧
  decodeTableWord 32 0x01FFFFDB = some (.exit true) ∧
  decodeTableWord 32 0x00000002 = some (.mwait 0 false) ∧
  decodeStream 0x00000001#32 = .ok .mend 4 ∧
  decodeStream 0x00000043#32 = .ok (.marr 1) 4

namespace Sys2Proof.Machine

/-! ## Steps -/

end Sys2Proof.Machine

open Sys2Proof Sys2Proof.Machine in
/-- What a step runs (the model's order of service, log entry 5): the head of the agenda; without one, and but for every 65,536th step, in which a time
limit may pass (log entry 3), in a step that issues first, the
instruction that the bytes at the chosen slot's PC decode to, and, in a step that takes a stream word first, the instruction of that
word. -/
def Obligations.StepRunsDecoded : Prop :=
  (∀ (s : State) (i : Instr) (r : List Instr), s.regs.clockStopped = false → s.agenda = i :: r →
    step s = exec i { s with agenda := r, clk := s.clk + 1 }) ∧
  (∀ (s : State) (c : Cand) (w : View) (i : Instr) (len : Nat) (l : Loc), s.regs.clockStopped = false → s.agenda = [] → s.clk % 3 = 0 →
    (s.clk + 1) % 65536 ≠ 0 → let s1 := { s with clk := s.clk + 1 }
    s1.choose = some c → (s1.at_ c).view? = some w → w.dueCause = none →
    w.xlate w.sl.pc ⟨.fetch, w.g.hm, false⟩ = .ok l →
    decode (s1.codeHalves (clusterOfCore w.g.core) w.b.asid w.sl.pc.toNat) = .ok i len →
    (∀ va, nextPage w.sl.pc len = some va → ∃ l', w.xlate va ⟨.fetch, w.g.hm, false⟩ = .ok l') →
    step s = exec i (s1.at_ c)) ∧
  (∀ (s : State) (x : Sequencer) (b : Block) (i : Instr) (m : Word) (len : Nat) (before after : List Sequencer),
    s.regs.clockStopped = false → s.agenda = [] → s.clk % 3 = 1 →
    (s.clk + 1) % 65536 ≠ 0 → let s1 := { s with clk := s.clk + 1 }
    s1.seqTurn = before ++ x :: after → (∀ y ∈ before, s1.wordOf? y = none) →
    x.st = .run → x.key.index < 4 → x.wordHere = some m → s.block? x.blk = some b → s1.ctxRuns b.asid = true →
    decodeStream m = .ok i len → x.step = none ∨ Instr.anyTime i = true → step s = exec i (s1.atWord x.key m)) ∧
  (∀ s : State, s.regs.clockStopped = true → s.agenda = [] → step s = .fault .clockStopped)

namespace Sys2Proof.Machine

/-! ## Checks and the handler -/

end Sys2Proof.Machine

open Sys2Proof Sys2Proof.Machine in
/-- R11, R12, R53, R187, R189 to R192, R196, R286, R289, R464: the checks of an instruction in their order, each reached when those before
it pass: a cause that is due, a breakpoint, an illegal operand (0x10), the role (0x18), the operand classes (0x11), the latch
(0x12), a uniform destination under a partial mask (0x13), a barrier under one (0x15); nothing is performed. Halfwords that are no
instruction raise 0x10. An instruction that passes its checks is performed, and where it reads a register that an acquiring token
wrote, the core's L1 is empty for it (R53). -/
def Obligations.ChecksInOrder : Prop :=
  ∀ (s : State) (f : Form) (bad clsBad : View → Bool) (body : View → Res) (w : View), s.view? = some w → w.open = true →
    let raised := fun (n : Nat) => s.issue f bad clsBad body = s.raiseAt w { code := n, sub := 0, tval := 0, slot := w.n }
    let illegal := (∃ x ∈ f.srcs ++ f.dsts ++ f.toks, w.g.hasOpnd x = false) ∨ bad w = true
    (∀ c, w.dueCause = some c → s.issue f bad clsBad body = s.deliver w c) ∧
    (w.dueCause = none → w.g.pendingOf false w.sl.guardRegs = [] →
      (∀ b, f.guardOf = none → w.breakpoint = some b →
        s.issue f bad clsBad body = s.raiseAt w { code := 1, sub := b, tval := 0, slot := w.n }) ∧
      (f.guardOf.isSome = true ∨ w.breakpoint = none →
        (illegal → raised 0x10) ∧
        (¬ illegal → roleOk w.g.role w.b.mx f = false → raised 0x18) ∧
        (¬ illegal → roleOk w.g.role w.b.mx f = true → clsBad w = true → raised 0x11) ∧
        (¬ illegal → roleOk w.g.role w.b.mx f = true → clsBad w = false →
          w.g.pendingOf false (f.reads w.g.hm ++ w.sl.guardRegs ++ f.writes w.g.hm) = [] →
          (f.srcs.contains .latch = true → w.sl.latch = none → raised 0x12) ∧
          (f.srcs.contains .latch = false ∨ w.sl.latch ≠ none → w.act ≠ w.g.emask →
            (f.dsts.any (uniformDst w.g.hm) = true → raised 0x13) ∧
            (f.dsts.any (uniformDst w.g.hm) = false → f.barrier = true → raised 0x15))))) ∧
    (w.dueCause = none → w.g.pendingOf false w.sl.guardRegs = [] → w.breakpoint = none →
      s.issueBad = s.raiseAt w { code := 0x10, sub := 0, tval := 0, slot := w.n }) ∧
    (s.gate f bad clsBad = .go w → let u := w.acquired f
      s.issue f bad clsBad body = u.s.settle u f (body u) ∧ u.k = w.k ∧ u.n = w.n ∧ SameRegs w.g u.g ∧ SameBytes s u.s ∧
      ((∃ r ∈ w.g.tokNew, r ∈ f.reads w.g.hm) → ∀ l ∈ u.s.mem.l1, l.core ≠ w.g.core))

open Sys2Proof Sys2Proof.Machine in
/-- R443, R444, R447, R450, R454: a cause that a group raises: with a handler it enters it: CAUSE and TVAL tell the cause, both slots are
saved, slot 0 starts at HPC with the entry mask, slot 1 is Free, and no register changes; in handler mode it is a double fault;
without a handler, or for a context fault, the group stops and its context halts: that the raising group is stopped in the same step,
before the halt line arrives, is the model's reading (log 17). -/
def Obligations.HandlerEntry : Prop :=
  ∀ (s : State) (k : GroupKey) (g : Group) (x : Ctx) (asid : Nat) (c : Cause), s.group? k = some g → s.ctx? asid = some x →
    c.code < 256 → c.sub < 256 → c.slot < 2 → (∀ (n : Fin 2) (o : Nat), (g.slot n).wait ≠ some (.tqPop o)) →
    let t := s.raise k asid c
    (g.hm = false → x.hpc ≠ 0 → c.code < 0x10 ∨ c.code < 0x20 ∧ x.fth = true →
      ∃ h, t.group? k = some h ∧ h.hm = true ∧ h.cause.toNat = c.code + 256 * c.sub + 65536 * c.slot ∧ h.tval = c.tval ∧
        h.slot0 = { Slot.readyAt x.hpc g.emask with turned := true } ∧ h.slot1 = Slot.free ∧
        h.save0.pc = g.slot0.pc ∧ h.save0.mask = g.slot0.mask ∧ h.save0.st = g.slot0.st.code ∧
        h.save1.pc = g.slot1.pc ∧ h.save1.mask = g.slot1.mask ∧ h.save1.st = g.slot1.st.code ∧
        SameRegs g h ∧ h.stack = g.stack ∧ h.sd = g.sd ∧ h.sc = g.sc ∧ h.emask = g.emask ∧ h.icnt = g.icnt ∧
        (∀ j, j ≠ k → t.group? j = s.group? j) ∧ SameBytes s t ∧ t.ctx? asid = some x) ∧
    (c.code < 0x20 → g.hm = true → ∃ h, t.group? k = some h ∧ h.dbl = true ∧ h.stopped = true ∧
      h.stopCause = some { c with code := 0x26, sub := c.code } ∧ SameRegs g h ∧
      (x.halt = .running → (t.ctx? asid).map (·.halt) = some .raised)) ∧
    (0x20 ≤ c.code ∨ (g.hm = false ∧ (x.hpc = 0 ∨ (0x10 ≤ c.code ∧ x.fth = false))) →
      ∃ h, t.group? k = some h ∧ h.stopped = true ∧ h.stopCause = some c ∧ h.hm = g.hm ∧ SameRegs g h ∧
        (x.halt = .running → (t.ctx? asid).map (·.halt) = some .raised))

namespace Sys2Proof.Machine

/-! ## Reset and invariants -/

end Sys2Proof.Machine

open Sys2Proof Sys2Proof.Machine in
/-- R20, R61, R95, R165, R420, R518, R519: what reset leaves: no context, queue, launch or block, no table set, shared L2 mode with PWAYS 4,
no window, no Cirque allocation, an empty error log and FWSTAT 0; a device reset returns to it, memory kept (log entry 60). -/
def Obligations.ResetState : Prop :=
  (let s := State.reset
   s.ctxs = [] ∧ s.queues = [] ∧ s.launches = [] ∧ s.blocks = [] ∧ s.ops = [] ∧ s.rays = [] ∧ s.cmds = [] ∧
   s.regs.ctxtBase = 0 ∧ s.regs.qtab = 0 ∧ s.regs.exctBase = 0 ∧ s.regs.reproBase = 0 ∧
   s.regs.l2cfg = { tways := 0, pways := 4, mode := false, swp := false } ∧ (∀ i : Fin 16, (s.regs.win[i]).en = false) ∧
   (∀ p e : Fin 8, (s.regs.cq[p][e]).v = false) ∧ s.regs.elhead = 0 ∧ s.regs.elcons = 0 ∧ s.regs.fwstat = 0 ∧
   s.mem.l2 = [] ∧ s.mem.l1 = [] ∧ s.mem.code = []) ∧
  ∀ s : State, ∃ t, exec .deviceReset s = .next t ∧ t.dram = s.dram ∧ t.host = s.host ∧ t.peer = s.peer ∧ t.regs = HostRegs.reset ∧
    t.ctxs = [] ∧ t.queues = [] ∧ t.launches = [] ∧ t.blocks = [] ∧ t.mem = { Caches.reset with bad := s.mem.bad }

open Sys2Proof Sys2Proof.Machine in
/-- The memories and local stores have their canonical form after reset. -/
def Obligations.InvariantAtReset : Prop := State.reset.MemoryWf

open Sys2Proof Sys2Proof.Machine in
/-- Every step keeps the canonical form of the memories and of the local stores: addresses rise, and no byte is listed that equals what
an unlisted address reads as. -/
def Obligations.InvariantOfSteps : Prop := ∀ s t : State, s.MemoryWf → step s = .next t → t.MemoryWf

namespace Sys2Proof.Machine

/-! ## Statements that join several parts -/

end Sys2Proof.Machine

open Sys2Proof Sys2Proof.Machine in
/-- The two-source integer instructions, in their 32-bit and their 16-bit forms. -/
def Obligations.IntegerTwoSource : Prop := Part.IntegerTwoSource ∧ Part.SixteenBitForms

open Sys2Proof Sys2Proof.Machine in
/-- The one-source integer instructions, packing and unpacking. -/
def Obligations.IntegerUnaryAndPacking : Prop := Part.IntegerUnary ∧ Part.PackAndUnpack

open Sys2Proof Sys2Proof.Machine in
/-- Moves between the register classes: `mov`, `bcast.s` and `affx`. -/
def Obligations.MovesBetweenClasses : Prop := Part.MoveBetweenClasses ∧ Part.BroadcastScalar ∧ Part.ExtractAffine

open Sys2Proof Sys2Proof.Machine in
/-- The floating-point instructions, conversions and quantisation. -/
def Obligations.FloatInstructions : Prop := Part.FloatTwoSource ∧ Part.FloatUnary

open Sys2Proof Sys2Proof.Machine in
/-- Comparisons, predicate logic and votes. -/
def Obligations.ComparesPredicatesAndVotes : Prop := Part.ComparesAndPredicates ∧ Part.Votes

open Sys2Proof Sys2Proof.Machine in
/-- Lane exchanges, reductions, scans and rebalancing. -/
def Obligations.LaneOperations : Prop := Part.LaneExchanges ∧ Part.ReductionsAndScans ∧ Part.Rebalance

open Sys2Proof Sys2Proof.Machine in
/-- Divergence, reconvergence and the exit of lanes. -/
def Obligations.DivergenceAndReconvergence : Prop := Part.Divergence ∧ Part.Reconvergence ∧ Part.LaneExit

open Sys2Proof Sys2Proof.Machine in
/-- `nop`, `yield`, the block barrier and the guard. -/
def Obligations.NopYieldBarrierAndGuard : Prop := Part.NopYieldBarrier ∧ Part.GuardSpan

open Sys2Proof Sys2Proof.Machine in
/-- Traps, breakpoints, the return from the handler, single steps (log 18) and the trace records (log 4). -/
def Obligations.TrapsAndReturn : Prop := Part.TrapsAndReturn ∧ Part.ReloadedSlot ∧ Part.StepTraps ∧ Part.TraceRecords

open Sys2Proof Sys2Proof.Machine in
/-- Stores are performed, and every reader then reads them. -/
def Obligations.StoresPerformed : Prop := Part.StoresPerformed ∧ Part.WritesReachEveryReader

open Sys2Proof Sys2Proof.Machine in
/-- The data of a load returns; what poison does to loads, atomics, texture reads and slice operations (log 21). -/
def Obligations.LoadsReturn : Prop := Part.LoadsReturn ∧ Part.PoisonMet

open Sys2Proof Sys2Proof.Machine in
/-- What atomics leave, and that they are performed. -/
def Obligations.AtomicsPerformed : Prop := Part.AtomicOperations ∧ Part.AtomicsPerformed

open Sys2Proof Sys2Proof.Machine in
/-- Refills, fixed-latency marks, and the release of barriers. -/
def Obligations.RefillsFixedWritesAndBarriers : Prop := Part.RefillsAndFixedWrites ∧ Part.BarriersRelease

open Sys2Proof Sys2Proof.Machine in
/-- Translation walks, their checks in order and what they install (logs 14 and 24), and the fills of code-cache and view lines. -/
def Obligations.WalksAndFills : Prop := Part.WalksAndCodeFills ∧ Part.PageWalk ∧ Part.TranslationsHeld ∧ Part.ViewLinesFill

open Sys2Proof Sys2Proof.Machine in
/-- Copy commands are accepted, and move their data. -/
def Obligations.CopiesProceed : Prop := Part.CopiesAccepted ∧ Part.CopiesMove

open Sys2Proof Sys2Proof.Machine in
/-- Appends to scatter and accumulation bins. -/
def Obligations.CirqueAppends : Prop := Part.AppendsToBins ∧ Part.CirqueAppends

open Sys2Proof Sys2Proof.Machine in
/-- Replays of scatter regions and of accumulation tiles. -/
def Obligations.ReplaysAndAccumulation : Prop := Part.ScatterReplays ∧ Part.Accumulation

open Sys2Proof Sys2Proof.Machine in
/-- Futures and task queues, the wake of a pop, and the walks of a future's list. -/
def Obligations.FuturesAndQueues : Prop := Part.FuturesAndQueues ∧ Part.PopWakesAndListWalks

open Sys2Proof Sys2Proof.Machine in
/-- The ray instructions, and what becomes of the rays that they hand on. -/
def Obligations.RayHandoffs : Prop := Part.RayInstructions ∧ Part.RaysHandedOn

open Sys2Proof Sys2Proof.Machine in
/-- Texture instructions and their results. -/
def Obligations.Textures : Prop := Part.TextureInstructions ∧ Part.TextureResults

open Sys2Proof Sys2Proof.Machine in
/-- The registers of BAR 0, the format windows and the Cirque's allocation. -/
def Obligations.HostRegisters : Prop := Part.HostRegisters ∧ Part.WindowsAndAllocation
end

