-- ==== Sys2Proof/Laws/Blocks.lean ====
section
/-! SUPPORT. Finding and replacing blocks and groups: what a replaced group leaves, and what it does not touch. -/
namespace Sys2Proof.Machine

theorem List.find?_map_key {α : Type} (l : List α) (key : α → Nat) (f : α → α) (n m : Nat)
    (hf : ∀ x ∈ l, key (f x) = key x) :
    (l.map (fun x => if key x = m then f x else x)).find? (fun x => key x == n) =
      (l.find? (fun x => key x == n)).map (fun x => if key x = m then f x else x) := by
  induction l with
  | nil => rfl
  | cons x l ih =>
    have hx : key (if key x = m then f x else x) = key x := by
      split
      · exact hf x (by simp)
      · rfl
    simp only [List.map_cons, List.find?_cons, hx]
    split
    · rfl
    · exact ih (fun y hy => hf y (by simp [hy]))

theorem State.block?_modBlock (s : State) (m n : Nat) (f : Block → Block) (hf : ∀ b, (f b).serial = b.serial) :
    (s.modBlock m f).block? n = (s.block? n).map (fun b => if b.serial = m then f b else b) :=
  List.find?_map_key s.blocks (·.serial) f n m (fun b _ => hf b)

theorem State.block?_serial {s : State} {n : Nat} {b : Block} (h : s.block? n = some b) : b.serial = n := by
  have := List.find?_some h
  simpa using this

theorem State.group?_eq_some {s : State} {k : GroupKey} {g : Group} (h : s.group? k = some g) :
    ∃ b, s.block? k.block = some b ∧ b.groups[k.index]? = some g := by
  simpa [State.group?, Option.bind_eq_some_iff] using h

theorem State.block?_putGroup (s : State) (k : GroupKey) (g : Group) (n : Nat) :
    (s.putGroup k g).block? n =
      (s.block? n).map (fun b => if b.serial = k.block then { b with groups := b.groups.set k.index g } else b) :=
  s.block?_modBlock k.block n _ (fun _ => rfl)

/-- A replaced group is what is found. -/
theorem State.group?_putGroup {s : State} {k : GroupKey} {g h : Group} (hg : s.group? k = some g) :
    (s.putGroup k h).group? k = some h := by
  obtain ⟨b, hb, hi⟩ := State.group?_eq_some hg
  have hlt : k.index < b.groups.length := by
    rw [List.getElem?_eq_some_iff] at hi
    exact hi.1
  simp [State.group?, State.block?_putGroup, hb, State.block?_serial hb, hlt]

/-- Another group keeps its value. -/
theorem State.group?_putGroup_ne (s : State) {k j : GroupKey} (h : Group) (hj : j ≠ k) :
    (s.putGroup k h).group? j = s.group? j := by
  simp only [State.group?, State.block?_putGroup]
  cases hb : s.block? j.block with
  | none => rfl
  | some b =>
    have hs := State.block?_serial hb
    simp only [Option.map_some, Option.bind_some]
    split
    · next he =>
      have : k.index ≠ j.index := by
        intro hi
        apply hj
        cases j; cases k
        simp_all
      simp [List.getElem?_set_ne this]
    · rfl

/-- A replaced group changes nothing else of its block. -/
theorem State.shell_putGroup (s : State) (k : GroupKey) (h : Group) (n : Nat) :
    ((s.putGroup k h).block? n).map (fun b => { b with groups := [] }) = (s.block? n).map (fun b => { b with groups := [] }) := by
  rw [State.block?_putGroup]
  cases s.block? n with
  | none => rfl
  | some b =>
    simp only [Option.map_some]
    split <;> rfl

theorem State.modGroup_eq {s : State} {k : GroupKey} {g : Group} (h : s.group? k = some g) (f : Group → Group) :
    s.modGroup k f = s.putGroup k (f g) := by
  simp [State.modGroup, h]

theorem State.view?_group {s : State} {w : View} (h : s.view? = some w) : s.group? w.k = some w.g := by
  unfold State.view? at h
  split at h
  · next g b hg hb =>
    split at h
    · cases h
      exact hg
    · cases h
  · cases h

theorem State.view?_state {s : State} {w : View} (h : s.view? = some w) : w.s = s := by
  unfold State.view? at h
  split at h
  · split at h
    · cases h
      rfl
    · cases h
  · cases h

theorem Group.slot_setSlot (g : Group) (n : Nat) (x : Slot) : (g.setSlot n x).slot n = x := by
  unfold Group.setSlot Group.slot
  split <;> rfl

theorem Group.slot_setSlot_sib (g : Group) (n : Nat) (x : Slot) : (g.setSlot n x).slot (sib n) = g.slot (sib n) := by
  unfold Group.setSlot Group.slot sib
  by_cases h : n = 0 <;> simp [h]

theorem Group.setSlot_setSlot (g : Group) (n : Nat) (x y : Slot) : (g.setSlot n x).setSlot n y = g.setSlot n y := by
  unfold Group.setSlot
  split <;> rfl

end Sys2Proof.Machine
end

