-- ==== Sys2Proof/Laws/Issue.lean ====
section
/-! SUPPORT. What the shared operation of issue does: the gate, the commit of an instruction, and its frame. -/
namespace Sys2Proof.Machine

theorem Group.pendingOf_eq_nil {g : Group} {b : Bool} {rs : List RegId}
    (h : ∀ p ∈ g.pend, p.reg ∈ rs → (p.kind == .fixed) ≠ b) : g.pendingOf b rs = [] := by
  simp only [Group.pendingOf, List.filter_eq_nil_iff, List.any_eq_true, not_exists, not_and]
  intro r hr p hp hc
  simp only [Bool.and_eq_true, beq_iff_eq] at hc
  exact h p hp (hc.1 ▸ hr) hc.2

/-- An instruction that meets the conditions of issue passes the gate. -/
theorem State.Issues.gate {s : State} {f : Form} {bad cls : View → Bool} {w : View} (h : s.Issues f bad cls w) :
    s.gate f bad cls = .go w := by
  obtain ⟨hv, hr, ⟨h1, h2, h3, h4⟩, hc, hg, hb, ha, hl, hro, hcl, harr, hlat, hun, hbar, hfen, -⟩ := h
  have hent : (w.g.hm || w.g.entering.isNone || !w.s.popBusy w.k) = true := by
    cases hh : w.g.hm <;> cases he : w.g.entering <;> simp_all [View.dueCause]
  have hopen : w.open = true := by simp only [View.open, hr, h1, h2, h3, h4, hent]; rfl
  have hbk : (if f.guardOf.isSome then none else w.breakpoint) = none := by
    rcases hb with hb | hb <;> simp [hb]
  have hall : (f.srcs ++ f.dsts ++ f.toks).any (fun x => !w.g.hasOpnd x) = false := by
    simp only [List.any_eq_false]
    intro x hx
    simp [ha x hx]
  unfold State.gate
  simp only [hv, hopen, hc, Bool.not_true, Bool.false_eq_true, if_false, hbk, hall, hl, Bool.or_self, hro, hcl]
  rw [Group.pendingOf_eq_nil (fun p hp hm => absurd hm (hg p hp))]
  simp only [ne_eq, not_true_eq_false, if_false]
  rw [Group.pendingOf_eq_nil (rs := (f.reads w.g.hm ++ _) ++ f.writes w.g.hm)]
  · simp only [not_true_eq_false, if_false]
    have e1 : (f.srcs.contains Opnd.latch && w.sl.latch.isNone) = false := by
      rcases hlat with h | h
      · rw [h]; rfl
      · cases hx : w.sl.latch <;> simp_all
    have e2 : (f.dsts.any (uniformDst w.g.hm) && decide (w.act ≠ w.g.emask)) = false := by
      rcases hun with h | h <;> simp [h]
    have e3 : (f.barrier && decide (w.act ≠ w.g.emask)) = false := by
      rcases hbar with h | h <;> simp [h]
    have e4 : (f.access && w.fenced) = false := by
      rcases hfen with h | h <;> simp [h]
    simp only [e1, e2, e3, e4, Bool.false_eq_true, if_false]
    rw [Group.pendingOf_eq_nil]
    · simp
    · intro p hp hm
      simp only [List.mem_append] at hm
      rcases hm with hm | hm
      · exact absurd hm (harr p hp).1
      · exact absurd hm (hg p hp)
  · intro p hp hm
    simp only [List.mem_append] at hm
    rcases hm with (hm | hm) | hm
    · exact absurd hm (harr p hp).1
    · exact absurd hm (hg p hp)
    · rcases (harr p hp).2 with h | h
      · simp [h]
      · exact absurd hm h

theorem Group.pendingOf_nil_iff {g : Group} {b : Bool} {rs : List RegId} :
    g.pendingOf b rs = [] ↔ ∀ p ∈ g.pend, p.reg ∈ rs → (p.kind == .fixed) ≠ b := by
  constructor
  · intro h p hp hr hc
    have : p.reg ∈ g.pendingOf b rs := by
      simp only [Group.pendingOf, List.mem_filter, List.any_eq_true]
      exact ⟨hr, p, hp, by simp [hc]⟩
    rw [h] at this
    cases this
  · exact Group.pendingOf_eq_nil

/-- The gate lets through exactly what the claims call an instruction that issues. -/
theorem State.Issues.of_gate {s : State} {f : Form} {bad cls : View → Bool} {w : View} (h : s.gate f bad cls = .go w)
    (hacq : w.acquired f = w) : s.Issues f bad cls w := by
  unfold State.gate at h
  split at h
  · cases h
  next w' hv =>
  split at h
  · cases h
  next ho =>
  split at h
  · cases h
  next hc =>
  simp only at h
  split at h
  · cases h
  next hg =>
  split at h
  · cases h
  next hb =>
  split at h
  · cases h
  next ha =>
  split at h
  · cases h
  next hro =>
  split at h
  · cases h
  next hcl =>
  split at h
  · cases h
  next hs =>
  split at h
  · cases h
  next hl =>
  split at h
  · cases h
  next hu =>
  split at h
  · cases h
  next hba =>
  split at h
  · cases h
  next hq =>
  cases h
  have ho : w.open = true := by simpa using ho
  simp only [View.open, Bool.and_eq_true, Bool.not_eq_true', beq_iff_eq] at ho
  obtain ⟨⟨⟨⟨⟨h1, -⟩, h2⟩, h3⟩, h4⟩, h5⟩ := ho
  simp only [Bool.or_eq_true, not_or, Bool.not_eq_true, List.any_eq_false] at ha
  simp only [ne_eq, Decidable.not_not, Group.pendingOf_nil_iff, List.mem_append] at hg hs
  simp only [ne_eq, Bool.or_eq_true, decide_eq_true_eq, not_or, Decidable.not_not, Group.pendingOf_nil_iff, List.mem_append] at hq
  have key : ∀ p ∈ w.g.pend, p.reg ∉ f.reads w.g.hm ∧ p.reg ∉ w.sl.guardRegs := by
    intro p hp
    constructor <;> intro hm
    · have x := hs p hp (by simp [hm])
      have y := hq.1 p hp (by simp [hm])
      revert x y
      cases (p.kind == PendKind.fixed) <;> simp
    · have x := hg p hp hm
      have y := hq.1 p hp (by simp [hm])
      revert x y
      cases (p.kind == PendKind.fixed) <;> simp
  refine ⟨hv, h1, ⟨h2, h3, h4, h5⟩, hc, fun p hp => (key p hp).2, ?_, ?_, ha.2, by simpa using hro, by simpa using hcl, ?_, ?_, ?_, ?_, ?_, hacq⟩
  · cases hf : f.guardOf.isSome
    · exact .inr (by simpa [hf] using hb)
    · exact .inl rfl
  · intro x hx
    have := ha.1 x hx
    revert this
    cases w.g.hasOpnd x <;> simp
  · intro p hp
    refine ⟨(key p hp).1, ?_⟩
    by_cases hm : p.reg ∈ f.writes w.g.hm
    · have x := hs p hp (by simp [hm])
      exact .inl (by simpa using x)
    · exact .inr hm
  · by_cases h : f.srcs.contains Opnd.latch = true
    · refine .inr ?_
      revert hl
      simp only [h, Bool.true_and]
      cases w.sl.latch <;> simp
    · exact .inl (by simpa using h)
  · by_cases h : f.dsts.any (uniformDst w.g.hm) = true
    · exact .inr (by simpa [h] using hu)
    · exact .inl (by simpa using h)
  · by_cases h : f.barrier = true
    · exact .inr (by simpa [h] using hba)
    · exact .inl (by simpa using h)
  · by_cases h : f.access = true
    · exact .inr (by simpa [h] using hq.2)
    · exact .inl (by simpa using h)

/-- With no token unread, an instruction acquires nothing at its operands. -/
theorem View.acquired_nil {w : View} (h : w.g.tokNew = []) (f : Form) : w.acquired f = w := by
  simp [View.acquired, h]

/-- Whether an instruction issues, and a test on its view. -/
def State.goesWith (s : State) (f : Form) (bad cls : View → Bool) (p : View → Bool) : Bool :=
  match s.gate f bad cls with
  | .go w => w.g.sstep == false && w.s.traces.isEmpty && w.g.tokNew.isEmpty && p w
  | _ => false

/-- Where the gate lets an untraced instruction through whose view passes a test, it issues, calmly, with such a view. -/
theorem State.goesWith_issues {s : State} {f : Form} {bad cls : View → Bool} {p : View → Bool} (h : s.goesWith f bad cls p = true) :
    ∃ w, s.Issues f bad cls w ∧ w.Calm ∧ p w = true := by
  unfold State.goesWith at h
  split at h
  · next w hw =>
    simp only [Bool.and_eq_true, beq_iff_eq, List.isEmpty_iff] at h
    exact ⟨w, State.Issues.of_gate hw (View.acquired_nil h.1.2 f), ⟨h.1.1.1, by simp [h.1.1.2]⟩, h.2⟩
  · cases h

/-- The same of a group that may be stepped or traced. -/
def State.issuesWith (s : State) (f : Form) (bad cls : View → Bool) (p : View → Bool) : Bool :=
  match s.gate f bad cls with
  | .go w => w.g.tokNew.isEmpty && p w
  | _ => false

/-- Where the gate lets an instruction through whose view passes a test, it issues with such a view. -/
theorem State.issuesWith_issues {s : State} {f : Form} {bad cls : View → Bool} {p : View → Bool} (h : s.issuesWith f bad cls p = true) :
    ∃ w, s.Issues f bad cls w ∧ p w = true := by
  unfold State.issuesWith at h
  split at h
  · next w hw =>
    simp only [Bool.and_eq_true, List.isEmpty_iff] at h
    exact ⟨w, State.Issues.of_gate hw (View.acquired_nil h.1 f), h.2⟩
  · cases h

/-- Behind the gate, an instruction does what its meaning says. -/
theorem State.issue_of_issues {s : State} {f : Form} {bad cls : View → Bool} {w : View} (h : s.Issues f bad cls w)
    (body : View → Res) : s.issue f bad cls body = s.settle w f (body w) := by
  simp only [State.issue, State.through, h.gate, h.acquired, State.view?_state h.view]

/-! ## The commit of an instruction -/

/-- What every agent reads does not depend on groups, runs, the turn or answers of walks. -/
theorem State.byteAt_frame (s : State) (bs : List Block) (rs : List CoreRun) (n : Nat) (fs : List WalkFail)
    (x : Option (GroupKey × DWord × Nat)) (a : Agent) (l : Loc) :
    ({ s with blocks := bs, runs := rs, turn := n, fails := fs, lastIssue := x } : State).byteAt a l = s.byteAt a l := rfl

theorem OnlyGroup.of_putGroup {s t : State} {k : GroupKey} {g h : Group} (hg : s.group? k = some g)
    (hb : t.blocks = (s.putGroup k h).blocks)
    (hr : t = { s with blocks := t.blocks, runs := t.runs, turn := t.turn, fails := t.fails, lastIssue := t.lastIssue }) : OnlyGroup s t k h := by
  have e : ∀ n, t.block? n = (s.putGroup k h).block? n := fun n => by simp [State.block?, hb]
  have eg : ∀ j, t.group? j = (s.putGroup k h).group? j := fun j => by simp [State.group?, e]
  refine ⟨?_, ?_, ?_, hr, ?_⟩
  · rw [eg, State.group?_putGroup hg]
  · intro j hj
    rw [eg, State.group?_putGroup_ne s h hj]
  · intro n
    rw [e, State.shell_putGroup]
  · intro a l
    rw [hr]
    exact State.byteAt_frame s _ _ _ _ _ a l

theorem State.putGroup_putGroup (s : State) (k : GroupKey) (g h : Group) : (s.putGroup k g).putGroup k h = s.putGroup k h := by
  simp only [State.putGroup, State.modBlock, List.map_map]
  congr 1
  apply List.map_congr_left
  intro b _
  simp only [Function.comp]
  by_cases hb : b.serial = k.block <;> simp [hb]

/-- The end of an untraced run: the slot's latch goes, and the run of the core. -/
theorem State.endRun_untraced {s : State} {core : Nat} {k : GroupKey} {n why : Nat} {g : Group} (hg : s.group? k = some g)
    (ht : ∀ t ∈ s.traces, t.gk ≠ k) :
    s.endRun core k n why =
      { s.putGroup k (g.setSlot n { g.slot n with latch := none }) with runs := s.runs.filter (fun r => !(r.core == core)) } := by
  have hn : s.traces.find? (fun t => t.gk == k) = none := by
    simp only [List.find?_eq_none, beq_iff_eq]
    exact ht
  have e : s.traceRunEnd k why = s := by simp [State.traceRunEnd, hn]
  simp only [State.endRun, e, State.modGroup_eq hg]
  rfl

/-- The group that an instruction leaves: its slot placed, the instruction counted. -/
def Done.leaves (d : Done) (w : View) (f : Form) : Group :=
  let g := d.flow.apply w f.len d.latch d.g
  if d.flow.counts then { g with icnt := g.icnt + 1 } else g

theorem View.trapAfter_calm {w : View} {d : Done} (hc : w.g.sstep = false) (ha : d.after = none) : w.trapAfter d = none := by
  simp [View.trapAfter, hc, ha]

/-- The state between an instruction's slot placement and the end of its run. -/
def State.placed (s : State) (w : View) (f : Form) (d : Done) : State :=
  let t := (s.putGroup w.k (d.leaves w f)).noteIssue w
  { t with fails := t.fails.filter (fun x => !(x.gk == w.k && x.slot == w.n)) }

theorem State.commit_eq (s : State) (w : View) (f : Form) (d : Done) (hc : w.g.sstep = false) (ha : d.after = none) :
    s.commit w f d = d.post (s.placed w f d) ∨ ∃ y, s.commit w f d = (d.post (s.placed w f d)).endRun w.g.core w.k w.n y := by
  simp only [State.commit, View.trapAfter_calm hc ha]
  simp only [State.placed, Done.leaves]
  split
  · next y _ => exact .inr ⟨y, rfl⟩
  · exact .inl rfl

theorem State.placed_group {s : State} {w : View} {f : Form} {d : Done} (hv : s.view? = some w) :
    (s.placed w f d).group? w.k = some (d.leaves w f) :=
  State.group?_putGroup (h := d.leaves w f) (State.view?_group hv)

theorem State.placed_untraced {s : State} {w : View} {f : Form} {d : Done} (ht : ∀ t ∈ s.traces, t.gk ≠ w.k) :
    ∀ t ∈ (s.placed w f d).traces, t.gk ≠ w.k := by
  intro t h
  simp only [State.placed, State.noteIssue, State.putGroup, State.modBlock, List.mem_map] at h
  obtain ⟨u, hu, rfl⟩ := h
  have := ht u hu
  simp [this]

theorem State.placed_traces {s : State} {w : View} {f : Form} {d : Done} (ht : ∀ t ∈ s.traces, t.gk ≠ w.k) :
    (s.placed w f d).traces = s.traces := by
  simp only [State.placed, State.noteIssue, State.putGroup, State.modBlock]
  conv_rhs => rw [← List.map_id s.traces]
  apply List.map_congr_left
  intro t h
  simp [ht t h]

theorem State.placed_rest {s : State} {w : View} {f : Form} {d : Done} (ht : ∀ t ∈ s.traces, t.gk ≠ w.k) :
    s.placed w f d = { s with blocks := (s.putGroup w.k (d.leaves w f)).blocks, runs := (s.placed w f d).runs,
                              turn := s.turn + 1, fails := (s.placed w f d).fails,
                              lastIssue := (s.placed w f d).lastIssue } := by
  have h := State.placed_traces (s := s) (w := w) (f := f) (d := d) ht
  simp only [State.placed, State.noteIssue, State.putGroup, State.modBlock] at h ⊢
  simp [h]

/-- What a plain instruction leaves: its group, placed, perhaps with its latch cleared by the end of the run. -/
theorem State.commit_plain {s : State} {w : View} {f : Form} {d : Done} (hv : s.view? = some w) (hc : w.Calm) (hp : d.post = id)
    (ha : d.after = none) :
    ∃ g', OnlyGroup s (s.commit w f d) w.k g' ∧
      (g' = d.leaves w f ∨ g' = (d.leaves w f).setSlot w.n { (d.leaves w f).slot w.n with latch := none }) := by
  have hs := State.view?_state hv
  have ht : ∀ t ∈ s.traces, t.gk ≠ w.k := hs ▸ hc.2
  have hr := State.placed_rest (f := f) (d := d) ht
  rcases State.commit_eq s w f d hc.1 ha with h | ⟨y, h⟩
  · refine ⟨_, ?_, .inl rfl⟩
    rw [h, hp]
    refine OnlyGroup.of_putGroup (State.view?_group hv) (by rw [id, hr]) ?_
    rw [id]
    conv_lhs => rw [hr]
    rw [hr]
  · refine ⟨_, ?_, .inr rfl⟩
    rw [h, hp, id, State.endRun_untraced (State.placed_group hv) (State.placed_untraced ht)]
    refine OnlyGroup.of_putGroup (State.view?_group hv) ?_ ?_
    · rw [hr]
      have e := congrArg State.blocks (State.putGroup_putGroup s w.k (d.leaves w f)
        ((d.leaves w f).setSlot w.n { (d.leaves w f).slot w.n with latch := none }))
      simpa only [State.putGroup, State.modBlock] using e
    · rw [hr]
      rfl

end Sys2Proof.Machine
end

