-- ==== Sys2Proof/Laws/Compute.lean ====
section
/-! SUPPORT. What instructions of the S, A and V datapaths leave: their results, the slot behind them, nothing else. -/
namespace Sys2Proof.Machine

theorem Vector.set_getElem_fin {α : Type} {n : Nat} (v : Vector α n) (i j : Fin n) (x : α) :
    (v.set i.val x i.isLt)[j] = if j = i then x else v[j] := by
  simp only [Fin.getElem_fin, Vector.getElem_set]
  by_cases h : j = i
  · subst h
    simp
  · have : i.val ≠ j.val := fun e => h (Fin.ext e.symm)
    simp [h, this]

theorem mergeLanes_getElem (m : Mask) (old new : Lanes) (i : Fin 32) :
    (mergeLanes m old new)[i] = if m.getLsbD i.val then new[i] else old[i] := by
  simp [mergeLanes]

/-- Where the slot of an instruction that falls through stands. -/
theorem advanced_fall {w : View} {f : Form} {d : Done} {g' : Group} (hr : w.sl.st = .ready) (hf : d.flow = .fall)
    (hsib : d.g.slot (sib w.n) = w.g.slot (sib w.n)) (hic : d.g.icnt = w.g.icnt)
    (hg : g' = d.leaves w f ∨ g' = (d.leaves w f).setSlot w.n { (d.leaves w f).slot w.n with latch := none }) :
    Advanced w f.len g' := by
  have e : d.leaves w f = { d.g.setSlot w.n { w.issued.consume with pc := w.sl.pc + BitVec.ofNat 64 f.len, latch := d.latch }
      with icnt := d.g.icnt + 1 } := by
    simp only [Done.leaves, hf, Flow.counts, Flow.apply, if_true]
    unfold Group.setSlot
    split <;> rfl
  have e' : ∃ lt, g' = { d.g.setSlot w.n { w.issued.consume with pc := w.sl.pc + BitVec.ofNat 64 f.len, latch := lt }
      with icnt := d.g.icnt + 1 } := by
    rcases hg with h | h
    · exact ⟨_, h.trans e⟩
    · refine ⟨none, h.trans ?_⟩
      rw [e]
      unfold Group.setSlot Group.slot
      split <;> rfl
  obtain ⟨lt, rfl⟩ := e'
  unfold Group.setSlot
  constructor <;> (by_cases hn : w.n = 0 <;>
    simp_all [Group.slot, sib, Slot.consume, View.issued])

/-- A group whose slots are placed keeps everything but its slots and its count. -/
theorem leaves_regs {w : View} {f : Form} {d : Done} {g' : Group} (hf : d.flow = .fall)
    (hg : g' = d.leaves w f ∨ g' = (d.leaves w f).setSlot w.n { (d.leaves w f).slot w.n with latch := none }) :
    g' = { d.g with slot0 := g'.slot0, slot1 := g'.slot1, icnt := g'.icnt } := by
  have e : d.leaves w f = { d.g.setSlot w.n { w.issued.consume with pc := w.sl.pc + BitVec.ofNat 64 f.len, latch := d.latch }
      with icnt := d.g.icnt + 1 } := by
    simp only [Done.leaves, hf, Flow.counts, Flow.apply, if_true]
    unfold Group.setSlot
    split <;> rfl
  rcases hg with h | h <;> (rw [h, e]; unfold Group.setSlot; split <;> rfl)

/-- What a meaning leaves that only writes a destination: the state goes on, and the group differs in registers and marks. -/
structure WritesOnly (w : View) (d : Done) : Prop where
  flow : d.flow = .fall
  post : d.post = id
  after : d.after = none
  frame : d.g = { w.g with v := d.g.v, s := d.g.s, a := d.g.a, p := d.g.p, k := d.g.k, pend := d.g.pend }

theorem WroteVS.congr {w : View} {d : Opnd} {lv : Fin 32 → Word} {sv : Word} {g h : Group} (e : SameRegs g h)
    (hw : WroteVS w d lv sv g) : WroteVS w d lv sv h := by
  obtain ⟨e1, e2, e3, e4, e5⟩ := e
  unfold WroteVS at hw ⊢
  rw [e1, e2, e3, e4, e5] at hw
  exact hw

theorem View.doneV_writes (w : View) (n : Fin 128) (l : Lanes) : WritesOnly w (w.doneV n l) := ⟨rfl, rfl, rfl, rfl⟩
theorem View.doneNone_writes (w : View) : WritesOnly w w.doneNone := ⟨rfl, rfl, rfl, rfl⟩
theorem View.doneA_writes (w : View) (n : Fin 32) (x : Affine) : WritesOnly w (w.doneA n x) := ⟨rfl, rfl, rfl, rfl⟩
theorem View.doneS_writes (w : View) (n : Fin 64) (x : Word) : WritesOnly w (w.doneS n x) := by
  refine ⟨rfl, rfl, rfl, ?_⟩
  simp only [View.doneS, View.putS]
  split <;> rfl
theorem View.doneP_writes (w : View) (p : Pred) (m : Mask) : WritesOnly w (w.doneP p m) := by
  cases p <;> exact ⟨rfl, rfl, rfl, rfl⟩

theorem View.doneV_wrote (w : View) (n : Fin 128) (l : Lanes) (sv : Word) :
    WroteVS w (.v n) (fun i => l[i]) sv (w.doneV n l).g := by
  refine ⟨rfl, rfl, ?_, ?_, rfl, rfl⟩
  · intro i
    have h := Vector.set_getElem_fin w.g.v n n (mergeLanes w.act w.g.v[n] l)
    rw [if_pos rfl] at h
    exact (congrArg (fun (z : Lanes) => z[i]) h).trans (mergeLanes_getElem _ _ _ i)
  · intro m hm
    have h := Vector.set_getElem_fin w.g.v n m (mergeLanes w.act w.g.v[n] l)
    rw [if_neg hm] at h
    exact h

theorem View.doneS_wrote (w : View) (n : Fin 64) (lv : Fin 32 → Word) (x : Word) :
    WroteVS w (.s n) lv x (w.doneS n x).g := by
  by_cases hh : w.g.hm = true ∧ 56 ≤ n.val
  · refine ⟨?_, ?_, ?_, ?_⟩ <;> simp only [View.doneS, View.putS, hh, and_self, dite_true, if_true] <;> try rfl
    refine ⟨rfl, ?_⟩
    intro m
    have h := Vector.set_getElem_fin w.g.k ⟨n.val - 56, by omega⟩ m x
    simp only [Fin.ext_iff] at h
    exact h
  · refine ⟨?_, ?_, ?_, ?_⟩ <;> simp only [View.doneS, View.putS, hh, dite_false, if_false] <;> try rfl
    refine ⟨rfl, ?_⟩
    intro m
    exact Vector.set_getElem_fin w.g.s n m x

/-- An instruction whose meaning writes a destination of the V or S datapath computes. -/
theorem computes_of_done {i : Instr} {s : State} {f : Form} {bad cls : View → Bool} {body : View → Res} {w : View} {d : Done}
    {dst : Opnd} {lv : Fin 32 → Word} {sv : Word} (hx : exec i s = .next (s.issue f bad cls body)) (hi : s.Issues f bad cls w)
    (hc : w.Calm) (hb : body w = .done d) (hd : WritesOnly w d) (hw : WroteVS w dst lv sv d.g) :
    Computes i s w f.len dst lv sv := by
  obtain ⟨hf, hp, ha, hfr⟩ := hd
  obtain ⟨g', hg', hl⟩ := State.commit_plain (f := f) hi.view hc hp ha
  have hr := leaves_regs hf hl
  refine ⟨_, g', hx, ?_, ?_, ?_, ?_⟩
  · rw [State.issue_of_issues hi, hb]
    exact hg'
  · exact advanced_fall hi.ready hf (by rw [hfr]; unfold Group.slot; split <;> rfl) (by rw [hfr]) hl
  · unfold SameFrame
    rw [hr, hfr]
  · exact hw.congr ⟨by rw [hr], by rw [hr], by rw [hr], by rw [hr], by rw [hr]⟩

/-- A two-source instruction of the V and S datapaths computes its function. -/
theorem View.alu_computes {i : Instr} {s : State} {f : Form} {bad cls : View → Bool} {body : View → Res} {w : View}
    {d x y : Opnd} {fn : Word → Word → Word → Word} (hx : exec i s = .next (s.issue f bad cls body)) (hi : s.Issues f bad cls w)
    (hc : w.Calm) (hb : body w = .done (w.alu fn d x y)) :
    Computes i s w f.len d (fun j => fn (w.lane x j) (w.lane y j) (w.lane d j)) (fn (w.sval x) (w.sval y) (w.sval d)) := by
  cases d with
  | v n =>
    refine computes_of_done hx hi hc hb (w.doneV_writes _ _) ?_
    have h := w.doneV_wrote n (Vector.ofFn (fun i => fn (w.lane x i) (w.lane y i) (w.g.v[n][i]))) (fn (w.sval x) (w.sval y) (w.sval (.v n)))
    simpa [View.alu, View.lane] using h
  | s n => exact computes_of_done hx hi hc hb (w.doneS_writes _ _) (w.doneS_wrote n _ _)
  | _ => exact computes_of_done hx hi hc hb w.doneNone_writes ⟨rfl, rfl, rfl, rfl, rfl⟩

end Sys2Proof.Machine
end

