-- ==== Sys2Proof/Laws/Matrix.lean ====
section
/-! SUPPORT. When an integer slice finds room for its carries in the Talus. -/
namespace Sys2Proof.Machine

/-- A slice with a carry that no entry takes is refused where the share is used up. -/
theorem Sequencer.intApply_none {x : Sequencer} {i : SliceIn} {j : Nat} (hf : 512 ≤ x.talus.length) (e : Fin 4096) (c : Nat × Nat × Int)
    (hc : carryOf (i.intSlice j (e.val / 64) (e.val % 64) (x.tile i.m.tile.val).p0[e] (x.tile i.m.tile.val).p1[e], e.val) = some c)
    (hn : x.talus.any (fun y => y.takes i.m.tile.val c.1 c.2.1 c.2.2) = false) : x.intApply i j = none := by
  unfold Sequencer.intApply
  simp only
  rw [if_pos]
  have hm : c ∈ (List.filter (fun c => !x.talus.any (fun y => y.takes i.m.tile.val c.1 c.2.1 c.2.2))
      ((Vector.ofFn (fun e : Fin 4096 => i.intSlice j (e.val / 64) (e.val % 64) (x.tile i.m.tile.val).p0[e] (x.tile i.m.tile.val).p1[e])).toList.zip
        (upFrom 0 4096) |>.filterMap carryOf)) := by
    rw [List.mem_filter]
    refine ⟨?_, by simp [hn]⟩
    rw [List.mem_filterMap]
    refine ⟨_, ?_, hc⟩
    rw [List.mem_iff_getElem]
    refine ⟨e.val, ?_, ?_⟩
    · simp [upFrom]
    · simp [upFrom]
  have := List.length_pos_of_mem hm
  simp only [talusShare]
  omega

/-- A slice without carries is applied. -/
theorem Sequencer.intApply_some {x : Sequencer} {i : SliceIn} {j : Nat}
    (h : ∀ e : Fin 4096, (i.intSlice j (e.val / 64) (e.val % 64) (x.tile i.m.tile.val).p0[e] (x.tile i.m.tile.val).p1[e]).net = 0) :
    (x.intApply i j).isSome = true := by
  unfold Sequencer.intApply
  simp only
  rw [if_neg]
  · rfl
  have : (((Vector.ofFn (fun e : Fin 4096 => i.intSlice j (e.val / 64) (e.val % 64) (x.tile i.m.tile.val).p0[e] (x.tile i.m.tile.val).p1[e])).toList.zip
        (upFrom 0 4096)).filterMap carryOf) = [] := by
    rw [List.filterMap_eq_nil_iff]
    intro p hp
    rw [List.mem_iff_getElem] at hp
    obtain ⟨k, hk, rfl⟩ := hp
    simp only [upFrom, List.length_zip, Vector.length_toList] at hk
    have hk' : k < 4096 := by omega
    have e := h ⟨k, hk'⟩
    simp only [Fin.getElem_fin] at e
    simp [carryOf, e]
  rw [this]
  simp

end Sys2Proof.Machine
end

