-- ==== Sys2Proof/Laws/Memory.lean ====
section
/-! SUPPORT. Byte memory: every operation keeps the canonical form, a read after a write gives what was written, a write leaves every
other byte alone, and two memories in the form that read alike are equal. -/
namespace Sys2Proof.Machine

/-! ### One byte -/

theorem Memory.wfFrom_mono {l : List Host.Cell} {lo hi : Nat} (h : Memory.wfFrom hi l = true) (hl : lo ≤ hi) : Memory.wfFrom lo l = true := by
  cases l with
  | nil => rfl
  | cons c r =>
    simp only [Memory.wfFrom, Bool.and_eq_true, decide_eq_true_eq] at h ⊢
    exact ⟨⟨by omega, h.1.2⟩, h.2⟩

theorem Memory.wfFrom_cons {lo : Nat} {c : Host.Cell} {r : List Host.Cell} :
    Memory.wfFrom lo (c :: r) = true ↔ lo ≤ c.1 ∧ c.2 ≠ 0 ∧ Memory.wfFrom (c.1 + 1) r = true := by
  simp only [Memory.wfFrom, Bool.and_eq_true, decide_eq_true_eq, and_assoc]

theorem Memory.wfFrom_put {l : List Host.Cell} {lo a : Nat} {b : Byte} (h : Memory.wfFrom lo l = true) (ha : lo ≤ a) :
    Memory.wfFrom lo (Memory.put l a b) = true := by
  induction l generalizing lo with
  | nil =>
    unfold Memory.put
    split
    · rfl
    · next hb => exact Memory.wfFrom_cons.mpr ⟨ha, hb, rfl⟩
  | cons c r ih =>
    have h' := Memory.wfFrom_cons.mp h
    unfold Memory.put
    split
    · next hlt =>
      split
      · exact h
      · next hb => exact Memory.wfFrom_cons.mpr ⟨ha, hb, Memory.wfFrom_cons.mpr ⟨hlt, h'.2.1, h'.2.2⟩⟩
    · split
      · next heq =>
        split
        · exact Memory.wfFrom_mono h'.2.2 (by omega)
        · next hb => exact Memory.wfFrom_cons.mpr ⟨ha, hb, heq ▸ h'.2.2⟩
      · exact Memory.wfFrom_cons.mpr ⟨h'.1, h'.2.1, ih h'.2.2 (by omega)⟩

theorem Memory.look_below {l : List Host.Cell} {lo a : Nat} (h : Memory.wfFrom lo l = true) (ha : a < lo) : Memory.look l a = 0 := by
  induction l generalizing lo with
  | nil => rfl
  | cons c r ih =>
    have h' := Memory.wfFrom_cons.mp h
    rw [Memory.look, if_neg (by omega)]
    exact ih h'.2.2 (by omega)

theorem Memory.look_cons (c : Host.Cell) (r : List Host.Cell) (j : Nat) :
    Memory.look (c :: r) j = if c.1 = j then c.2 else Memory.look r j := rfl

theorem Memory.look_put {l : List Host.Cell} {lo : Nat} (h : Memory.wfFrom lo l = true) (a j : Nat) (b : Byte) :
    Memory.look (Memory.put l a b) j = if j = a then b else Memory.look l j := by
  induction l generalizing lo with
  | nil =>
    unfold Memory.put
    split
    · next hb => split <;> simp [Memory.look, hb]
    · rw [Memory.look_cons]
      by_cases hj : j = a
      · rw [if_pos hj.symm, if_pos hj]
      · rw [if_neg (Ne.symm hj), if_neg hj]
  | cons c r ih =>
    have h' := Memory.wfFrom_cons.mp h
    unfold Memory.put
    split
    · next hlt =>
      have below : Memory.look (c :: r) a = 0 := Memory.look_below (lo := a + 1) (Memory.wfFrom_cons.mpr ⟨hlt, h'.2.1, h'.2.2⟩) (by omega)
      split
      · next hb =>
        by_cases hj : j = a
        · rw [if_pos hj, hj, below, hb]
        · rw [if_neg hj]
      · rw [Memory.look_cons (a, b)]
        by_cases hj : j = a
        · rw [if_pos hj.symm, if_pos hj]
        · rw [if_neg (Ne.symm hj), if_neg hj]
    · split
      · next heq =>
        have below : Memory.look r a = 0 := Memory.look_below h'.2.2 (by omega)
        split
        · next hb =>
          by_cases hj : j = a
          · rw [if_pos hj, hj, below, hb]
          · rw [if_neg hj, Memory.look_cons, if_neg (by omega)]
        · rw [Memory.look_cons, Memory.look_cons]
          by_cases hj : j = a
          · rw [if_pos hj.symm, if_pos hj]
          · rw [if_neg (Ne.symm hj), if_neg hj, if_neg (by omega)]
      · next hne =>
        rw [Memory.look_cons, Memory.look_cons]
        by_cases hc : c.1 = j
        · rw [if_pos hc, if_pos hc, if_neg (by omega)]
        · rw [if_neg hc, if_neg hc, ih h'.2.2]

/-- Writing a byte keeps the canonical form. -/
theorem Memory.wf_set {m : Memory} (h : m.wf = true) (a : Nat) (b : Byte) : (m.set a b).wf = true := Memory.wfFrom_put h (Nat.zero_le a)
/-- A read after a write. -/
theorem Memory.get_set {m : Memory} (h : m.wf = true) (a j : Nat) (b : Byte) : (m.set a b).get j = if j = a then b else m.get j :=
  Memory.look_put h a j b

/-! ### More bytes -/

theorem Memory.wf_writeAll {m : Memory} (h : m.wf = true) (l : List (Nat × Byte)) : (m.writeAll l).wf = true := by
  induction l generalizing m with
  | nil => exact h
  | cons c r ih => exact ih (Memory.wf_set h c.1 c.2)

/-- An address that is not written keeps its byte. -/
theorem Memory.get_writeAll {m : Memory} (h : m.wf = true) {l : List (Nat × Byte)} {j : Nat} (hj : ∀ c ∈ l, c.1 ≠ j) : (m.writeAll l).get j = m.get j := by
  induction l generalizing m with
  | nil => rfl
  | cons c r ih =>
    have e : (m.writeAll (c :: r)) = (m.set c.1 c.2).writeAll r := rfl
    rw [e, ih (Memory.wf_set h _ _) (fun d hd => hj d (by simp [hd])), Memory.get_set h]
    simp [Ne.symm (hj c (by simp))]

/-- An address written once holds what was written, whatever was written before it. -/
theorem Memory.get_writeAll_of_last {m : Memory} (h : m.wf = true) {l r : List (Nat × Byte)} {j : Nat} {b : Byte} (hj : ∀ c ∈ r, c.1 ≠ j) :
    (m.writeAll (l ++ (j, b) :: r)).get j = b := by
  induction l generalizing m with
  | nil =>
    have e : (m.writeAll ((j, b) :: r)) = (m.set j b).writeAll r := rfl
    rw [List.nil_append, e, Memory.get_writeAll (Memory.wf_set h j b) hj, Memory.get_set h]
    simp
  | cons c l ih => exact ih (Memory.wf_set h c.1 c.2)

theorem Memory.wf_write {m : Memory} (h : m.wf = true) (a : Nat) (bs : List Byte) : (m.write a bs).wf = true := Memory.wf_writeAll h _

theorem Memory.wfFrom_filter {l : List Host.Cell} {lo : Nat} (p : Host.Cell → Bool) (h : Memory.wfFrom lo l = true) :
    Memory.wfFrom lo (l.filter p) = true := by
  induction l generalizing lo with
  | nil => rfl
  | cons c r ih =>
    have h' := Memory.wfFrom_cons.mp h
    rw [List.filter_cons]
    split
    · exact Memory.wfFrom_cons.mpr ⟨h'.1, h'.2.1, ih h'.2.2⟩
    · exact Memory.wfFrom_mono (ih h'.2.2) (by omega)

/-- Clearing a range keeps the canonical form. -/
theorem Memory.wf_clear {m : Memory} (h : m.wf = true) (a n : Nat) : (m.clear a n).wf = true := Memory.wfFrom_filter _ h

/-! ### Equal memories are equal data -/

theorem Memory.cells_ext {l r : List Host.Cell} {lo lo' : Nat} (hl : Memory.wfFrom lo l = true) (hr : Memory.wfFrom lo' r = true)
    (h : ∀ a, Memory.look l a = Memory.look r a) : l = r := by
  induction l generalizing lo lo' r with
  | nil =>
    cases r with
    | nil => rfl
    | cons c r =>
      have e := h c.1
      rw [Memory.look_cons, if_pos rfl] at e
      exact absurd e.symm (Memory.wfFrom_cons.mp hr).2.1
  | cons c l ih =>
    have hl' := Memory.wfFrom_cons.mp hl
    cases r with
    | nil =>
      have e := h c.1
      rw [Memory.look_cons, if_pos rfl] at e
      exact absurd e hl'.2.1
    | cons d r =>
      have hr' := Memory.wfFrom_cons.mp hr
      have key : c.1 = d.1 := by
        rcases Nat.lt_trichotomy c.1 d.1 with hlt | he | hlt
        · have e := h c.1
          rw [Memory.look_cons, if_pos rfl, Memory.look_cons, if_neg (by omega), Memory.look_below hr'.2.2 (by omega)] at e
          exact absurd e hl'.2.1
        · exact he
        · have e := h d.1
          rw [Memory.look_cons, if_neg (by omega), Memory.look_below hl'.2.2 (by omega), Memory.look_cons, if_pos rfl] at e
          exact absurd e.symm hr'.2.1
      have val : c.2 = d.2 := by
        have e := h c.1
        rwa [Memory.look_cons, if_pos rfl, Memory.look_cons, if_pos key.symm] at e
      have rest : l = r := by
        refine ih hl'.2.2 hr'.2.2 (fun a => ?_)
        by_cases ha : a = c.1
        · rw [Memory.look_below hl'.2.2 (by omega), Memory.look_below hr'.2.2 (by omega)]
        · have e := h a
          rwa [Memory.look_cons, if_neg (Ne.symm ha), Memory.look_cons, if_neg (by omega)] at e
      rw [rest, show c = d from Prod.ext key val]

/-- Memories in canonical form that read alike are equal. -/
theorem Memory.ext_get {m n : Memory} (hm : m.wf = true) (hn : n.wf = true) (h : ∀ a, m.get a = n.get a) : m = n := by
  have e : m.cells = n.cells := Memory.cells_ext hm hn h
  cases m
  cases n
  exact congrArg Memory.mk e

/-! ### The memories of a state -/

/-- The memories after reset have the form. -/
theorem State.reset_memories_wf : State.reset.dram.wf = true ∧ State.reset.host.wf = true ∧ State.reset.peer.wf = true := ⟨rfl, rfl, rfl⟩

/-- A state whose memories and blocks are those of one in the form has it. -/
theorem State.MemoryWf.congr {s t : State} (h : s.MemoryWf) (hd : t.dram = s.dram) (hh : t.host = s.host) (hp : t.peer = s.peer)
    (hb : ∀ b ∈ t.blocks, ∃ c ∈ s.blocks, b.loc = c.loc) : t.MemoryWf := by
  refine ⟨hd ▸ h.1, hh ▸ h.2.1, hp ▸ h.2.2.1, fun b hb' => ?_⟩
  obtain ⟨c, hc, e⟩ := hb b hb'
  exact e ▸ h.2.2.2 c hc

/-- A change of a block that keeps its local store in the form. -/
theorem State.MemoryWf.modBlock {s : State} (h : s.MemoryWf) (n : Nat) (f : Block → Block) (hf : ∀ b, b.loc.wf = true → (f b).loc.wf = true) :
    (s.modBlock n f).MemoryWf := by
  refine ⟨h.1, h.2.1, h.2.2.1, fun b hb => ?_⟩
  obtain ⟨c, hc, rfl⟩ := List.mem_map.mp hb
  split
  · exact hf c (h.2.2.2 c hc)
  · exact h.2.2.2 c hc

/-- A replaced group. -/
theorem State.MemoryWf.putGroup {s : State} (h : s.MemoryWf) (k : GroupKey) (g : Group) : (s.putGroup k g).MemoryWf :=
  h.modBlock k.block _ (fun _ hb => hb)

/-- Writes of a block's local store. -/
theorem State.MemoryWf.writeLocal {s : State} (h : s.MemoryWf) (k : GroupKey) (l : List (Nat × Byte)) :
    (s.modLocal k (fun m => m.writeAll l)).MemoryWf :=
  h.modBlock k.block _ (fun _ hb => Memory.wf_writeAll hb l)

/-- A fold of operations that keep the form. -/
theorem State.MemoryWf.foldl {α : Type} {s : State} (h : s.MemoryWf) (f : State → α → State) (l : List α)
    (hf : ∀ t a, t.MemoryWf → (f t a).MemoryWf) : (l.foldl f s).MemoryWf := by
  induction l generalizing s with
  | nil => exact h
  | cons a l ih => exact ih (hf s a h)

/-- Only the caches change. -/
theorem State.MemoryWf.mem {s : State} (h : s.MemoryWf) (c : Caches) : State.MemoryWf { s with mem := c } := h

theorem State.MemoryWf.writeBack {s : State} (h : s.MemoryWf) (l : L2Line) : (s.writeBack l).MemoryWf := by
  unfold State.writeBack
  split
  · exact ⟨Memory.wf_writeAll h.1 _, h.2.1, h.2.2.1, h.2.2.2⟩
  · exact h

theorem State.MemoryWf.flushL2 {s : State} (h : s.MemoryWf) (p : L2Line → Bool) : (s.flushL2 p).MemoryWf :=
  (h.foldl _ _ (fun _ l ht => ht.writeBack l)).mem _

theorem State.MemoryWf.cleanL2 {s : State} (h : s.MemoryWf) (p : L2Line → Bool) : (s.cleanL2 p).MemoryWf :=
  (h.foldl _ _ (fun _ l ht => ht.writeBack l)).mem _

theorem State.MemoryWf.persistRoom {s : State} (h : s.MemoryWf) (sl ln : Nat) : (s.persistRoom sl ln).MemoryWf := by
  unfold State.persistRoom
  split
  · split
    · exact h.flushL2 _
    · exact h.mem _
  · exact h

/-- Room for a persist line, where one is asked for. -/
theorem State.MemoryWf.persistIf {s : State} (h : s.MemoryWf) (c : Bool) (sl ln : Nat) :
    (if c then s.persistRoom sl ln else s).MemoryWf := by
  split
  · exact h.persistRoom _ _
  · exact h

theorem State.MemoryWf.l2Install {s : State} (h : s.MemoryWf) (l : L2Line) (al : L2Alloc) : (s.l2Install l al).MemoryWf := by
  unfold State.l2Install
  dsimp only
  split
  · exact h.persistIf _ _ _
  · refine State.MemoryWf.mem ?_ _
    split
    · exact (h.persistIf _ _ _).flushL2 _
    · exact h.persistIf _ _ _

theorem State.MemoryWf.l2Touch {s : State} (h : s.MemoryWf) (sl ln : Nat) (secs : BitVec 4) (al : L2Alloc) : (s.l2Touch sl ln secs al).MemoryWf := by
  unfold State.l2Touch
  dsimp only
  split
  · exact (h.persistIf _ _ _).mem _
  · exact h.l2Install _ _

theorem State.MemoryWf.dramWriteLine {s : State} (h : s.MemoryWf) (ln : Nat) (bs : List (Nat × Byte)) : (s.dramWriteLine ln bs).MemoryWf :=
  ⟨Memory.wf_writeAll h.1 _, h.2.1, h.2.2.1, h.2.2.2⟩

theorem State.MemoryWf.sliceWriteLine {s : State} (h : s.MemoryWf) (sl ln : Nat) (bs : List (Nat × Byte)) (al : L2Alloc) :
    (s.sliceWriteLine sl ln bs al).MemoryWf := by
  unfold State.sliceWriteLine
  dsimp only
  split
  · exact (h.l2Touch _ _ _ _).mem _
  · exact (h.l2Touch _ _ _ _).dramWriteLine _ _

theorem State.MemoryWf.devWrite {s : State} (h : s.MemoryWf) (via : Nat → Via) (bs : List (Nat × Byte)) (al : L2Alloc) :
    (s.devWrite via bs al).MemoryWf := by
  refine h.foldl _ _ (fun t ln ht => ?_)
  split
  · exact ht.sliceWriteLine _ _ _ _
  · exact ht.dramWriteLine _ _

theorem State.MemoryWf.beforeSys {s : State} (h : s.MemoryWf) (a : Agent) (ls : List Nat) : (s.beforeSys a ls).MemoryWf := by
  unfold State.beforeSys
  split
  · split
    · exact h.flushL2 _
    · exact h
  · exact h

theorem State.MemoryWf.sysRelease {s : State} (h : s.MemoryWf) (a : Agent) : (s.sysRelease a).MemoryWf := by
  unfold State.sysRelease
  split
  · split
    · exact h.cleanL2 _
    · exact h
  · exact h

theorem State.MemoryWf.rdcWriteBack {s : State} (h : s.MemoryWf) (l : RdcLine) : (s.rdcWriteBack l).MemoryWf := by
  unfold State.rdcWriteBack
  split
  · exact ⟨h.1, h.2.1, Memory.wf_writeAll h.2.2.1 _, h.2.2.2⟩
  · exact h

theorem State.MemoryWf.surrender {s : State} (h : s.MemoryWf) (p : RdcLine → Bool) : (s.surrender p).MemoryWf :=
  (h.foldl _ _ (fun _ l ht => ht.rdcWriteBack l)).mem _

theorem State.MemoryWf.flushRdc {s : State} (h : s.MemoryWf) (p : RdcLine → Bool) : (s.flushRdc p).MemoryWf := h.surrender _

theorem State.MemoryWf.peerHomeWrite {s : State} (h : s.MemoryWf) (bs : List (Nat × Byte)) : (s.peerHomeWrite bs).MemoryWf :=
  let h' := h.surrender (fun l => (linesOf (bs.map (fun x : Nat × Byte => x.1))).contains l.line)
  ⟨h'.1, h'.2.1, Memory.wf_writeAll h'.2.2.1 bs, h'.2.2.2⟩

theorem State.MemoryWf.rdcTouch {s : State} (h : s.MemoryWf) (a : Agent) (ln : Nat) (m : Bool) : (s.rdcTouch a ln m).MemoryWf := by
  unfold State.rdcTouch
  dsimp only
  split
  · exact h.mem _
  · split
    · exact h.surrender _
    · refine State.MemoryWf.mem (s := ?_) ?_ _
      split
      · exact (h.surrender _).flushRdc _
      · exact h.surrender _

theorem State.MemoryWf.peerWrite {s : State} (h : s.MemoryWf) (a : Agent) (bs : List (Nat × Byte)) : (s.peerWrite a bs).MemoryWf := by
  refine h.foldl _ _ (fun _ _ ht => ?_)
  dsimp only
  split
  · exact (ht.rdcTouch a _ true).peerHomeWrite _
  · exact (ht.rdcTouch a _ true).mem _

theorem State.MemoryWf.peerStores {s : State} (h : s.MemoryWf) (ln : Nat) (l : List (Nat × Byte)) : (s.peerStores ln l).MemoryWf :=
  ⟨h.1, h.2.1, Memory.wf_writeAll h.2.2.1 _, h.2.2.2⟩

theorem State.MemoryWf.viewTouch {s : State} (h : s.MemoryWf) (a : Agent) (pa : Nat) (al : L2Alloc) : (s.viewTouch a pa al).MemoryWf := by
  unfold State.viewTouch
  split
  · exact (h.persistIf _ _ _).mem _
  · exact h

theorem State.MemoryWf.askPeer {s : State} (h : s.MemoryWf) (ln : Nat) (wr : Bool) : (s.askPeer ln wr).MemoryWf := by
  unfold State.askPeer
  split
  · exact h
  · split
    · exact h.mem _
    · split
      · exact h.mem _
      · exact h
    · exact h

/-- Reading leaves the form. -/
theorem State.MemoryWf.touchFor {s : State} (h : s.MemoryWf) (a : Agent) (ls : List Loc) (al : L2Alloc) (whole : Bool) :
    (s.touchFor a ls al whole).MemoryWf := by
  refine State.MemoryWf.foldl ?_ _ _ (fun _ _ ht => ht.rdcTouch _ _ _)
  refine State.MemoryWf.foldl ?_ _ _ (fun _ _ ht => ht.viewTouch _ _ _)
  refine (h.beforeSys a _).foldl _ _ (fun t ln ht => ?_)
  split
  · exact ht.l2Touch _ _ _ _
  · exact ht

/-- Writing keeps the form. -/
theorem State.MemoryWf.writeAt {s : State} (h : s.MemoryWf) (a : Agent) (bs : List (Loc × Byte)) (al : L2Alloc) : (s.writeAt a bs al).MemoryWf := by
  unfold State.writeAt
  dsimp only
  have h' := ((h.beforeSys a (linesOf ((bs.filterMap (fun x => if x.1.kind == .device then some (x.1.pa, x.2) else none)).map (·.1)))).devWrite
    ((s.beforeSys a (linesOf ((bs.filterMap (fun x => if x.1.kind == .device then some (x.1.pa, x.2) else none)).map (·.1)))).viaOf a)
    (bs.filterMap (fun x => if x.1.kind == .device then some (x.1.pa, x.2) else none)) al).peerWrite a
    (bs.filterMap (fun x => if x.1.kind == .peer then some (x.1.pa, x.2) else none))
  exact ⟨h'.1, Memory.wf_writeAll h'.2.1 _, h'.2.2.1, h'.2.2.2⟩

theorem State.MemoryWf.writeBytes {s : State} (h : s.MemoryWf) (a : Agent) (l : Loc) (bs : List Byte) : (s.writeBytes a l bs).MemoryWf :=
  h.writeAt a _ _

/-- A write that the device posts keeps the form, whether it is made or waits. -/
theorem State.MemoryWf.post {s : State} (h : s.MemoryWf) (bs : List (Loc × Byte)) : (s.post bs).MemoryWf := by
  have ask : (s.askPeerFor true (linesOfLocs (bs.map (·.1)))).MemoryWf := by
    refine h.foldl _ _ (fun t l ht => ?_)
    split
    · exact ht.askPeer _ _
    · exact ht
  unfold State.post
  dsimp only
  split
  · exact h.writeAt _ _ _
  · exact ask

theorem State.MemoryWf.postBytes {s : State} (h : s.MemoryWf) (l : Loc) (bs : List Byte) : (s.postBytes l bs).MemoryWf := h.post _

theorem State.MemoryWf.postNum {s : State} (h : s.MemoryWf) (l : Loc) (n v : Nat) : (s.postNum l n v).MemoryWf := h.postBytes l _

theorem State.MemoryWf.writeNum {s : State} (h : s.MemoryWf) (a : Agent) (l : Loc) (n v : Nat) : (s.writeNum a l n v).MemoryWf :=
  h.writeBytes a l _

end Sys2Proof.Machine
end

