-- ==== Sys2Proof/Laws/State.lean ====
section
/-! SUPPORT. What each update of a part of the state leaves: one lemma for each field it keeps, and what is found after it. -/
namespace Sys2Proof.Machine

/-! ### `State.modBlock` -/

@[simp] theorem State.modBlock_dram (s : State) (n : Nat) (f : Block → Block) : (s.modBlock n f).dram = s.dram := rfl
@[simp] theorem State.modBlock_host (s : State) (n : Nat) (f : Block → Block) : (s.modBlock n f).host = s.host := rfl
@[simp] theorem State.modBlock_peer (s : State) (n : Nat) (f : Block → Block) : (s.modBlock n f).peer = s.peer := rfl
@[simp] theorem State.modBlock_mem (s : State) (n : Nat) (f : Block → Block) : (s.modBlock n f).mem = s.mem := rfl
@[simp] theorem State.modBlock_regs (s : State) (n : Nat) (f : Block → Block) : (s.modBlock n f).regs = s.regs := rfl
@[simp] theorem State.modBlock_queues (s : State) (n : Nat) (f : Block → Block) : (s.modBlock n f).queues = s.queues := rfl
@[simp] theorem State.modBlock_handles (s : State) (n : Nat) (f : Block → Block) : (s.modBlock n f).handles = s.handles := rfl
@[simp] theorem State.modBlock_launches (s : State) (n : Nat) (f : Block → Block) : (s.modBlock n f).launches = s.launches := rfl
@[simp] theorem State.modBlock_ctxs (s : State) (n : Nat) (f : Block → Block) : (s.modBlock n f).ctxs = s.ctxs := rfl
@[simp] theorem State.modBlock_asids (s : State) (n : Nat) (f : Block → Block) : (s.modBlock n f).asids = s.asids := rfl
@[simp] theorem State.modBlock_jobs (s : State) (n : Nat) (f : Block → Block) : (s.modBlock n f).jobs = s.jobs := rfl
@[simp] theorem State.modBlock_lastCluster (s : State) (n : Nat) (f : Block → Block) : (s.modBlock n f).lastCluster = s.lastCluster := rfl
@[simp] theorem State.modBlock_lastQueue (s : State) (n : Nat) (f : Block → Block) : (s.modBlock n f).lastQueue = s.lastQueue := rfl
@[simp] theorem State.modBlock_gangs (s : State) (n : Nat) (f : Block → Block) : (s.modBlock n f).gangs = s.gangs := rfl
@[simp] theorem State.modBlock_runs (s : State) (n : Nat) (f : Block → Block) : (s.modBlock n f).runs = s.runs := rfl
@[simp] theorem State.modBlock_cur (s : State) (n : Nat) (f : Block → Block) : (s.modBlock n f).cur = s.cur := rfl
@[simp] theorem State.modBlock_curSlot (s : State) (n : Nat) (f : Block → Block) : (s.modBlock n f).curSlot = s.curSlot := rfl
@[simp] theorem State.modBlock_turn (s : State) (n : Nat) (f : Block → Block) : (s.modBlock n f).turn = s.turn := rfl
@[simp] theorem State.modBlock_lastIssue (s : State) (n : Nat) (f : Block → Block) : (s.modBlock n f).lastIssue = s.lastIssue := rfl
@[simp] theorem State.modBlock_ops (s : State) (n : Nat) (f : Block → Block) : (s.modBlock n f).ops = s.ops := rfl
@[simp] theorem State.modBlock_walks (s : State) (n : Nat) (f : Block → Block) : (s.modBlock n f).walks = s.walks := rfl
@[simp] theorem State.modBlock_fails (s : State) (n : Nat) (f : Block → Block) : (s.modBlock n f).fails = s.fails := rfl
@[simp] theorem State.modBlock_tlb (s : State) (n : Nat) (f : Block → Block) : (s.modBlock n f).tlb = s.tlb := rfl
@[simp] theorem State.modBlock_walkCache (s : State) (n : Nat) (f : Block → Block) : (s.modBlock n f).walkCache = s.walkCache := rfl
@[simp] theorem State.modBlock_cmds (s : State) (n : Nat) (f : Block → Block) : (s.modBlock n f).cmds = s.cmds := rfl
@[simp] theorem State.modBlock_rays (s : State) (n : Nat) (f : Block → Block) : (s.modBlock n f).rays = s.rays := rfl
@[simp] theorem State.modBlock_accBins (s : State) (n : Nat) (f : Block → Block) : (s.modBlock n f).accBins = s.accBins := rfl
@[simp] theorem State.modBlock_spilled (s : State) (n : Nat) (f : Block → Block) : (s.modBlock n f).spilled = s.spilled := rfl
@[simp] theorem State.modBlock_replays (s : State) (n : Nat) (f : Block → Block) : (s.modBlock n f).replays = s.replays := rfl
@[simp] theorem State.modBlock_prefetches (s : State) (n : Nat) (f : Block → Block) : (s.modBlock n f).prefetches = s.prefetches := rfl
@[simp] theorem State.modBlock_listWalks (s : State) (n : Nat) (f : Block → Block) : (s.modBlock n f).listWalks = s.listWalks := rfl
@[simp] theorem State.modBlock_seqs (s : State) (n : Nat) (f : Block → Block) : (s.modBlock n f).seqs = s.seqs := rfl
@[simp] theorem State.modBlock_curSeq (s : State) (n : Nat) (f : Block → Block) : (s.modBlock n f).curSeq = s.curSeq := rfl
@[simp] theorem State.modBlock_arrays (s : State) (n : Nat) (f : Block → Block) : (s.modBlock n f).arrays = s.arrays := rfl
@[simp] theorem State.modBlock_resetting (s : State) (n : Nat) (f : Block → Block) : (s.modBlock n f).resetting = s.resetting := rfl
@[simp] theorem State.modBlock_timedOut (s : State) (n : Nat) (f : Block → Block) : (s.modBlock n f).timedOut = s.timedOut := rfl
@[simp] theorem State.modBlock_samplers (s : State) (n : Nat) (f : Block → Block) : (s.modBlock n f).samplers = s.samplers := rfl
@[simp] theorem State.modBlock_traces (s : State) (n : Nat) (f : Block → Block) : (s.modBlock n f).traces = s.traces := rfl
@[simp] theorem State.modBlock_hostAcc (s : State) (n : Nat) (f : Block → Block) : (s.modBlock n f).hostAcc = s.hostAcc := rfl
@[simp] theorem State.modBlock_posted (s : State) (n : Nat) (f : Block → Block) : (s.modBlock n f).posted = s.posted := rfl
@[simp] theorem State.modBlock_records (s : State) (n : Nat) (f : Block → Block) : (s.modBlock n f).records = s.records := rfl
@[simp] theorem State.modBlock_bells (s : State) (n : Nat) (f : Block → Block) : (s.modBlock n f).bells = s.bells := rfl
@[simp] theorem State.modBlock_msix (s : State) (n : Nat) (f : Block → Block) : (s.modBlock n f).msix = s.msix := rfl
@[simp] theorem State.modBlock_resps (s : State) (n : Nat) (f : Block → Block) : (s.modBlock n f).resps = s.resps := rfl
@[simp] theorem State.modBlock_agenda (s : State) (n : Nat) (f : Block → Block) : (s.modBlock n f).agenda = s.agenda := rfl
@[simp] theorem State.modBlock_ids (s : State) (n : Nat) (f : Block → Block) : (s.modBlock n f).ids = s.ids := rfl
@[simp] theorem State.modBlock_clk (s : State) (n : Nat) (f : Block → Block) : (s.modBlock n f).clk = s.clk := rfl

/-! ### `State.putGroup` -/

@[simp] theorem State.putGroup_dram (s : State) (k : GroupKey) (g : Group) : (s.putGroup k g).dram = s.dram := rfl
@[simp] theorem State.putGroup_host (s : State) (k : GroupKey) (g : Group) : (s.putGroup k g).host = s.host := rfl
@[simp] theorem State.putGroup_peer (s : State) (k : GroupKey) (g : Group) : (s.putGroup k g).peer = s.peer := rfl
@[simp] theorem State.putGroup_mem (s : State) (k : GroupKey) (g : Group) : (s.putGroup k g).mem = s.mem := rfl
@[simp] theorem State.putGroup_regs (s : State) (k : GroupKey) (g : Group) : (s.putGroup k g).regs = s.regs := rfl
@[simp] theorem State.putGroup_queues (s : State) (k : GroupKey) (g : Group) : (s.putGroup k g).queues = s.queues := rfl
@[simp] theorem State.putGroup_handles (s : State) (k : GroupKey) (g : Group) : (s.putGroup k g).handles = s.handles := rfl
@[simp] theorem State.putGroup_launches (s : State) (k : GroupKey) (g : Group) : (s.putGroup k g).launches = s.launches := rfl
@[simp] theorem State.putGroup_ctxs (s : State) (k : GroupKey) (g : Group) : (s.putGroup k g).ctxs = s.ctxs := rfl
@[simp] theorem State.putGroup_asids (s : State) (k : GroupKey) (g : Group) : (s.putGroup k g).asids = s.asids := rfl
@[simp] theorem State.putGroup_jobs (s : State) (k : GroupKey) (g : Group) : (s.putGroup k g).jobs = s.jobs := rfl
@[simp] theorem State.putGroup_lastCluster (s : State) (k : GroupKey) (g : Group) : (s.putGroup k g).lastCluster = s.lastCluster := rfl
@[simp] theorem State.putGroup_lastQueue (s : State) (k : GroupKey) (g : Group) : (s.putGroup k g).lastQueue = s.lastQueue := rfl
@[simp] theorem State.putGroup_gangs (s : State) (k : GroupKey) (g : Group) : (s.putGroup k g).gangs = s.gangs := rfl
@[simp] theorem State.putGroup_runs (s : State) (k : GroupKey) (g : Group) : (s.putGroup k g).runs = s.runs := rfl
@[simp] theorem State.putGroup_cur (s : State) (k : GroupKey) (g : Group) : (s.putGroup k g).cur = s.cur := rfl
@[simp] theorem State.putGroup_curSlot (s : State) (k : GroupKey) (g : Group) : (s.putGroup k g).curSlot = s.curSlot := rfl
@[simp] theorem State.putGroup_turn (s : State) (k : GroupKey) (g : Group) : (s.putGroup k g).turn = s.turn := rfl
@[simp] theorem State.putGroup_lastIssue (s : State) (k : GroupKey) (g : Group) : (s.putGroup k g).lastIssue = s.lastIssue := rfl
@[simp] theorem State.putGroup_ops (s : State) (k : GroupKey) (g : Group) : (s.putGroup k g).ops = s.ops := rfl
@[simp] theorem State.putGroup_walks (s : State) (k : GroupKey) (g : Group) : (s.putGroup k g).walks = s.walks := rfl
@[simp] theorem State.putGroup_fails (s : State) (k : GroupKey) (g : Group) : (s.putGroup k g).fails = s.fails := rfl
@[simp] theorem State.putGroup_tlb (s : State) (k : GroupKey) (g : Group) : (s.putGroup k g).tlb = s.tlb := rfl
@[simp] theorem State.putGroup_walkCache (s : State) (k : GroupKey) (g : Group) : (s.putGroup k g).walkCache = s.walkCache := rfl
@[simp] theorem State.putGroup_cmds (s : State) (k : GroupKey) (g : Group) : (s.putGroup k g).cmds = s.cmds := rfl
@[simp] theorem State.putGroup_rays (s : State) (k : GroupKey) (g : Group) : (s.putGroup k g).rays = s.rays := rfl
@[simp] theorem State.putGroup_accBins (s : State) (k : GroupKey) (g : Group) : (s.putGroup k g).accBins = s.accBins := rfl
@[simp] theorem State.putGroup_spilled (s : State) (k : GroupKey) (g : Group) : (s.putGroup k g).spilled = s.spilled := rfl
@[simp] theorem State.putGroup_replays (s : State) (k : GroupKey) (g : Group) : (s.putGroup k g).replays = s.replays := rfl
@[simp] theorem State.putGroup_prefetches (s : State) (k : GroupKey) (g : Group) : (s.putGroup k g).prefetches = s.prefetches := rfl
@[simp] theorem State.putGroup_listWalks (s : State) (k : GroupKey) (g : Group) : (s.putGroup k g).listWalks = s.listWalks := rfl
@[simp] theorem State.putGroup_seqs (s : State) (k : GroupKey) (g : Group) : (s.putGroup k g).seqs = s.seqs := rfl
@[simp] theorem State.putGroup_curSeq (s : State) (k : GroupKey) (g : Group) : (s.putGroup k g).curSeq = s.curSeq := rfl
@[simp] theorem State.putGroup_arrays (s : State) (k : GroupKey) (g : Group) : (s.putGroup k g).arrays = s.arrays := rfl
@[simp] theorem State.putGroup_resetting (s : State) (k : GroupKey) (g : Group) : (s.putGroup k g).resetting = s.resetting := rfl
@[simp] theorem State.putGroup_timedOut (s : State) (k : GroupKey) (g : Group) : (s.putGroup k g).timedOut = s.timedOut := rfl
@[simp] theorem State.putGroup_samplers (s : State) (k : GroupKey) (g : Group) : (s.putGroup k g).samplers = s.samplers := rfl
@[simp] theorem State.putGroup_traces (s : State) (k : GroupKey) (g : Group) : (s.putGroup k g).traces = s.traces := rfl
@[simp] theorem State.putGroup_hostAcc (s : State) (k : GroupKey) (g : Group) : (s.putGroup k g).hostAcc = s.hostAcc := rfl
@[simp] theorem State.putGroup_posted (s : State) (k : GroupKey) (g : Group) : (s.putGroup k g).posted = s.posted := rfl
@[simp] theorem State.putGroup_records (s : State) (k : GroupKey) (g : Group) : (s.putGroup k g).records = s.records := rfl
@[simp] theorem State.putGroup_bells (s : State) (k : GroupKey) (g : Group) : (s.putGroup k g).bells = s.bells := rfl
@[simp] theorem State.putGroup_msix (s : State) (k : GroupKey) (g : Group) : (s.putGroup k g).msix = s.msix := rfl
@[simp] theorem State.putGroup_resps (s : State) (k : GroupKey) (g : Group) : (s.putGroup k g).resps = s.resps := rfl
@[simp] theorem State.putGroup_agenda (s : State) (k : GroupKey) (g : Group) : (s.putGroup k g).agenda = s.agenda := rfl
@[simp] theorem State.putGroup_ids (s : State) (k : GroupKey) (g : Group) : (s.putGroup k g).ids = s.ids := rfl
@[simp] theorem State.putGroup_clk (s : State) (k : GroupKey) (g : Group) : (s.putGroup k g).clk = s.clk := rfl

/-! ### `State.modLaunch` -/

@[simp] theorem State.modLaunch_dram (s : State) (n : Nat) (f : Launch → Launch) : (s.modLaunch n f).dram = s.dram := rfl
@[simp] theorem State.modLaunch_host (s : State) (n : Nat) (f : Launch → Launch) : (s.modLaunch n f).host = s.host := rfl
@[simp] theorem State.modLaunch_peer (s : State) (n : Nat) (f : Launch → Launch) : (s.modLaunch n f).peer = s.peer := rfl
@[simp] theorem State.modLaunch_mem (s : State) (n : Nat) (f : Launch → Launch) : (s.modLaunch n f).mem = s.mem := rfl
@[simp] theorem State.modLaunch_regs (s : State) (n : Nat) (f : Launch → Launch) : (s.modLaunch n f).regs = s.regs := rfl
@[simp] theorem State.modLaunch_queues (s : State) (n : Nat) (f : Launch → Launch) : (s.modLaunch n f).queues = s.queues := rfl
@[simp] theorem State.modLaunch_handles (s : State) (n : Nat) (f : Launch → Launch) : (s.modLaunch n f).handles = s.handles := rfl
@[simp] theorem State.modLaunch_ctxs (s : State) (n : Nat) (f : Launch → Launch) : (s.modLaunch n f).ctxs = s.ctxs := rfl
@[simp] theorem State.modLaunch_asids (s : State) (n : Nat) (f : Launch → Launch) : (s.modLaunch n f).asids = s.asids := rfl
@[simp] theorem State.modLaunch_jobs (s : State) (n : Nat) (f : Launch → Launch) : (s.modLaunch n f).jobs = s.jobs := rfl
@[simp] theorem State.modLaunch_blocks (s : State) (n : Nat) (f : Launch → Launch) : (s.modLaunch n f).blocks = s.blocks := rfl
@[simp] theorem State.modLaunch_lastCluster (s : State) (n : Nat) (f : Launch → Launch) : (s.modLaunch n f).lastCluster = s.lastCluster := rfl
@[simp] theorem State.modLaunch_lastQueue (s : State) (n : Nat) (f : Launch → Launch) : (s.modLaunch n f).lastQueue = s.lastQueue := rfl
@[simp] theorem State.modLaunch_gangs (s : State) (n : Nat) (f : Launch → Launch) : (s.modLaunch n f).gangs = s.gangs := rfl
@[simp] theorem State.modLaunch_runs (s : State) (n : Nat) (f : Launch → Launch) : (s.modLaunch n f).runs = s.runs := rfl
@[simp] theorem State.modLaunch_cur (s : State) (n : Nat) (f : Launch → Launch) : (s.modLaunch n f).cur = s.cur := rfl
@[simp] theorem State.modLaunch_curSlot (s : State) (n : Nat) (f : Launch → Launch) : (s.modLaunch n f).curSlot = s.curSlot := rfl
@[simp] theorem State.modLaunch_turn (s : State) (n : Nat) (f : Launch → Launch) : (s.modLaunch n f).turn = s.turn := rfl
@[simp] theorem State.modLaunch_lastIssue (s : State) (n : Nat) (f : Launch → Launch) : (s.modLaunch n f).lastIssue = s.lastIssue := rfl
@[simp] theorem State.modLaunch_ops (s : State) (n : Nat) (f : Launch → Launch) : (s.modLaunch n f).ops = s.ops := rfl
@[simp] theorem State.modLaunch_walks (s : State) (n : Nat) (f : Launch → Launch) : (s.modLaunch n f).walks = s.walks := rfl
@[simp] theorem State.modLaunch_fails (s : State) (n : Nat) (f : Launch → Launch) : (s.modLaunch n f).fails = s.fails := rfl
@[simp] theorem State.modLaunch_tlb (s : State) (n : Nat) (f : Launch → Launch) : (s.modLaunch n f).tlb = s.tlb := rfl
@[simp] theorem State.modLaunch_walkCache (s : State) (n : Nat) (f : Launch → Launch) : (s.modLaunch n f).walkCache = s.walkCache := rfl
@[simp] theorem State.modLaunch_cmds (s : State) (n : Nat) (f : Launch → Launch) : (s.modLaunch n f).cmds = s.cmds := rfl
@[simp] theorem State.modLaunch_rays (s : State) (n : Nat) (f : Launch → Launch) : (s.modLaunch n f).rays = s.rays := rfl
@[simp] theorem State.modLaunch_accBins (s : State) (n : Nat) (f : Launch → Launch) : (s.modLaunch n f).accBins = s.accBins := rfl
@[simp] theorem State.modLaunch_spilled (s : State) (n : Nat) (f : Launch → Launch) : (s.modLaunch n f).spilled = s.spilled := rfl
@[simp] theorem State.modLaunch_replays (s : State) (n : Nat) (f : Launch → Launch) : (s.modLaunch n f).replays = s.replays := rfl
@[simp] theorem State.modLaunch_prefetches (s : State) (n : Nat) (f : Launch → Launch) : (s.modLaunch n f).prefetches = s.prefetches := rfl
@[simp] theorem State.modLaunch_listWalks (s : State) (n : Nat) (f : Launch → Launch) : (s.modLaunch n f).listWalks = s.listWalks := rfl
@[simp] theorem State.modLaunch_seqs (s : State) (n : Nat) (f : Launch → Launch) : (s.modLaunch n f).seqs = s.seqs := rfl
@[simp] theorem State.modLaunch_curSeq (s : State) (n : Nat) (f : Launch → Launch) : (s.modLaunch n f).curSeq = s.curSeq := rfl
@[simp] theorem State.modLaunch_arrays (s : State) (n : Nat) (f : Launch → Launch) : (s.modLaunch n f).arrays = s.arrays := rfl
@[simp] theorem State.modLaunch_resetting (s : State) (n : Nat) (f : Launch → Launch) : (s.modLaunch n f).resetting = s.resetting := rfl
@[simp] theorem State.modLaunch_timedOut (s : State) (n : Nat) (f : Launch → Launch) : (s.modLaunch n f).timedOut = s.timedOut := rfl
@[simp] theorem State.modLaunch_samplers (s : State) (n : Nat) (f : Launch → Launch) : (s.modLaunch n f).samplers = s.samplers := rfl
@[simp] theorem State.modLaunch_traces (s : State) (n : Nat) (f : Launch → Launch) : (s.modLaunch n f).traces = s.traces := rfl
@[simp] theorem State.modLaunch_hostAcc (s : State) (n : Nat) (f : Launch → Launch) : (s.modLaunch n f).hostAcc = s.hostAcc := rfl
@[simp] theorem State.modLaunch_posted (s : State) (n : Nat) (f : Launch → Launch) : (s.modLaunch n f).posted = s.posted := rfl
@[simp] theorem State.modLaunch_records (s : State) (n : Nat) (f : Launch → Launch) : (s.modLaunch n f).records = s.records := rfl
@[simp] theorem State.modLaunch_bells (s : State) (n : Nat) (f : Launch → Launch) : (s.modLaunch n f).bells = s.bells := rfl
@[simp] theorem State.modLaunch_msix (s : State) (n : Nat) (f : Launch → Launch) : (s.modLaunch n f).msix = s.msix := rfl
@[simp] theorem State.modLaunch_resps (s : State) (n : Nat) (f : Launch → Launch) : (s.modLaunch n f).resps = s.resps := rfl
@[simp] theorem State.modLaunch_agenda (s : State) (n : Nat) (f : Launch → Launch) : (s.modLaunch n f).agenda = s.agenda := rfl
@[simp] theorem State.modLaunch_ids (s : State) (n : Nat) (f : Launch → Launch) : (s.modLaunch n f).ids = s.ids := rfl
@[simp] theorem State.modLaunch_clk (s : State) (n : Nat) (f : Launch → Launch) : (s.modLaunch n f).clk = s.clk := rfl

/-! ### `State.modCtx` -/

@[simp] theorem State.modCtx_dram (s : State) (n : Nat) (f : Ctx → Ctx) : (s.modCtx n f).dram = s.dram := rfl
@[simp] theorem State.modCtx_host (s : State) (n : Nat) (f : Ctx → Ctx) : (s.modCtx n f).host = s.host := rfl
@[simp] theorem State.modCtx_peer (s : State) (n : Nat) (f : Ctx → Ctx) : (s.modCtx n f).peer = s.peer := rfl
@[simp] theorem State.modCtx_mem (s : State) (n : Nat) (f : Ctx → Ctx) : (s.modCtx n f).mem = s.mem := rfl
@[simp] theorem State.modCtx_regs (s : State) (n : Nat) (f : Ctx → Ctx) : (s.modCtx n f).regs = s.regs := rfl
@[simp] theorem State.modCtx_queues (s : State) (n : Nat) (f : Ctx → Ctx) : (s.modCtx n f).queues = s.queues := rfl
@[simp] theorem State.modCtx_handles (s : State) (n : Nat) (f : Ctx → Ctx) : (s.modCtx n f).handles = s.handles := rfl
@[simp] theorem State.modCtx_launches (s : State) (n : Nat) (f : Ctx → Ctx) : (s.modCtx n f).launches = s.launches := rfl
@[simp] theorem State.modCtx_asids (s : State) (n : Nat) (f : Ctx → Ctx) : (s.modCtx n f).asids = s.asids := rfl
@[simp] theorem State.modCtx_jobs (s : State) (n : Nat) (f : Ctx → Ctx) : (s.modCtx n f).jobs = s.jobs := rfl
@[simp] theorem State.modCtx_blocks (s : State) (n : Nat) (f : Ctx → Ctx) : (s.modCtx n f).blocks = s.blocks := rfl
@[simp] theorem State.modCtx_lastCluster (s : State) (n : Nat) (f : Ctx → Ctx) : (s.modCtx n f).lastCluster = s.lastCluster := rfl
@[simp] theorem State.modCtx_lastQueue (s : State) (n : Nat) (f : Ctx → Ctx) : (s.modCtx n f).lastQueue = s.lastQueue := rfl
@[simp] theorem State.modCtx_gangs (s : State) (n : Nat) (f : Ctx → Ctx) : (s.modCtx n f).gangs = s.gangs := rfl
@[simp] theorem State.modCtx_runs (s : State) (n : Nat) (f : Ctx → Ctx) : (s.modCtx n f).runs = s.runs := rfl
@[simp] theorem State.modCtx_cur (s : State) (n : Nat) (f : Ctx → Ctx) : (s.modCtx n f).cur = s.cur := rfl
@[simp] theorem State.modCtx_curSlot (s : State) (n : Nat) (f : Ctx → Ctx) : (s.modCtx n f).curSlot = s.curSlot := rfl
@[simp] theorem State.modCtx_turn (s : State) (n : Nat) (f : Ctx → Ctx) : (s.modCtx n f).turn = s.turn := rfl
@[simp] theorem State.modCtx_lastIssue (s : State) (n : Nat) (f : Ctx → Ctx) : (s.modCtx n f).lastIssue = s.lastIssue := rfl
@[simp] theorem State.modCtx_ops (s : State) (n : Nat) (f : Ctx → Ctx) : (s.modCtx n f).ops = s.ops := rfl
@[simp] theorem State.modCtx_walks (s : State) (n : Nat) (f : Ctx → Ctx) : (s.modCtx n f).walks = s.walks := rfl
@[simp] theorem State.modCtx_fails (s : State) (n : Nat) (f : Ctx → Ctx) : (s.modCtx n f).fails = s.fails := rfl
@[simp] theorem State.modCtx_tlb (s : State) (n : Nat) (f : Ctx → Ctx) : (s.modCtx n f).tlb = s.tlb := rfl
@[simp] theorem State.modCtx_walkCache (s : State) (n : Nat) (f : Ctx → Ctx) : (s.modCtx n f).walkCache = s.walkCache := rfl
@[simp] theorem State.modCtx_cmds (s : State) (n : Nat) (f : Ctx → Ctx) : (s.modCtx n f).cmds = s.cmds := rfl
@[simp] theorem State.modCtx_rays (s : State) (n : Nat) (f : Ctx → Ctx) : (s.modCtx n f).rays = s.rays := rfl
@[simp] theorem State.modCtx_accBins (s : State) (n : Nat) (f : Ctx → Ctx) : (s.modCtx n f).accBins = s.accBins := rfl
@[simp] theorem State.modCtx_spilled (s : State) (n : Nat) (f : Ctx → Ctx) : (s.modCtx n f).spilled = s.spilled := rfl
@[simp] theorem State.modCtx_replays (s : State) (n : Nat) (f : Ctx → Ctx) : (s.modCtx n f).replays = s.replays := rfl
@[simp] theorem State.modCtx_prefetches (s : State) (n : Nat) (f : Ctx → Ctx) : (s.modCtx n f).prefetches = s.prefetches := rfl
@[simp] theorem State.modCtx_listWalks (s : State) (n : Nat) (f : Ctx → Ctx) : (s.modCtx n f).listWalks = s.listWalks := rfl
@[simp] theorem State.modCtx_seqs (s : State) (n : Nat) (f : Ctx → Ctx) : (s.modCtx n f).seqs = s.seqs := rfl
@[simp] theorem State.modCtx_curSeq (s : State) (n : Nat) (f : Ctx → Ctx) : (s.modCtx n f).curSeq = s.curSeq := rfl
@[simp] theorem State.modCtx_arrays (s : State) (n : Nat) (f : Ctx → Ctx) : (s.modCtx n f).arrays = s.arrays := rfl
@[simp] theorem State.modCtx_resetting (s : State) (n : Nat) (f : Ctx → Ctx) : (s.modCtx n f).resetting = s.resetting := rfl
@[simp] theorem State.modCtx_timedOut (s : State) (n : Nat) (f : Ctx → Ctx) : (s.modCtx n f).timedOut = s.timedOut := rfl
@[simp] theorem State.modCtx_samplers (s : State) (n : Nat) (f : Ctx → Ctx) : (s.modCtx n f).samplers = s.samplers := rfl
@[simp] theorem State.modCtx_traces (s : State) (n : Nat) (f : Ctx → Ctx) : (s.modCtx n f).traces = s.traces := rfl
@[simp] theorem State.modCtx_hostAcc (s : State) (n : Nat) (f : Ctx → Ctx) : (s.modCtx n f).hostAcc = s.hostAcc := rfl
@[simp] theorem State.modCtx_posted (s : State) (n : Nat) (f : Ctx → Ctx) : (s.modCtx n f).posted = s.posted := rfl
@[simp] theorem State.modCtx_records (s : State) (n : Nat) (f : Ctx → Ctx) : (s.modCtx n f).records = s.records := rfl
@[simp] theorem State.modCtx_bells (s : State) (n : Nat) (f : Ctx → Ctx) : (s.modCtx n f).bells = s.bells := rfl
@[simp] theorem State.modCtx_msix (s : State) (n : Nat) (f : Ctx → Ctx) : (s.modCtx n f).msix = s.msix := rfl
@[simp] theorem State.modCtx_resps (s : State) (n : Nat) (f : Ctx → Ctx) : (s.modCtx n f).resps = s.resps := rfl
@[simp] theorem State.modCtx_agenda (s : State) (n : Nat) (f : Ctx → Ctx) : (s.modCtx n f).agenda = s.agenda := rfl
@[simp] theorem State.modCtx_ids (s : State) (n : Nat) (f : Ctx → Ctx) : (s.modCtx n f).ids = s.ids := rfl
@[simp] theorem State.modCtx_clk (s : State) (n : Nat) (f : Ctx → Ctx) : (s.modCtx n f).clk = s.clk := rfl

/-! ### `State.addOp` -/

@[simp] theorem State.addOp_dram (s : State) (k : GroupKey) (n : Nat) (b : OpBody) : (s.addOp k n b).dram = s.dram := rfl
@[simp] theorem State.addOp_host (s : State) (k : GroupKey) (n : Nat) (b : OpBody) : (s.addOp k n b).host = s.host := rfl
@[simp] theorem State.addOp_peer (s : State) (k : GroupKey) (n : Nat) (b : OpBody) : (s.addOp k n b).peer = s.peer := rfl
@[simp] theorem State.addOp_mem (s : State) (k : GroupKey) (n : Nat) (b : OpBody) : (s.addOp k n b).mem = s.mem := rfl
@[simp] theorem State.addOp_regs (s : State) (k : GroupKey) (n : Nat) (b : OpBody) : (s.addOp k n b).regs = s.regs := rfl
@[simp] theorem State.addOp_queues (s : State) (k : GroupKey) (n : Nat) (b : OpBody) : (s.addOp k n b).queues = s.queues := rfl
@[simp] theorem State.addOp_handles (s : State) (k : GroupKey) (n : Nat) (b : OpBody) : (s.addOp k n b).handles = s.handles := rfl
@[simp] theorem State.addOp_launches (s : State) (k : GroupKey) (n : Nat) (b : OpBody) : (s.addOp k n b).launches = s.launches := rfl
@[simp] theorem State.addOp_ctxs (s : State) (k : GroupKey) (n : Nat) (b : OpBody) : (s.addOp k n b).ctxs = s.ctxs := rfl
@[simp] theorem State.addOp_asids (s : State) (k : GroupKey) (n : Nat) (b : OpBody) : (s.addOp k n b).asids = s.asids := rfl
@[simp] theorem State.addOp_jobs (s : State) (k : GroupKey) (n : Nat) (b : OpBody) : (s.addOp k n b).jobs = s.jobs := rfl
@[simp] theorem State.addOp_blocks (s : State) (k : GroupKey) (n : Nat) (b : OpBody) : (s.addOp k n b).blocks = s.blocks := rfl
@[simp] theorem State.addOp_lastCluster (s : State) (k : GroupKey) (n : Nat) (b : OpBody) : (s.addOp k n b).lastCluster = s.lastCluster := rfl
@[simp] theorem State.addOp_lastQueue (s : State) (k : GroupKey) (n : Nat) (b : OpBody) : (s.addOp k n b).lastQueue = s.lastQueue := rfl
@[simp] theorem State.addOp_gangs (s : State) (k : GroupKey) (n : Nat) (b : OpBody) : (s.addOp k n b).gangs = s.gangs := rfl
@[simp] theorem State.addOp_runs (s : State) (k : GroupKey) (n : Nat) (b : OpBody) : (s.addOp k n b).runs = s.runs := rfl
@[simp] theorem State.addOp_cur (s : State) (k : GroupKey) (n : Nat) (b : OpBody) : (s.addOp k n b).cur = s.cur := rfl
@[simp] theorem State.addOp_curSlot (s : State) (k : GroupKey) (n : Nat) (b : OpBody) : (s.addOp k n b).curSlot = s.curSlot := rfl
@[simp] theorem State.addOp_turn (s : State) (k : GroupKey) (n : Nat) (b : OpBody) : (s.addOp k n b).turn = s.turn := rfl
@[simp] theorem State.addOp_lastIssue (s : State) (k : GroupKey) (n : Nat) (b : OpBody) : (s.addOp k n b).lastIssue = s.lastIssue := rfl
@[simp] theorem State.addOp_walks (s : State) (k : GroupKey) (n : Nat) (b : OpBody) : (s.addOp k n b).walks = s.walks := rfl
@[simp] theorem State.addOp_fails (s : State) (k : GroupKey) (n : Nat) (b : OpBody) : (s.addOp k n b).fails = s.fails := rfl
@[simp] theorem State.addOp_tlb (s : State) (k : GroupKey) (n : Nat) (b : OpBody) : (s.addOp k n b).tlb = s.tlb := rfl
@[simp] theorem State.addOp_walkCache (s : State) (k : GroupKey) (n : Nat) (b : OpBody) : (s.addOp k n b).walkCache = s.walkCache := rfl
@[simp] theorem State.addOp_cmds (s : State) (k : GroupKey) (n : Nat) (b : OpBody) : (s.addOp k n b).cmds = s.cmds := rfl
@[simp] theorem State.addOp_rays (s : State) (k : GroupKey) (n : Nat) (b : OpBody) : (s.addOp k n b).rays = s.rays := rfl
@[simp] theorem State.addOp_accBins (s : State) (k : GroupKey) (n : Nat) (b : OpBody) : (s.addOp k n b).accBins = s.accBins := rfl
@[simp] theorem State.addOp_spilled (s : State) (k : GroupKey) (n : Nat) (b : OpBody) : (s.addOp k n b).spilled = s.spilled := rfl
@[simp] theorem State.addOp_replays (s : State) (k : GroupKey) (n : Nat) (b : OpBody) : (s.addOp k n b).replays = s.replays := rfl
@[simp] theorem State.addOp_prefetches (s : State) (k : GroupKey) (n : Nat) (b : OpBody) : (s.addOp k n b).prefetches = s.prefetches := rfl
@[simp] theorem State.addOp_listWalks (s : State) (k : GroupKey) (n : Nat) (b : OpBody) : (s.addOp k n b).listWalks = s.listWalks := rfl
@[simp] theorem State.addOp_seqs (s : State) (k : GroupKey) (n : Nat) (b : OpBody) : (s.addOp k n b).seqs = s.seqs := rfl
@[simp] theorem State.addOp_curSeq (s : State) (k : GroupKey) (n : Nat) (b : OpBody) : (s.addOp k n b).curSeq = s.curSeq := rfl
@[simp] theorem State.addOp_arrays (s : State) (k : GroupKey) (n : Nat) (b : OpBody) : (s.addOp k n b).arrays = s.arrays := rfl
@[simp] theorem State.addOp_resetting (s : State) (k : GroupKey) (n : Nat) (b : OpBody) : (s.addOp k n b).resetting = s.resetting := rfl
@[simp] theorem State.addOp_timedOut (s : State) (k : GroupKey) (n : Nat) (b : OpBody) : (s.addOp k n b).timedOut = s.timedOut := rfl
@[simp] theorem State.addOp_samplers (s : State) (k : GroupKey) (n : Nat) (b : OpBody) : (s.addOp k n b).samplers = s.samplers := rfl
@[simp] theorem State.addOp_traces (s : State) (k : GroupKey) (n : Nat) (b : OpBody) : (s.addOp k n b).traces = s.traces := rfl
@[simp] theorem State.addOp_hostAcc (s : State) (k : GroupKey) (n : Nat) (b : OpBody) : (s.addOp k n b).hostAcc = s.hostAcc := rfl
@[simp] theorem State.addOp_posted (s : State) (k : GroupKey) (n : Nat) (b : OpBody) : (s.addOp k n b).posted = s.posted := rfl
@[simp] theorem State.addOp_records (s : State) (k : GroupKey) (n : Nat) (b : OpBody) : (s.addOp k n b).records = s.records := rfl
@[simp] theorem State.addOp_bells (s : State) (k : GroupKey) (n : Nat) (b : OpBody) : (s.addOp k n b).bells = s.bells := rfl
@[simp] theorem State.addOp_msix (s : State) (k : GroupKey) (n : Nat) (b : OpBody) : (s.addOp k n b).msix = s.msix := rfl
@[simp] theorem State.addOp_resps (s : State) (k : GroupKey) (n : Nat) (b : OpBody) : (s.addOp k n b).resps = s.resps := rfl
@[simp] theorem State.addOp_agenda (s : State) (k : GroupKey) (n : Nat) (b : OpBody) : (s.addOp k n b).agenda = s.agenda := rfl
@[simp] theorem State.addOp_clk (s : State) (k : GroupKey) (n : Nat) (b : OpBody) : (s.addOp k n b).clk = s.clk := rfl

/-! ### `State.setOp` -/

@[simp] theorem State.setOp_dram (s : State) (n : Nat) (b : OpBody) : (s.setOp n b).dram = s.dram := rfl
@[simp] theorem State.setOp_host (s : State) (n : Nat) (b : OpBody) : (s.setOp n b).host = s.host := rfl
@[simp] theorem State.setOp_peer (s : State) (n : Nat) (b : OpBody) : (s.setOp n b).peer = s.peer := rfl
@[simp] theorem State.setOp_mem (s : State) (n : Nat) (b : OpBody) : (s.setOp n b).mem = s.mem := rfl
@[simp] theorem State.setOp_regs (s : State) (n : Nat) (b : OpBody) : (s.setOp n b).regs = s.regs := rfl
@[simp] theorem State.setOp_queues (s : State) (n : Nat) (b : OpBody) : (s.setOp n b).queues = s.queues := rfl
@[simp] theorem State.setOp_handles (s : State) (n : Nat) (b : OpBody) : (s.setOp n b).handles = s.handles := rfl
@[simp] theorem State.setOp_launches (s : State) (n : Nat) (b : OpBody) : (s.setOp n b).launches = s.launches := rfl
@[simp] theorem State.setOp_ctxs (s : State) (n : Nat) (b : OpBody) : (s.setOp n b).ctxs = s.ctxs := rfl
@[simp] theorem State.setOp_asids (s : State) (n : Nat) (b : OpBody) : (s.setOp n b).asids = s.asids := rfl
@[simp] theorem State.setOp_jobs (s : State) (n : Nat) (b : OpBody) : (s.setOp n b).jobs = s.jobs := rfl
@[simp] theorem State.setOp_blocks (s : State) (n : Nat) (b : OpBody) : (s.setOp n b).blocks = s.blocks := rfl
@[simp] theorem State.setOp_lastCluster (s : State) (n : Nat) (b : OpBody) : (s.setOp n b).lastCluster = s.lastCluster := rfl
@[simp] theorem State.setOp_lastQueue (s : State) (n : Nat) (b : OpBody) : (s.setOp n b).lastQueue = s.lastQueue := rfl
@[simp] theorem State.setOp_gangs (s : State) (n : Nat) (b : OpBody) : (s.setOp n b).gangs = s.gangs := rfl
@[simp] theorem State.setOp_runs (s : State) (n : Nat) (b : OpBody) : (s.setOp n b).runs = s.runs := rfl
@[simp] theorem State.setOp_cur (s : State) (n : Nat) (b : OpBody) : (s.setOp n b).cur = s.cur := rfl
@[simp] theorem State.setOp_curSlot (s : State) (n : Nat) (b : OpBody) : (s.setOp n b).curSlot = s.curSlot := rfl
@[simp] theorem State.setOp_turn (s : State) (n : Nat) (b : OpBody) : (s.setOp n b).turn = s.turn := rfl
@[simp] theorem State.setOp_lastIssue (s : State) (n : Nat) (b : OpBody) : (s.setOp n b).lastIssue = s.lastIssue := rfl
@[simp] theorem State.setOp_walks (s : State) (n : Nat) (b : OpBody) : (s.setOp n b).walks = s.walks := rfl
@[simp] theorem State.setOp_fails (s : State) (n : Nat) (b : OpBody) : (s.setOp n b).fails = s.fails := rfl
@[simp] theorem State.setOp_tlb (s : State) (n : Nat) (b : OpBody) : (s.setOp n b).tlb = s.tlb := rfl
@[simp] theorem State.setOp_walkCache (s : State) (n : Nat) (b : OpBody) : (s.setOp n b).walkCache = s.walkCache := rfl
@[simp] theorem State.setOp_cmds (s : State) (n : Nat) (b : OpBody) : (s.setOp n b).cmds = s.cmds := rfl
@[simp] theorem State.setOp_rays (s : State) (n : Nat) (b : OpBody) : (s.setOp n b).rays = s.rays := rfl
@[simp] theorem State.setOp_accBins (s : State) (n : Nat) (b : OpBody) : (s.setOp n b).accBins = s.accBins := rfl
@[simp] theorem State.setOp_spilled (s : State) (n : Nat) (b : OpBody) : (s.setOp n b).spilled = s.spilled := rfl
@[simp] theorem State.setOp_replays (s : State) (n : Nat) (b : OpBody) : (s.setOp n b).replays = s.replays := rfl
@[simp] theorem State.setOp_prefetches (s : State) (n : Nat) (b : OpBody) : (s.setOp n b).prefetches = s.prefetches := rfl
@[simp] theorem State.setOp_listWalks (s : State) (n : Nat) (b : OpBody) : (s.setOp n b).listWalks = s.listWalks := rfl
@[simp] theorem State.setOp_seqs (s : State) (n : Nat) (b : OpBody) : (s.setOp n b).seqs = s.seqs := rfl
@[simp] theorem State.setOp_curSeq (s : State) (n : Nat) (b : OpBody) : (s.setOp n b).curSeq = s.curSeq := rfl
@[simp] theorem State.setOp_arrays (s : State) (n : Nat) (b : OpBody) : (s.setOp n b).arrays = s.arrays := rfl
@[simp] theorem State.setOp_resetting (s : State) (n : Nat) (b : OpBody) : (s.setOp n b).resetting = s.resetting := rfl
@[simp] theorem State.setOp_timedOut (s : State) (n : Nat) (b : OpBody) : (s.setOp n b).timedOut = s.timedOut := rfl
@[simp] theorem State.setOp_samplers (s : State) (n : Nat) (b : OpBody) : (s.setOp n b).samplers = s.samplers := rfl
@[simp] theorem State.setOp_traces (s : State) (n : Nat) (b : OpBody) : (s.setOp n b).traces = s.traces := rfl
@[simp] theorem State.setOp_hostAcc (s : State) (n : Nat) (b : OpBody) : (s.setOp n b).hostAcc = s.hostAcc := rfl
@[simp] theorem State.setOp_posted (s : State) (n : Nat) (b : OpBody) : (s.setOp n b).posted = s.posted := rfl
@[simp] theorem State.setOp_records (s : State) (n : Nat) (b : OpBody) : (s.setOp n b).records = s.records := rfl
@[simp] theorem State.setOp_bells (s : State) (n : Nat) (b : OpBody) : (s.setOp n b).bells = s.bells := rfl
@[simp] theorem State.setOp_msix (s : State) (n : Nat) (b : OpBody) : (s.setOp n b).msix = s.msix := rfl
@[simp] theorem State.setOp_resps (s : State) (n : Nat) (b : OpBody) : (s.setOp n b).resps = s.resps := rfl
@[simp] theorem State.setOp_agenda (s : State) (n : Nat) (b : OpBody) : (s.setOp n b).agenda = s.agenda := rfl
@[simp] theorem State.setOp_ids (s : State) (n : Nat) (b : OpBody) : (s.setOp n b).ids = s.ids := rfl
@[simp] theorem State.setOp_clk (s : State) (n : Nat) (b : OpBody) : (s.setOp n b).clk = s.clk := rfl

/-! ### `State.putQueue` -/

@[simp] theorem State.putQueue_dram (s : State) (x : Queue) : (s.putQueue x).dram = s.dram := rfl
@[simp] theorem State.putQueue_host (s : State) (x : Queue) : (s.putQueue x).host = s.host := rfl
@[simp] theorem State.putQueue_peer (s : State) (x : Queue) : (s.putQueue x).peer = s.peer := rfl
@[simp] theorem State.putQueue_mem (s : State) (x : Queue) : (s.putQueue x).mem = s.mem := rfl
@[simp] theorem State.putQueue_regs (s : State) (x : Queue) : (s.putQueue x).regs = s.regs := rfl
@[simp] theorem State.putQueue_handles (s : State) (x : Queue) : (s.putQueue x).handles = s.handles := rfl
@[simp] theorem State.putQueue_launches (s : State) (x : Queue) : (s.putQueue x).launches = s.launches := rfl
@[simp] theorem State.putQueue_ctxs (s : State) (x : Queue) : (s.putQueue x).ctxs = s.ctxs := rfl
@[simp] theorem State.putQueue_asids (s : State) (x : Queue) : (s.putQueue x).asids = s.asids := rfl
@[simp] theorem State.putQueue_jobs (s : State) (x : Queue) : (s.putQueue x).jobs = s.jobs := rfl
@[simp] theorem State.putQueue_blocks (s : State) (x : Queue) : (s.putQueue x).blocks = s.blocks := rfl
@[simp] theorem State.putQueue_lastCluster (s : State) (x : Queue) : (s.putQueue x).lastCluster = s.lastCluster := rfl
@[simp] theorem State.putQueue_lastQueue (s : State) (x : Queue) : (s.putQueue x).lastQueue = s.lastQueue := rfl
@[simp] theorem State.putQueue_gangs (s : State) (x : Queue) : (s.putQueue x).gangs = s.gangs := rfl
@[simp] theorem State.putQueue_runs (s : State) (x : Queue) : (s.putQueue x).runs = s.runs := rfl
@[simp] theorem State.putQueue_cur (s : State) (x : Queue) : (s.putQueue x).cur = s.cur := rfl
@[simp] theorem State.putQueue_curSlot (s : State) (x : Queue) : (s.putQueue x).curSlot = s.curSlot := rfl
@[simp] theorem State.putQueue_turn (s : State) (x : Queue) : (s.putQueue x).turn = s.turn := rfl
@[simp] theorem State.putQueue_lastIssue (s : State) (x : Queue) : (s.putQueue x).lastIssue = s.lastIssue := rfl
@[simp] theorem State.putQueue_ops (s : State) (x : Queue) : (s.putQueue x).ops = s.ops := rfl
@[simp] theorem State.putQueue_walks (s : State) (x : Queue) : (s.putQueue x).walks = s.walks := rfl
@[simp] theorem State.putQueue_fails (s : State) (x : Queue) : (s.putQueue x).fails = s.fails := rfl
@[simp] theorem State.putQueue_tlb (s : State) (x : Queue) : (s.putQueue x).tlb = s.tlb := rfl
@[simp] theorem State.putQueue_walkCache (s : State) (x : Queue) : (s.putQueue x).walkCache = s.walkCache := rfl
@[simp] theorem State.putQueue_cmds (s : State) (x : Queue) : (s.putQueue x).cmds = s.cmds := rfl
@[simp] theorem State.putQueue_rays (s : State) (x : Queue) : (s.putQueue x).rays = s.rays := rfl
@[simp] theorem State.putQueue_accBins (s : State) (x : Queue) : (s.putQueue x).accBins = s.accBins := rfl
@[simp] theorem State.putQueue_spilled (s : State) (x : Queue) : (s.putQueue x).spilled = s.spilled := rfl
@[simp] theorem State.putQueue_replays (s : State) (x : Queue) : (s.putQueue x).replays = s.replays := rfl
@[simp] theorem State.putQueue_prefetches (s : State) (x : Queue) : (s.putQueue x).prefetches = s.prefetches := rfl
@[simp] theorem State.putQueue_listWalks (s : State) (x : Queue) : (s.putQueue x).listWalks = s.listWalks := rfl
@[simp] theorem State.putQueue_seqs (s : State) (x : Queue) : (s.putQueue x).seqs = s.seqs := rfl
@[simp] theorem State.putQueue_curSeq (s : State) (x : Queue) : (s.putQueue x).curSeq = s.curSeq := rfl
@[simp] theorem State.putQueue_arrays (s : State) (x : Queue) : (s.putQueue x).arrays = s.arrays := rfl
@[simp] theorem State.putQueue_resetting (s : State) (x : Queue) : (s.putQueue x).resetting = s.resetting := rfl
@[simp] theorem State.putQueue_timedOut (s : State) (x : Queue) : (s.putQueue x).timedOut = s.timedOut := rfl
@[simp] theorem State.putQueue_samplers (s : State) (x : Queue) : (s.putQueue x).samplers = s.samplers := rfl
@[simp] theorem State.putQueue_traces (s : State) (x : Queue) : (s.putQueue x).traces = s.traces := rfl
@[simp] theorem State.putQueue_hostAcc (s : State) (x : Queue) : (s.putQueue x).hostAcc = s.hostAcc := rfl
@[simp] theorem State.putQueue_posted (s : State) (x : Queue) : (s.putQueue x).posted = s.posted := rfl
@[simp] theorem State.putQueue_records (s : State) (x : Queue) : (s.putQueue x).records = s.records := rfl
@[simp] theorem State.putQueue_bells (s : State) (x : Queue) : (s.putQueue x).bells = s.bells := rfl
@[simp] theorem State.putQueue_msix (s : State) (x : Queue) : (s.putQueue x).msix = s.msix := rfl
@[simp] theorem State.putQueue_resps (s : State) (x : Queue) : (s.putQueue x).resps = s.resps := rfl
@[simp] theorem State.putQueue_agenda (s : State) (x : Queue) : (s.putQueue x).agenda = s.agenda := rfl
@[simp] theorem State.putQueue_ids (s : State) (x : Queue) : (s.putQueue x).ids = s.ids := rfl
@[simp] theorem State.putQueue_clk (s : State) (x : Queue) : (s.putQueue x).clk = s.clk := rfl

/-! ### `State.modSeq` -/

@[simp] theorem State.modSeq_dram (s : State) (k : SeqKey) (f : Sequencer → Sequencer) : (s.modSeq k f).dram = s.dram := rfl
@[simp] theorem State.modSeq_host (s : State) (k : SeqKey) (f : Sequencer → Sequencer) : (s.modSeq k f).host = s.host := rfl
@[simp] theorem State.modSeq_peer (s : State) (k : SeqKey) (f : Sequencer → Sequencer) : (s.modSeq k f).peer = s.peer := rfl
@[simp] theorem State.modSeq_mem (s : State) (k : SeqKey) (f : Sequencer → Sequencer) : (s.modSeq k f).mem = s.mem := rfl
@[simp] theorem State.modSeq_regs (s : State) (k : SeqKey) (f : Sequencer → Sequencer) : (s.modSeq k f).regs = s.regs := rfl
@[simp] theorem State.modSeq_queues (s : State) (k : SeqKey) (f : Sequencer → Sequencer) : (s.modSeq k f).queues = s.queues := rfl
@[simp] theorem State.modSeq_handles (s : State) (k : SeqKey) (f : Sequencer → Sequencer) : (s.modSeq k f).handles = s.handles := rfl
@[simp] theorem State.modSeq_launches (s : State) (k : SeqKey) (f : Sequencer → Sequencer) : (s.modSeq k f).launches = s.launches := rfl
@[simp] theorem State.modSeq_ctxs (s : State) (k : SeqKey) (f : Sequencer → Sequencer) : (s.modSeq k f).ctxs = s.ctxs := rfl
@[simp] theorem State.modSeq_asids (s : State) (k : SeqKey) (f : Sequencer → Sequencer) : (s.modSeq k f).asids = s.asids := rfl
@[simp] theorem State.modSeq_jobs (s : State) (k : SeqKey) (f : Sequencer → Sequencer) : (s.modSeq k f).jobs = s.jobs := rfl
@[simp] theorem State.modSeq_blocks (s : State) (k : SeqKey) (f : Sequencer → Sequencer) : (s.modSeq k f).blocks = s.blocks := rfl
@[simp] theorem State.modSeq_lastCluster (s : State) (k : SeqKey) (f : Sequencer → Sequencer) : (s.modSeq k f).lastCluster = s.lastCluster := rfl
@[simp] theorem State.modSeq_lastQueue (s : State) (k : SeqKey) (f : Sequencer → Sequencer) : (s.modSeq k f).lastQueue = s.lastQueue := rfl
@[simp] theorem State.modSeq_gangs (s : State) (k : SeqKey) (f : Sequencer → Sequencer) : (s.modSeq k f).gangs = s.gangs := rfl
@[simp] theorem State.modSeq_runs (s : State) (k : SeqKey) (f : Sequencer → Sequencer) : (s.modSeq k f).runs = s.runs := rfl
@[simp] theorem State.modSeq_cur (s : State) (k : SeqKey) (f : Sequencer → Sequencer) : (s.modSeq k f).cur = s.cur := rfl
@[simp] theorem State.modSeq_curSlot (s : State) (k : SeqKey) (f : Sequencer → Sequencer) : (s.modSeq k f).curSlot = s.curSlot := rfl
@[simp] theorem State.modSeq_turn (s : State) (k : SeqKey) (f : Sequencer → Sequencer) : (s.modSeq k f).turn = s.turn := rfl
@[simp] theorem State.modSeq_lastIssue (s : State) (k : SeqKey) (f : Sequencer → Sequencer) : (s.modSeq k f).lastIssue = s.lastIssue := rfl
@[simp] theorem State.modSeq_ops (s : State) (k : SeqKey) (f : Sequencer → Sequencer) : (s.modSeq k f).ops = s.ops := rfl
@[simp] theorem State.modSeq_walks (s : State) (k : SeqKey) (f : Sequencer → Sequencer) : (s.modSeq k f).walks = s.walks := rfl
@[simp] theorem State.modSeq_fails (s : State) (k : SeqKey) (f : Sequencer → Sequencer) : (s.modSeq k f).fails = s.fails := rfl
@[simp] theorem State.modSeq_tlb (s : State) (k : SeqKey) (f : Sequencer → Sequencer) : (s.modSeq k f).tlb = s.tlb := rfl
@[simp] theorem State.modSeq_walkCache (s : State) (k : SeqKey) (f : Sequencer → Sequencer) : (s.modSeq k f).walkCache = s.walkCache := rfl
@[simp] theorem State.modSeq_cmds (s : State) (k : SeqKey) (f : Sequencer → Sequencer) : (s.modSeq k f).cmds = s.cmds := rfl
@[simp] theorem State.modSeq_rays (s : State) (k : SeqKey) (f : Sequencer → Sequencer) : (s.modSeq k f).rays = s.rays := rfl
@[simp] theorem State.modSeq_accBins (s : State) (k : SeqKey) (f : Sequencer → Sequencer) : (s.modSeq k f).accBins = s.accBins := rfl
@[simp] theorem State.modSeq_spilled (s : State) (k : SeqKey) (f : Sequencer → Sequencer) : (s.modSeq k f).spilled = s.spilled := rfl
@[simp] theorem State.modSeq_replays (s : State) (k : SeqKey) (f : Sequencer → Sequencer) : (s.modSeq k f).replays = s.replays := rfl
@[simp] theorem State.modSeq_prefetches (s : State) (k : SeqKey) (f : Sequencer → Sequencer) : (s.modSeq k f).prefetches = s.prefetches := rfl
@[simp] theorem State.modSeq_listWalks (s : State) (k : SeqKey) (f : Sequencer → Sequencer) : (s.modSeq k f).listWalks = s.listWalks := rfl
@[simp] theorem State.modSeq_curSeq (s : State) (k : SeqKey) (f : Sequencer → Sequencer) : (s.modSeq k f).curSeq = s.curSeq := rfl
@[simp] theorem State.modSeq_arrays (s : State) (k : SeqKey) (f : Sequencer → Sequencer) : (s.modSeq k f).arrays = s.arrays := rfl
@[simp] theorem State.modSeq_resetting (s : State) (k : SeqKey) (f : Sequencer → Sequencer) : (s.modSeq k f).resetting = s.resetting := rfl
@[simp] theorem State.modSeq_timedOut (s : State) (k : SeqKey) (f : Sequencer → Sequencer) : (s.modSeq k f).timedOut = s.timedOut := rfl
@[simp] theorem State.modSeq_samplers (s : State) (k : SeqKey) (f : Sequencer → Sequencer) : (s.modSeq k f).samplers = s.samplers := rfl
@[simp] theorem State.modSeq_traces (s : State) (k : SeqKey) (f : Sequencer → Sequencer) : (s.modSeq k f).traces = s.traces := rfl
@[simp] theorem State.modSeq_hostAcc (s : State) (k : SeqKey) (f : Sequencer → Sequencer) : (s.modSeq k f).hostAcc = s.hostAcc := rfl
@[simp] theorem State.modSeq_posted (s : State) (k : SeqKey) (f : Sequencer → Sequencer) : (s.modSeq k f).posted = s.posted := rfl
@[simp] theorem State.modSeq_records (s : State) (k : SeqKey) (f : Sequencer → Sequencer) : (s.modSeq k f).records = s.records := rfl
@[simp] theorem State.modSeq_bells (s : State) (k : SeqKey) (f : Sequencer → Sequencer) : (s.modSeq k f).bells = s.bells := rfl
@[simp] theorem State.modSeq_msix (s : State) (k : SeqKey) (f : Sequencer → Sequencer) : (s.modSeq k f).msix = s.msix := rfl
@[simp] theorem State.modSeq_resps (s : State) (k : SeqKey) (f : Sequencer → Sequencer) : (s.modSeq k f).resps = s.resps := rfl
@[simp] theorem State.modSeq_agenda (s : State) (k : SeqKey) (f : Sequencer → Sequencer) : (s.modSeq k f).agenda = s.agenda := rfl
@[simp] theorem State.modSeq_ids (s : State) (k : SeqKey) (f : Sequencer → Sequencer) : (s.modSeq k f).ids = s.ids := rfl
@[simp] theorem State.modSeq_clk (s : State) (k : SeqKey) (f : Sequencer → Sequencer) : (s.modSeq k f).clk = s.clk := rfl

/-! ### `State.putSeq` -/

@[simp] theorem State.putSeq_dram (s : State) (x : Sequencer) : (s.putSeq x).dram = s.dram := rfl
@[simp] theorem State.putSeq_host (s : State) (x : Sequencer) : (s.putSeq x).host = s.host := rfl
@[simp] theorem State.putSeq_peer (s : State) (x : Sequencer) : (s.putSeq x).peer = s.peer := rfl
@[simp] theorem State.putSeq_mem (s : State) (x : Sequencer) : (s.putSeq x).mem = s.mem := rfl
@[simp] theorem State.putSeq_regs (s : State) (x : Sequencer) : (s.putSeq x).regs = s.regs := rfl
@[simp] theorem State.putSeq_queues (s : State) (x : Sequencer) : (s.putSeq x).queues = s.queues := rfl
@[simp] theorem State.putSeq_handles (s : State) (x : Sequencer) : (s.putSeq x).handles = s.handles := rfl
@[simp] theorem State.putSeq_launches (s : State) (x : Sequencer) : (s.putSeq x).launches = s.launches := rfl
@[simp] theorem State.putSeq_ctxs (s : State) (x : Sequencer) : (s.putSeq x).ctxs = s.ctxs := rfl
@[simp] theorem State.putSeq_asids (s : State) (x : Sequencer) : (s.putSeq x).asids = s.asids := rfl
@[simp] theorem State.putSeq_jobs (s : State) (x : Sequencer) : (s.putSeq x).jobs = s.jobs := rfl
@[simp] theorem State.putSeq_blocks (s : State) (x : Sequencer) : (s.putSeq x).blocks = s.blocks := rfl
@[simp] theorem State.putSeq_lastCluster (s : State) (x : Sequencer) : (s.putSeq x).lastCluster = s.lastCluster := rfl
@[simp] theorem State.putSeq_lastQueue (s : State) (x : Sequencer) : (s.putSeq x).lastQueue = s.lastQueue := rfl
@[simp] theorem State.putSeq_gangs (s : State) (x : Sequencer) : (s.putSeq x).gangs = s.gangs := rfl
@[simp] theorem State.putSeq_runs (s : State) (x : Sequencer) : (s.putSeq x).runs = s.runs := rfl
@[simp] theorem State.putSeq_cur (s : State) (x : Sequencer) : (s.putSeq x).cur = s.cur := rfl
@[simp] theorem State.putSeq_curSlot (s : State) (x : Sequencer) : (s.putSeq x).curSlot = s.curSlot := rfl
@[simp] theorem State.putSeq_turn (s : State) (x : Sequencer) : (s.putSeq x).turn = s.turn := rfl
@[simp] theorem State.putSeq_lastIssue (s : State) (x : Sequencer) : (s.putSeq x).lastIssue = s.lastIssue := rfl
@[simp] theorem State.putSeq_ops (s : State) (x : Sequencer) : (s.putSeq x).ops = s.ops := rfl
@[simp] theorem State.putSeq_walks (s : State) (x : Sequencer) : (s.putSeq x).walks = s.walks := rfl
@[simp] theorem State.putSeq_fails (s : State) (x : Sequencer) : (s.putSeq x).fails = s.fails := rfl
@[simp] theorem State.putSeq_tlb (s : State) (x : Sequencer) : (s.putSeq x).tlb = s.tlb := rfl
@[simp] theorem State.putSeq_walkCache (s : State) (x : Sequencer) : (s.putSeq x).walkCache = s.walkCache := rfl
@[simp] theorem State.putSeq_cmds (s : State) (x : Sequencer) : (s.putSeq x).cmds = s.cmds := rfl
@[simp] theorem State.putSeq_rays (s : State) (x : Sequencer) : (s.putSeq x).rays = s.rays := rfl
@[simp] theorem State.putSeq_accBins (s : State) (x : Sequencer) : (s.putSeq x).accBins = s.accBins := rfl
@[simp] theorem State.putSeq_spilled (s : State) (x : Sequencer) : (s.putSeq x).spilled = s.spilled := rfl
@[simp] theorem State.putSeq_replays (s : State) (x : Sequencer) : (s.putSeq x).replays = s.replays := rfl
@[simp] theorem State.putSeq_prefetches (s : State) (x : Sequencer) : (s.putSeq x).prefetches = s.prefetches := rfl
@[simp] theorem State.putSeq_listWalks (s : State) (x : Sequencer) : (s.putSeq x).listWalks = s.listWalks := rfl
@[simp] theorem State.putSeq_curSeq (s : State) (x : Sequencer) : (s.putSeq x).curSeq = s.curSeq := rfl
@[simp] theorem State.putSeq_arrays (s : State) (x : Sequencer) : (s.putSeq x).arrays = s.arrays := rfl
@[simp] theorem State.putSeq_resetting (s : State) (x : Sequencer) : (s.putSeq x).resetting = s.resetting := rfl
@[simp] theorem State.putSeq_timedOut (s : State) (x : Sequencer) : (s.putSeq x).timedOut = s.timedOut := rfl
@[simp] theorem State.putSeq_samplers (s : State) (x : Sequencer) : (s.putSeq x).samplers = s.samplers := rfl
@[simp] theorem State.putSeq_traces (s : State) (x : Sequencer) : (s.putSeq x).traces = s.traces := rfl
@[simp] theorem State.putSeq_hostAcc (s : State) (x : Sequencer) : (s.putSeq x).hostAcc = s.hostAcc := rfl
@[simp] theorem State.putSeq_posted (s : State) (x : Sequencer) : (s.putSeq x).posted = s.posted := rfl
@[simp] theorem State.putSeq_records (s : State) (x : Sequencer) : (s.putSeq x).records = s.records := rfl
@[simp] theorem State.putSeq_bells (s : State) (x : Sequencer) : (s.putSeq x).bells = s.bells := rfl
@[simp] theorem State.putSeq_msix (s : State) (x : Sequencer) : (s.putSeq x).msix = s.msix := rfl
@[simp] theorem State.putSeq_resps (s : State) (x : Sequencer) : (s.putSeq x).resps = s.resps := rfl
@[simp] theorem State.putSeq_agenda (s : State) (x : Sequencer) : (s.putSeq x).agenda = s.agenda := rfl
@[simp] theorem State.putSeq_ids (s : State) (x : Sequencer) : (s.putSeq x).ids = s.ids := rfl
@[simp] theorem State.putSeq_clk (s : State) (x : Sequencer) : (s.putSeq x).clk = s.clk := rfl

/-! ### `State.putAsid` -/

@[simp] theorem State.putAsid_dram (s : State) (a : AsidInfo) : (s.putAsid a).dram = s.dram := rfl
@[simp] theorem State.putAsid_host (s : State) (a : AsidInfo) : (s.putAsid a).host = s.host := rfl
@[simp] theorem State.putAsid_peer (s : State) (a : AsidInfo) : (s.putAsid a).peer = s.peer := rfl
@[simp] theorem State.putAsid_mem (s : State) (a : AsidInfo) : (s.putAsid a).mem = s.mem := rfl
@[simp] theorem State.putAsid_regs (s : State) (a : AsidInfo) : (s.putAsid a).regs = s.regs := rfl
@[simp] theorem State.putAsid_queues (s : State) (a : AsidInfo) : (s.putAsid a).queues = s.queues := rfl
@[simp] theorem State.putAsid_handles (s : State) (a : AsidInfo) : (s.putAsid a).handles = s.handles := rfl
@[simp] theorem State.putAsid_launches (s : State) (a : AsidInfo) : (s.putAsid a).launches = s.launches := rfl
@[simp] theorem State.putAsid_ctxs (s : State) (a : AsidInfo) : (s.putAsid a).ctxs = s.ctxs := rfl
@[simp] theorem State.putAsid_jobs (s : State) (a : AsidInfo) : (s.putAsid a).jobs = s.jobs := rfl
@[simp] theorem State.putAsid_blocks (s : State) (a : AsidInfo) : (s.putAsid a).blocks = s.blocks := rfl
@[simp] theorem State.putAsid_lastCluster (s : State) (a : AsidInfo) : (s.putAsid a).lastCluster = s.lastCluster := rfl
@[simp] theorem State.putAsid_lastQueue (s : State) (a : AsidInfo) : (s.putAsid a).lastQueue = s.lastQueue := rfl
@[simp] theorem State.putAsid_gangs (s : State) (a : AsidInfo) : (s.putAsid a).gangs = s.gangs := rfl
@[simp] theorem State.putAsid_runs (s : State) (a : AsidInfo) : (s.putAsid a).runs = s.runs := rfl
@[simp] theorem State.putAsid_cur (s : State) (a : AsidInfo) : (s.putAsid a).cur = s.cur := rfl
@[simp] theorem State.putAsid_curSlot (s : State) (a : AsidInfo) : (s.putAsid a).curSlot = s.curSlot := rfl
@[simp] theorem State.putAsid_turn (s : State) (a : AsidInfo) : (s.putAsid a).turn = s.turn := rfl
@[simp] theorem State.putAsid_lastIssue (s : State) (a : AsidInfo) : (s.putAsid a).lastIssue = s.lastIssue := rfl
@[simp] theorem State.putAsid_ops (s : State) (a : AsidInfo) : (s.putAsid a).ops = s.ops := rfl
@[simp] theorem State.putAsid_walks (s : State) (a : AsidInfo) : (s.putAsid a).walks = s.walks := rfl
@[simp] theorem State.putAsid_fails (s : State) (a : AsidInfo) : (s.putAsid a).fails = s.fails := rfl
@[simp] theorem State.putAsid_tlb (s : State) (a : AsidInfo) : (s.putAsid a).tlb = s.tlb := rfl
@[simp] theorem State.putAsid_walkCache (s : State) (a : AsidInfo) : (s.putAsid a).walkCache = s.walkCache := rfl
@[simp] theorem State.putAsid_cmds (s : State) (a : AsidInfo) : (s.putAsid a).cmds = s.cmds := rfl
@[simp] theorem State.putAsid_rays (s : State) (a : AsidInfo) : (s.putAsid a).rays = s.rays := rfl
@[simp] theorem State.putAsid_accBins (s : State) (a : AsidInfo) : (s.putAsid a).accBins = s.accBins := rfl
@[simp] theorem State.putAsid_spilled (s : State) (a : AsidInfo) : (s.putAsid a).spilled = s.spilled := rfl
@[simp] theorem State.putAsid_replays (s : State) (a : AsidInfo) : (s.putAsid a).replays = s.replays := rfl
@[simp] theorem State.putAsid_prefetches (s : State) (a : AsidInfo) : (s.putAsid a).prefetches = s.prefetches := rfl
@[simp] theorem State.putAsid_listWalks (s : State) (a : AsidInfo) : (s.putAsid a).listWalks = s.listWalks := rfl
@[simp] theorem State.putAsid_seqs (s : State) (a : AsidInfo) : (s.putAsid a).seqs = s.seqs := rfl
@[simp] theorem State.putAsid_curSeq (s : State) (a : AsidInfo) : (s.putAsid a).curSeq = s.curSeq := rfl
@[simp] theorem State.putAsid_arrays (s : State) (a : AsidInfo) : (s.putAsid a).arrays = s.arrays := rfl
@[simp] theorem State.putAsid_resetting (s : State) (a : AsidInfo) : (s.putAsid a).resetting = s.resetting := rfl
@[simp] theorem State.putAsid_timedOut (s : State) (a : AsidInfo) : (s.putAsid a).timedOut = s.timedOut := rfl
@[simp] theorem State.putAsid_samplers (s : State) (a : AsidInfo) : (s.putAsid a).samplers = s.samplers := rfl
@[simp] theorem State.putAsid_traces (s : State) (a : AsidInfo) : (s.putAsid a).traces = s.traces := rfl
@[simp] theorem State.putAsid_hostAcc (s : State) (a : AsidInfo) : (s.putAsid a).hostAcc = s.hostAcc := rfl
@[simp] theorem State.putAsid_posted (s : State) (a : AsidInfo) : (s.putAsid a).posted = s.posted := rfl
@[simp] theorem State.putAsid_records (s : State) (a : AsidInfo) : (s.putAsid a).records = s.records := rfl
@[simp] theorem State.putAsid_bells (s : State) (a : AsidInfo) : (s.putAsid a).bells = s.bells := rfl
@[simp] theorem State.putAsid_msix (s : State) (a : AsidInfo) : (s.putAsid a).msix = s.msix := rfl
@[simp] theorem State.putAsid_resps (s : State) (a : AsidInfo) : (s.putAsid a).resps = s.resps := rfl
@[simp] theorem State.putAsid_agenda (s : State) (a : AsidInfo) : (s.putAsid a).agenda = s.agenda := rfl
@[simp] theorem State.putAsid_ids (s : State) (a : AsidInfo) : (s.putAsid a).ids = s.ids := rfl
@[simp] theorem State.putAsid_clk (s : State) (a : AsidInfo) : (s.putAsid a).clk = s.clk := rfl

/-! ### `State.putJob` -/

@[simp] theorem State.putJob_dram (s : State) (j : Job) : (s.putJob j).dram = s.dram := rfl
@[simp] theorem State.putJob_host (s : State) (j : Job) : (s.putJob j).host = s.host := rfl
@[simp] theorem State.putJob_peer (s : State) (j : Job) : (s.putJob j).peer = s.peer := rfl
@[simp] theorem State.putJob_mem (s : State) (j : Job) : (s.putJob j).mem = s.mem := rfl
@[simp] theorem State.putJob_regs (s : State) (j : Job) : (s.putJob j).regs = s.regs := rfl
@[simp] theorem State.putJob_queues (s : State) (j : Job) : (s.putJob j).queues = s.queues := rfl
@[simp] theorem State.putJob_handles (s : State) (j : Job) : (s.putJob j).handles = s.handles := rfl
@[simp] theorem State.putJob_launches (s : State) (j : Job) : (s.putJob j).launches = s.launches := rfl
@[simp] theorem State.putJob_ctxs (s : State) (j : Job) : (s.putJob j).ctxs = s.ctxs := rfl
@[simp] theorem State.putJob_asids (s : State) (j : Job) : (s.putJob j).asids = s.asids := rfl
@[simp] theorem State.putJob_blocks (s : State) (j : Job) : (s.putJob j).blocks = s.blocks := rfl
@[simp] theorem State.putJob_lastCluster (s : State) (j : Job) : (s.putJob j).lastCluster = s.lastCluster := rfl
@[simp] theorem State.putJob_lastQueue (s : State) (j : Job) : (s.putJob j).lastQueue = s.lastQueue := rfl
@[simp] theorem State.putJob_gangs (s : State) (j : Job) : (s.putJob j).gangs = s.gangs := rfl
@[simp] theorem State.putJob_runs (s : State) (j : Job) : (s.putJob j).runs = s.runs := rfl
@[simp] theorem State.putJob_cur (s : State) (j : Job) : (s.putJob j).cur = s.cur := rfl
@[simp] theorem State.putJob_curSlot (s : State) (j : Job) : (s.putJob j).curSlot = s.curSlot := rfl
@[simp] theorem State.putJob_turn (s : State) (j : Job) : (s.putJob j).turn = s.turn := rfl
@[simp] theorem State.putJob_lastIssue (s : State) (j : Job) : (s.putJob j).lastIssue = s.lastIssue := rfl
@[simp] theorem State.putJob_ops (s : State) (j : Job) : (s.putJob j).ops = s.ops := rfl
@[simp] theorem State.putJob_walks (s : State) (j : Job) : (s.putJob j).walks = s.walks := rfl
@[simp] theorem State.putJob_fails (s : State) (j : Job) : (s.putJob j).fails = s.fails := rfl
@[simp] theorem State.putJob_tlb (s : State) (j : Job) : (s.putJob j).tlb = s.tlb := rfl
@[simp] theorem State.putJob_walkCache (s : State) (j : Job) : (s.putJob j).walkCache = s.walkCache := rfl
@[simp] theorem State.putJob_cmds (s : State) (j : Job) : (s.putJob j).cmds = s.cmds := rfl
@[simp] theorem State.putJob_rays (s : State) (j : Job) : (s.putJob j).rays = s.rays := rfl
@[simp] theorem State.putJob_accBins (s : State) (j : Job) : (s.putJob j).accBins = s.accBins := rfl
@[simp] theorem State.putJob_spilled (s : State) (j : Job) : (s.putJob j).spilled = s.spilled := rfl
@[simp] theorem State.putJob_replays (s : State) (j : Job) : (s.putJob j).replays = s.replays := rfl
@[simp] theorem State.putJob_prefetches (s : State) (j : Job) : (s.putJob j).prefetches = s.prefetches := rfl
@[simp] theorem State.putJob_listWalks (s : State) (j : Job) : (s.putJob j).listWalks = s.listWalks := rfl
@[simp] theorem State.putJob_seqs (s : State) (j : Job) : (s.putJob j).seqs = s.seqs := rfl
@[simp] theorem State.putJob_curSeq (s : State) (j : Job) : (s.putJob j).curSeq = s.curSeq := rfl
@[simp] theorem State.putJob_arrays (s : State) (j : Job) : (s.putJob j).arrays = s.arrays := rfl
@[simp] theorem State.putJob_resetting (s : State) (j : Job) : (s.putJob j).resetting = s.resetting := rfl
@[simp] theorem State.putJob_timedOut (s : State) (j : Job) : (s.putJob j).timedOut = s.timedOut := rfl
@[simp] theorem State.putJob_samplers (s : State) (j : Job) : (s.putJob j).samplers = s.samplers := rfl
@[simp] theorem State.putJob_traces (s : State) (j : Job) : (s.putJob j).traces = s.traces := rfl
@[simp] theorem State.putJob_hostAcc (s : State) (j : Job) : (s.putJob j).hostAcc = s.hostAcc := rfl
@[simp] theorem State.putJob_posted (s : State) (j : Job) : (s.putJob j).posted = s.posted := rfl
@[simp] theorem State.putJob_records (s : State) (j : Job) : (s.putJob j).records = s.records := rfl
@[simp] theorem State.putJob_bells (s : State) (j : Job) : (s.putJob j).bells = s.bells := rfl
@[simp] theorem State.putJob_msix (s : State) (j : Job) : (s.putJob j).msix = s.msix := rfl
@[simp] theorem State.putJob_resps (s : State) (j : Job) : (s.putJob j).resps = s.resps := rfl
@[simp] theorem State.putJob_agenda (s : State) (j : Job) : (s.putJob j).agenda = s.agenda := rfl
@[simp] theorem State.putJob_ids (s : State) (j : Job) : (s.putJob j).ids = s.ids := rfl
@[simp] theorem State.putJob_clk (s : State) (j : Job) : (s.putJob j).clk = s.clk := rfl

/-! ### `State.putCmd` -/

@[simp] theorem State.putCmd_dram (s : State) (c : CopyCmd) : (s.putCmd c).dram = s.dram := rfl
@[simp] theorem State.putCmd_host (s : State) (c : CopyCmd) : (s.putCmd c).host = s.host := rfl
@[simp] theorem State.putCmd_peer (s : State) (c : CopyCmd) : (s.putCmd c).peer = s.peer := rfl
@[simp] theorem State.putCmd_mem (s : State) (c : CopyCmd) : (s.putCmd c).mem = s.mem := rfl
@[simp] theorem State.putCmd_regs (s : State) (c : CopyCmd) : (s.putCmd c).regs = s.regs := rfl
@[simp] theorem State.putCmd_queues (s : State) (c : CopyCmd) : (s.putCmd c).queues = s.queues := rfl
@[simp] theorem State.putCmd_handles (s : State) (c : CopyCmd) : (s.putCmd c).handles = s.handles := rfl
@[simp] theorem State.putCmd_launches (s : State) (c : CopyCmd) : (s.putCmd c).launches = s.launches := rfl
@[simp] theorem State.putCmd_ctxs (s : State) (c : CopyCmd) : (s.putCmd c).ctxs = s.ctxs := rfl
@[simp] theorem State.putCmd_asids (s : State) (c : CopyCmd) : (s.putCmd c).asids = s.asids := rfl
@[simp] theorem State.putCmd_jobs (s : State) (c : CopyCmd) : (s.putCmd c).jobs = s.jobs := rfl
@[simp] theorem State.putCmd_blocks (s : State) (c : CopyCmd) : (s.putCmd c).blocks = s.blocks := rfl
@[simp] theorem State.putCmd_lastCluster (s : State) (c : CopyCmd) : (s.putCmd c).lastCluster = s.lastCluster := rfl
@[simp] theorem State.putCmd_lastQueue (s : State) (c : CopyCmd) : (s.putCmd c).lastQueue = s.lastQueue := rfl
@[simp] theorem State.putCmd_gangs (s : State) (c : CopyCmd) : (s.putCmd c).gangs = s.gangs := rfl
@[simp] theorem State.putCmd_runs (s : State) (c : CopyCmd) : (s.putCmd c).runs = s.runs := rfl
@[simp] theorem State.putCmd_cur (s : State) (c : CopyCmd) : (s.putCmd c).cur = s.cur := rfl
@[simp] theorem State.putCmd_curSlot (s : State) (c : CopyCmd) : (s.putCmd c).curSlot = s.curSlot := rfl
@[simp] theorem State.putCmd_turn (s : State) (c : CopyCmd) : (s.putCmd c).turn = s.turn := rfl
@[simp] theorem State.putCmd_lastIssue (s : State) (c : CopyCmd) : (s.putCmd c).lastIssue = s.lastIssue := rfl
@[simp] theorem State.putCmd_ops (s : State) (c : CopyCmd) : (s.putCmd c).ops = s.ops := rfl
@[simp] theorem State.putCmd_walks (s : State) (c : CopyCmd) : (s.putCmd c).walks = s.walks := rfl
@[simp] theorem State.putCmd_fails (s : State) (c : CopyCmd) : (s.putCmd c).fails = s.fails := rfl
@[simp] theorem State.putCmd_tlb (s : State) (c : CopyCmd) : (s.putCmd c).tlb = s.tlb := rfl
@[simp] theorem State.putCmd_walkCache (s : State) (c : CopyCmd) : (s.putCmd c).walkCache = s.walkCache := rfl
@[simp] theorem State.putCmd_rays (s : State) (c : CopyCmd) : (s.putCmd c).rays = s.rays := rfl
@[simp] theorem State.putCmd_accBins (s : State) (c : CopyCmd) : (s.putCmd c).accBins = s.accBins := rfl
@[simp] theorem State.putCmd_spilled (s : State) (c : CopyCmd) : (s.putCmd c).spilled = s.spilled := rfl
@[simp] theorem State.putCmd_replays (s : State) (c : CopyCmd) : (s.putCmd c).replays = s.replays := rfl
@[simp] theorem State.putCmd_prefetches (s : State) (c : CopyCmd) : (s.putCmd c).prefetches = s.prefetches := rfl
@[simp] theorem State.putCmd_listWalks (s : State) (c : CopyCmd) : (s.putCmd c).listWalks = s.listWalks := rfl
@[simp] theorem State.putCmd_seqs (s : State) (c : CopyCmd) : (s.putCmd c).seqs = s.seqs := rfl
@[simp] theorem State.putCmd_curSeq (s : State) (c : CopyCmd) : (s.putCmd c).curSeq = s.curSeq := rfl
@[simp] theorem State.putCmd_arrays (s : State) (c : CopyCmd) : (s.putCmd c).arrays = s.arrays := rfl
@[simp] theorem State.putCmd_resetting (s : State) (c : CopyCmd) : (s.putCmd c).resetting = s.resetting := rfl
@[simp] theorem State.putCmd_timedOut (s : State) (c : CopyCmd) : (s.putCmd c).timedOut = s.timedOut := rfl
@[simp] theorem State.putCmd_samplers (s : State) (c : CopyCmd) : (s.putCmd c).samplers = s.samplers := rfl
@[simp] theorem State.putCmd_traces (s : State) (c : CopyCmd) : (s.putCmd c).traces = s.traces := rfl
@[simp] theorem State.putCmd_hostAcc (s : State) (c : CopyCmd) : (s.putCmd c).hostAcc = s.hostAcc := rfl
@[simp] theorem State.putCmd_posted (s : State) (c : CopyCmd) : (s.putCmd c).posted = s.posted := rfl
@[simp] theorem State.putCmd_records (s : State) (c : CopyCmd) : (s.putCmd c).records = s.records := rfl
@[simp] theorem State.putCmd_bells (s : State) (c : CopyCmd) : (s.putCmd c).bells = s.bells := rfl
@[simp] theorem State.putCmd_msix (s : State) (c : CopyCmd) : (s.putCmd c).msix = s.msix := rfl
@[simp] theorem State.putCmd_resps (s : State) (c : CopyCmd) : (s.putCmd c).resps = s.resps := rfl
@[simp] theorem State.putCmd_agenda (s : State) (c : CopyCmd) : (s.putCmd c).agenda = s.agenda := rfl
@[simp] theorem State.putCmd_ids (s : State) (c : CopyCmd) : (s.putCmd c).ids = s.ids := rfl
@[simp] theorem State.putCmd_clk (s : State) (c : CopyCmd) : (s.putCmd c).clk = s.clk := rfl

/-! ### `State.putRay` -/

@[simp] theorem State.putRay_dram (s : State) (r : Ray) : (s.putRay r).dram = s.dram := rfl
@[simp] theorem State.putRay_host (s : State) (r : Ray) : (s.putRay r).host = s.host := rfl
@[simp] theorem State.putRay_peer (s : State) (r : Ray) : (s.putRay r).peer = s.peer := rfl
@[simp] theorem State.putRay_mem (s : State) (r : Ray) : (s.putRay r).mem = s.mem := rfl
@[simp] theorem State.putRay_regs (s : State) (r : Ray) : (s.putRay r).regs = s.regs := rfl
@[simp] theorem State.putRay_queues (s : State) (r : Ray) : (s.putRay r).queues = s.queues := rfl
@[simp] theorem State.putRay_handles (s : State) (r : Ray) : (s.putRay r).handles = s.handles := rfl
@[simp] theorem State.putRay_launches (s : State) (r : Ray) : (s.putRay r).launches = s.launches := rfl
@[simp] theorem State.putRay_ctxs (s : State) (r : Ray) : (s.putRay r).ctxs = s.ctxs := rfl
@[simp] theorem State.putRay_asids (s : State) (r : Ray) : (s.putRay r).asids = s.asids := rfl
@[simp] theorem State.putRay_jobs (s : State) (r : Ray) : (s.putRay r).jobs = s.jobs := rfl
@[simp] theorem State.putRay_blocks (s : State) (r : Ray) : (s.putRay r).blocks = s.blocks := rfl
@[simp] theorem State.putRay_lastCluster (s : State) (r : Ray) : (s.putRay r).lastCluster = s.lastCluster := rfl
@[simp] theorem State.putRay_lastQueue (s : State) (r : Ray) : (s.putRay r).lastQueue = s.lastQueue := rfl
@[simp] theorem State.putRay_gangs (s : State) (r : Ray) : (s.putRay r).gangs = s.gangs := rfl
@[simp] theorem State.putRay_runs (s : State) (r : Ray) : (s.putRay r).runs = s.runs := rfl
@[simp] theorem State.putRay_cur (s : State) (r : Ray) : (s.putRay r).cur = s.cur := rfl
@[simp] theorem State.putRay_curSlot (s : State) (r : Ray) : (s.putRay r).curSlot = s.curSlot := rfl
@[simp] theorem State.putRay_turn (s : State) (r : Ray) : (s.putRay r).turn = s.turn := rfl
@[simp] theorem State.putRay_lastIssue (s : State) (r : Ray) : (s.putRay r).lastIssue = s.lastIssue := rfl
@[simp] theorem State.putRay_ops (s : State) (r : Ray) : (s.putRay r).ops = s.ops := rfl
@[simp] theorem State.putRay_walks (s : State) (r : Ray) : (s.putRay r).walks = s.walks := rfl
@[simp] theorem State.putRay_fails (s : State) (r : Ray) : (s.putRay r).fails = s.fails := rfl
@[simp] theorem State.putRay_tlb (s : State) (r : Ray) : (s.putRay r).tlb = s.tlb := rfl
@[simp] theorem State.putRay_walkCache (s : State) (r : Ray) : (s.putRay r).walkCache = s.walkCache := rfl
@[simp] theorem State.putRay_cmds (s : State) (r : Ray) : (s.putRay r).cmds = s.cmds := rfl
@[simp] theorem State.putRay_accBins (s : State) (r : Ray) : (s.putRay r).accBins = s.accBins := rfl
@[simp] theorem State.putRay_spilled (s : State) (r : Ray) : (s.putRay r).spilled = s.spilled := rfl
@[simp] theorem State.putRay_replays (s : State) (r : Ray) : (s.putRay r).replays = s.replays := rfl
@[simp] theorem State.putRay_prefetches (s : State) (r : Ray) : (s.putRay r).prefetches = s.prefetches := rfl
@[simp] theorem State.putRay_listWalks (s : State) (r : Ray) : (s.putRay r).listWalks = s.listWalks := rfl
@[simp] theorem State.putRay_seqs (s : State) (r : Ray) : (s.putRay r).seqs = s.seqs := rfl
@[simp] theorem State.putRay_curSeq (s : State) (r : Ray) : (s.putRay r).curSeq = s.curSeq := rfl
@[simp] theorem State.putRay_arrays (s : State) (r : Ray) : (s.putRay r).arrays = s.arrays := rfl
@[simp] theorem State.putRay_resetting (s : State) (r : Ray) : (s.putRay r).resetting = s.resetting := rfl
@[simp] theorem State.putRay_timedOut (s : State) (r : Ray) : (s.putRay r).timedOut = s.timedOut := rfl
@[simp] theorem State.putRay_samplers (s : State) (r : Ray) : (s.putRay r).samplers = s.samplers := rfl
@[simp] theorem State.putRay_traces (s : State) (r : Ray) : (s.putRay r).traces = s.traces := rfl
@[simp] theorem State.putRay_hostAcc (s : State) (r : Ray) : (s.putRay r).hostAcc = s.hostAcc := rfl
@[simp] theorem State.putRay_posted (s : State) (r : Ray) : (s.putRay r).posted = s.posted := rfl
@[simp] theorem State.putRay_records (s : State) (r : Ray) : (s.putRay r).records = s.records := rfl
@[simp] theorem State.putRay_bells (s : State) (r : Ray) : (s.putRay r).bells = s.bells := rfl
@[simp] theorem State.putRay_msix (s : State) (r : Ray) : (s.putRay r).msix = s.msix := rfl
@[simp] theorem State.putRay_resps (s : State) (r : Ray) : (s.putRay r).resps = s.resps := rfl
@[simp] theorem State.putRay_agenda (s : State) (r : Ray) : (s.putRay r).agenda = s.agenda := rfl
@[simp] theorem State.putRay_ids (s : State) (r : Ray) : (s.putRay r).ids = s.ids := rfl
@[simp] theorem State.putRay_clk (s : State) (r : Ray) : (s.putRay r).clk = s.clk := rfl

/-! ### `State.signal` -/

@[simp] theorem State.signal_dram (s : State) (f v : Nat) : (s.signal f v).dram = s.dram := rfl
@[simp] theorem State.signal_host (s : State) (f v : Nat) : (s.signal f v).host = s.host := rfl
@[simp] theorem State.signal_peer (s : State) (f v : Nat) : (s.signal f v).peer = s.peer := rfl
@[simp] theorem State.signal_mem (s : State) (f v : Nat) : (s.signal f v).mem = s.mem := rfl
@[simp] theorem State.signal_regs (s : State) (f v : Nat) : (s.signal f v).regs = s.regs := rfl
@[simp] theorem State.signal_queues (s : State) (f v : Nat) : (s.signal f v).queues = s.queues := rfl
@[simp] theorem State.signal_handles (s : State) (f v : Nat) : (s.signal f v).handles = s.handles := rfl
@[simp] theorem State.signal_launches (s : State) (f v : Nat) : (s.signal f v).launches = s.launches := rfl
@[simp] theorem State.signal_ctxs (s : State) (f v : Nat) : (s.signal f v).ctxs = s.ctxs := rfl
@[simp] theorem State.signal_asids (s : State) (f v : Nat) : (s.signal f v).asids = s.asids := rfl
@[simp] theorem State.signal_jobs (s : State) (f v : Nat) : (s.signal f v).jobs = s.jobs := rfl
@[simp] theorem State.signal_blocks (s : State) (f v : Nat) : (s.signal f v).blocks = s.blocks := rfl
@[simp] theorem State.signal_lastCluster (s : State) (f v : Nat) : (s.signal f v).lastCluster = s.lastCluster := rfl
@[simp] theorem State.signal_lastQueue (s : State) (f v : Nat) : (s.signal f v).lastQueue = s.lastQueue := rfl
@[simp] theorem State.signal_gangs (s : State) (f v : Nat) : (s.signal f v).gangs = s.gangs := rfl
@[simp] theorem State.signal_runs (s : State) (f v : Nat) : (s.signal f v).runs = s.runs := rfl
@[simp] theorem State.signal_cur (s : State) (f v : Nat) : (s.signal f v).cur = s.cur := rfl
@[simp] theorem State.signal_curSlot (s : State) (f v : Nat) : (s.signal f v).curSlot = s.curSlot := rfl
@[simp] theorem State.signal_turn (s : State) (f v : Nat) : (s.signal f v).turn = s.turn := rfl
@[simp] theorem State.signal_lastIssue (s : State) (f v : Nat) : (s.signal f v).lastIssue = s.lastIssue := rfl
@[simp] theorem State.signal_ops (s : State) (f v : Nat) : (s.signal f v).ops = s.ops := rfl
@[simp] theorem State.signal_walks (s : State) (f v : Nat) : (s.signal f v).walks = s.walks := rfl
@[simp] theorem State.signal_fails (s : State) (f v : Nat) : (s.signal f v).fails = s.fails := rfl
@[simp] theorem State.signal_tlb (s : State) (f v : Nat) : (s.signal f v).tlb = s.tlb := rfl
@[simp] theorem State.signal_walkCache (s : State) (f v : Nat) : (s.signal f v).walkCache = s.walkCache := rfl
@[simp] theorem State.signal_cmds (s : State) (f v : Nat) : (s.signal f v).cmds = s.cmds := rfl
@[simp] theorem State.signal_rays (s : State) (f v : Nat) : (s.signal f v).rays = s.rays := rfl
@[simp] theorem State.signal_accBins (s : State) (f v : Nat) : (s.signal f v).accBins = s.accBins := rfl
@[simp] theorem State.signal_spilled (s : State) (f v : Nat) : (s.signal f v).spilled = s.spilled := rfl
@[simp] theorem State.signal_replays (s : State) (f v : Nat) : (s.signal f v).replays = s.replays := rfl
@[simp] theorem State.signal_prefetches (s : State) (f v : Nat) : (s.signal f v).prefetches = s.prefetches := rfl
@[simp] theorem State.signal_listWalks (s : State) (f v : Nat) : (s.signal f v).listWalks = s.listWalks := rfl
@[simp] theorem State.signal_seqs (s : State) (f v : Nat) : (s.signal f v).seqs = s.seqs := rfl
@[simp] theorem State.signal_curSeq (s : State) (f v : Nat) : (s.signal f v).curSeq = s.curSeq := rfl
@[simp] theorem State.signal_arrays (s : State) (f v : Nat) : (s.signal f v).arrays = s.arrays := rfl
@[simp] theorem State.signal_resetting (s : State) (f v : Nat) : (s.signal f v).resetting = s.resetting := rfl
@[simp] theorem State.signal_timedOut (s : State) (f v : Nat) : (s.signal f v).timedOut = s.timedOut := rfl
@[simp] theorem State.signal_samplers (s : State) (f v : Nat) : (s.signal f v).samplers = s.samplers := rfl
@[simp] theorem State.signal_traces (s : State) (f v : Nat) : (s.signal f v).traces = s.traces := rfl
@[simp] theorem State.signal_hostAcc (s : State) (f v : Nat) : (s.signal f v).hostAcc = s.hostAcc := rfl
@[simp] theorem State.signal_posted (s : State) (f v : Nat) : (s.signal f v).posted = s.posted := rfl
@[simp] theorem State.signal_records (s : State) (f v : Nat) : (s.signal f v).records = s.records := rfl
@[simp] theorem State.signal_bells (s : State) (f v : Nat) : (s.signal f v).bells = s.bells := rfl
@[simp] theorem State.signal_resps (s : State) (f v : Nat) : (s.signal f v).resps = s.resps := rfl
@[simp] theorem State.signal_agenda (s : State) (f v : Nat) : (s.signal f v).agenda = s.agenda := rfl
@[simp] theorem State.signal_ids (s : State) (f v : Nat) : (s.signal f v).ids = s.ids := rfl
@[simp] theorem State.signal_clk (s : State) (f v : Nat) : (s.signal f v).clk = s.clk := rfl

/-! ### `State.modLocal` -/

@[simp] theorem State.modLocal_dram (s : State) (k : GroupKey) (f : Memory → Memory) : (s.modLocal k f).dram = s.dram := rfl
@[simp] theorem State.modLocal_host (s : State) (k : GroupKey) (f : Memory → Memory) : (s.modLocal k f).host = s.host := rfl
@[simp] theorem State.modLocal_peer (s : State) (k : GroupKey) (f : Memory → Memory) : (s.modLocal k f).peer = s.peer := rfl
@[simp] theorem State.modLocal_mem (s : State) (k : GroupKey) (f : Memory → Memory) : (s.modLocal k f).mem = s.mem := rfl
@[simp] theorem State.modLocal_regs (s : State) (k : GroupKey) (f : Memory → Memory) : (s.modLocal k f).regs = s.regs := rfl
@[simp] theorem State.modLocal_queues (s : State) (k : GroupKey) (f : Memory → Memory) : (s.modLocal k f).queues = s.queues := rfl
@[simp] theorem State.modLocal_handles (s : State) (k : GroupKey) (f : Memory → Memory) : (s.modLocal k f).handles = s.handles := rfl
@[simp] theorem State.modLocal_launches (s : State) (k : GroupKey) (f : Memory → Memory) : (s.modLocal k f).launches = s.launches := rfl
@[simp] theorem State.modLocal_ctxs (s : State) (k : GroupKey) (f : Memory → Memory) : (s.modLocal k f).ctxs = s.ctxs := rfl
@[simp] theorem State.modLocal_asids (s : State) (k : GroupKey) (f : Memory → Memory) : (s.modLocal k f).asids = s.asids := rfl
@[simp] theorem State.modLocal_jobs (s : State) (k : GroupKey) (f : Memory → Memory) : (s.modLocal k f).jobs = s.jobs := rfl
@[simp] theorem State.modLocal_lastCluster (s : State) (k : GroupKey) (f : Memory → Memory) : (s.modLocal k f).lastCluster = s.lastCluster := rfl
@[simp] theorem State.modLocal_lastQueue (s : State) (k : GroupKey) (f : Memory → Memory) : (s.modLocal k f).lastQueue = s.lastQueue := rfl
@[simp] theorem State.modLocal_gangs (s : State) (k : GroupKey) (f : Memory → Memory) : (s.modLocal k f).gangs = s.gangs := rfl
@[simp] theorem State.modLocal_runs (s : State) (k : GroupKey) (f : Memory → Memory) : (s.modLocal k f).runs = s.runs := rfl
@[simp] theorem State.modLocal_cur (s : State) (k : GroupKey) (f : Memory → Memory) : (s.modLocal k f).cur = s.cur := rfl
@[simp] theorem State.modLocal_curSlot (s : State) (k : GroupKey) (f : Memory → Memory) : (s.modLocal k f).curSlot = s.curSlot := rfl
@[simp] theorem State.modLocal_turn (s : State) (k : GroupKey) (f : Memory → Memory) : (s.modLocal k f).turn = s.turn := rfl
@[simp] theorem State.modLocal_lastIssue (s : State) (k : GroupKey) (f : Memory → Memory) : (s.modLocal k f).lastIssue = s.lastIssue := rfl
@[simp] theorem State.modLocal_ops (s : State) (k : GroupKey) (f : Memory → Memory) : (s.modLocal k f).ops = s.ops := rfl
@[simp] theorem State.modLocal_walks (s : State) (k : GroupKey) (f : Memory → Memory) : (s.modLocal k f).walks = s.walks := rfl
@[simp] theorem State.modLocal_fails (s : State) (k : GroupKey) (f : Memory → Memory) : (s.modLocal k f).fails = s.fails := rfl
@[simp] theorem State.modLocal_tlb (s : State) (k : GroupKey) (f : Memory → Memory) : (s.modLocal k f).tlb = s.tlb := rfl
@[simp] theorem State.modLocal_walkCache (s : State) (k : GroupKey) (f : Memory → Memory) : (s.modLocal k f).walkCache = s.walkCache := rfl
@[simp] theorem State.modLocal_cmds (s : State) (k : GroupKey) (f : Memory → Memory) : (s.modLocal k f).cmds = s.cmds := rfl
@[simp] theorem State.modLocal_rays (s : State) (k : GroupKey) (f : Memory → Memory) : (s.modLocal k f).rays = s.rays := rfl
@[simp] theorem State.modLocal_accBins (s : State) (k : GroupKey) (f : Memory → Memory) : (s.modLocal k f).accBins = s.accBins := rfl
@[simp] theorem State.modLocal_spilled (s : State) (k : GroupKey) (f : Memory → Memory) : (s.modLocal k f).spilled = s.spilled := rfl
@[simp] theorem State.modLocal_replays (s : State) (k : GroupKey) (f : Memory → Memory) : (s.modLocal k f).replays = s.replays := rfl
@[simp] theorem State.modLocal_prefetches (s : State) (k : GroupKey) (f : Memory → Memory) : (s.modLocal k f).prefetches = s.prefetches := rfl
@[simp] theorem State.modLocal_listWalks (s : State) (k : GroupKey) (f : Memory → Memory) : (s.modLocal k f).listWalks = s.listWalks := rfl
@[simp] theorem State.modLocal_seqs (s : State) (k : GroupKey) (f : Memory → Memory) : (s.modLocal k f).seqs = s.seqs := rfl
@[simp] theorem State.modLocal_curSeq (s : State) (k : GroupKey) (f : Memory → Memory) : (s.modLocal k f).curSeq = s.curSeq := rfl
@[simp] theorem State.modLocal_arrays (s : State) (k : GroupKey) (f : Memory → Memory) : (s.modLocal k f).arrays = s.arrays := rfl
@[simp] theorem State.modLocal_resetting (s : State) (k : GroupKey) (f : Memory → Memory) : (s.modLocal k f).resetting = s.resetting := rfl
@[simp] theorem State.modLocal_timedOut (s : State) (k : GroupKey) (f : Memory → Memory) : (s.modLocal k f).timedOut = s.timedOut := rfl
@[simp] theorem State.modLocal_samplers (s : State) (k : GroupKey) (f : Memory → Memory) : (s.modLocal k f).samplers = s.samplers := rfl
@[simp] theorem State.modLocal_traces (s : State) (k : GroupKey) (f : Memory → Memory) : (s.modLocal k f).traces = s.traces := rfl
@[simp] theorem State.modLocal_hostAcc (s : State) (k : GroupKey) (f : Memory → Memory) : (s.modLocal k f).hostAcc = s.hostAcc := rfl
@[simp] theorem State.modLocal_posted (s : State) (k : GroupKey) (f : Memory → Memory) : (s.modLocal k f).posted = s.posted := rfl
@[simp] theorem State.modLocal_records (s : State) (k : GroupKey) (f : Memory → Memory) : (s.modLocal k f).records = s.records := rfl
@[simp] theorem State.modLocal_bells (s : State) (k : GroupKey) (f : Memory → Memory) : (s.modLocal k f).bells = s.bells := rfl
@[simp] theorem State.modLocal_msix (s : State) (k : GroupKey) (f : Memory → Memory) : (s.modLocal k f).msix = s.msix := rfl
@[simp] theorem State.modLocal_resps (s : State) (k : GroupKey) (f : Memory → Memory) : (s.modLocal k f).resps = s.resps := rfl
@[simp] theorem State.modLocal_agenda (s : State) (k : GroupKey) (f : Memory → Memory) : (s.modLocal k f).agenda = s.agenda := rfl
@[simp] theorem State.modLocal_ids (s : State) (k : GroupKey) (f : Memory → Memory) : (s.modLocal k f).ids = s.ids := rfl
@[simp] theorem State.modLocal_clk (s : State) (k : GroupKey) (f : Memory → Memory) : (s.modLocal k f).clk = s.clk := rfl

/-! ### What is found after an update -/

/-- Finding by a key in a list whose elements of one key are changed, keys kept. -/
theorem List.find?_map_same {α : Type} [DecidableEq α] (l : List α) (p q : α → Prop) [DecidablePred p] [DecidablePred q] (f : α → α)
    (hq : ∀ x, q x → q (f x)) (hn : ∀ x, ¬ q x → ¬ q (f x)) :
    (l.map (fun x => if p x then f x else x)).find? (fun x => decide (q x)) = (l.find? (fun x => decide (q x))).map (fun x => if p x then f x else x) := by
  induction l with
  | nil => rfl
  | cons x l ih =>
    by_cases hx : q x <;> by_cases hp : p x <;> simp [hx, hp, hq, hn, ih]

theorem State.ctx?_modCtx (s : State) (n m : Nat) (f : Ctx → Ctx) (hf : ∀ c, (f c).asid = c.asid) :
    (s.modCtx n f).ctx? m = (s.ctx? m).map (fun c => if c.asid = n then f c else c) := by
  simp only [State.ctx?, State.modCtx, beq_eq_decide]
  exact List.find?_map_same _ (fun c : Ctx => c.asid = n) (fun c => c.asid = m) f (fun x h => (hf x).trans h) (fun x h g => h ((hf x).symm.trans g))

theorem State.launch?_modLaunch (s : State) (n m : Nat) (f : Launch → Launch) (hf : ∀ l, (f l).id = l.id) :
    (s.modLaunch n f).launch? m = (s.launch? m).map (fun l => if l.id = n then f l else l) := by
  simp only [State.launch?, State.modLaunch, beq_eq_decide]
  exact List.find?_map_same _ (fun c : Launch => c.id = n) (fun c => c.id = m) f (fun x h => (hf x).trans h) (fun x h g => h ((hf x).symm.trans g))

theorem State.seq?_modSeq (s : State) (n m : SeqKey) (f : Sequencer → Sequencer) (hf : ∀ x, (f x).key = x.key) :
    (s.modSeq n f).seq? m = (s.seq? m).map (fun x => if x.key = n then f x else x) := by
  simp only [State.seq?, State.modSeq, beq_eq_decide]
  exact List.find?_map_same _ (fun c : Sequencer => c.key = n) (fun c => c.key = m) f (fun x h => (hf x).trans h) (fun x h g => h ((hf x).symm.trans g))

@[simp] theorem State.queue?_putQueue (s : State) (x : Queue) : (s.putQueue x).queue? x.q = some x := by
  simp [State.queue?, State.putQueue]

@[simp] theorem State.asidInfo_putAsid (s : State) (a : AsidInfo) : (s.putAsid a).asidInfo a.asid = a := by
  simp [State.asidInfo, State.putAsid]

end Sys2Proof.Machine
end

