-- ==== Sys2Proof/Tests/Slice0.lean ====
section
/-! SUPPORT. Tests: words written out from the spec's encodings decode to their instructions, ill-formed terms are refused, the
statements' hypotheses are met by states given here, and single steps give the results of the spec's examples. -/
set_option maxRecDepth 10000
namespace Sys2Proof

/-- Words written out from the opcode table: the 16-bit forms (R272 to R294). -/
theorem test_decode_half :
    ([(0xF8C2, .add16 true 3 31), (0xF8C6, .sub16 true 3 31), (0xF8CA, .mul16 true 3 31), (0xF8CE, .and16 true 3 31),
       (0xF8D0, .or16 false 3 31), (0xF8D6, .xor16 true 3 31), (0xF8DA, .shl16 true 3 31), (0xF8DC, .shru16 false 3 31),
       (0xF8E0, .fadd16 false 3 31), (0xF8E4, .fmul16 false 3 31), (0xF8E8, .fsub16 false 3 31), (0xF8EC, .fmin16 false 3 31),
       (0xF8F0, .fmax16 false 3 31), (0xF8F6, .mov16 true 3 31), (0xF8F8, .mins16 false 3 31), (0xF8FC, .maxs16 false 3 31)] : List (Nat × Instr)).all
      (fun x => decodeTableWord 16 x.1 == some x.2) = true := by decide

/-- Words written out from the opcode table: two sources and a destination (R272 to R294). -/
theorem test_decode_three_1 :
    ([(0x417F0301, .add false (.v 3) (.v 127) (.v 65)), (0x417F0305, .sub false (.v 3) (.v 127) (.v 65)),
       (0x417F0309, .mul false (.v 3) (.v 127) (.v 65)), (0x417F030D, .mulhs false (.v 3) (.v 127) (.v 65)),
       (0x417F0311, .mulhu false (.v 3) (.v 127) (.v 65)), (0x417F0315, .mad false (.v 3) (.v 127) (.v 65)),
       (0x417F031B, .mins true (.v 3) (.v 127) (.v 65)), (0x417F031F, .maxs true (.v 3) (.v 127) (.v 65)),
       (0x417F0323, .minu true (.v 3) (.v 127) (.v 65)), (0x417F0327, .maxu true (.v 3) (.v 127) (.v 65)),
       (0x417F0329, .and false (.v 3) (.v 127) (.v 65)), (0x417F032F, .or true (.v 3) (.v 127) (.v 65)),
       (0x417F0331, .xor false (.v 3) (.v 127) (.v 65)), (0x417F0337, .andn true (.v 3) (.v 127) (.v 65)),
       (0x417F0339, .shl false (.v 3) (.v 127) (.v 65)), (0x417F033F, .shru true (.v 3) (.v 127) (.v 65)),
       (0x417F0343, .shrs true (.v 3) (.v 127) (.v 65)), (0x417F0347, .rotl true (.v 3) (.v 127) (.v 65)),
       (0x417F034B, .bfes true (.v 3) (.v 127) (.v 65)), (0x417F034F, .bfeu true (.v 3) (.v 127) (.v 65))] : List (Nat × Instr)).all
      (fun x => decodeTableWord 32 x.1 == some x.2) = true := by decide

/-- Words written out from the opcode table: two sources and a destination (R272 to R294). -/
theorem test_decode_three_2 :
    ([(0x417F0351, .bfi false (.v 3) (.v 127) (.v 65)), (0x417F0357, .fadd true (.v 3) (.v 127) (.v 65)),
       (0x417F035B, .fsub true (.v 3) (.v 127) (.v 65)), (0x417F035F, .fmul true (.v 3) (.v 127) (.v 65)),
       (0x417F0363, .ffma true (.v 3) (.v 127) (.v 65)), (0x417F0367, .fmin true (.v 3) (.v 127) (.v 65)),
       (0x417F036B, .fmax true (.v 3) (.v 127) (.v 65)), (0x417F036D, .hadd2 false (.v 3) (.v 127) (.v 65)),
       (0x417F0371, .hmul2 false (.v 3) (.v 127) (.v 65)), (0x417F0375, .hfma2 false (.v 3) (.v 127) (.v 65)),
       (0x417F0379, .bfma2 false (.v 3) (.v 127) (.v 65)), (0x417F037F, .dp4aS true (.v 3) (.v 127) (.v 65)),
       (0x417F0383, .dp4aU true (.v 3) (.v 127) (.v 65)), (0x417F0387, .dp8aS true (.v 3) (.v 127) (.v 65)),
       (0x417F0389, .xlaneSel false (.v 3) (.v 127) (.v 65)), (0x417F038F, .xlaneFlip true (.v 3) (.v 127) (.v 65)),
       (0x210201AB, .pand true (.p 1) (.p 2) (.p 33)), (0x210201AD, .por false (.p 1) (.p 2) (.p 33)),
       (0x210201B3, .pxor true (.p 1) (.p 2) (.p 33))] : List (Nat × Instr)).all
      (fun x => decodeTableWord 32 x.1 == some x.2) = true := by decide

/-- Words written out from the opcode table: comparisons (R272 to R294). -/
theorem test_decode_compare :
    ([(0x417F0691, .cmpiEq false (.p 6) (.v 127) (.v 65)), (0x417F8691, .cmpiNe false (.p 6) (.v 127) (.v 65)),
       (0x417F0695, .cmpiLt false (.p 6) (.v 127) (.v 65)), (0x417F8695, .cmpiGe false (.p 6) (.v 127) (.v 65)),
       (0x417F0699, .cmpuLt false (.p 6) (.v 127) (.v 65)), (0x417F8699, .cmpuGe false (.p 6) (.v 127) (.v 65)),
       (0x417F069D, .cmpfEq false (.p 6) (.v 127) (.v 65)), (0x417F869D, .cmpfNe false (.p 6) (.v 127) (.v 65)),
       (0x417F06A1, .cmpfLt false (.p 6) (.v 127) (.v 65)), (0x417F86A1, .cmpfGe false (.p 6) (.v 127) (.v 65)),
       (0x417F06A5, .cmpfUo false (.p 6) (.v 127) (.v 65)), (0x417F86A7, .cmpfO true (.p 6) (.v 127) (.v 65))] : List (Nat × Instr)).all
      (fun x => decodeTableWord 32 x.1 == some x.2) = true := by decide

/-- Words written out from the opcode table: loads, stores and atomics (R272 to R294). -/
theorem test_decode_access :
    ([(0x93C414B7, .ld true (.v 20) (.a 4) ⟨.w64, none, .stream, .die⟩),
       (0x93C414BB, .st true (.v 20) (.a 4) ⟨.w64, none, .stream, .die⟩),
       (0x040408BD, .ldl false (.v 8) (.v 4) ⟨.w128, none, .normal, .plain⟩),
       (0x040408C1, .stl false (.v 8) (.v 4) ⟨.w128, none, .normal, .plain⟩),
       (0x508A04C7, .atom true (.v 4) (.s 10) ⟨.add, true, .die⟩),
       (0x508A04C9, .atoml false (.v 4) (.s 10) ⟨.add, true, .die⟩)] : List (Nat × Instr)).all
      (fun x => decodeTableWord 32 x.1 == some x.2) = true := by decide

/-- Words written out from the opcode table: one source and a destination (R272 to R294). -/
theorem test_decode_two_1 :
    ([(0x001810CD, .mov false (.v 16) (.v 24)), (0x011810CD, .not false (.v 16) (.v 24)),
       (0x021810CD, .neg false (.v 16) (.v 24)), (0x031810CD, .abs false (.v 16) (.v 24)),
       (0x041810CF, .popc true (.v 16) (.v 24)), (0x051810CD, .clz false (.v 16) (.v 24)),
       (0x061810CD, .ctz false (.v 16) (.v 24)), (0x071810CF, .brev true (.v 16) (.v 24)),
       (0x081810CD, .sextb false (.v 16) (.v 24)), (0x091810CD, .sexth false (.v 16) (.v 24)),
       (0x0A1810CD, .zextb false (.v 16) (.v 24)), (0x0B1810CD, .zexth false (.v 16) (.v 24)),
       (0x0C1810CD, .bswap false (.v 16) (.v 24)), (0x101810CD, .packS8 false (.v 16) (.v 24)),
       (0x111810CD, .packU8 false (.v 16) (.v 24)), (0x121810CD, .packS4 false (.v 16) (.v 24)),
       (0x131810CD, .unpkS8 false (.v 16) (.v 24)), (0x141810CD, .unpkU8 false (.v 16) (.v 24)),
       (0x151810CD, .unpkS4 false (.v 16) (.v 24)), (0x001810D3, .fneg true (.v 16) (.v 24))] : List (Nat × Instr)).all
      (fun x => decodeTableWord 32 x.1 == some x.2) = true := by decide

/-- Words written out from the opcode table: one source and a destination (R272 to R294). -/
theorem test_decode_two_2 :
    ([(0x011810D3, .fabs true (.v 16) (.v 24)), (0x021810D3, .frcp true (.v 16) (.v 24)),
       (0x031810D3, .frsq true (.v 16) (.v 24)), (0x041810D1, .fsqrt false (.v 16) (.v 24)),
       (0x051810D3, .fex2 true (.v 16) (.v 24)), (0x061810D3, .flg2 true (.v 16) (.v 24)),
       (0x071810D3, .fsin true (.v 16) (.v 24)), (0x081810D3, .fcos true (.v 16) (.v 24)),
       (0x091810D3, .frintNe true (.v 16) (.v 24)), (0x0A1810D1, .frintZ false (.v 16) (.v 24)),
       (0x0B1810D3, .frintDn true (.v 16) (.v 24)), (0x0C1810D3, .frintUp true (.v 16) (.v 24)),
       (0x0D1810D1, .ffrac false (.v 16) (.v 24)), (0x0E1810D3, .fclass true (.v 16) (.v 24)),
       (0x0F1810D3, .fsat true (.v 16) (.v 24)), (0x101810D1, .cvtF32S32 false (.v 16) (.v 24)),
       (0x111810D1, .cvtF32U32 false (.v 16) (.v 24)), (0x121810D3, .cvtS32F32Ne true (.v 16) (.v 24)),
       (0x131810D1, .cvtS32F32Z false (.v 16) (.v 24)), (0x141810D3, .cvtS32F32Dn true (.v 16) (.v 24))] : List (Nat × Instr)).all
      (fun x => decodeTableWord 32 x.1 == some x.2) = true := by decide

/-- Words written out from the opcode table: one source and a destination (R272 to R294). -/
theorem test_decode_two_3 :
    ([(0x151810D3, .cvtS32F32Up true (.v 16) (.v 24)), (0x161810D3, .cvtU32F32Ne true (.v 16) (.v 24)),
       (0x171810D1, .cvtU32F32Z false (.v 16) (.v 24)), (0x181810D1, .cvtF16x2F32 false (.v 16) (.v 24)),
       (0x191810D3, .cvtBf16x2F32 true (.v 16) (.v 24)), (0x1A1810D1, .cvtF32F16lo false (.v 16) (.v 24)),
       (0x1B1810D1, .cvtF32F16hi false (.v 16) (.v 24)), (0x1C1810D3, .cvtF32Bf16lo true (.v 16) (.v 24)),
       (0x1D1810D3, .cvtF32Bf16hi true (.v 16) (.v 24)), (0x1E1810D3, .cvtF16x2Bf16x2 true (.v 16) (.v 24)),
       (0x1F1810D3, .cvtBf16x2F16x2 true (.v 16) (.v 24)), (0x231514D3, .qntC8 true 3 (.v 20) (.v 21)),
       (0x2B1514D1, .dqntC8 false 3 (.v 20) (.v 21)), (0x000489D5, .bcastS false (.s 9) (.v 4)),
       (0x0106C2D7, .affx true (.a 2) (.v 6)), (0x020308D7, .ballot true (.v 8) (.p 3)),
       (0x030308D5, .anyof false (.v 8) (.p 3)), (0x040308D5, .allof false (.v 8) (.p 3)),
       (0x050308D7, .pcount true (.v 8) (.p 3)), (0x061810D5, .redAddS32 false (.v 16) (.v 24))] : List (Nat × Instr)).all
      (fun x => decodeTableWord 32 x.1 == some x.2) = true := by decide

/-- Words written out from the opcode table: one source and a destination (R272 to R294). -/
theorem test_decode_two_4 :
    ([(0x071810D5, .redMinS32 false (.v 16) (.v 24)), (0x081810D5, .redMaxS32 false (.v 16) (.v 24)),
       (0x091810D5, .redAddF32 false (.v 16) (.v 24)), (0x0A1810D5, .redMinF32 false (.v 16) (.v 24)),
       (0x0B1810D5, .redMaxF32 false (.v 16) (.v 24)), (0x0C1810D7, .scanAddS32 true (.v 16) (.v 24)),
       (0x0D1810D5, .scanxAddS32 false (.v 16) (.v 24)), (0x0E1810D7, .scanAddF32 true (.v 16) (.v 24)),
       (0x101810D5, .qswapH false (.v 16) (.v 24)), (0x111810D5, .qswapV false (.v 16) (.v 24)),
       (0x121810D5, .qswapD false (.v 16) (.v 24)), (0x131810D7, .qbc0 true (.v 16) (.v 24)),
       (0x141810D7, .qbc1 true (.v 16) (.v 24)), (0x151810D7, .qbc2 true (.v 16) (.v 24)),
       (0x161810D7, .qbc3 true (.v 16) (.v 24)), (0x181810D7, .rebalLd true (.v 16) (.v 24)),
       (0x191810D7, .rebalNx true (.v 16) (.v 24))] : List (Nat × Instr)).all
      (fun x => decodeTableWord 32 x.1 == some x.2) = true := by decide

/-- Words written out from the opcode table: control (R272 to R294). -/
theorem test_decode_control_1 :
    ([(0x00FFFFD9, .nop false), (0x01FFFFDB, .exit true), (0x02FFFFDB, .join true), (0x03FFFFD9, .ret false),
       (0x0486FFDB, .callI true (.s 6)), (0x0586FFD9, .jmpI false (.s 6)), (0x06FFFFD9, .barBlk false),
       (0x07FFFFD9, .yield false), (0x0886FFDB, .trap true (.s 6)), (0x09FFFFD9, .brk false), (0x0AFFFFD9, .rte false),
       (0x0B1383DB, .rdsr true (.s 3) 0x13#8), (0x0C8313DB, .wrsr true 0x13#8 (.s 3)), (0x0DFFFFDB, .fenceCore true),
       (0x0EFFFFD9, .fenceClu false), (0x0FFFFFD9, .fenceDie false), (0x10FFFFDB, .fencePair true),
       (0x11FFFFD9, .fenceSys false), (0x1286FFDB, .endphase true (.s 6)), (0x13FF84D9, .clk false (.s 4))] : List (Nat × Instr)).all
      (fun x => decodeTableWord 32 x.1 == some x.2) = true := by decide

/-- Words written out from the opcode table: control (R272 to R294). -/
theorem test_decode_control_2 :
    ([(0x141383DB, .dsrd true (.s 3) 0x13#8), (0x158313DB, .dswr true 0x13#8 (.s 3)),
       (0x0420C4DF, .wait true 4#6 3#6 2#6 1#6), (0x000287E1, .grd (.p 7) true 2), (0xFFFFF0E5, .bra false 0x7FFFF8#23),
       (0xFFFFF1E7, .call true 0x7FFFF8#23), (0xFFFC03E9, .brsZ false 3 0xFFFC#16), (0xFFFC43EB, .brsNz true 3 0xFFFC#16),
       (0x002085ED, .brv false (.p 5) true 0x20#16), (0x02FFFFF7, .retire true)] : List (Nat × Instr)).all
      (fun x => decodeTableWord 32 x.1 == some x.2) = true := by decide

/-- Words written out from the opcode table: commands of the engines (R272 to R294). -/
theorem test_decode_command_1 :
    ([(0x008482F3, .copyLin true (.s 2) (.s 4)), (0x018482F1, .copyRect false (.s 2) (.s 4)),
       (0x028482F3, .copyWin true (.s 2) (.s 4)), (0x038482F1, .copyGath false (.s 2) (.s 4)),
       (0x048482F3, .copyRed true (.s 2) (.s 4)), (0x058482F1, .copyFill false (.s 2) (.s 4)),
       (0x0010FFF5, .trace false (.v 16)), (0x011003F5, .spawn false (.v 3) (.v 16)), (0x0310FFF5, .accum false (.v 16)),
       (0x041082F7, .binp true (.s 2) (.v 16)), (0x058482F7, .binrep true (.s 2) (.s 4)),
       (0x068408F5, .texLod false (.v 8) (.s 4)), (0x078408F5, .texQ false (.v 8) (.s 4)),
       (0x088408F5, .rng false (.v 8) (.s 4)), (0x008482FB, .freg true (.s 2) (.s 4)), (0x018482FB, .fres true (.s 2) (.s 4)),
       (0x028482F9, .tqPush false (.s 2) (.s 4)), (0x038482FB, .tqPop true (.s 2) (.s 4)),
       (0x048482F9, .fpoll false (.s 2) (.s 4)), (0x058482FB, .tqPushv true (.s 2) (.s 4))] : List (Nat × Instr)).all
      (fun x => decodeTableWord 32 x.1 == some x.2) = true := by decide

/-- Words written out from the opcode table: commands of the engines (R272 to R294). -/
theorem test_decode_command_2 :
    ([(0x0084FFFF, .mstart true (.s 4)), (0x018408FD, .accld false (.v 8) (.s 4)), (0x0284FFFD, .acczero false (.s 4)),
       (0x0484FFFF, .mcfg true (.s 4)), (0x15FFFFFF, .mbarArr true 5), (0x25FF84FD, .mbarWait false 5 (.s 4))] : List (Nat × Instr)).all
      (fun x => decodeTableWord 32 x.1 == some x.2) = true := by decide

/-- Words written out from the opcode table: words of a matrix stream (R272 to R294). -/
theorem test_decode_stream :
    ([(0x00000000, .mnop), (0x00000001, .mend), (0x00000642, .mwait 9 true), (0x00000243, .marr 9), (0x00000144, .mzero 5),
       (0xFF600785, .mloop 2 7#12 0xFF6#12), (0xFFFFF606, .mbra 0xFFFFF6#24), (0x203904D0, .mmaF16 ⟨3, 2, 100, 1, 8⟩),
       (0x203904D1, .mmaBf16 ⟨3, 2, 100, 1, 8⟩), (0x203904D2, .mmaS8 ⟨3, 2, 100, 1, 8⟩),
       (0x203904D3, .mmaU8 ⟨3, 2, 100, 1, 8⟩), (0x203904D4, .mmaC8 ⟨3, 2, 100, 1, 8⟩), (0x203904D5, .mmaS4 ⟨3, 2, 100, 1, 8⟩),
       (0x203904D8, .mmaF16Sp16 ⟨3, 2, 100, 1, 8⟩), (0x203904D9, .mmaBf16Sp16 ⟨3, 2, 100, 1, 8⟩),
       (0x203904DA, .mmaS8Sp16 ⟨3, 2, 100, 1, 8⟩), (0x203904DC, .mmaS8Sp8 ⟨3, 2, 100, 1, 8⟩),
       (0x203904DD, .mmaS4Sp8 ⟨3, 2, 100, 1, 8⟩)] : List (Nat × Instr)).all
      (fun x => decodeStream (BitVec.ofNat 32 x.1) == .ok x.2 4) = true := by decide

/-! ## Terms that are no encoding, one for each check, and words that the decoder rejects -/

/-- A plain access. -/
def plainMem : MemFields := { wid := .w32, off := none, cache := .normal, ord := .plain }

/-- Each ill-formed term is refused, by the check that it fails (R276, R278, R280, R282, R283, R375, R377). -/
theorem test_wellFormed_refuses :
    ([(.mov false .zero (.v 0), .destCode), (.mov false (.v 0) .none, .sourceNone), (.mad false .none (.v 0) (.v 1), .sourceNone),
      (.mad false .zero (.v 0) (.v 1), .destCode), (.add false (.v 0) .none (.v 1), .sourceNone), (.packS8 false (.v 0) .none, .sourceNone),
      (.packS8 false (.v 0) .lane, .operandCode), (.add false (.v 0) (.lit32 1) (.lit32 2), .secondLiteral),
      (.add false (.v 0) (.lit32 1) (.lit64 2), .secondLiteral),
      (.cmpiEq false .tru (.v 0) (.v 1), .predCode), (.pand false (.p 0) (.rsvd 0x62) .tru, .predCode),
      (.ld false (.v 0) .latch plainMem, .addressCode), (.st false .none (.v 0) plainMem, .sourceNone),
      (.st false .lane (.v 0) plainMem, .operandCode), (.atom false .zero (.a 0) ⟨.add, false, .die⟩, .operandCode),
      (.atom false .none (.a 0) ⟨.add, false, .die⟩, .sourceNone),
      (.ld false (.v 0) (.lit64 0) { plainMem with off := some 4 }, .secondLiteral),
      (.ld false (.v 0) (.a 0) { plainMem with wid := .rsvd }, .widthCode),
      (.st false (.v 0) (.a 0) { plainMem with wid := .s8 }, .widthCode), (.st false (.v 0) (.a 0) { plainMem with wid := .s16 }, .widthCode),
      (.ldl false (.v 0) (.v 1) { plainMem with cache := .stream }, .cacheOnLocal), (.copyLin false (.v 0) (.s 0), .fieldClass),
      (.copyLin false (.s 0) (.v 0), .fieldClass), (.trace false (.s 0), .fieldClass), (.spawn false (.s 0) (.v 0), .fieldClass),
      (.jmpI false .none, .sourceNone), (.jmpI false .lane, .operandCode)] : List (Instr × Reject)).all
      (fun x => x.1.check == some x.2 && !x.1.wf) = true := by decide

/-- Words that are no instruction are rejected by name: an unlisted FN and K, a bit that must be zero, an unread field, an atomic
operation that is not assigned, `grd` with E = 1, too few halfwords, a stream mop that is not assigned (R275, R276, R286 to R290, R293). -/
theorem test_decode_rejects :
    ([([0x03CD, 0x0D05], .unassignedFn), ([0x03D1, 0x3005], .unassignedFn), ([0xFFF5, 0x3000], .unassignedK),
      ([0x00E1, 0x0008], .nonzeroReserved), ([0x80E9, 0x0000], .nonzeroReserved), ([0x00D9, 0x00FF], .unreadField),
      ([0x04C5, 0xA08A], .atomCode), ([0x01E3, 0x0000], .guardRunEnd), ([0x14B5, 0x07C4], .widthCode), ([0x0001], .short), ([], .short)]
      : List (List Half × Reject)).all (fun x => decode x.1 == .reject x.2) = true ∧
    decodeStream 0x3E = .reject .unassignedMop := by decide

/-- The encoder writes the words of the spec's examples, literals in the halfwords that follow (R271, R282, R312). -/
theorem test_encode_words :
    encode (.nop false) = [0xFFD9, 0x00FF] ∧ encode (.dp4aS false (.v 10) (.v 11) (.v 12)) = [0x0A7D, 0x0C0B] ∧
    encode (.jmpI false (.lit64 0x123456789)) = [0xFFD9, 0x05E2, 0x6789, 0x2345, 0x0001, 0x0000] ∧
    encode (.spawn false (.v 40) (.v 16)) = [0x28F5, 0x0110] := by decide

/-! ## The hypotheses of the statements are met -/
open Machine

/-- Some view meets the conditions of issue for an instruction, calmly, and passes a test: the hypotheses of an instruction's
statement together. -/
def Machine.State.Meets (s : State) (f : Form) (bad cls : View → Bool) (p : View → Bool) : Prop :=
  ∃ w, s.Issues f bad cls w ∧ w.Calm ∧ p w = true

/-- No further condition. -/
def noTest : View → Bool := fun _ => true

theorem meets {s : State} {f : Form} {bad cls p : View → Bool} (h : s.goesWith f bad cls p = true) : s.Meets f bad cls p :=
  State.goesWith_issues h

theorem meetsAll {α : Type} {l : List α} {s : State} {f : α → Form} {bad cls p : α → View → Bool}
    (h : l.all (fun c => s.goesWith (f c) (bad c) (cls c) (p c)) = true) : ∀ c ∈ l, s.Meets (f c) (bad c) (cls c) (p c) :=
  fun c hc => State.goesWith_issues (List.all_eq_true.mp h c hc)

/-- A block of one general group of a grid launch on a cluster with a matrix engine, its slot 0 in turn, its sequencer Idle. -/
def tst : State := { State.reset.withFetchWord 32 1 with cur := ⟨2, 0⟩ }

/-- The same with its group changed. -/
def tstG (up : Group → Group) : State := tst.modGroup ⟨2, 0⟩ up

/-- Slot 0 with other active lanes. -/
def lanesG (m : Mask) (g : Group) : Group := { g with slot0 := { g.slot0 with mask := m } }

theorem wit_integerTwoSource : ∀ c ∈ integerTwo,
    tst.Meets (formTwo 4 false (.v 127) (.v 0) (.s 63) c.reads) noCheck (c.clsBad (.v 127) (.v 0) (.s 63)) noTest :=
  meetsAll (by decide)
theorem wit_integerTwoSource_s : ∀ c ∈ integerTwo,
    tst.Meets (formTwo 8 true (.s 63) (.s 0) (.lit32 5) c.reads) noCheck (c.clsBad (.s 63) (.s 0) (.lit32 5)) noTest :=
  meetsAll (by decide)
theorem wit_integerTwoSource_none : ∀ c ∈ integerTwo, c.reads = false →
    tst.Meets (formTwo 4 false .none (.v 0) .zero c.reads) noCheck (c.clsBad .none (.v 0) .zero) noTest := by
  have h := meetsAll (s := tst) (l := integerTwo.filter (fun c => !c.reads)) (f := fun c => formTwo 4 false .none (.v 0) .zero c.reads)
    (bad := fun _ => noCheck) (cls := fun c => c.clsBad .none (.v 0) .zero) (p := fun _ => noTest) (by decide)
  exact fun c hc hr => h c (by simp [hc, hr])
theorem wit_sixteenBitForms : ∀ c ∈ shortForms,
    tst.Meets (formTwo 2 false (short 31) (short 31) (short 0) false) noCheck (plainClasses (short 31) (short 31) (short 0)) noTest :=
  fun _ _ => meets (by decide)
theorem wit_sixteenBitMove : tst.Meets { len := 2, e := true, srcs := [short 0], dsts := [short 31] } noCheck noCheck noTest :=
  meets (by decide)

/-- An affine source with the greatest stride, and one with the least. -/
def steepG (g : Group) : Group := { g with a := (g.a.set 1 ⟨5, 0x7FFFFFFF⟩).set 2 ⟨7, 0x80000000⟩ }

/-- With v2 = 3 in S, the largest stride that a result holds, and one more (R189). -/
theorem wit_affineTwoSource_fits : ∀ c ∈ affineTwo, (tstG steepG).Meets (formTwo 4 false (.a 31) (.a 1) .zero false) noCheck
    (c.clsBad (.a 31) (.a 1) .zero)
    (fun w => decide (-(2 ^ 31 : Int) ≤ c.stride w (.a 1) .zero ∧ c.stride w (.a 1) .zero < (2 ^ 31 : Int))) :=
  meetsAll (by decide)
theorem wit_affineTwoSource_over :
    (tstG steepG).Meets (formTwo 4 false (.a 31) (.a 1) .lane false) noCheck (affineClasses (.a 31) (.a 1) .lane)
      (fun w => decide ¬(-(2 ^ 31 : Int) ≤ (w.aval (.a 1)).stride.toInt + (w.aval .lane).stride.toInt ∧
        (w.aval (.a 1)).stride.toInt + (w.aval .lane).stride.toInt < (2 ^ 31 : Int))) := meets (by decide)

theorem wit_integerUnary : ∀ c ∈ integerOne, tst.Meets (formOne false (.v 0) (.v 127)) noCheck (oneClasses (.v 0) (.v 127)) noTest :=
  fun _ _ => meets (by decide)
theorem wit_pack : ∀ c ∈ packForms, tst.Meets { len := 4, e := false, srcs := opndRun (.v (Fin.ofNat 128 (128 - c.n))) c.n, dsts := [.v 0] }
    (fun _ => !opndRunOk (.v (Fin.ofNat 128 (128 - c.n))) c.n) (oneClasses (.v 0) (.v (Fin.ofNat 128 (128 - c.n)))) noTest :=
  meetsAll (by decide)
theorem wit_unpack : ∀ c ∈ unpackForms, tst.Meets { len := 4, e := false, srcs := [.s 0], dsts := opndRun (.s (Fin.ofNat 64 (64 - c.n))) c.n }
    (fun _ => !opndRunOk (.s (Fin.ofNat 64 (64 - c.n))) c.n) (oneClasses (.s (Fin.ofNat 64 (64 - c.n))) (.s 0)) noTest :=
  meetsAll (by decide)
theorem wit_moveBetweenClasses : ∀ d ∈ [Opnd.a 31, .v 0, .s 0, .none],
    tst.Meets (formOne false d (.s 63)) noCheck (fun w => !w.clsRule d [.s 63] true) noTest := meetsAll (by decide)
theorem wit_broadcastScalar : (tstG (fun g => { g with emask := 0x80000000, slot0 := { g.slot0 with mask := 0x80000000 } })).Meets
    (formOne false (.s 63) (.v 127)) noCheck (fun _ => notS (.s 63))
    (fun w => w.g.emask.getLsbD 31 && (List.range 31).all (fun i => !w.g.emask.getLsbD i)) := meets (by decide)
theorem wit_extractAffine : ∀ d ∈ [Opnd.a 31, .none], (tst.Meets (formOne false d .lane) noCheck (fun _ => match d with
      | .v _ => true
      | .s _ => true
      | _ => false) (fun w => (w.affxValue .lane).isSome) ∧
    (tstG (fun g => { g with v := g.v.set 5 ((Vector.replicate 32 0).set 9 1) })).Meets (formOne false d (.v 5)) noCheck (fun _ => match d with
      | .v _ => true
      | .s _ => true
      | _ => false) (fun w => (w.affxValue (.v 5)).isNone)) := by
  intro d hd
  simp only [List.mem_cons, List.mem_nil_iff, or_false] at hd
  rcases hd with rfl | rfl
  · exact ⟨meets (by decide), meets (by decide)⟩
  · exact ⟨meets (by decide), meets (by decide)⟩

theorem wit_floatTwoSource : ∀ c ∈ floatTwo,
    tst.Meets (formTwo 4 false (.v 127) (.v 0) (.s 63) c.reads) noCheck (c.clsBad (.v 127) (.v 0) (.s 63)) noTest :=
  meetsAll (by decide)
theorem wit_floatUnary : tst.Meets (formOne false (.s 0) (.s 63)) noCheck (oneClasses (.s 0) (.s 63)) noTest := meets (by decide)
theorem wit_floatNarrow : tst.Meets { len := 4, e := false, srcs := opndRun (.v 126) 2, dsts := [.v 0] } (fun _ => !opndRunOk (.v 126) 2)
    (oneClasses (.v 0) (.v 126)) noTest := meets (by decide)

theorem wit_compares : tst.Meets { len := 8, e := false, srcs := [.v 0, .lit32 7], pdst := some (.p 95) } noCheck noCheck noTest :=
  meets (by decide)
theorem wit_predicates : tst.Meets { len := 4, e := false, preds := [.tru, .p 95], pdst := some (.p 0) } noCheck noCheck noTest :=
  meets (by decide)
theorem wit_votes : tst.Meets { len := 4, e := false, preds := [.p 95], dsts := [.s 0] } noCheck (fun _ => isA (.s 0)) noTest :=
  meets (by decide)
theorem wit_laneExchanges_sel : tst.Meets (formTwo 4 false (.v 0) (.v 1) (.v 2) false) noCheck (fun w => match Opnd.v 0 with
      | .s _ => !w.atMost .s (.v 2)
      | .a _ => true
      | _ => false) noTest := meets (by decide)
theorem wit_laneExchanges_selS : tst.Meets (formTwo 4 false (.s 0) (.v 1) (.s 2) false) noCheck (fun w => match Opnd.s 0 with
      | .s _ => !w.atMost .s (.s 2)
      | .a _ => true
      | _ => false) noTest := meets (by decide)
theorem wit_laneExchanges_flip :
    tst.Meets { len := 4, e := false, srcs := [.v 1, .s 2], dsts := [.v 127] } noCheck (fun _ => notV (.v 127)) noTest := meets (by decide)
theorem wit_laneExchanges_quads :
    tst.Meets { len := 4, e := false, srcs := [.v 1], dsts := [.v 127] } noCheck (fun _ => notV (.v 127)) noTest := meets (by decide)
theorem wit_reductions : tst.Meets (formOne false (.s 63) (.v 1)) noCheck (fun _ => isA (.s 63)) noTest := meets (by decide)
theorem wit_scans : (tstG (lanesG 0x80000001)).Meets (formOne false (.v 63) (.v 1)) noCheck (fun _ => notV (.v 63)) noTest :=
  meets (by decide)
theorem wit_rebalance_load : tst.Meets (formOne false (.v 127) (.v 1)) noCheck (fun _ => notV (.v 127)) noTest := meets (by decide)
theorem wit_rebalance_next : tst.Meets { len := 4, e := false, srcs := [.s 1], dsts := opndRun (.v 126) 2 } (fun _ => !opndRunOk (.v 126) 2)
    (fun w => notV (.v 126) || !w.atMost .s (.s 1)) noTest := meets (by decide)
theorem wit_rebalance_none : tst.Meets (formOne false .none (.v 1)) noCheck (fun _ => notV .none) noTest := meets (by decide)

/-! ### Control -/

/-- v126 and v127 of the lanes differ, or agree. -/
def linkG (f : Fin 32 → Word) (g : Group) : Group := { g with v := g.v.set 126 (Vector.ofFn f) }

theorem wit_branchesAndCalls_bra : tst.Meets { len := 4, e := true } noCheck noCheck noTest := meets (by decide)
theorem wit_branchesAndCalls_brs_zero :
    tst.Meets { len := 4, e := false, srcs := [.s 63] } noCheck noCheck (fun w => w.sval (.s 63) == 0) := meets (by decide)
theorem wit_branchesAndCalls_brs_not : (tstG (fun g => { g with s := g.s.set 0 1 })).Meets
    { len := 4, e := false, srcs := [.s 0] } noCheck noCheck (fun w => w.sval (.s 0) != 0) := meets (by decide)
theorem wit_branchesAndCalls_jmp : ∀ x ∈ [Opnd.a 31, .lit64 6, .s 62, .s 0],
    tst.Meets { len := opLen [x], e := false, srcs := indirectSrcs x } (fun _ => badTarget x) (fun _ => isV x) noTest :=
  meetsAll (by decide)
theorem wit_branchesAndCalls_call : tst.Meets { len := 4, e := false, impl := linkRegs } noCheck noCheck noTest := meets (by decide)
theorem wit_branchesAndCalls_callI : ∀ x ∈ [Opnd.a 31, .lit64 6, .s 62],
    tst.Meets { len := opLen [x], e := false, srcs := indirectSrcs x, impl := linkRegs } (fun _ => badTarget x) (fun _ => isV x) noTest :=
  meetsAll (by decide)
theorem wit_branchesAndCalls_ret : (tstG (linkG (fun _ => 0x20))).Meets { len := 4, e := false, impl := linkRegs } noCheck noCheck
    (fun w => w.sl.mask.getLsbD 31 && decide (∀ j : Fin 32, w.sl.mask.getLsbD j.val = true →
      w.g.v[127][j] ++ w.g.v[126][j] = w.g.v[127][(31 : Fin 32)] ++ w.g.v[126][(31 : Fin 32)])) := meets (by decide)
theorem wit_branchesAndCalls_ret_mixed : (tstG (linkG (fun i => if i = 0 then 2 else 0))).Meets { len := 4, e := false, impl := linkRegs }
    noCheck noCheck (fun w => w.sl.mask.getLsbD 31 && decide ¬(∀ j : Fin 32, w.sl.mask.getLsbD j.val = true →
      w.g.v[127][j] ++ w.g.v[126][j] = w.g.v[127][(31 : Fin 32)] ++ w.g.v[126][(31 : Fin 32)])) := meets (by decide)

/-- A sibling in a state at an address, with lane 31, slot 0 keeping the others; the stack at a depth; spilled entries. -/
def twoG (st : SlotState) (pc : DWord) (sd sc : Nat) (g : Group) : Group :=
  { g with slot0 := { g.slot0 with mask := 0x7FFFFFFF }, slot1 := { Slot.readyAt pc 0x80000000 with st := st }, sd := sd, sc := sc }

/-- A predicate that holds in some lanes. -/
def predG (m : Mask) (g : Group) : Group := { g with p := g.p.set 95 m }

/-- The four ways of a `brv`: every lane goes, none, some with a Free sibling, some with a live one and room or a full stack. -/
theorem wit_divergence :
    (tstG (predG 0xFFFFFFFF)).Meets { len := 4, e := false, preds := [.p 95], kind := .brv } View.inHandler noCheck
      (fun w => w.g.sd ≤ 16 && (w.act &&& w.g.predMask (.p 95)) == w.sl.mask) ∧
    tst.Meets { len := 4, e := false, preds := [.p 95], kind := .brv } View.inHandler noCheck
      (fun w => w.g.sd ≤ 16 && (w.act &&& w.g.predMask (.p 95)) == 0 && w.sl.mask != 0) ∧
    (tstG (predG 1)).Meets { len := 4, e := false, preds := [.p 95], kind := .brv } View.inHandler noCheck
      (fun w => w.g.sd ≤ 16 && (w.act &&& ~~~(w.g.predMask (.p 95))) == 0xFFFFFFFE && (w.g.slot (sib w.n)).st == .free) ∧
    (tstG (fun g => twoG .wait 0x10040 15 0 (predG 1 g))).Meets { len := 4, e := false, preds := [.p 95], kind := .brv } View.inHandler noCheck
      (fun w => (w.act &&& w.g.predMask (.p 95)) == 1 && (w.g.slot (sib w.n)).st != .free && w.g.sd == 15) ∧
    (tstG (fun g => twoG .wait 0x10040 16 0 (predG 1 g))).Meets { len := 4, e := false, preds := [.p 95], kind := .brv } View.inHandler noCheck
      (fun w => (w.act &&& w.g.predMask (.p 95)) == 1 && (w.g.slot (sib w.n)).st != .free && w.g.sd == 16) :=
  ⟨meets (by decide), meets (by decide), meets (by decide), meets (by decide), meets (by decide)⟩

/-- The ways of a `join`: a Free sibling with spilled entries below an empty stack, with none, with a full stack; the sibling at the
same `join`, at another; a sibling elsewhere. -/
theorem wit_reconvergence :
    let f : Form := { len := 4, e := true, ends := true }
    (tstG (fun g => { g with sc := 1 })).Meets f View.inHandler noCheck
      (fun w => w.g.sd == 0 && w.g.sc != 0 && (w.g.slot (sib w.n)).st == .free) ∧
    (tstG (fun g => { g with sc := 1, sd := 16 })).Meets f View.inHandler noCheck (fun w => (w.g.slot (sib w.n)).st == .free && w.g.sd == 16) ∧
    tst.Meets f View.inHandler noCheck (fun w => (w.g.slot (sib w.n)).st == .free && w.g.sd == 0 && w.g.sc == 0) ∧
    (tstG (twoG .join 0x10000 0 0)).Meets f View.inHandler noCheck
      (fun w => (w.g.slot (sib w.n)).st == .join && (w.g.slot (sib w.n)).pc == w.sl.pc && w.g.sc == 0) ∧
    (tstG (twoG .join 0x10040 0 0)).Meets f View.inHandler noCheck
      (fun w => (w.g.slot (sib w.n)).st == .join && (w.g.slot (sib w.n)).pc != w.sl.pc) ∧
    (tstG (twoG .join 0x10000 0 1)).Meets f View.inHandler noCheck
      (fun w => (w.g.slot (sib w.n)).st == .join && (w.g.slot (sib w.n)).pc == w.sl.pc && w.g.sd == 0 && w.g.sc != 0) ∧
    (tstG (twoG .ready 0x10040 3 0)).Meets f View.inHandler noCheck (fun w => (w.g.slot (sib w.n)).st == .ready) :=
  ⟨meets (by decide), meets (by decide), meets (by decide), meets (by decide), meets (by decide), meets (by decide), meets (by decide)⟩

/-- The ways of an `exit`: no active lane; some lanes stay; all go, with a sibling in Join, Free or elsewhere; the group is left empty. -/
theorem wit_laneExit :
    let f : Form := { len := 4, e := false, ends := true }
    (tstG (lanesG 0)).Meets f View.inHandler noCheck (fun w => w.act == 0 && w.g.sd == 0 && w.g.sc == 0) ∧
    (tstG (fun g => { g with slot0 := { g.slot0 with gleft := 1, gmask := 1 } })).Meets f View.inHandler noCheck
      (fun w => w.act == 1 && (w.sl.mask &&& ~~~w.act) != 0) ∧
    (tstG (twoG .join 0x10040 16 1)).Meets f View.inHandler noCheck
      (fun w => (w.sl.mask &&& ~~~w.act) == 0 && (w.g.emask &&& ~~~w.act) != 0 && (w.g.slot (sib w.n)).st == .join && w.g.sd == 16) ∧
    (tstG (twoG .wait 0x10040 1 0)).Meets f View.inHandler noCheck
      (fun w => (w.sl.mask &&& ~~~w.act) == 0 && (w.g.emask &&& ~~~w.act) != 0 && (w.g.slot (sib w.n)).st == .wait) ∧
    (tstG (fun g => { lanesG 0x7FFFFFFF g with sd := 1 })).Meets f View.inHandler noCheck
      (fun w => (w.sl.mask &&& ~~~w.act) == 0 && (w.g.emask &&& ~~~w.act) != 0 && (w.g.slot (sib w.n)).st == .free && w.g.sd == 1) ∧
    tst.Meets f View.inHandler noCheck (fun w => w.act != 0 && (w.g.emask &&& ~~~w.act) == 0) :=
  ⟨meets (by decide), meets (by decide), meets (by decide), meets (by decide), meets (by decide), meets (by decide)⟩

theorem wit_nopYieldBarrier :
    tst.Meets { len := 4, e := false } noCheck noCheck noTest ∧ tst.Meets { len := 4, e := false, ends := true } noCheck noCheck noTest ∧
    (tstG (lanesG 0)).Meets { len := 8, e := false, srcs := [.lit32 1] } noCheck (fun w => !w.atMost .s (.lit32 1)) (fun w => w.act == 0) ∧
    tst.Meets { len := 4, e := false, srcs := [.s 63] } noCheck (fun w => !w.atMost .s (.s 63)) (fun w => w.act != 0) ∧
    tst.Meets { len := 4, e := false, barrier := true, ends := true } View.inHandler noCheck noTest :=
  ⟨meets (by decide), meets (by decide), meets (by decide), meets (by decide), meets (by decide)⟩
theorem wit_guardSpan : tst.Meets { len := 4, e := false, guardOf := some (.p 95) } (fun w => w.sl.gleft != 0) noCheck noTest :=
  meets (by decide)

/-- A group in the handler whose saved slots are as `wit_reloadedSlot` has them. -/
def handlerG (g : Group) : Group :=
  { g with hm := true, slot1 := Slot.free, cause := 0x07, save0 := ⟨0x10040, 0x7FFFFFFF, 2, 7, 1⟩, save1 := ⟨0x10080, 0x80000000, 3, 0, 0⟩ }

theorem wit_trapsAndReturn :
    (tstG (lanesG 0)).Meets { len := 4, e := false, srcs := [.s 0] } noCheck (fun w => !w.atMost .s (.s 0)) (fun w => w.act == 0) ∧
    tst.Meets { len := 4, e := false, srcs := [.inl 14] } noCheck (fun w => !w.atMost .s (.inl 14)) (fun w => w.act != 0) ∧
    tst.Meets { len := 4, e := false } noCheck noCheck noTest ∧
    (tstG handlerG).Meets { len := 4, e := false, ends := true } (fun w => !w.g.hm) noCheck
      (fun w => w.g.rteOk && (w.g.cause.extractLsb' 0 8).toNat != 1 && (w.g.cause.extractLsb' 0 8).toNat != 5) ∧
    (tstG (fun g => { handlerG g with save1 := ⟨0x10080, 1, 3, 0, 0⟩ })).Meets { len := 4, e := false, ends := true } (fun w => !w.g.hm) noCheck
      (fun w => !w.g.rteOk) :=
  ⟨meets (by decide), meets (by decide), meets (by decide), meets (by decide), meets (by decide)⟩
theorem wit_reloadedSlot : (tstG handlerG).group? ⟨2, 0⟩ ≠ none ∧ ∀ g, (tstG handlerG).group? ⟨2, 0⟩ = some g → g.rteOk = true := by
  have h : ((tstG handlerG).group? ⟨2, 0⟩).map Group.rteOk = some true := by decide
  exact ⟨fun e => by simp [e] at h, fun g e => by simpa [e] using h⟩

/-! ### Status and debug registers, fences, waits -/

theorem wit_statusRegisters :
    tst.Meets { len := 4, e := false, dsts := [.s 63] } (fun w => w.badStatus 0x18) (fun _ => !isS (.s 63) && Opnd.s 63 != .none) noTest ∧
    (tstG handlerG).Meets { len := 4, e := false, dsts := [.none] } (fun w => w.badStatus 0x12)
      (fun _ => !isS .none && Opnd.none != .none) noTest ∧
    (tstG handlerG).Meets { len := 8, e := false, srcs := [.lit32 0xFFFFFFFF] } (fun w => w.badStatus 0x10)
      (fun w => !w.atMost .s (.lit32 0xFFFFFFFF)) (fun w => w.g.hm) ∧
    tst.Meets { len := 4, e := true, srcs := [.s 0] } (fun w => w.badStatus 0) (fun w => !w.atMost .s (.s 0)) (fun w => !w.g.hm) ∧
    srListed 0x80 = true ∧ srListed 0x18 = true :=
  ⟨meets (by decide), meets (by decide), meets (by decide), meets (by decide), by decide, by decide⟩
theorem wit_debugRegistersAndClk :
    (tstG handlerG).Meets { len := 4, e := false, dsts := [.s 60] } (fun w => w.badDebug 0x9F) (fun _ => !isS (.s 60) && Opnd.s 60 != .none)
      noTest ∧
    (tstG handlerG).Meets { len := 4, e := false, srcs := [.s 0] } (fun w => w.badDebug 0) (fun w => !w.atMost .s (.s 0)) noTest ∧
    (regOf false (.s 62) = some (.s 62) ∧ regOf false (.s 63) = some (.s 63)) ∧
    tst.Meets { len := 4, e := false, dsts := opndRun (.s 62) 2 } (fun _ => !opndRunOk (.s 62) 2) noCheck noTest ∧
    tst.Meets { len := 4, e := false, dsts := opndRun (.v 126) 2 } (fun _ => !opndRunOk (.v 126) 2) noCheck noTest ∧
    tst.Meets { len := 4, e := false, dsts := opndRun .none 2 } (fun _ => !opndRunOk .none 2) noCheck noTest :=
  ⟨meets (by decide), meets (by decide), by decide, meets (by decide), meets (by decide), meets (by decide)⟩

/-- A load of the group that has not returned. -/
def aLoad : OpBody := .load [] .w32 (.v 0) .normal .plain false false

theorem wit_fencesAndWait_issue : ∀ c ∈ fences, tst.Meets { len := 4, e := false } noCheck noCheck
    (fun w => w.s.fenceHolds w.k c.2 w.s.ops && !(c.2 == .sys && w.s.regs.l2cfg.mode)) := meetsAll (by decide)
theorem wit_fencesAndWait_held : ∀ c ∈ fences, (tst.addOp ⟨2, 0⟩ 0 aLoad).Meets { len := 4, e := false } noCheck noCheck
    (fun w => !w.s.fenceHolds w.k c.2 w.s.ops) := meetsAll (by decide)
theorem wit_fencesAndWait_wait :
    (tstG (fun g => { g with ldCnt := 63 })).Meets { len := 4, e := false, ends := true } noCheck noCheck (fun w => w.g.ldCnt == 63) ∧
    (tstG (fun g => { g with tlCnt := 1 })).Meets { len := 4, e := false, ends := true } noCheck noCheck (fun w => w.g.tlCnt == 1) :=
  ⟨meets (by decide), meets (by decide)⟩

/-- A slot that waits for a reason behind a piece of work of the group. -/
def waiting (b : OpBody) (r : WaitReason) : State :=
  let s := (tstG (fun g => { g with slot0 := { g.slot0 with st := .wait, wait := some r } })).addOp ⟨2, 0⟩ 0 b
  s

theorem wit_fencesAndWait_complete :
    let s := waiting (.fence .pair) (.fence tst.ids)
    ∃ o b g, s.op? o.id = some o ∧ o.body = .fence .pair ∧ s.released o .pair = true ∧ (Scope.pair ≠ .sys ∨ s.regs.l2cfg.mode = false) ∧
      s.block? o.gk.block = some b ∧ b.st = .resident ∧ s.group? o.gk = some g ∧ (g.slot o.slot).st = .wait ∧
      (g.slot o.slot).wait = some (.fence o.id) ∧ o.slot < 2 := by
  refine ⟨⟨tst.ids, ⟨2, 0⟩, 0, _, .fence .pair⟩, _, _, rfl, rfl, by decide, by decide, rfl, rfl, rfl, by decide, by decide, by decide⟩

/-! ### Memory accesses and the work that follows them -/

/-- The group with affine addresses: a1 walks the mapped page by words, a2 is misaligned by 2, a3 lies outside it; a4 walks local
store; a5 leaves it from lane 16 on. -/
def addrG (g : Group) : Group :=
  { g with a := ((((g.a.set 1 ⟨0x10000, 16⟩).set 2 ⟨0x10002, 16⟩).set 3 ⟨0x20000, 16⟩).set 4 ⟨0, 16⟩).set 5 ⟨0, 64⟩ }

/-- The same in a block with 1,024 bytes of local store. -/
def tstA (up : Group → Group) : State := (tstG (fun g => up (addrG g))).modBlock 2 (fun b => { b with alloc := 1024 })

/-- The same in a reproducible context whose range is the page, line 0 owned by another block in this launch. -/
def tstOwned : State :=
  { (tstA id).modCtx 1 (fun c => { c with repro := true, rva := 0x10000, rlen := 0x10000, own := 0x20000 }) with
    dram := ⟨[(0x20000, 1), (0x20004, 0x77)]⟩ }

/-- The same with watchpoint 7 on the first word of the page, for loads, stores and atomics. -/
def tstWatched : State :=
  (tstA id).putAsid { (tst.asidInfo 1) with
    dbg := (((tst.asidInfo 1).dbg.set 0x78 0x10000).set 0x7A 0x10004).set 0x7C 0x80000007 }

/-- The form of a `ld`, its checks. -/
def ldForm (d x : Opnd) (m : MemFields) : Form :=
  { len := opLen [x] + (if m.off.isSome then 4 else 0), e := false, srcs := addrSrcs x, dsts := opndRun d (widthRegs m.wid), access := true }
/-- What a `ld` rejects. -/
def ldBad (d x : Opnd) (m : MemFields) (_ : View) : Bool :=
  badAddr true x || !opndRunOk d (widthRegs m.wid) || m.wid == .rsvd || (x.isLit && m.off.isSome)
/-- The form of a `st`. -/
def stForm (d x : Opnd) (m : MemFields) : Form :=
  { len := opLen [x] + (if m.off.isSome then 4 else 0), e := false, srcs := addrSrcs x ++ storeSrcs d m.wid, access := true }
/-- What a `st` rejects. -/
def stBad (d x : Opnd) (m : MemFields) (_ : View) : Bool :=
  badAddr true x || badStoreData d m.wid || m.wid == .rsvd || m.wid == .s8 || m.wid == .s16 || (x.isLit && m.off.isSome)
/-- The form of an `atom`. -/
def atForm (d x : Opnd) (f : AtomFields) : Form :=
  { len := opLen [x], e := false, srcs := addrSrcs x ++ atomSrcs d f.op, dsts := atomDsts d f, access := true }

/-- Whether the lanes' addresses translate to places, all of them, aligned. -/
def goodLanes (w : View) (u : Use) (bytes : Nat) (as : List (Nat × DWord)) : Option (List LaneAcc) :=
  if as.all (fun x => x.2.toNat % bytes == 0) then
    match w.xlateAll u as with
    | .inr accs => some accs
    | _ => none
  else none

/-- A wide load, the last registers of the class. -/
def wide : MemFields := { plainMem with wid := .w128, off := some 0 }

theorem wit_memoryAccesses_ld :
    (tstA (lanesG 0)).Meets (ldForm (.v 124) (.a 1) wide) (ldBad (.v 124) (.a 1) wide) (fun w => !w.clsRule (.v 124) [.a 1] false)
      (fun w => w.act == 0) ∧
    (tstA (fun g => { g with ldCnt := 63 })).Meets (ldForm (.v 0) (.a 1) plainMem) (ldBad (.v 0) (.a 1) plainMem)
      (fun w => !w.clsRule (.v 0) [.a 1] false) (fun w => w.act != 0 && w.g.ldCnt == 63) ∧
    (tstA id).Meets (ldForm (.v 124) (.a 2) wide) (ldBad (.v 124) (.a 2) wide) (fun w => !w.clsRule (.v 124) [.a 2] false)
      (fun w => ((w.addrs (.a 2) 0).find? (fun x => x.2.toNat % 16 != 0)).isSome) ∧
    (tstA (fun g => { g with ldCnt := 62 })).Meets (ldForm (.v 124) (.a 1) wide) (ldBad (.v 124) (.a 1) wide)
      (fun w => !w.clsRule (.v 124) [.a 1] false)
      (fun w => w.act != 0 && w.g.ldCnt == 62 && (match goodLanes w ⟨.load, w.g.hm, false⟩ 16 (w.addrs (.a 1) 0) with
        | some accs => (w.claims w.s accs).isSome && (w.watch 0 16 accs).isNone
        | none => false)) :=
  ⟨meets (by decide), meets (by decide), meets (by decide), meets (by decide)⟩
theorem wit_memoryAccesses_st :
    (tstA id).Meets (stForm (.v 0) (.a 3) plainMem) (stBad (.v 0) (.a 3) plainMem) (fun _ => wideA (.v 0) .w32)
      (fun w => w.act != 0 && (match w.xlateAll ⟨.store, w.g.hm, false⟩ (w.addrs (.a 3) 0) with
        | .inl (.walk _) => true
        | _ => false)) ∧
    { tstA id with tlb := [{ fetchTlb 1 with w := false }] }.Meets (stForm (.a 0) (.a 1) plainMem) (stBad (.a 0) (.a 1) plainMem)
      (fun _ => wideA (.a 0) .w32) (fun w => match w.xlateAll ⟨.store, w.g.hm, false⟩ (w.addrs (.a 1) 0) with
        | .inl (.fault _ _ _ _) => true
        | _ => false) ∧
    tstOwned.Meets (stForm .zero (.a 1) plainMem) (stBad .zero (.a 1) plainMem) (fun _ => wideA .zero .w32)
      (fun w => match goodLanes w ⟨.store, w.g.hm, false⟩ 4 (w.addrs (.a 1) 0) with
        | some accs => (w.claims w.s accs).isNone
        | none => false) ∧
    tstWatched.Meets (stForm (.v 0) (.a 1) plainMem) (stBad (.v 0) (.a 1) plainMem) (fun _ => wideA (.v 0) .w32)
      (fun w => w.g.stCnt == 0 && (match goodLanes w ⟨.store, w.g.hm, false⟩ 4 (w.addrs (.a 1) 0) with
        | some accs => (w.claims w.s accs).isSome && (w.watch 1 4 accs).isSome
        | none => false)) :=
  ⟨meets (by decide), meets (by decide), meets (by decide), meets (by decide)⟩
theorem wit_memoryAccesses_atom :
    (tstA (fun g => { g with ldCnt := 62, stCnt := 63 })).Meets (atForm (.v 124) (.a 1) ⟨.cas64, true, .sys⟩)
      (fun _ => badAddr true (.a 1) || badAtomData (.v 124) .cas64) (fun _ => atomCls (.v 124) ⟨.cas64, true, .sys⟩)
      (fun w => !w.atomFull ⟨.cas64, true, .sys⟩ && (goodLanes w ⟨.atomic, w.g.hm, atomOnHost .cas64⟩ 8 (w.addrs (.a 1) 0)).isSome) ∧
    (tstA (fun g => { g with stCnt := 63 })).Meets (atForm (.s 0) (.a 1) ⟨.add, false, .die⟩)
      (fun _ => badAddr true (.a 1) || badAtomData (.s 0) .add) (fun _ => atomCls (.s 0) ⟨.add, false, .die⟩)
      (fun w => w.act != 0 && w.atomFull ⟨.add, false, .die⟩) :=
  ⟨meets (by decide), meets (by decide)⟩

/-- Whether a lane's local access lies in the block's allocation and is aligned. -/
def inLocal (w : View) (bytes : Nat) (a : Nat × Nat) : Bool := a.2 + bytes ≤ w.b.alloc && a.2 % bytes == 0

theorem wit_localStoreAccesses_ldl :
    (tstA (fun g => { g with ldCnt := 62 })).Meets (formLdl false (.v 0) (.a 4) { plainMem with wid := .w128 })
      (fun _ => badAddr false (.a 4) || !opndRunOk (.v 0) 4 || Width.w128 == .rsvd || CachePol.normal != .normal || ((Opnd.a 4).isLit && false))
      (fun w => !w.clsRule (.v 0) [.a 4] false)
      (fun w => (w.localAddrs (.a 4) 0).all (inLocal w 16) && (w.localAddrs (.a 4) 0).getLast? == some (31, 496)) ∧
    (tstA id).Meets (formLdl false (.s 0) (.inl 1) plainMem)
      (fun _ => badAddr false (.inl 1) || !opndRunOk (.s 0) 1 || Width.w32 == .rsvd || CachePol.normal != .normal || ((Opnd.inl 1).isLit && false))
      (fun w => !w.clsRule (.s 0) [.inl 1] false)
      (fun w => (w.localAddrs (.inl 1) 0).all (fun x => x.2 + 4 ≤ w.b.alloc) &&
        ((w.localAddrs (.inl 1) 0).find? (fun x => x.2 % 4 != 0)).isSome) :=
  ⟨meets (by decide), meets (by decide)⟩
theorem wit_localStoreAccesses_stl :
    (tstA id).Meets (formStl false (.v 0) (.a 5) plainMem)
      (fun _ => badAddr false (.a 5) || badStoreData (.v 0) .w32 || Width.w32 == .rsvd || Width.w32 == .s8 || Width.w32 == .s16 ||
        CachePol.normal != .normal || ((Opnd.a 5).isLit && false)) (fun _ => wideA (.v 0) .w32)
      (fun w => let off := laneMask (((w.localAddrs (.a 5) 0).filter (fun a => w.b.alloc < a.2 + 4)).map (·.1))
        off == 0xFFFF0000 && ((w.localAddrs (.a 5) 0).filter (fun a => a.2 + 4 ≤ w.b.alloc)).all (inLocal w 4) &&
        (w.sl.mask &&& ~~~off) == 0xFFFF) := meets (by decide)
theorem wit_localStoreAccesses_atoml :
    (tstA id).Meets (formAtoml false (.v 126) (.a 4) ⟨.add, true, .die⟩)
      (fun _ => badAddr false (.a 4) || badAtomData (.v 126) .add) (fun _ => atomCls (.v 126) ⟨.add, true, .die⟩)
      (fun w => !w.atomFull ⟨.add, true, .die⟩ && (w.localAddrs (.a 4) 0).all (inLocal w 4)) := meets (by decide)

/-- A piece of work, its block and its group that meet a test. -/
def Machine.State.holdsWith (s : State) (id : Nat) (p : Op → Block → Group → Bool) : Bool :=
  match s.op? id with
  | some o => match s.block? o.gk.block, s.group? o.gk with
    | some b, some g => b.st == .resident && !g.ended && p o b g
    | _, _ => false
  | none => false

theorem holds {s : State} {id : Nat} {p : Op → Block → Group → Bool} (h : s.holdsWith id p = true) :
    ∃ o b g, o.id = id ∧ s.Holds o b g ∧ p o b g = true := by
  unfold State.holdsWith at h
  split at h
  · next o ho =>
    split at h
    · next b g hb hg =>
      simp only [Bool.and_eq_true, beq_iff_eq, Bool.not_eq_true'] at h
      have e : o.id = id := by
        have := List.find?_some ho
        simpa using this
      exact ⟨o, b, g, e, ⟨e ▸ ho, hb, hg, h.1.1, h.1.2⟩, h.2⟩
    · cases h
  · cases h

theorem holdsAll {α : Type} {l : List α} {s : α → State} {id : Nat} {p : α → Op → Block → Group → Bool}
    (h : l.all (fun x => (s x).holdsWith id (p x)) = true) : ∀ x ∈ l, ∃ o b g, o.id = id ∧ (s x).Holds o b g ∧ p x o b g = true :=
  fun x hx => holds (List.all_eq_true.mp h x hx)

/-- A state with one piece of work of the group. -/
def withOp (b : OpBody) : State := (tstA id).addOp ⟨2, 0⟩ 0 b
/-- Its number. -/
def opId : Nat := tst.ids

theorem wit_variableLatencyResults : ∀ k ∈ [VarKind.rdsr, .spawn, .rng, .clk],
    ∃ o b g, o.id = opId ∧ (withOp (.regs k [])).Holds o b g ∧ (o.body == .regs k []) = true := holdsAll (by decide)

/-- A byte of device memory and one of host memory. -/
def devLoc : Loc := ⟨.device, 0x30000⟩
/-- The byte of host memory. -/
def hostLoc : Loc := ⟨.hostCoh, 0x40⟩

/-- A line that a scatter replay of region 0 owns. -/
def ownedAt (s : State) (l : Loc) : State :=
  let r : Replay :=
    { id := 1000, part := 0, asid := 1, launch := 1, scatter := some (0, false, 0), tile := 0, items := [], started := true, stamp := 0,
      pages := [], owned := [l.lineLoc], stopped := false }
  { s with replays := [r] }

theorem wit_storesPerformed_leave :
    let s := withOp (.store [(devLoc, 1)] .normal .sys none false)
    s.holdsWith opId (fun o _ _ => s.mayLeave o && s.ops.find? (fun x => x.gk == ⟨2, 0⟩ && (match x.body with
      | .store _ _ _ none _ => true
      | _ => false)) == some o) = true := by decide
theorem wit_storesPerformed : ∀ x ∈ [(false, Order.plain), (true, .sys)],
    let s := withOp (.store [(hostLoc, 1), (hostLoc, 2)] .normal x.2 (some 5) x.1)
    ∃ o b g, o.id = opId ∧ s.Holds o b g ∧ (!s.earlierLeft g.core o.id 5 [hostLoc.lineLoc] && s.hostInOrder o [hostLoc] &&
      (x.2 == .plain || s.released o .die) && s.statusOf (s.agentFor o.gk (x.2 == .sys)) true [hostLoc] == .ok) = true :=
  holdsAll (by decide)
theorem wit_storesPerformed_owned :
    let s := ownedAt (withOp (.store [(devLoc, 1)] .normal .clu (some 5) false)) devLoc
    ∃ o b g, o.id = opId ∧ s.Holds o b g ∧ (!s.earlierLeft g.core o.id 5 [devLoc.lineLoc] && s.hostInOrder o [devLoc] &&
      s.released o .die && s.statusOf (s.agentFor o.gk false) true [devLoc] == .owned) = true := holds (by decide)
theorem wit_writesReachEveryReader :
    tst.regs.l2cfg.mode = false ∧ devLoc.kind = .device ∧ lineOf devLoc.pa = 0x600 ∧
    tst.persistOver (sliceShared (128 * 0x600)) 0x600 = none ∧
    (tst.l2Room (sliceShared (128 * 0x600)) 0x600 (tst.l2Kind .normal)).bind (·.2) = none ∧ tst.host.wf = true ∧ hostLoc.kind = .hostCoh := by
  refine ⟨by decide, by decide, by decide, by rfl, by rfl, by decide, by decide⟩
theorem wit_loadsReturn : ∀ pk ∈ [false, true],
    let s := withOp (.load [⟨31, 0x40, hostLoc⟩] .w128 (.v 124) .bypass .sys false pk)
    ∃ o b g, o.id = opId ∧ s.Holds o b g ∧ ((s.before o).all (fun x => !x.body.holdsMemory) &&
      s.acquireClear o (linesOfLocs (s.missLocs o [⟨31, 0x40, hostLoc⟩] 16 .bypass .sys)) &&
      s.statusOf (s.agentFor o.gk true) false (s.missLocs o [⟨31, 0x40, hostLoc⟩] 16 .bypass .sys) == .ok &&
      !(s.beforeSys (s.agentFor o.gk true) []).poisonIn (s.agentFor o.gk true) hostLoc 16 && (s.fifoByte o hostLoc).isNone && (s.leftByte g.core hostLoc).isNone &&
      !usesL1 hostLoc .bypass .sys) = true := holdsAll (by decide)
theorem wit_loadsReturn_owned :
    let s := ownedAt (withOp (.load [⟨0, 0x30000, devLoc⟩] .z8 (.v 0) .normal .plain false false)) devLoc
    ∃ o b g, o.id = opId ∧ s.Holds o b g ∧ ((s.before o).all (fun x => !x.body.holdsMemory) &&
      s.statusOf (s.agentFor o.gk false) false (s.missLocs o [⟨0, 0x30000, devLoc⟩] 1 .normal .plain) == .owned) = true := holds (by decide)
theorem wit_atomicsPerformed : ∀ x ∈ [(true, false), (false, true)],
    let s := withOp (.atomic [⟨0, hostLoc, 1, 0⟩, ⟨31, hostLoc, 2, 0⟩] .add x.1 .sys (.v 0) none x.2)
    ∃ o b g, o.id = opId ∧ s.Holds o b g ∧ ((s.before o).all (fun x => !x.body.holdsMemory) && s.released o .sys &&
      !s.earlierLeft g.core o.id s.ids [hostLoc.lineLoc] && s.hostInOrder o [hostLoc] &&
      s.statusOf (s.agentFor o.gk true) true [hostLoc] == .ok && !s.poisonIn (s.agentFor o.gk true) hostLoc 4) = true := holdsAll (by decide)
theorem wit_atomicsPerformed_owned :
    let s := ownedAt (withOp (.atomic [⟨0, devLoc, 1, 0⟩] .add64 true .die (.v 0) none false)) devLoc
    ∃ o b g, o.id = opId ∧ s.Holds o b g ∧ ((s.before o).all (fun x => !x.body.holdsMemory) && s.released o .die &&
      !s.earlierLeft g.core o.id s.ids [devLoc.lineLoc] && s.hostInOrder o [devLoc] &&
      s.statusOf (s.agentFor o.gk false) true [devLoc] == .owned) = true := holds (by decide)

/-- The local accesses, at the last bytes of the allocation. -/
def localBodies : List OpBody :=
  [.ldl [(0, 1008)] .w128 (.v 0) .plain false false, .stl [(1023, 7), (1023, 8)] .clu false, .stl [(1023, 7)] .plain true,
   .atoml [(31, 1016, 5, 0)] .add64 true .die (.v 0) false]
theorem wit_localAccessesPerformed : ∀ x ∈ localBodies, ∃ o b g, o.id = opId ∧ (withOp x).Holds o b g ∧
    (b.loc.wf && !o.body.localAddrs.isEmpty && ((withOp x).before o).all (fun x => !x.body.holdsLocal) &&
      ((o.body.localRelease).map ((withOp x).released o)).getD true && !o.body.localAddrs.any (fun a => b.locks.contains (lineOf a))) = true :=
  holdsAll (by decide)
theorem wit_localAccessesPerformed_locked : ∀ x ∈ localBodies, let s := (withOp x).modBlock 2 (fun b => { b with locks := [7] })
    ∃ o b g, o.id = opId ∧ s.Holds o b g ∧ (b.loc.wf && o.body.localAddrs.any (fun a => b.locks.contains (lineOf a))) = true :=
  holdsAll (by decide)

/-! ### Refills, barriers, walks, copies -/

/-- A slot that waits for a reason. -/
def waitG (r : WaitReason) (g : Group) : Group := { g with slot0 := { g.slot0 with st := .wait, wait := some r } }

theorem wit_refillsAndFixedWrites :
    ((tstG (waitG .refill)).group? ⟨2, 0⟩).map (fun g => ((g.slot 0).st, (g.slot 0).wait)) = some (.wait, some .refill) ∧
    ((tstG (fun g => { g with pend := [⟨.v 0, .var, 5, false⟩, ⟨.s 63, .fixed, 0, false⟩] })).group? ⟨2, 0⟩).map
      (fun g => g.pend.find? (fun p => p.kind == .fixed)) = some (some ⟨.s 63, .fixed, 0, false⟩) := by decide
theorem wit_barriersRelease_block :
    let s := tstG (waitG (.barBlk true))
    (s.block? 2).map (fun b => b.st == .resident && !b.barPh && (b.groups[0]?).map (fun g => ((g.slot 0).st, (g.slot 0).wait)) ==
      some (.wait, some (.barBlk true)) && b.groups.all (fun h => s.observedDone ⟨2, h.index⟩ h.seen)) = some true ∧
    s.ops = [] ∧ s.cmds = [] := by decide
theorem wit_barriersRelease_stage :
    let s := withOp (.stageArr 2 15)
    ∃ o b g, o.id = opId ∧ s.Holds o b g ∧ (o.body == .stageArr 2 15 && b.serial == 2 && s.released o .clu && (s.before o).all (fun x => !x.body.writesRegs)) = true := holds (by decide)

/-- A walk for the group's slot. -/
def walkState (va : DWord) : State :=
  let x : Walk := { id := 77, asid := 1, va := va, part := 0, core := 0, gk := ⟨2, 0⟩, slot := 0, lead := none }
  { tstG (waitG .walk) with walks := [x], dram := ⟨[(0x20000, 0x03), (0x20002, 0x03), (0x30010, 0x61), (0x30012, 0x01), (0x40000, 0x03), (0x40002, 0x02)]⟩ }

theorem wit_walksAndCodeFills_walk :
    let s := (walkState 0x20000).modCtx 1 (fun c => { c with root := 0x40000 })
    s.walks.find? (fun y => y.id == 77) ≠ none ∧ s.walks.all s.walkRuns = true ∧ (s.ctx? 1).map (fun c => match (s.walkFor 0 c 0x20000).1 with
      | .ok e => e.pbase == 0x10000 && e.w && e.x
      | _ => false) = some true ∧
    ((walkState 0x20000).ctx? 1).map (fun c => match ((walkState 0x20000).walkFor 0 c 0x20000).1 with
      | .fault f => f.cause == 0x20
      | _ => false) = some true ∧
    (s.group? ⟨2, 0⟩).map (fun g => ((g.slot 0).st, (g.slot 0).wait)) = some (.wait, some .walk) := by decide
theorem wit_walksAndCodeFills_code :
    let s : State := { tstG (fun g => { waitG .fetch g with slot0 := { (waitG .fetch g).slot0 with pc := 0x10100 } }) with
      tlb := [{ fetchTlb 1 with at_ := .part 0 }] }
    (⟨2, 0⟩, 0, 0x202) ∈ s.lineWaiters 0 1 ∧
    (match s.engineXlate (partOfCluster 0) 1 (BitVec.ofNat 64 (128 * 0x202)) ⟨.fetch, true, false⟩ with
      | (.ok l, u) => u.lineStatus ⟨some 1, false⟩ false l == .ok && !u.poisonIn ⟨some 1, false⟩ l 128
      | _ => false) = true := by decide
/-- Where nothing owns a line and the peer has no copies, every device line is to be had. -/
theorem statusOk {s : State} {a : Agent} {wr : Bool} {ls : List Loc} (hc : s.cmds = []) (hr : s.replays = []) (ht : s.mem.homeTxn = [])
    (hp : s.mem.peerOwned = []) (hd : s.mem.dir = []) (h : ∀ l ∈ ls, l.kind = .device) : s.statusOf a wr ls = .ok := by
  have key : ∀ x ∈ (linesOfLocs ls).map (s.lineStatus a wr), x = .ok := by
    intro x hx
    obtain ⟨l, hl, rfl⟩ := List.mem_map.mp hx
    simp only [linesOfLocs, List.mem_eraseDups, List.mem_map] at hl
    obtain ⟨m, hm, rfl⟩ := hl
    simp [State.lineStatus, State.owned, hc, hr, State.lineFree, Loc.lineLoc, h m hm, ht, hp, Caches.peerOwns, Caches.dirOf, hd]
  have no : ∀ y, y ≠ LineStatus.ok → ((linesOfLocs ls).map (s.lineStatus a wr)).contains y = false := by
    intro y hy
    rw [Bool.eq_false_iff]
    intro hcn
    exact hy (key y (by simpa using hcn))
  simp only [State.statusOf, no _ (by decide : LineStatus.lost ≠ .ok), no _ (by decide : LineStatus.owned ≠ .ok),
    no _ (by decide : LineStatus.busy ≠ .ok), no _ (by decide : LineStatus.viewMiss ≠ .ok), Bool.false_eq_true, if_false]
theorem wit_viewLinesFill :
    let w : Window := { en := true, cfmt := 1, dfmt := false, vfn := 0, gen := 3, err := 0, busy := false, code := 0x50000, scale := 0x60000,
                        view := 0x40000, pages := 1, tbl := 0, held := Vector.replicate 256 0 }
    let s0 := withOp (.load [⟨0, 0x40000, ⟨.view, 0x40000⟩⟩] .z16 (.v 0) .normal .plain false false)
    let s : State := { s0 with regs := { s0.regs with win := s0.regs.win.set 15 w } }
    (s.viewWants.filter (fun x => x.2.1 == 0x800)).head? = some (⟨some 1, false⟩, 0x800, .normal) ∧
    (s.windowAt (128 * 0x800)) = some (15, w) ∧ (s.viewSlice ⟨some 1, false⟩ (128 * 0x800)).isSome = true ∧
    ((s.viewSlice ⟨some 1, false⟩ (128 * 0x800)).bind (fun sl => s.l2Room sl 0x800 .normal)).isSome = true ∧
    s.statusOf Agent.device false (w.fillPlaces 0x800) = .ok := by
  refine ⟨by decide, by rfl, by decide, by decide, statusOk (by decide) (by decide) (by decide) (by decide) (by decide) ?_⟩
  intro l hl
  simp only [Window.fillPlaces, List.mem_map] at hl
  obtain ⟨_, _, rfl⟩ := hl
  rfl
theorem wit_deferredCauses :
    let c : Cause := { code := 0x19, sub := 0, tval := 0, slot := 1 }
    let d : Cause := { code := 3, sub := 0, tval := 0, slot := 1 }
    let s := tstG (fun g => { g with deferred := [d, c] })
    (s.ctx? 1).map Ctx.runs = some true ∧ (s.group? ⟨2, 0⟩).map (fun g => !g.hm && !g.stopped && !g.ended &&
      [0, 1].find? (fun n => (g.slot n).st == .ready && g.deferred.any (fun c => c.code != 3 || c.slot == n)) == some 0 &&
      g.deferred.find? (fun c => c.code != 3 || c.slot == 0) == some c) = some true ∧ s.entryHeld ⟨2, 0⟩ 1 c = false := by decide

theorem wit_copyCommandsIssue : ∀ c ∈ copyInstrs,
    (tstA (lanesG 0)).Meets (copyForm false (.s 63) (.s 0) c.2.1) (fun _ => !opndRunOk (.s 0) c.2.1) noCheck (fun w => w.act == 0) ∧
    (tstA (fun g => { g with cpCnt := 63 })).Meets (copyForm false .none (.s 56) c.2.1) (fun _ => !opndRunOk (.s 56) c.2.1) noCheck
      (fun w => w.act != 0 && w.g.cpCnt == 63) ∧
    (tstA (fun g => { g with cpCnt := 62 })).Meets (copyForm false (.s 63) (.s 0) c.2.1) (fun _ => !opndRunOk (.s 0) c.2.1) noCheck
      (fun w => w.act != 0 && w.g.cpCnt == 62 && w.s.engineLoad (engineOf w.b.cluster) == 0 &&
        (!c.2.2.1 || w.localReady (w.param (.s 0) 0).toNat 64)) := by
  intro c hc
  refine ⟨meetsAll (l := copyInstrs) (s := tstA (lanesG 0)) (f := fun c => copyForm false (.s 63) (.s 0) c.2.1) (bad := fun c _ => !opndRunOk (.s 0) c.2.1)
      (cls := fun _ => noCheck) (p := fun _ w => w.act == 0) (by decide) c hc,
    meetsAll (l := copyInstrs) (s := tstA (fun g => { g with cpCnt := 63 })) (f := fun c => copyForm false .none (.s 56) c.2.1)
      (bad := fun c _ => !opndRunOk (.s 56) c.2.1) (cls := fun _ => noCheck) (p := fun _ w => w.act != 0 && w.g.cpCnt == 63) (by decide) c hc,
    meetsAll (l := copyInstrs) (s := tstA (fun g => { g with cpCnt := 62 })) (f := fun c => copyForm false (.s 63) (.s 0) c.2.1)
      (bad := fun c _ => !opndRunOk (.s 0) c.2.1) (cls := fun _ => noCheck)
      (p := fun c w => w.act != 0 && w.g.cpCnt == 62 && w.s.engineLoad (engineOf w.b.cluster) == 0 &&
        (!c.2.2.1 || w.localReady (w.param (.s 0) 0).toNat 64)) (by decide) c hc⟩

/-- A copy of 128 bytes from local store to the mapped page. -/
def aCopy : CopyCmd :=
  { id := 900, gk := ⟨2, 0⟩, gid := 0, launch := 1, corr := 0, asid := 1, cluster := 0, engine := 0, hm := false, kind := 0, dst := 0x10080,
    src := 0, dls := false, sls := true, fr := false, sba := false, sb := 0, dcache := 0, ils := false, fut := 0, tok := .s 0,
    body := .lin 128, slot := 0, accepted := false, stamp := 0, seen := 0, status := 0, entries := 0, todo := [], buf := none, held := [], skip := 0, dpages := [],
    spages := [], owned := [], llines := [], stopped := false, rows := [], idxBad := false, watched := [] }

/-- A state with a copy command at the engine. -/
def withCopy (c : CopyCmd) : State := { tstA id with cmds := [c], tlb := [{ fetchTlb 1 with at_ := .part 0 }] }

theorem atEngine {c : CopyCmd} (h : (withCopy c).cmd? c.id = some c ∧ ((withCopy c).block? c.gk.block).map (·.st) = some .resident ∧
    ((withCopy c).group? c.gk).map (·.ended) = some false ∧ (withCopy c).ctxRuns c.asid = true) :
    ∃ b g, (withCopy c).AtEngine c b g := by
  obtain ⟨h1, h2, h3, h4⟩ := h
  cases hb : (withCopy c).block? c.gk.block with
  | none => simp [hb] at h2
  | some b =>
    cases hg : (withCopy c).group? c.gk with
    | none => simp [hg] at h3
    | some g => exact ⟨b, g, h1, hb, hg, by simpa [hb] using h2, by simpa [hg] using h3, h4⟩

/-- Commands at each boundary of acceptance: one misaligned past local store, one that writes nothing, one to be accepted. -/
theorem wit_copiesAccepted :
    (∀ c ∈ [aCopy, { aCopy with src := 1000 }, { aCopy with body := .lin 0 }], (∃ b g, (withCopy c).AtEngine c b g) ∧ c.accepted = false ∧
      (withCopy c).groupDone c.gk c.id c.seen = true ∧ (∀ x ∈ (withCopy c).cmds, x.engine = c.engine → x.id < c.id → x.accepted = true) ∧
      (withCopy c).gathRows c 1024 = .ok (withCopy c) [] ∧ (withCopy c).copyClaimStop c = none ∧ ((withCopy c).copyClaims c).isSome = true) ∧
    { aCopy with src := 1000 }.refusal 1024 = 2 ∧ aCopy.refusal 1024 = 0 ∧ { aCopy with body := .lin 0 }.refusal 1024 = 0 ∧
    { aCopy with body := .lin 0 }.empty = true ∧ aCopy.empty = false ∧
    (match (withCopy aCopy).acceptPages aCopy [] aCopy.destVas with
      | .inr (_, pages) => aCopy.entriesFor (aCopy.linesOwned pages) ≤ 8 &&
          (aCopy.linesOwned pages).all (fun o => (withCopy aCopy).lineFree aCopy.agent true o.loc == .ok)
      | .inl _ => false) = true := by
  refine ⟨?_, by decide, by decide, by decide, by decide, by decide, by decide⟩
  intro c hc
  simp only [List.mem_cons, List.mem_nil_iff, or_false] at hc
  rcases hc with rfl | rfl | rfl
  · exact ⟨atEngine (by decide), by decide, by decide, by decide, by rfl, by rfl, by decide⟩
  · exact ⟨atEngine (by decide), by decide, by decide, by decide, by rfl, by rfl, by decide⟩
  · exact ⟨atEngine (by decide), by decide, by decide, by decide, by rfl, by rfl, by decide⟩

/-- The accepted command before its line is read, between, with two lines to do, and at its end. -/
theorem wit_copiesMove :
    (let c := { aCopy with accepted := true, todo := [0x201] }
     (∃ b g, (withCopy c).AtEngine c b g) ∧ (withCopy c).copyWorks c = true ∧
     let ws := (c.lineRefs 0x201).map (fun x => (0, x.1))
     (match (withCopy c).unitPages c { writes := ws, src := c.indexAddrs (c.lineRefs 0x201), dst := [], loc := [] } with
       | .ok s1 c1 => (match s1.unitPages c1 { writes := ws, src := [], dst := [],
                                               loc := (c.lineRefs 0x201).filterMap (fun x => s1.refAddr c1 x.2) } with
         | .ok s2 c2 => c2.id == c.id && (s2.cmd? c.id).isSome
         | _ => false)
       | _ => false) = true) ∧
    (let c := { aCopy with accepted := true, todo := [] }
     (∃ b g, (withCopy c).AtEngine c b g) ∧ (withCopy c).copyWorks c = true) ∧
    (let c := { aCopy with body := .lin 129, accepted := true, todo := [0x201, 0x202], buf := some ((upFrom 0x10080 128).map (fun a => (0, a, 9))),
                           dpages := [(1, ⟨.device, 0x10000⟩)] }
     (∃ b g, (withCopy c).AtEngine c b g) ∧ (withCopy c).copyWorks c = true ∧
     (withCopy c).copyMayPut { c with todo := [0x202] } ((upFrom 0x10080 128).map (fun a => (0, a, 9))) = .ok) ∧
    (let c := { aCopy with body := .red 33 1 0 0 0x10200 0x10400, accepted := true, todo := [0, 1] }
     (∃ b g, (withCopy c).AtEngine c b g) ∧ (withCopy c).copyWorks c = true ∧
     (match (withCopy c).unitPages c (c.redRefs 33 1 0 0x10200 0x10400 0) with
       | .ok s1 c1 => c1.id == c.id && (s1.cmd? c.id).isSome
       | _ => false) = true) := by
  refine ⟨⟨atEngine (by decide), by decide, by decide⟩, ⟨atEngine (by decide), by decide⟩, ⟨atEngine (by decide), by decide, by decide⟩,
    ⟨atEngine (by decide), by decide, by decide⟩⟩

/-! ### The Cirque -/

/-- A line of device memory that the second-level cache holds, with its first bytes. -/
def l2At (pa : Nat) (bs : List Byte) : L2Line :=
  { slice := sliceShared pa, kind := .device, line := lineOf pa, valid := 0xF, dirty := 0, poison := 0, way := 0, persist := false, stream := false,
    win := 0, gen := 0, data := lineWith bs }

/-- A scatter bin set of two regions of 4,096 bytes at 0x14000, its bins of 64 records at 0x18000 and 0x18280. -/
def setBytes (op clog stat : Nat) : List Byte :=
  leBytes 8 0x14000 ++ leBytes 8 0x18000 ++ leBytes 4 2 ++ leBytes 1 12 ++ leBytes 1 op ++ leBytes 2 clog ++ leBytes 4 stat ++ leBytes 4 0

/-- A state with the set at 0x10000, its first bin holding `n` records, `k` steps of 256 KiB for replays in partition 0. -/
def cirqueState (clog n k : Nat) (b : OpBody) : State :=
  let s := withOp b
  let e : CqEnt := { v := true, asid := 1, pool := 0, repl := BitVec.ofNat 5 k, err := 0 }
  { s with
    tlb := [{ fetchTlb 1 with at_ := .part 0 }],
    mem := { s.mem with l2 := [l2At 0x10000 (setBytes 0 clog 0), l2At 0x18000 (leBytes 8 n), l2At 0x18080 (leBytes 4 3 ++ leBytes 4 7),
                               l2At 0x18280 []] },
    regs := { s.regs with cq := s.regs.cq.set 0 ((s.regs.cq[0]).set 0 e) } }

/-- S registers 0 and 1 with an address. -/
def paramG (x : Word) (g : Group) : Group := addrG { g with s := g.s.set 0 x }

theorem wit_cirqueInstructions_binp :
    let f : Form := { len := 4, e := false, srcs := opndRun (.s 0) 2 ++ opndRun (.v 126) 2, kind := .ray, access := true }
    let bad := fun (_ : View) => !opndRunOk (.s 0) 2 || !opndRunOk (.v 126) 2
    (tstG (lanesG 0)).Meets f bad noCheck (fun w => w.act == 0) ∧
    (tstG (fun g => { g with stCnt := 63 })).Meets f bad noCheck (fun w => w.act != 0 && w.g.stCnt == 63) ∧
    (tstG (paramG 0x10020)).Meets f bad noCheck (fun w => w.act != 0 && w.g.stCnt < 63 && (w.param64 (.s 0) 0).toNat % 64 != 0) ∧
    (tstG (fun g => { paramG 0x10040 g with stCnt := 62 })).Meets f bad noCheck
      (fun w => w.act != 0 && w.g.stCnt == 62 && (w.param64 (.s 0) 0).toNat % 64 == 0 && !w.c.repro) ∧
    ((tstG (paramG 0x10040)).modCtx 1 (fun c => { c with repro := true })).Meets f bad noCheck
      (fun w => w.act != 0 && w.g.stCnt < 63 && (w.param64 (.s 0) 0).toNat % 64 == 0 && w.c.repro) :=
  ⟨meets (by decide), meets (by decide), meets (by decide), meets (by decide), meets (by decide)⟩
theorem wit_cirqueInstructions_binrep :
    let f : Form := { len := 4, e := false, srcs := opndRun (.s 0) 2, toks := [.s 63], kind := .ray, access := true }
    let bad := fun (_ : View) => !opndRunOk (.s 0) 2
    (tstG (lanesG 0)).Meets f bad noCheck (fun w => w.act == 0) ∧
    (tstG (paramG 0x10020)).Meets f bad noCheck (fun w => w.act != 0 && w.g.cpCnt < 63 && (w.param64 (.s 0) 0).toNat % 64 != 0) ∧
    (tstG (fun g => { paramG 0x10040 g with cpCnt := 62 })).Meets f bad noCheck
      (fun w => w.act != 0 && w.g.cpCnt == 62 && (w.param64 (.s 0) 0).toNat % 64 == 0 && (regOf w.g.hm (.s 63)).isSome) :=
  ⟨meets (by decide), meets (by decide), meets (by decide)⟩

/-- A launch of rays. -/
def rayLaunch (s : State) : State := s.modLaunch 1 (fun l => { l with desc := { l.desc with kind := 1 } })

theorem wit_cirqueInstructions_accum :
    let f : Form := { len := 4, e := false, srcs := opndRun (.v 124) 4, kind := .ray, access := true }
    let bad := fun (w : View) => !opndRunOk (.v 124) 4 || w.l.desc.kind == 0
    (rayLaunch (tstG (lanesG 0))).Meets f bad noCheck (fun w => w.act == 0) ∧ (rayLaunch tst).Meets f bad noCheck (fun w => w.act != 0) :=
  ⟨meets (by decide), meets (by decide)⟩

/-- The Cirque of partition 0. -/
def who : CirqueWho := { part := 0, asid := 1, hm := false, corr := 0, stamp := 50 }

/-- What an append finds: a bad set, no room for replays, an index beyond the regions, a full bin, a bin with room for one more. -/
theorem wit_appendsToBins :
    (match (cirqueState 5 0 1 aLoad).binSet who 0x10000 with
      | .ok (s1, d) => d.bad && (match s1.binStat who 0x10000 d 1 with
        | .ok _ => true
        | .error _ => false)
      | .error _ => false) = true ∧
    (match (cirqueState 6 0 0 aLoad).binSet who 0x10000 with
      | .ok (s1, d) => !d.bad && s1.replBytes 0 1 < 2 ^ d.rlog && (match s1.binStat who 0x10000 d 2 with
        | .ok _ => true
        | .error _ => false)
      | .error _ => false) = true ∧
    (match (cirqueState 6 0 1 aLoad).binSet who 0x10000 with
      | .ok (s1, d) => !d.bad && 2 ^ d.rlog ≤ s1.replBytes 0 1 && d.nreg ≤ 2048 / 2 ^ (d.rlog - 2) &&
        (match s1.cirquePut who 0x1001C 4 (d.drop + 1) with
          | .ok s2 => (match s2.binStat who 0x10000 d 3 with
            | .ok _ => true
            | .error _ => false)
          | .error _ => false)
      | .error _ => false) = true ∧
    (match (cirqueState 6 64 1 aLoad).binSet who 0x10000 with
      | .ok (s1, d) => 1023 / 2 ^ (d.rlog - 2) < d.nreg && !s1.replaying 1 0x10000 0 && (match s1.cirqueNum who (d.binVa 0) 8 with
        | .ok (_, n) => 2 ^ d.clog ≤ n
        | .error _ => false)
      | .error _ => false) = true ∧
    (match (cirqueState 6 0 1 aLoad).binSet who 0x10000 with
      | .ok (s1, d) => (match s1.cirqueNum who (d.binVa 0) 8 with
        | .ok (s2, n) => n < 2 ^ d.clog && (match s2.cirquePut who (d.binVa 0 + 128 + 8 * n) 8 5 with
          | .ok s3 => (match s3.cirquePut who (d.binVa 0) 8 (n + 1) with
            | .ok _ => true
            | .error _ => false)
          | .error _ => false)
        | .error _ => false)
      | .error _ => false) = true := by
  refine ⟨by decide, by decide, by decide, by decide, by decide⟩

theorem wit_cirqueAppends_binp :
    let s := cirqueState 6 0 1 (.binp 0x10000 false [(31, 3, 9)] 0)
    ∃ o b g, o.id = opId ∧ s.Holds o b g ∧ ((s.before o).isEmpty && s.ctxOpen b.asid && !s.isRepro b.asid &&
      (match s.appendOne (s.cirqueFor o.gk false) b.launch 0x10000 0 (31, 3, 9) with
        | .ok _ => true
        | _ => false)) = true := holds (by decide)
/-- In a reproducible context the update is looked through first. -/
theorem wit_cirqueAppends_repro :
    let s := (cirqueState 6 0 1 (.binp 0x10000 false [(31, 3, 9)] 0)).modCtx 1 (fun c => { c with repro := true })
    ∃ o b g, o.id = opId ∧ s.Holds o b g ∧ (s.isRepro b.asid && (match s.appendFits (s.cirqueFor o.gk false) 0x10000 [(31, 3, 9)] with
      | .ok (s0, fits) => fits && (match s0.appendOne (s.cirqueFor o.gk false) b.launch 0x10000 0 (31, 3, 9) with
        | .ok _ => true
        | _ => false)
      | .error _ => false)) = true := holds (by decide)
theorem wit_cirqueAppends_binrep :
    (let s := cirqueState 6 1 1 (.binrep 0x10000 false (.s 63) false [])
     ∃ o b g, o.id = opId ∧ s.Holds o b g ∧ ((s.before o).isEmpty && s.ctxOpen b.asid && !s.isRepro b.asid &&
      (match s.binSet (s.cirqueFor o.gk false) 0x10000 with
        | .ok (s1, d) => !d.bad && (match s1.filledRegions (s.cirqueFor o.gk false) d (List.range d.nreg) with
          | .ok (s2, rs) => rs == [0] && s2.op? o.id == some o
          | .error _ => false)
        | .error _ => false)) = true) ∧
    (let s := cirqueState 5 0 1 (.binrep 0x10000 false .none false [])
     ∃ o b g, o.id = opId ∧ s.Holds o b g ∧ ((s.before o).isEmpty && (match s.binSet (s.cirqueFor o.gk false) 0x10000 with
        | .ok (s1, d) => d.bad && (let u := s1.setOp o.id (.binrep 0x10000 false .none true [])
          u.ctxOpen b.asid && (match u.cirqueNum (u.cirqueFor o.gk false) 0x10018 4 with
            | .ok (s2, _) => (s2.group? o.gk).isSome
            | .error _ => false))
        | .error _ => false)) = true) := ⟨holds (by decide), holds (by decide)⟩

/-- The replay of region 0, before its start and after. -/
def aReplay (started : Bool) : Replay :=
  { id := 500, part := 0, asid := 1, launch := 1, scatter := some (0x10000, false, 0), tile := 0, items := [], started := started, stamp := 0,
    pages := [(1, ⟨.device, 0x10000⟩)], owned := [], stopped := false }

theorem wit_scatterReplays :
    (let s : State := { cirqueState 6 1 1 aLoad with replays := [aReplay false] }
     s.replays.find? (fun y => y.id == 500) = some (aReplay false) ∧ s.replayMayStart (aReplay false) = true ∧
     (match s.binSet (s.replayWho (aReplay false)) 0x10000 with
       | .ok (s1, d) => (match s1.replayOwn (s.replayWho (aReplay false)) (aReplay false) d.tgt (2 ^ d.rlog) with
         | .ok (s2, y) => y.id == 500 && s2.replays.length == 1
         | .error _ => false)
       | .error _ => false) = true) ∧
    (let s : State := { cirqueState 6 1 1 aLoad with replays := [aReplay true] }
     s.ctxRuns 1 = true ∧ (let w := s.replayWho (aReplay true)
       match s.binSet w 0x10000 with
       | .ok (s1, d) => (match s1.cirqueNum w (d.binVa 0) 8 with
         | .ok (s2, n) => n == 1 && (match s2.binRead w (d.binVa 0) (List.range n) with
           | .ok (s3, recs) => recs == [(3, 7)] && (s3.binRecords (aReplay true) 0x10000 0 recs).length == 1
           | .error _ => false)
         | .error _ => false)
       | .error _ => false) = true) := by
  refine ⟨⟨by decide, by decide, by decide⟩, by decide, by decide⟩

/-- A ray launch's header, with an accumulation image of one tile in the mapped page. -/
def aHeader : RayHeader :=
  { tlas := 0x10000, inst := 0x10000, ninst := 1, tlim := 100, g0 := Vector.replicate 3 0, cell := 0, hint := 0, pf := 0, lowt := 0, lows := 0,
    tot := 0, tos := 0, acc := 0x14000, aw := 8, ah := 8 }

/-- A state whose launch has that header. -/
def accState (b : OpBody) : State :=
  let s := (cirqueState 6 0 1 b).modLaunch 1 (fun l => { l with hdr := some aHeader })
  s

/-- The replay of tile 0 with one contribution, to pixel 63. -/
def tileReplay (started : Bool) : Replay :=
  { aReplay started with scatter := none, items := [(0, 63, 0, 0x3C00, 0)] }

theorem wit_accumulation :
    (let s := accState (.accum [(0, 0, 0, 0, 0), (31, 63, 0, 0, 0)] 0)
     ∃ o b g, o.id = opId ∧ s.Holds o b g ∧ ((s.before o).isEmpty && s.ctxOpen b.asid && !s.isRepro b.asid &&
       (s.launch? b.launch).map (·.hdr) == some (some aHeader)) = true) ∧
    (∃ b : AccBin, [b].find? (fun b => b.part == 0 && b.launch == 1 && b.tile == 0) = some b ∧ b.items.length = 63) ∧
    (let s : State := { accState aLoad with replays := [tileReplay false] }
     s.replayMayStart (tileReplay false) = true ∧ s.replayHeader (tileReplay false) = some aHeader ∧
     (match s.replayOwn (s.replayWho (tileReplay false)) (tileReplay false) 0x14000 1024 with
       | .ok (s1, y) => y.id == 500 && s1.replays.length == 1
       | .error _ => false) = true) ∧
    (let s : State := { accState aLoad with replays := [tileReplay true] }
     s.ctxRuns 1 = true ∧ (let vas := ((s.tileItems (tileReplay true)).map (fun e => aHeader.pixelVa e.2.1.toNat)).eraseDups
       let ls := vas.filterMap (pageLoc (tileReplay true).pages)
       ls.length == 1 && s.statusAfter (s.replayWho (tileReplay true)).agent true 0 ls == .ok &&
         ls.all (fun l => !s.poisonIn (s.replayWho (tileReplay true)).agent l 16)) = true) := by
  refine ⟨holds (by decide), ⟨⟨0, 1, 0, List.replicate 63 (0, 0, 0, 0, 0), 0⟩, by decide, by decide⟩, ⟨by decide, by decide, by decide⟩,
    by decide, by decide⟩

/-! ### Futures and task queues -/

/-- S registers: an address, a record's address, a slot or a local address. -/
def sliceG (word rcd : Word) (n : Word) (g : Group) : Group :=
  addrG { g with s := (((g.s.set 0 word).set 2 (if n.toNat < 8 then rcd else n)).set 4 n) }

/-- What the core's translation of an address answers. -/
def placeTest (w : View) (b : Opnd) (p : XRes → Bool) : Bool := p (w.xlate (w.param64 b 0) ⟨.atomic, w.g.hm, true⟩)
/-- The address translates. -/
def isOk : XRes → Bool
  | .ok _ => true
  | _ => false
/-- It misses. -/
def isMiss : XRes → Bool
  | .miss => true
  | _ => false
/-- It faults. -/
def isFault : XRes → Bool
  | .fault _ => true
  | _ => false

/-- The general form of one of the slice logic's instructions at registers S0 and S62. -/
def sf (nt nb : Nat) (ends : Bool) : Form := sliceForm false (.s 62) (.s 0) nt nb ends

theorem wit_sliceInstructions_freg :
    let bad := fun (_ : View) => !opndRunOk (.s 0) 5 || !opndRunOk (.s 62) 2
    let rcdOk := fun (w : View) => w.act != 0 && w.g.ldCnt < 63 && (w.param64 (.s 0) 2).toNat % 64 == 0
    (tstA (sliceG 0x10004 0x10040 7)).Meets (sf 2 5 false) bad noCheck
      (fun w => rcdOk w && (w.param64 (.s 0) 0).toNat % 8 != 0) ∧
    (tstA (sliceG 0x20000 0x10040 7)).Meets (sf 2 5 false) bad noCheck (fun w => rcdOk w && placeTest w (.s 0) isMiss) ∧
    { tstA (sliceG 0x10000 0x10040 7) with tlb := [{ fetchTlb 1 with w := false }] }.Meets (sf 2 5 false) bad noCheck
      (fun w => rcdOk w && placeTest w (.s 0) isFault) ∧
    (tstA (fun g => { sliceG 0x10008 0x10040 7 g with ldCnt := 62 })).Meets (sf 2 5 false) bad noCheck
      (fun w => rcdOk w && w.g.ldCnt == 62 && placeTest w (.s 0) isOk) ∧
    (tstA (fun g => lanesG 0 (sliceG 0x10008 0x10040 7 g))).Meets (sf 2 5 false) bad noCheck (fun w => w.act == 0) ∧
    (tstA (sliceG 0x10008 0x10041 7)).Meets (sf 2 5 false) bad noCheck
      (fun w => w.act != 0 && w.g.ldCnt < 63 && (w.param64 (.s 0) 0).toNat % 8 == 0 && (w.param64 (.s 0) 2).toNat % 64 != 0) :=
  ⟨meets (by decide), meets (by decide), meets (by decide), meets (by decide), meets (by decide), meets (by decide)⟩
theorem wit_sliceInstructions_fres :
    (tstA (fun g => { sliceG 0x10008 0 7 g with stCnt := 62 })).Meets (sf 1 3 false) (fun _ => !opndRunOk (.s 0) 3 || !opndRunOk (.s 62) 1)
      noCheck (fun w => w.act != 0 && w.g.stCnt == 62 && placeTest w (.s 0) isOk) := meets (by decide)
theorem wit_sliceInstructions_fpoll :
    (tstA (sliceG 0x10008 0 7)).Meets (sf 2 2 false) (fun _ => !opndRunOk (.s 0) 2 || !opndRunOk (.s 62) 2)
      noCheck (fun w => w.act != 0 && w.g.ldCnt < 63 && placeTest w (.s 0) isOk) := meets (by decide)
/-- One record at the end of the allocation; one record of each active lane; a record past it. -/
theorem wit_sliceInstructions_push :
    (tstA (sliceG 0x10040 0 960)).Meets (sf 1 3 false) (fun _ => !opndRunOk (.s 0) 3) noCheck
      (fun w => w.act != 0 && w.g.stCnt < 63 && placeTest w (.s 0) isOk && (w.param (.s 0) 2).toNat == 960 && w.localReady 960 64) ∧
    (tstA (fun g => lanesG 0x80000001 (sliceG 0x10040 0 896 g))).Meets (sf 1 3 false) (fun _ => !opndRunOk (.s 0) 3) noCheck
      (fun w => w.act.lanes.length == 2 && (w.param (.s 0) 2).toNat == 896 && w.localReady 896 128) ∧
    (tstA (sliceG 0x10040 0 1024)).Meets (sf 1 3 false) (fun _ => !opndRunOk (.s 0) 3) noCheck
      (fun w => w.act != 0 && (w.param (.s 0) 2).toNat == 1024 && w.localReady 1024 64) :=
  ⟨meets (by decide), meets (by decide), meets (by decide)⟩
theorem wit_sliceInstructions_pop :
    (tstA (sliceG 0x10040 0 960)).Meets (sf 1 3 true) (fun _ => !opndRunOk (.s 0) 3) noCheck
      (fun w => w.act != 0 && placeTest w (.s 0) isOk) ∧
    (tstA (fun g => lanesG 0 (sliceG 0x10040 0 960 g))).Meets (sf 1 3 true) (fun _ => !opndRunOk (.s 0) 3) noCheck (fun w => w.act == 0) :=
  ⟨meets (by decide), meets (by decide)⟩

/-- A transaction on the word or the queue at 0x10000. -/
def txn : SliceTxn := freshTxn ⟨.device, 0x10000⟩ 0x10000 (.s 62) false 0

/-- A state with the word or queue at 0x10000, and a slot that waits for the operation. -/
def sliceState (bs : List Byte) (op : SliceOp) : State :=
  let s := (waiting (.slice op txn) (.tqPop opId)).modBlock 2 (fun b => { b with alloc := 1024 })
  { s with tlb := [{ fetchTlb 1 with at_ := .part 0 }], mem := { s.mem with l2 := [l2At 0x10000 bs, l2At 0x10400 []] } }

/-- A queue of capacity 16 with records at 0x10400. -/
def queueBytes (caplog head tail : Nat) : List Byte :=
  leBytes 8 0x10400 ++ leBytes 8 caplog ++ leBytes 8 head ++ leBytes 8 tail ++ leBytes 8 0 ++ leBytes 8 0

/-- Each operation, and the word or the queue that it acts on. -/
def sliceCases : List (List Byte × SliceOp) :=
  [(leBytes 8 0, .fpoll), (leBytes 8 0, .fres 7 0x10000), (leBytes 8 2, .freg 0x10040 7), (leBytes 8 0, .freg 0x10040 0),
   (queueBytes 4 0 15, .push [List.replicate 64 1] none), (queueBytes 4 0 0, .push [] (some 0x80000002)), (queueBytes 4 5 6, .pop 960 none none)]

theorem wit_sliceOperationsPerformed : ∀ x ∈ sliceCases, let s := sliceState x.1 x.2
    ∃ o b g, o.id = opId ∧ s.Holds o b g ∧ (o.body == .slice x.2 txn && s.sliceMay o x.2 txn && !txn.started && !s.queueHeld o.id txn.place &&
      s.lineStatus (s.sliceWho o txn).agent true txn.place == .ok && !s.poisonAt (s.sliceWho o txn).agent txn.place &&
      (match (s.sysRelease ⟨some 1, x.2.releases && txn.place.kind.isHost⟩).sliceStart (s.sliceWho o txn) o x.2 txn with
        | .go s1 acts _ => (State.sliceActs o.id (s.sliceWho o txn) (2 * acts.length + 16) s1 txn.data acts).fin == .done
        | _ => false)) = true := holdsAll (by decide)
/-- For a poll, the blocks as the statement asks for them. -/
theorem wit_sliceOperationsPerformed_poll (o : Op) : let s := sliceState (leBytes 8 2) .fpoll
    ∃ tok, (s.sysRelease ⟨some 1, false⟩).sliceStart (s.sliceWho o txn) o .fpoll txn = .go s [] tok ∧
      (State.sliceActs o.id (s.sliceWho o txn) 16 s [] []).s.blocks = s.blocks := ⟨_, rfl, rfl⟩
theorem wit_futuresAndQueues :
    let s := fun bs => sliceState bs .fpoll
    let a := Agent.ctx 1
    ((s (leBytes 8 2)).wordAt a txn.place).extractLsb' 0 2 = 2 ∧ ((s (leBytes 8 1)).wordAt a txn.place).extractLsb' 0 2 = 1 ∧
    ((s (leBytes 8 0)).wordAt a txn.place).extractLsb' 0 2 = 0 ∧ (s []).isRepro 1 = false ∧
    (let q := (s (queueBytes 4 0 16)).queueDesc a txn.place; q.caplog = 4 ∧ 2 ^ q.caplog < q.count + 1) ∧
    (let q := (s (queueBytes 24 0 0)).queueDesc a txn.place; q.caplog = 24 ∧ q.count + 2 ^ 24 = 2 ^ q.caplog) ∧
    ((s (queueBytes 3 0 0)).queueDesc a txn.place).caplog = 3 ∧ ((s (queueBytes 25 0 0)).queueDesc a txn.place).caplog = 25 := by
  refine ⟨by decide, by decide, by decide, by decide, by decide, by decide, by decide, by decide⟩

/-- A walk of a wait list with the registration to visit next. -/
def aListWalk (next : DWord) : ListWalk := { id := 600, asid := 1, launch := 1, slice := 0, val := 7, next := next, acts := [], data := [], stopped := false }

theorem wit_popWakesAndListWalks :
    (let s := sliceState (queueBytes 4 0 1) (.pop 0 none (some 0))
     ∃ o b g, o.id = opId ∧ s.Holds o b g ∧ ((s.queueDesc (Agent.ctx (s.asidOf o.gk)) txn.place).tail != 0) = true) ∧
    (let s := (sliceState (queueBytes 4 0 1) (.pop 0 none (some 0))).modBlock 2 (fun b => { b with st := .saved })
     (s.op? opId).isSome = true ∧ (s.block? 2).map (fun b => (b.st, b.woken, b.serial)) = some (.saved, false, 2) ∧
       (s.queueDesc (Agent.ctx (s.asidOf ⟨2, 0⟩)) txn.place).tail ≠ 0) ∧
    (let s : State := { sliceState [] .fpoll with listWalks := [aListWalk 0x10047] }
     s.listWalks.find? (fun y => y.id == 600) = some (aListWalk 0x10047) ∧
     (State.sliceActs 600 ⟨1, 0, false, s.launch? 1⟩ 32 s [] [.link 0x10040 7, .put (0x10040 + 0x34) (leBytes 4 7) true, .lower 0x10040]).fin = .done) ∧
    (let s : State := { sliceState [] .fpoll with listWalks := [aListWalk 0] }
     s.listWalks.find? (fun y => y.id == 600) = some (aListWalk 0)) := by
  refine ⟨holds (by decide), by decide, ⟨by decide, by decide⟩, by decide⟩

/-! ### Rays, textures, blocks -/

/-- Handles of two rays, of partition 0, in lanes 0 and 31. -/
def handlesG (g : Group) : Group :=
  { g with handle := ((Vector.replicate 32 0xFFFFFFFF).set 0 0).set 31 5, rsv := 1 }

/-- A ray along z from the origin. -/
def aRay (slot : Nat) (st : RayState) : Ray :=
  { part := 0, asid := 1, slot := slot, launch := 1,
    w := ((Vector.replicate 16 0).set 5 0x3F800000).set 7 0x42000000, st := st, stamp := slot, resume := false, walk := none, rid := 0 }

/-- A state of a ray launch with rays, and memory for a hierarchy: an empty box node at 0x10000, instances at 0x11000 (identity),
0x11040 (hidden), 0x11080 (misaligned), and from 0x12000 on a triangle in front of the ray, an empty one, a box, an inside-out box. -/
def rayState (rs : List Ray) (b : OpBody) : State :=
  let s := (cirqueState 6 0 1 b).modLaunch 1 (fun l => { l with
    desc := { l.desc with kind := 1, nsh := 1 }, hdr := some { aHeader with inst := 0x11000, ninst := 3 }, shaders := [⟨0x10000, 16, 0, 2⟩] })
  let one := leBytes 4 0x3F800000
  let neg := leBytes 4 0xBF800000
  let nul := leBytes 4 0
  let eye := one ++ nul ++ nul ++ nul ++ nul ++ one ++ nul ++ nul ++ nul ++ nul ++ one ++ nul
  { s with
    rays := rs
    mem := { s.mem with l2 :=
      [l2At 0x10000 [], l2At 0x11000 (eye ++ leBytes 8 0x12000 ++ leBytes 8 0 ++ eye ++ leBytes 8 0x12000 ++ leBytes 4 0 ++ leBytes 4 0x2000),
       l2At 0x11080 (eye ++ leBytes 8 0x12001),
       l2At 0x12080 (neg ++ neg ++ one ++ one ++ neg ++ one ++ nul ++ one ++ one),
       l2At 0x12100 (neg ++ neg ++ one ++ one ++ one ++ one ++ leBytes 40 0 ++ one ++ one ++ one)] } }

theorem wit_rayInstructions :
    (∀ m ∈ [0x80000001#32, 0x7FFFFFFE, 0], (rayLaunch (tstG (fun g => lanesG m (handlesG g)))).Meets
      { len := 4, e := false, srcs := opndRun (.v 112) 16, kind := .ray, access := true } (fun w => !opndRunOk (.v 112) 16 || w.inGrid) noCheck
      noTest) ∧
    (rayLaunch (tstG handlesG)).Meets { len := 4, e := false, kind := .ray, access := true } View.inGrid noCheck
      (fun w => w.myRays.length == 2) ∧
    (rayLaunch (tstG (fun g => lanesG 0 (handlesG g)))).Meets
      { len := 4, e := false, srcs := opndRun (.v 0) 16, dsts := [.v 127], kind := .ray, access := true }
      (fun w => !opndRunOk (.v 0) 16 || w.inGrid) noCheck (fun w => w.act == 0) ∧
    (rayLaunch (tstG handlesG)).Meets { len := 4, e := false, srcs := opndRun (.v 0) 16, dsts := [.none], kind := .ray, access := true }
      (fun w => !opndRunOk (.v 0) 16 || w.inGrid) noCheck (fun w => w.act != 0 && w.spawned.length == 1) :=
  ⟨fun m hm => by
      simp only [List.mem_cons, List.mem_nil_iff, or_false] at hm
      rcases hm with rfl | rfl | rfl <;> exact meets (by decide),
    meets (by decide), meets (by decide), meets (by decide)⟩
theorem wit_rayInstructions_rng : ∀ up ∈ [lanesG 0, (fun g => { g with ldCnt := 63 }), (fun g => { g with ldCnt := 62 })],
    (tstG up).Meets { len := 4, e := false, srcs := opndRun (.v 124) 4 ++ opndRun (.s 62) 2, dsts := opndRun (.v 124) 4, kind := .ray,
                      access := true } (fun _ => !opndRunOk (.v 124) 4 || !opndRunOk (.s 62) 2) noCheck noTest := by
  intro up hu
  simp only [List.mem_cons, List.mem_nil_iff, or_false] at hu
  rcases hu with rfl | rfl | rfl <;> exact meets (by decide)

/-- A translation that misses. -/
def notThere : XRes → Bool
  | .miss => true
  | _ => false

/-- The form of a texture instruction at v0 and s0. -/
def texForm (q : Bool) : Form :=
  { len := 4, e := false, srcs := opndRun (.v 0) (if q then 2 else 3) ++ opndRun (.s 0) 2, dsts := opndRun (.v 0) 4, kind := .ray, access := true }

theorem wit_textureInstructions :
    (∀ q ∈ [false, true], (tstG (lanesG 0)).Meets (texForm q) (fun _ => !opndRunOk (.v 0) 4 || !opndRunOk (.s 0) 2) noCheck (fun w => w.act == 0)) ∧
    (tstG (fun g => { g with ldCnt := 63 })).Meets (texForm false) (fun _ => !opndRunOk (.v 0) 4 || !opndRunOk (.s 0) 2) noCheck
      (fun w => w.act != 0 && w.g.ldCnt == 63) ∧
    (tstG (paramG 0x10010)).Meets (texForm true) (fun _ => !opndRunOk (.v 0) 4 || !opndRunOk (.s 0) 2) noCheck
      (fun w => w.act != 0 && w.g.ldCnt < 63 && (w.param64 (.s 0) 0).toNat % 32 != 0) ∧
    (tstG (paramG 0x20000)).Meets (texForm true) (fun _ => !opndRunOk (.v 0) 4 || !opndRunOk (.s 0) 2) noCheck
      (fun w => w.act != 0 && notThere (w.xlate (w.param64 (.s 0) 0) ⟨.load, w.g.hm, false⟩)) ∧
    ((tstG (paramG 0x10000)).modGroup ⟨2, 0⟩ (fun g => { g with ldCnt := 62 })).Meets (texForm false)
      (fun _ => !opndRunOk (.v 0) 4 || !opndRunOk (.s 0) 2) noCheck
      (fun w => w.g.ldCnt == 62 && (match w.readDesc (w.param64 (.s 0) 0) with
        | .ok _ bs => (texDescOf bs).fmt == 0
        | _ => false)) := by
  refine ⟨fun q hq => ?_, meets (by decide), meets (by decide), meets (by decide), meets (by decide)⟩
  simp only [List.mem_cons, List.mem_nil_iff, or_false] at hq
  rcases hq with rfl | rfl <;> exact meets (by decide)
/-- The texels of a lane translate, miss, or are claimed by others. -/
theorem wit_textureInstructions_texels :
    (tstA id).view?.map (fun w => match w.texels [(31, some [(16777216, 0x10000)]), (0, none)] with
      | .inr accs => (w.claims w.s accs).isSome
      | _ => false) = some true ∧
    (tstA id).view?.map (fun w => match w.texels [(31, some [(16777216, 0x20000)])] with
      | .inl (.walk _) => true
      | _ => false) = some true ∧
    tstOwned.view?.map (fun w => match w.texels [(31, some [(16777216, 0x10000)])] with
      | .inr accs => (w.claims w.s accs).isNone
      | _ => false) = some true := by decide
theorem wit_textureResults :
    let s := withOp (.tex 0 [(31, some [(16777216, 0x40)]), (0, none)] (.v 124) [(0x40, hostLoc)])
    ∃ o b g, o.id = opId ∧ s.Holds o b g ∧ ((s.before o).isEmpty && s.statusOf (s.agentFor o.gk false) false [hostLoc] == .ok &&
      !s.poisonIn (s.agentFor o.gk false) hostLoc (texelBytes 0)) = true := holds (by decide)

theorem wit_raysHandedOn :
    (let s := rayState [aRay 0 .inEpisode, aRay 5 .inEpisode] (.handoff .retire [0, 5] false)
     ∃ o b g, o.id = opId ∧ s.Holds o b g ∧ (s.released o .die) = true) ∧
    (let s := rayState [aRay 0 .inEpisode, aRay 5 .inEpisode] (.handoff .trace [5] true)
     ∃ o b g, o.id = opId ∧ s.Holds o b g ∧ (s.released o .die && s.rayOf (s.asidOf o.gk) 5 == some (aRay 5 .inEpisode)) = true) ∧
    ((aRay 0 .inEpisode).invalid = false ∧ ((rayState [] aLoad).rayHeader (aRay 0 .inEpisode)).map (·.pf) = some 0) ∧
    (let r := { aRay 0 .inEpisode with w := Vector.replicate 16 0 }
     r.invalid = true ∧ ((rayState [r] aLoad).launch? 1).map (fun l => decide (r.shid < l.desc.nsh)) = some true) ∧
    (let r := { aRay 0 .inEpisode with w := (Vector.replicate 16 0).set 9 0x10000 }
     ((rayState [r] aLoad).launch? 1).map (fun l => decide (l.desc.nsh ≤ r.shid)) = some true) := by
  refine ⟨holds (by decide), holds (by decide), ⟨by decide, by decide⟩, ⟨by decide, by decide⟩, by decide⟩

/-- A walk with something on its stack. -/
def aWalk (x : WalkItem) (visits : Nat) : RayWalk := { cluster := 0, batch := 7, stack := [x], hit := none, cand := none, visits := visits }
/-- The instanced bottom level, its data at 0x12000. -/
def anInst : WalkInst := { ray := ((Vector.replicate 6 0).set 5 0x3F800000), blas := 0x12000, iid := 9, sbase := 0, fopq := true }
/-- A state with one ray that walks. -/
def walkingState (x : WalkItem) : State := rayState [{ aRay 0 .walking with walk := some (aWalk x 99) }] aLoad
/-- What a read of the traversal unit brings. -/
def reads (s : State) (at_ n line : Nat) (p : List Byte → Bool) : Bool :=
  match s.travRead (aRay 0 .walking) 0 at_ n line with
  | .ok (_, bs) => p bs
  | .error _ => false

theorem wit_traversal_pull :
    let s : State := { rayState [aRay 0 (.travBinned 12288)] aLoad with timedOut := [(0, 1, false, 12288)] }
    s.ctxRuns 1 = true ∧ (s.batches 0).length < 4 ∧ 0 < Config.clusters ∧ drainOrder (s.binInfos (partOfCluster 0) 1 false) = [12288] ∧
    s.binRays 0 1 false 12288 ≠ [] ∧ (rayState [aRay 0 (.travBinned 12288)] aLoad).timedOut = [] := by
  refine ⟨by decide, by decide, by decide, by decide, by decide, by decide⟩
/-- The visits of a walk: a box node, instances entered, hidden and malformed, a triangle hit and missed, a procedural box met and
not, and a reference that names nothing. -/
theorem wit_traversal_visit :
    let x : WalkItem := rootItem none
    let s := walkingState x
    s.ray? 0 1 0 = some { aRay 0 .walking with walk := some (aWalk x 99) } ∧ s.ctxOpen 1 = true ∧ (s.rayHeader (aRay 0 .walking)).isSome = true ∧
    refKind 1 true 0 3 = .node 0 0 ∧ reads s 0x10000 128 0x10000 (fun bs => (boxChildren (aRay 0 .walking) (aWalk x 99) x 0 3 bs).isSome) = true ∧
    refKind 3 true 0 3 = .inst 0 ∧ reads s 0x11000 64 0x11000 (fun bs => match (aRay 0 .walking).enterInst bs with
      | .root _ => true
      | _ => false) = true ∧
    refKind 7 true 0 3 = .inst 1 ∧ reads s 0x11040 64 0x11040 (fun bs => match (aRay 0 .walking).enterInst bs with
      | .skip => true
      | _ => false) = true ∧
    refKind 11 true 0 3 = .inst 2 ∧ reads s 0x11080 64 0x11080 (fun bs => match (aRay 0 .walking).enterInst bs with
      | .bad => true
      | _ => false) = true ∧
    refKind 15 true 0 3 = .bad ∧ refKind 0x10A false 0 3 = .tris 2 1 ∧ refKind 11 false 0 3 = .proc 2 ∧
    reads s 0x12080 64 0x12080 (fun bs => ((aRay 0 .walking).triangle (aWalk x 99) anInst bs).isSome) = true ∧
    reads s 0x120C0 64 0x12080 (fun bs => ((aRay 0 .walking).triangle (aWalk x 99) anInst bs).isNone) = true ∧
    reads s 0x12100 64 0x12100 (fun bs => ((aRay 0 .walking).procedural (aWalk x 99) anInst bs).isSome) = true ∧
    reads s 0x12140 64 0x12100 (fun bs => ((aRay 0 .walking).procedural (aWalk x 99) anInst bs).isNone) = true := by
  refine ⟨by decide, by decide, by decide, by decide, by decide +kernel, by decide, by decide +kernel, by decide, by decide +kernel, by decide,
    by decide +kernel, by decide, by decide, by decide, by decide +kernel, by decide +kernel, by decide +kernel, by decide +kernel⟩
theorem wit_traversal_prefetch :
    let p : Prefetch := { id := 700, part := 0, asid := 1, launch := 1, cell := 4095 }
    let s : State := { rayState [] aLoad with prefetches := [p] }
    s.prefetches.find? (fun x => x.id == 700) = some p ∧ ((s.launch? 1).bind (·.hdr)).isSome = true ∧
    (match s.engineXlate 0 1 (BitVec.ofNat 64 (0x10000 + 32 * 0)) ⟨.travRead, false, false⟩ with
      | (.ok l, s') => s'.lineStatus (.ctx 1) false l == .ok && !s'.poisonIn (.ctx 1) l 32
      | _ => false) = true := by
  refine ⟨by decide, by decide, by decide⟩

/-- One ray in a shade bin whose time-out has come. -/
def formState : State :=
  { rayState [aRay 0 (.shadeBinned 0)] aLoad with timedOut := [(0, 1, true, 0)] }

theorem wit_rayGroupsForm :
    formState.formPlan? 0 1 ≠ none ∧ (formState.formPlan? 0 1).map (fun p => formState.serves (formState.formRank p.l) && p.rays.length == 1) =
      some true ∧
    (let s : State := { rayState [aRay 0 (.shadeBinned 0)] aLoad with blocks := [] }
     (s.starvePlan? 0 1).map (fun p => s.serves (s.formRank p.l)) = some true) := by
  refine ⟨fun h => ?_, by decide, by decide⟩
  have e : (formState.formPlan? 0 1).isSome = true := by decide
  simp [h] at e

/-- A grid launch of higher priority in partition 0, with one block to place that asks for some local store. -/
def placeState (lskb gang : Nat) : State :=
  let s := rayState [] aLoad
  { s with
    rays := []
    ctxs := s.ctxs.map (fun c => { c with priv := true, part := 0 })
    launches := s.launches.map (fun l => { l with desc := { l.desc with kind := 0 } }) ++ (s.launches.map (fun l =>
      { l with id := 900, prio := 3, nextBlock := 0, desc := { l.desc with kind := 0, gx := 1, gy := 1, gz := 1, ng := 1, lskb := lskb, gang := gang } })) }

theorem wit_blocksPlaced :
    ((placeState 256 0).launch? 900).map (fun l => l.id == 900 && (placeState 256 0).hasBlocks l && ((placeState 256 0).placing l).isPlaced &&
      (placeState 256 0).serves ((placeState 256 0).rankOf l.cls l)) = some true ∧
    ((placeState 257 1).launch? 900).map (fun l => (placeState 257 1).hasBlocks l && (match (placeState 257 1).placing l with
      | .full => true
      | _ => false) && l.desc.gang != 0 && (placeState 257 1).gangs.isEmpty) = some true ∧
    ((placeState 256 0).launch? 900).map (fun l => ((placeState 256 0).ctx? l.asid).map (fun c => !c.repro &&
      (((placeState 256 0).rotation c.confined).find? (fun c => (placeState 256 0).takes l c ((placeState 256 0).bestCore c))).isSome)) =
        some (some true) := by
  refine ⟨by decide, by decide, by decide⟩

/-- The same with every cluster of partition 0 but the block's own shut off: a context confined there, the block at a blocking point. -/
def evictState : State :=
  let s := placeState 256 0
  let b0 := fun (c : Nat) (b : Block) => { b with serial := 1000 + c, cluster := c, mx := true, alloc := Config.localStoreBytes, launch := 900, groups := [] }
  let s : State := { s.modGroup ⟨2, 0⟩ (waitG (.barBlk false)) with ops := [] }
  let others := (upFrom 1 23).flatMap (fun c => s.blocks.map (b0 c))
  { s with
    blocks := s.blocks.map (fun b => { b with alloc := Config.localStoreBytes }) ++ others
    launches := s.launches.map (fun l => if l.id = 900 then { l with desc := { l.desc with lskb := 256 } } else l)
    ctxs := s.ctxs.map (fun c => { c with evict := true, priv := true, part := 0 })
    seqs := s.seqs.map (fun x => { x with st := .idle }) }

theorem wit_evictionAndRestore_evict :
    (evictState.block? 2).map (fun b => (evictState.imageFor b).isSome && (evictState.recordFor b).isSome && evictState.evictable b &&
      evictState.launches.any (fun l => evictState.wants l b)) = some true := by decide
theorem wit_evictionAndRestore_save :
    let s := evictState.modBlock 2 (fun b => { b with st := .evicting })
    (s.block? 2).map (fun b => b.st == .evicting && !s.draining b && (s.ctx? b.asid).any (fun c => c.halt == .running)) = some true := by decide
theorem wit_evictionAndRestore_restore :
    let s : State := { (placeState 256 0).modBlock 2 (fun b => { b with st := .saved, woken := true, seq := none }) with ops := [] }
    (s.block? 2).map (fun b => (s.launchOf b).any (fun l => (s.restoreTo b).isSome && b.st == .saved && b.woken && s.ctxOpen b.asid &&
      s.serves (s.rankOf 1 l))) = some true := by decide

/-! ### The matrix engine -/

/-- The sequencer of the block changed. -/
def seqState (up : Sequencer → Sequencer) : State :=
  let s := cirqueState 6 0 1 aLoad
  { s with ops := [], seqs := s.seqs.map up, curSeq := ⟨0, 0⟩ }

/-- The same with its group changed. -/
def seqStateG (st : SeqState) (up : Group → Group) : State := (seqState (fun x => { x with st := st })).modGroup ⟨2, 0⟩ up

theorem wit_matrixInstructions_start :
    let f : Form := { len := 4, e := false, srcs := opndRun (.s 0) 2, kind := .seqCtl }
    let bad := fun (_ : View) => !opndRunOk (.s 0) 2
    (seqStateG .idle (paramG 0x10002)).Meets f bad noCheck (fun w => (w.param64 (.s 0) 0).toNat % 4 != 0) ∧
    (seqStateG .idle (paramG 0x10004)).Meets f bad noCheck
      (fun w => (w.param64 (.s 0) 0).toNat % 4 == 0 && (w.s.seqOfBlock w.k.block).any (fun x => x.st == .idle)) ∧
    (seqStateG .stall (paramG 0x10004)).Meets f bad noCheck
      (fun w => (w.param64 (.s 0) 0).toNat % 4 == 0 && (w.s.seqOfBlock w.k.block).any (fun x => x.st == .stall)) :=
  ⟨meets (by decide), meets (by decide), meets (by decide)⟩
theorem wit_matrixInstructions_drain :
    let f : Form := { len := 4, e := false, srcs := [.s 0], dsts := opndRun (.v 112) 16, kind := .tile }
    let bad := fun (_ : View) => !opndRunOk (.v 112) 16
    let tile := fun (w : View) => bitsAt (w.sval (.s 0)).toNat 0 3
    (seqStateG .idle (lanesG 0)).Meets f bad noCheck (fun w => w.act == 0) ∧
    ((seqStateG .idle (paramG 7)).modBlock 2 (fun b => { b with tiles := 7 })).Meets f bad noCheck (fun w => w.act != 0 && w.b.tiles ≤ tile w) ∧
    (seqStateG .idle (fun g => { paramG 7 g with tlCnt := 63 })).Meets f bad noCheck (fun w => w.act != 0 && tile w < w.b.tiles && w.g.tlCnt == 63) ∧
    (seqStateG .idle (fun g => { paramG 7 g with tlCnt := 62 })).Meets f bad noCheck (fun w => w.act != 0 && tile w < w.b.tiles && w.g.tlCnt == 62) :=
  ⟨meets (by decide), meets (by decide), meets (by decide), meets (by decide)⟩
theorem wit_matrixInstructions_rest :
    (seqStateG .idle (fun g => { paramG 7 g with tlCnt := 62 })).Meets { len := 4, e := false, srcs := [.s 0], kind := .tile } noCheck noCheck
      (fun w => w.act != 0 && bitsAt (w.sval (.s 0)).toNat 0 3 < w.b.tiles && w.g.tlCnt == 62) ∧
    (seqStateG .idle id).Meets { len := 4, e := false, srcs := [.s 63], kind := .seqCtl } noCheck noCheck (fun w => w.act != 0) ∧
    (seqStateG .idle id).Meets { len := 4, e := false, kind := .stage, barrier := true } noCheck noCheck noTest ∧
    (∀ x ∈ [0, 1], (seqStateG .idle (paramG x)).Meets { len := 4, e := false, srcs := [.s 0], kind := .stage, barrier := true, ends := true }
      noCheck noCheck (fun w => (w.sval (.s 0)).getLsbD 0 == x.getLsbD 0 && !(w.b.sbar[(15 : Fin 16)]).ph)) := by
  refine ⟨meets (by decide), meets (by decide), meets (by decide), fun x hx => ?_⟩
  simp only [List.mem_cons, List.mem_nil_iff, or_false] at hx
  rcases hx with rfl | rfl <;> exact meets (by decide)

/-- An `mma` word on tile 7 with group 0 for both operands. -/
def aWord : MmaFields := { tile := 7, ga := 0, va := 0, gb := 0, bhalf := 8 }

theorem wit_streamWords :
    (let s := seqState (fun x => { x with st := .run })
     ((s.seq? s.curSeq).map (fun x => x.st == .run && x.step.isNone) = some true) ∧
     ((s.block? 2).map (fun b => s.ctxRuns b.asid && b.tiles == 8) = some true) ∧
     ((s.seq? s.curSeq).bind (fun x => (s.block? x.blk).map (fun b =>
       stepOk b x .s4sp8 { aWord with va := 100 } && stepOk b x .f16 aWord && !stepOk b x .f16 { aWord with ga := 1 } && !stepOk b x .f16 { aWord with va := 113 }))) =
       some true) := by
  refine ⟨by decide, by decide, by decide⟩

/-- A step of tile 7 before a k-slice. -/
def aStep (m : MmaMode) (slice : Nat) : MmaStep :=
  { mode := m, m := aWord, word := 0, pc := 0x10000, slice := slice, acc := Vector.replicate 4096 FpAcc.zero }
/-- A group whose registers are zero. -/
def zeroGroup : Group := Group.start fetchDesc 0 0 0 .gen 0 128 fetchVa fullMask 0
/-- The operands of a step. -/
def aSlice (m : MmaMode) : SliceIn :=
  { mode := m, ga := zeroGroup, gb := zeroGroup, m := aWord, ta := (fetchLaunch 1 1).table 0, tb := (fetchLaunch 1 1).table 0 }
/-- A sequencer in the middle of a step, tile 7 of a kind with partials that are all `p`, the Talus in use by `n` entries of tile 0. -/
def stepSeq (m : MmaMode) (slice : Nat) (p : Int) (n : Nat) (st : SeqState) (x : Sequencer) : Sequencer :=
  { x with st := st, step := some (aStep m slice), talus := List.replicate n ⟨0, 0, 0, 1⟩,
           tiles := x.tiles.set 7 { kind := m.kind, v := Vector.replicate 4096 0, p0 := Vector.replicate 4096 p, p1 := Vector.replicate 4096 0 } }

theorem wit_kSlices_step : ∀ st ∈ [SeqState.run, .stall], ∀ m ∈ [MmaMode.f16, .u8], (seqState (stepSeq m 0 0 0 st)).stepOf ⟨0, 0⟩ st ≠ none := by
  intro st hs m hm h
  have e : [SeqState.run, .stall].all (fun st => [MmaMode.f16, .u8].all (fun m => ((seqState (stepSeq m 0 0 0 st)).stepOf ⟨0, 0⟩ st).isSome)) = true := by
    decide
  have := List.all_eq_true.mp (List.all_eq_true.mp e st hs) m hm
  simp [h] at this
/-- With one sequencer on the cluster the array is its own; a stalled step may be evaluated again. -/
theorem wit_kSlices_turn : (seqState (stepSeq .f16 0 0 0 .run)).arrayTurn ⟨0, 0⟩ = true ∧ (MmaMode.u8).kind ≠ .fp := by decide
/-- A floating-point slice is applied. -/
theorem wit_kSlices_fp : ∀ n ∈ [0, 14, 15], ((Sequencer.start ⟨0, 0⟩ 2 8 false).applySlice (aSlice .f16) (aStep .f16 n)).isSome = true := by
  decide

theorem frag_zero (m : MmaMode) (base row k : Nat) : zeroGroup.frag m base row k = 0 := by
  have h : ∀ n i, zeroGroup.vlane n i = 0 := by
    intro n i
    unfold Group.vlane
    split
    · simp [zeroGroup, Group.start]
    · rfl
  simp [Group.frag, Group.fragBits, h]

/-- An integer slice without carries is applied; one that needs an entry of a full Talus is not. -/
theorem wit_kSlices_int :
    ((stepSeq .u8 0 0 0 .run (Sequencer.start ⟨0, 0⟩ 2 8 false)).intApply (aSlice .u8) 15).isSome = true ∧
    (stepSeq .u8 0 (2 ^ 21) 512 .run (Sequencer.start ⟨0, 0⟩ 2 8 true)).intApply (aSlice .u8) 0 = none := by
  constructor
  · refine Sequencer.intApply_some (fun e => ?_)
    have h0 : ((stepSeq .u8 0 0 0 .run (Sequencer.start ⟨0, 0⟩ 2 8 false)).tile 7).p0 = Vector.replicate 4096 0 := by rfl
    have h1 : ((stepSeq .u8 0 0 0 .run (Sequencer.start ⟨0, 0⟩ 2 8 false)).tile 7).p1 = Vector.replicate 4096 0 := by rfl
    have e7 : (aSlice .u8).m.tile.val = 7 := by rfl
    rw [e7, h0, h1]
    simp [SliceIn.intSlice, SliceIn.range, SliceIn.factors, aSlice, frag_zero, MmaMode.int, MmaMode.kind, MmaMode.kpr, MmaMode.bits, upFrom,
      TileKind.wrap, TileKind.hi, TileKind.lo]
  · exact Sequencer.intApply_none (by decide) 0 (0, 0, 1) (by decide) (by decide)

/-- An operation for the engine, its block's sequencer there. -/
theorem wit_engineWork_ops : ∀ b ∈ [OpBody.accld 7 0 (.v 112) fullMask, .acczero 7, .mcfg 0x1C0F], ∃ o bl g, o.id = opId ∧
    (cirqueState 6 0 1 b).Holds o bl g ∧ (o.body == b && ((cirqueState 6 0 1 b).before o).all (fun y => !y.body.onEngine) &&
      ((cirqueState 6 0 1 b).seqOfBlock o.gk.block).any (fun x => x.st != .wait)) = true := holdsAll (by decide)
/-- The stream's line at the pc, and the one after it. -/
theorem wit_engineWork_fetch :
    let x0 := fun (x : Sequencer) => { x with st := .run, pc := 0x10000 }
    let s := seqState x0
    (s.seq? ⟨0, 0⟩).map (fun x => x.lines.all (fun l => l.1 != lineBase x.pc) && (match s.streamRead x 1 0x10000 with
      | .ok (_, some _) => true
      | _ => false)) = some true ∧
    (match s.streamRead (x0 (Sequencer.start ⟨0, 0⟩ 2 8 false)) 1 0x10080 with
      | .ok (_, some _) => true
      | _ => false) = true := by decide
theorem wit_engineWork_watchdog :
    ((seqState (stepSeq .u8 0 0 0 .run)).seqs.any (fun x => x.key.cluster == 0 && x.key.index < 4 && x.st == .run && x.step.isSome)) = true := by decide

/-! ### Host registers, windows, firmware, doorbells -/

/-- The machine after reset with other host registers. -/
def regsState (up : HostRegs → HostRegs) : State := { State.reset with regs := up HostRegs.reset }

theorem wit_hostRegisters :
    (∀ n : Fin 9, 1 ≤ n.val → State.reset.regs.vfOn.getLsbD n.val = false) ∧
    (∀ off ∈ [0x100000, 0x100100, 0x100238, 0x1007F8, 0x1011F8, 0x102000, 0x103000, 0x103100, 0x104008, 0x104040, 0x1053F8, 0x105408,
      0x106000, 0x106118, 0x106120, 0x106200], off % 8 = 0 ∧ off < 0x200000 ∧ (State.reset.regWord64 off).isSome = true) ∧
    (∀ off ∈ [0, 0xFFFF8, 0x100240, 0x101200, 0x104048, 0x1FFFF8], State.reset.regWord64 (off / 8 * 8) = none) ∧
    0x100004 % (if true then 8 else 4) ≠ 0 ∧ 0x100002 % (if false then 8 else 4) ≠ 0 := by decide

/-- A window of the given code format, function, view base and page count, asked for. -/
def aWindow (cfmt : BitVec 2) (vfn : BitVec 4) (view pages : Nat) (en busy : Bool) : Window :=
  { en := en, cfmt := cfmt, dfmt := false, vfn := vfn, gen := 3, err := 0, busy := busy, code := 0x50000, scale := 0x60000, view := view,
    pages := pages, tbl := 0x70000, held := Vector.replicate 256 0 }
/-- Window 0 asked for, window 1 enabled on two pages from 0x40000. -/
def winState (w : Window) : State :=
  regsState (fun r => { r with win := (r.win.set 0 w).set 1 (aWindow 0 0 0x40000 2 true false) })

theorem wit_windowsAndAllocation :
    (regsState (fun r => { r with pclr := true })).regs.pclr = true ∧ (State.reset.regs.win[(15 : Fin 16)]).en = false ∧
    (∀ x ∈ [((3, 0, 0x100000, 1), 1), ((0, 9, 0x100000, 1), 1), ((1, 8, 0x100000, 0), 2), ((1, 0, 2 ^ 52 - 65536, 2), 2),
      ((1, 0, 0x30000, 2), 3), ((1, 0, 0x50000, 1), 3), ((1, 0, 0x30000, 1), 0), ((2, 0, 0x60000, 1), 0), ((2, 8, 0x60000, 1), 4)],
      let s := winState (aWindow x.1.1 x.1.2.1 x.1.2.2.1 x.1.2.2.2 false true)
      (s.regs.win[(0 : Fin 16)]).busy = true ∧ s.windowErr 0 s.regs.win[(0 : Fin 16)] = x.2) ∧
    ((winState (aWindow 1 0 0 1 false true)).regs.win[(1 : Fin 16)]).en = true := by decide
/-- A window of table format whose table lines are to be had. -/
theorem wit_windowsAndAllocation_table : let w := aWindow 2 0 0x60000 1 false true
    w.cfmt = 2 ∧ (winState w).statusOf .device false w.tablePlaces = .ok := by
  refine ⟨rfl, statusOk (by decide) (by decide) (by decide) (by decide) (by decide) ?_⟩
  intro l hl
  simp only [Window.tablePlaces, List.mem_map] at hl
  obtain ⟨_, _, rfl⟩ := hl
  rfl

theorem wit_firmwareLinkAndPower :
    State.reset.regs.attBusy = false ∧ (regsState (fun r => { r with attBusy := true })).regs.attBusy = true ∧
    (regsState (fun r => { r with sumBusy := true })).regs.sumBusy = true ∧
    (∀ n < 3, (regsState (fun r => { r with fwDone := n })).regs.fwstat = 0 ∧ (regsState (fun r => { r with fwDone := n })).regs.fwDone < 3) ∧
    (let s := regsState (fun r => { r with pairstat := 1, fwstat := 1, retraining := true })
     s.regs.pairstat = 1 ∧ s.regs.fwstat = 1 ∧ s.regs.retraining = true) ∧
    (regsState (fun r => { r with pairstat := 2 })).regs.pairstat = 2 ∧
    (let s := regsState (fun r => { r with pairstat := 3 })
     s.regs.pairstat = 3 ∧ (∀ c ∈ s.ctxs, c.linkFault = false) ∧ (∀ e ∈ s.mem.dir, e.2 ≠ .pl)) := by
  refine ⟨by decide, by decide, by decide, by decide, by decide, by decide, by rfl, ?_, ?_⟩ <;> intro x h <;> cases h

/-- Bytes as cells of memory. -/
def cells (pa : Nat) (bs : List Byte) : List Host.Cell :=
  (bs.mapIdx (fun i b => (pa + i, b))).filter (fun c => c.2 != 0)
/-- A queue entry: rings of 16 packets and records, vector 5, management, address space 1. -/
def entryBytes (vfn : Nat) : List Byte :=
  leBytes 8 0x120000 ++ [4, 4] ++ leBytes 2 5 ++ leBytes 4 (7 + vfn * 4096) ++ leBytes 8 0x130000 ++ leBytes 8 0x140000
/-- The machine with a queue table at 0x100000 whose entry 0 is `entryBytes`, all images verified. -/
def tableState (vfn : Nat) : State :=
  { regsState (fun r => { r with qtab := 0x100001, fwDone := 3, fwstat := 1 }) with dram := ⟨cells 0x100000 (entryBytes vfn)⟩ }
/-- The queue that entry describes, two packets ahead of the device. -/
def aQueue : Queue :=
  { Queue.none_ 0 with ring := ⟨.device, 0x120000⟩, cring := ⟨.device, 0x130000⟩, swb := ⟨.device, 0x140000⟩, rlog := 4, clog := 4, msix := 5,
                       mgmt := true, asid := 1, tail := 2 }

theorem wit_hostAccessesAndDoorbells_bar2 :
    let s := State.reset
    let p := { State.reset with mem := { State.reset.mem with bad := [0x1000 / 32] } }
    s.hostAcc = [] ∧ (s.fnRange 0).1 + 0x1000 + 2 ≤ (s.fnRange 0).2 ∧ (s.fnRange 8).2 < (s.fnRange 8).1 + 0x1000 + 2 ∧
    s.statusOf .device true ((upFrom 0x1000 2).map (fun a => (⟨.device, a⟩ : Loc))) = .ok ∧
    s.statusOf .device false ((upFrom 0x1000 2).map (fun a => (⟨.device, a⟩ : Loc))) = .ok ∧
    s.poisonIn .device ⟨.device, 0x1000⟩ 2 = false ∧ p.hostAcc = [] ∧ p.poisonIn .device ⟨.device, 0x1000⟩ 2 = true ∧
    p.statusOf .device false ((upFrom 0x1000 2).map (fun a => (⟨.device, a⟩ : Loc))) = .ok := by decide

/-- A table not set, an image that failed, a doorbell of another function. -/
theorem wit_hostAccessesAndDoorbells_dropped :
    State.reset.regs.qtab.getLsbD 0 = false ∧ 0x80 ≤ (regsState (fun r => { r with fwstat := 0x82 })).regs.fwstat ∧
    (tableState 3).regs.qtab.getLsbD 0 = true ∧ (tableState 3).regs.fwstat < 0x80 ∧ (tableState 3).queueFn 0 = 3 := by decide
/-- A queue known and not idle, a queue with a sound entry, one without. -/
theorem wit_hostAccessesAndDoorbells :
    (let s := { tableState 0 with queues := [aQueue] }
     s.noteCleared.queue? 0 = some aQueue ∧ s.queue? 0 = some aQueue ∧ aQueue.cleared = false ∧ aQueue.qerr = 0 ∧ aQueue.idle = false ∧
     countDiff 16 aQueue.head ≤ 2 ^ aQueue.rlog ∧ 2 ^ aQueue.rlog < countDiff 17 aQueue.head) ∧
    (tableState 0).noteCleared.queue? 0 = none ∧ ((tableState 0).noteCleared.readEntryQ (Queue.none_ 0)).ok = true ∧
    ((tableState 0).noteCleared.readEntryQ (Queue.none_ 0)).x.rlog = 4 ∧
    (tableState 9).noteCleared.queue? 0 = none ∧ ((tableState 9).noteCleared.readEntryQ (Queue.none_ 0)).ok = false ∧
    (let x := { aQueue with cleared := true, tail := 0 }
     let s := { tableState 0 with queues := [x], regs := { (tableState 0).regs with qtab := 0x200001 } }
     (s.noteCleared.queue? 0).map (fun y => (y.cleared, y.qerr)) = some (true, 0) ∧ bitAt (s.noteCleared.queueCtl 0) 0 = false) := by decide

/-! ### Queues, packets, launches -/

/-- The next packet of queue 0 has the OP, is legal, and `f` holds of it. -/
def Machine.State.readsWith (s : State) (code : Nat) (f : Packet → Bool) : Bool :=
  match s.nextPacket 0 with
  | .packet p => p.x.skip == 0 && s.packetGood p && p.op == code && (!p.ser || p.x.inFlight == []) && f p
  | _ => false

theorem readsPacket {s : State} {code : Nat} {f : Packet → Bool} (h : s.readsWith code f = true) : ∃ p, s.Reads 0 code p ∧ f p = true := by
  unfold State.readsWith at h
  split at h
  · next p hp =>
    simp only [Bool.and_eq_true, beq_iff_eq, Bool.or_eq_true, Bool.not_eq_true'] at h
    refine ⟨p, ⟨hp, h.1.1.1.1, h.1.1.1.2, h.1.1.2, ?_⟩, h.2⟩
    rcases h.1.2 with h | h
    · exact .inl h
    · exact .inr (.inr (.inr h))
  · cases h

/-- Fields of a packet at their offsets. -/
def pktBytes (op : Nat) (fs : List (Nat × Nat × Nat)) : List Host.Cell :=
  cells 0x120000 (leBytes 4 op) ++ fs.flatMap (fun f => cells (0x120000 + f.1) (leBytes f.2.1 f.2.2))
/-- The state of the tests with a queue whose next packet is given. -/
def pktState (x : Queue) (op : Nat) (fs : List (Nat × Nat × Nat)) : State :=
  let s := walkState 0x20000
  { s with queues := [x], dram := ⟨s.dram.cells ++ pktBytes op fs⟩, regs := { s.regs with fwstat := 1 }, walks := [] }

theorem wit_queuePackets_reads :
    (pktState aQueue 0 []).readsWith 0 (fun _ => true) = true ∧
    (pktState aQueue 2 [(4, 1, 1), (5, 1, 255), (6, 1, 1)]).readsWith 2 (fun _ => true) = true ∧
    (pktState aQueue 3 [(8, 8, 0x150000)]).readsWith 3 (fun p => (((pktState aQueue 3 [(8, 8, 0x150000)]).takePacket p).packetWord p).any (fun l =>
      ((pktState aQueue 3 [(8, 8, 0x150000)]).takePacket p).waitMet l (p.f 0x10 8))) = true ∧
    (let s := pktState aQueue 3 [(8, 8, 0x150000), (0x10, 8, 7)]
     s.readsWith 3 (fun p => ((s.takePacket p).packetWord p).any (fun l => !(s.takePacket p).waitMet l (p.f 0x10 8) &&
       !((s.takePacket p).holdQueue 0 (.wait p.n l (p.f 0x10 8) p.irq)).poisonIn .device l 8)) = true) ∧
    (let s := pktState aQueue 4 [(8, 8, 0x150000), (0x10, 8, 7)]
     s.readsWith 4 (fun p => ((s.takePacket p).packetWord p).isSome && ((s.takePacket p).queue? 0).isSome && (s.signalGo? 0).isNone) = true) := by
  decide
/-- An OP the table lacks, and a management OP on another queue. -/
theorem wit_queuePackets_illegal : ∀ x ∈ [(9, true), (0x400, true), (8, false)],
    (match (pktState { aQueue with mgmt := x.2 } x.1 []).nextPacket 0 with
      | .packet p => p.x.skip == 0 && !(pktState { aQueue with mgmt := x.2 } x.1 []).packetGood p && !p.legal
      | _ => false) = true := by decide
theorem wit_queuePackets_rest :
    (let s : State := { tst with queues := [aQueue] }
     s.queue? 0 = some aQueue ∧ aQueue.held = [] ∧ aQueue.full = false ∧ { aQueue with cdone := 16 }.full = true) ∧
    (∀ cmp ∈ [true, false], let x := { aQueue with hold := some (.branch 3 1 5 cmp 1 1 false), results := [(2, 1)] }
     let s : State := { tst with queues := [x] }
     s.queue? 0 = some x ∧ countDiff 3 1 ∉ x.inFlight) ∧
    (let x := { aQueue with hold := some (Hold.wait 3 ⟨.device, 0x150000⟩ 0 false) }
     let s : State := { tst with queues := [x] }
     s.queue? 0 = some x ∧ s.waitMet ⟨.device, 0x150000⟩ 0 = true) ∧
    (let x := { aQueue with sigs := [(3, ⟨.device, 0x150000⟩, 1, false)], inFlight := [3] }
     let s : State := { tst with queues := [x] }
     s.queue? 0 = some x ∧ x.full = false ∧ x.earlierDone 3 = true ∧ s.posted = [] ∧ s.lineStatus .device true ⟨.device, 0x150000⟩ = .ok) := by
  refine ⟨by decide, by decide, by decide, by decide⟩

/-- A halted context 1 with a root at 0x40000, and the packet. -/
def haltedState (fs : List (Nat × Nat × Nat)) (op : Nat) : State :=
  (pktState aQueue op fs).modCtx 1 (fun c => { c with root := 0x40000, halt := .halted })

/-- A reading of tables that has to wait. -/
def waits : TableRead → Bool
  | .wait _ => true
  | _ => false

theorem wit_managementPackets_reads :
    (haltedState [(4, 2, 1), (8, 8, 0x20000), (0x10, 8, 1), (0x18, 8, 0x10001)] 5).readsWith 5
      (fun p => !waits ((haltedState [(4, 2, 1), (8, 8, 0x20000), (0x10, 8, 1), (0x18, 8, 0x10001)] 5).rereadReads p.asid)) = true ∧
    (let s := haltedState [(4, 2, 1), (8, 8, 0x20000), (0x10, 8, 0x50000)] 6
     s.readsWith 6 (fun p => match s.moveCheck p.asid (p.f 8 8) (p.f 0x10 8) false with
       | .go _ _ => true
       | _ => false) = true) ∧
    (let s := haltedState [(4, 2, 1), (8, 8, 0x20000), (0x10, 8, 0x50001)] 6
     s.readsWith 6 (fun p => match s.moveCheck p.asid (p.f 8 8) (p.f 0x10 8) false with
       | .refuse st => st == 4
       | _ => false) = true) ∧
    (pktState aQueue 6 [(4, 2, 1), (8, 8, 0x20000)]).readsWith 6 (fun p => !(pktState aQueue 6 [(4, 2, 1), (8, 8, 0x20000)]).mayMove p.asid) = true ∧
    (∀ mode ∈ [0, 1], (haltedState [(4, 2, 1), (6, 2, mode)] 7).readsWith 7 (fun _ => true) = true) ∧
    (∀ op ∈ [0, 1, 2], (haltedState [(4, 2, 1), (6, 2, op)] 8).readsWith 8 (fun p => (((haltedState [(4, 2, 1), (6, 2, op)] 8).takePacket p).ctx? p.asid).any
        (fun c => c.afterPkts == []) && !waits ((haltedState [(4, 2, 1), (6, 2, op)] 8).rereadReads p.asid)) = true ∧ (pktState aQueue 8 [(4, 2, 1), (6, 2, op)]).readsWith 8 (fun p => ((pktState aQueue 8 [(4, 2, 1), (6, 2, op)]).takePacket p).ctx? p.asid
        |>.any (fun c => c.halt == .running)) = true) ∧
    (∀ h ∈ [HaltState.raised, .stopping], let s := (pktState aQueue 8 [(4, 2, 1), (6, 2, 1)]).modCtx 1 (fun c => { c with halt := h })
      s.readsWith 8 (fun p => !s.moving p.asid && !waits (s.rereadReads p.asid) && ((s.takePacket p).ctx? p.asid).any (fun c => c.halt == h)) =
        true) ∧
    (∀ op ∈ [0, 1, 2], let s := pktState aQueue 8 [(4, 2, 7), (6, 2, op)]
      s.readsWith 8 (fun p => !s.moving p.asid && ((s.takePacket p).ctx? p.asid).isNone) = true) ∧
    (let s := { haltedState [] 0 with regs := { (haltedState [] 0).regs with ctxtBase := 0x100007 } }
     (s.ctx? 1).map (·.asid) = some 1 ∧ (s.ctxtWords 1).isSome = true ∧ (match s.rereadReads 1 with
       | .ok => true
       | _ => false) = true) := by decide
/-- An entry of the context table that is poisoned. -/
theorem wit_managementPackets_lostEntry :
    let s0 := haltedState [] 0
    let s := { s0 with regs := { s0.regs with ctxtBase := 0x100007 }, mem := { s0.mem with bad := [(0x100000 + 64) / 32, (0x100000 + 32) / 32, (0x100000 + 16) / 32] } }
    (match s.rereadReads 1 with
      | .bad _ => true
      | _ => false) = true := by decide
/-- The launch named by ABORT, started and not. -/
theorem wit_managementPackets_abort : ∀ st ∈ [LaunchState.started, .accepted],
    (let s := (haltedState [(4, 2, 1), (6, 2, 1), (8, 4, 0)] 7).modLaunch 1 (fun l => { l with st := st })
     s.readsWith 7 (fun p => ((s.takePacket p).launches.find? (fun l => l.asid == p.asid && l.corr.toNat == p.f 8 4)).any (fun l => l.st == st))
       = true) := by decide
/-- No launch has the number that ABORT names. -/
theorem wit_managementPackets_absent : let s := haltedState [(4, 2, 1), (6, 2, 1), (8, 4, 9)] 7
    s.readsWith 7 (fun p => ((s.takePacket p).launches.find? (fun l => l.asid == p.asid && l.corr.toNat == p.f 8 4)).isNone) = true := by decide

/-- An invalidation of one page, and a move of it. -/
def aJob (phase : Nat) (move : Option (Nat × Nat × Nat × List Nat)) : Job := ⟨80, 0, 3, false, 1, 0x20000, 1, some 0x10000, move, phase, [(0, 0x10000, 65536)]⟩
/-- A machine with nothing in it but that job and a queue. -/
def jobState (j : Job) : State := { State.reset with jobs := [j], queues := [aQueue] }
theorem wit_managementPackets_jobs :
    (jobState (aJob 1 none)).job? 80 = some (aJob 1 none) ∧ (jobState (aJob 1 none)).ops = [] ∧ (jobState (aJob 1 none)).ownedLocs = [] ∧ (jobState (aJob 1 none)).mem.peerOwned = [] ∧
    (jobState (aJob 1 none)).peerHeld (fun ln => (aJob 1 none).covers (128 * ln)) = [] ∧ (jobState (aJob 2 none)).job? 80 = some (aJob 2 none) ∧
    (jobState (aJob 2 none)).queue? 0 = some aQueue := by decide
theorem wit_managementPackets_copy :
    let m := some (0x10000, 0x50000, 65536, [0x30010])
    let s := jobState (aJob 0 m)
    s.job? 80 = some (aJob 0 m) ∧ ∀ l : Loc, l.kind = .device → ∀ wr, s.lineStatus (Agent.ctx 1) wr l = .ok := by
  refine ⟨by decide, fun l h wr => ?_⟩
  simp [State.lineStatus, State.owned, State.lineFree, h, jobState, State.reset, Caches.reset, Caches.dirOf, Caches.peerOwns]

/-- A launch of the test's context at another stage. -/
def launchState (up : Launch → Launch) : State := { (tst.modLaunch 1 up) with blocks := [], seqs := [], ops := [], queues := [aQueue] }

theorem wit_launches_read :
    (pktState aQueue 1 [(8, 8, 0x10080), (0x10, 2, 1)]).readsWith 1 (fun _ => true) = true ∧
    (pktState aQueue 1 [(8, 8, 0x10080), (0x10, 2, 1)]).hostQuiet = true ∧
    (let s : State := { launchState (fun l => { l with st := .queued, asid := 2 }) with queues := [{ aQueue with hold := some (Hold.launch 1) }] }
     (s.queue? 0).map (·.hold) = some (some (Hold.launch 1)) ∧ (s.launch? 1).map (·.id) = some 1 ∧ s.regs.ctxtBase.getLsbD 0 = false) := by decide
theorem wit_launches_accept :
    (tst.ctx? 1).map (fun c => { c with v := false }.v) = some false ∧ (tst.launch? 1).map (fun l => (fetchCtx 1).vfn != { l with fn := 1 }.fn) = some true ∧
    (tst.launch? 1).map (fun l => (tst.ctx? l.asid).map (fun c => c.asid == l.asid && !c.repro)) = some (some true) := by decide
theorem wit_launches_start :
    let s := launchState (fun l => { l with st := .accepted })
    (s.launch? 1).map (fun l => l.id == 1 && s.mayStart l) = some true := by decide
theorem wit_launches_complete :
    (let s := launchState id
     (s.launch? 1).map (fun l => (s.ctx? l.asid).map (fun c => l.id == 1 && l.st == .started && c.halt == .running && !s.launchBusy l &&
       l.binSets == [] && l.desc.result == 0)) = some (some true) ∧ s.accBins = [] ∧ s.spilled = [] ∧ s.replays = []) ∧
    (let l : Launch := { fetchLaunch 1 1 with desc := { fetchDesc with result := 0x10000 } }
     let s : State := { launchState id with tlb := [{ fetchTlb 1 with at_ := .part 0 }] }
     l.desc.result ≠ 0 ∧ (match s.cpPlace ⟨1, 0, 0⟩ 0x10000 .store with
       | .ok _ => true
       | .error _ => false) = true) := by decide
theorem wit_launches_mode :
    (regsState (fun r => { r with l2cfg := { r.l2cfg with swp := true } })).regs.l2cfg.swp = true ∧ State.reset.ctxs = [] ∧ State.reset.modeCached = false ∧
    State.reset.peerHeld (fun _ => true) = [] ∧ { cirqueState 6 0 1 aLoad with ctxs := [] }.modeCached = true ∧
    { cirqueState 6 0 1 aLoad with ctxs := [] }.peerHeld (fun _ => true) = [] := by decide

/-! ### Halts, the peer directory, scrubs -/

/-- The tests' context at a stage of its halt. -/
def haltState (h : HaltState) (as : List HaltAgent) : State := tst.modCtx 1 (fun c => { c with halt := h, agents := as })

theorem wit_halts :
    ((haltState .raised []).ctx? 1).map (·.halt) = some .raised ∧ (haltState .raised []).haltAgents 1 ≠ [] ∧
    { haltState .raised [] with blocks := [], seqs := [] }.haltAgents 1 = [] ∧
    (∀ as ∈ [[HaltAgent.group ⟨2, 0⟩], [.group ⟨2, 0⟩, .cirque 0]],
      ((haltState .stopping as).ctx? 1).map (fun c => (c.halt, c.agents)) = some (.stopping, as) ∧ .group ⟨2, 0⟩ ∈ as) ∧
    ((tst.group? ⟨2, 0⟩).map (·.ended) = some false ∧ (tst.block? 2).isSome = true) ∧ (tst.seq? ⟨0, 0⟩).map (fun x => x.st != .stopped) = some true ∧
    (tst.ctx? 1).map (fun c => c.afterPkts == [] && c.halt == .running) = some true := by decide
theorem wit_halts_samples :
    (∀ c ∈ tst.ctxs, bitAt ((tst.asidInfo c.asid).reg 0x80) 0 = false) ∧ tst.ctxs.length = 1 ∧
    (let s := (launchState (fun l => { l with st := .queued })).modCtx 1 (fun c => { c with repro := true, dtMode := 2 })
     (s.ctx? 1).map (fun c => c.repro && c.dtMode == 2 && c.halt == .running) = some true ∧ (s.traceWaits 1).map (fun w => (w.1, w.2.1)) = [(.processor, 0xC000)]) := by decide

/-- The machine with the link up and line 5 in a state of the peer directory. -/
def pairState (d : List (Nat × DirState)) (t : List (Nat × HomeWait)) (ans : List (Nat × Option (Vector Byte 128))) (r : List RdcLine) : State :=
  let s := regsState (fun r => { r with pairstat := 2 })
  { s with mem := { s.mem with dir := d, homeTxn := t, peerAns := ans, rdc := r } }

theorem wit_peerDirectory_free : ∀ d ∈ [[], [(5, DirState.ps)], [(5, .pm)]], (pairState d [] [] []).Free 5 := by
  intro d hd
  have e : [[], [(5, DirState.ps)], [(5, .pm)]].all (fun d => let s := pairState d [] [] []
    s.linkUp && !s.inTxn 5 && !s.owned ⟨.device, 640⟩ && s.mem.dirOf 5 != some .pl && (s.dirVictim 5).isNone) = true := by decide
  have := List.all_eq_true.mp e d hd
  simp only [Bool.and_eq_true, Bool.not_eq_true', bne_iff_ne, Option.isNone_iff_eq_none] at this
  exact ⟨this.1.1.1.1, this.1.1.1.2, this.1.1.2, this.1.2, this.2⟩
theorem wit_peerDirectory_answers :
    (∀ k ∈ [HomeWait.inv, .recall, .recallInv], let s := pairState [(5, .ps)] [(5, k)] [] []
      s.linkUp = true ∧ (5, k) ∈ s.mem.homeTxn ∧ s.peerAnswered 5 = false ∧ (k ≠ .recall → (5, HomeWait.recall) ∉ s.mem.homeTxn)) ∧
    (∀ dirty ∈ [true, false], let r : RdcLine := { part := 0, asid := 0, line := 5, dirty := dirty, poison := 0, data := lineWith [] }
      (pairState [] [] [] [r]).linkUp = true ∧ (pairState [] [] [] [r]).mem.rdc.any (fun l => l.line == 5) = true ∧
      (pairState [] [] [] [r]).mem.rdc.any (fun l => l.line == 5 && l.dirty) = dirty ∧
      (pairState [] [] [] [r]).mem.rdc.all (fun l => l.dirty == dirty) = true) ∧
    (∀ k ∈ [HomeWait.inv, .recall, .recallInv], ∀ d ∈ [none, some (lineWith [])], let s := pairState [(5, .pm)] [(5, k)] [(5, d)] []
      (5, k) ∈ s.mem.homeTxn ∧ s.peerAnswered 5 = true ∧ s.mem.homeTxn.find? (fun t => t.1 == 5) = some (5, k) ∧
      s.mem.peerAns.find? (fun a => a.1 == 5) = some (5, d)) := by
  decide
theorem wit_scrubbing :
    ((regsState (fun r => { r with serr := r.serr.set 3 { cnt := 9, thr := 10, int := false, ue := false, src := 0 } })).regs.serr[(3 : Fin 8)]).thr ≠ 0 ∧
    ((regsState (fun r => { r with serr := r.serr.set 3 { cnt := 9, thr := 10, int := false, ue := false, src := 0 } })).regs.serr[(3 : Fin 8)]).cnt.toNat + 1 =
      10 ∧ (tst.block? 2).map (fun b => (tst.ctx? b.asid).isSome) = some true ∧ 131072 / 65536 = 2 ∧
    (∀ c ∈ [true, false], let r : RdcLine := { part := 0, asid := 0, line := 5, dirty := c, poison := 0, data := lineWith [] }
      (pairState [] [] [] [r]).mem.rdc.any (fun l => l.part == 0 && l.line == 5 && l.dirty == c) = true) ∧
    (let s := cirqueState 6 0 1 aLoad
     ((s.regs.cq[(0 : Fin 8)]).toList.findIdx? (fun e => e.v && (s.ctx? e.asid.toNat).isSome)).isSome = true ∧
     s.ctxs.any (fun c => (s.ctx? c.asid).map (·.asid) == some c.asid) = true) := by decide
/-- A line that the peer die's engine may take, and one that it has taken. -/
theorem wit_copiesOfPeer :
    (let s := pairState [] [] [] []
     s.linkUp = true ∧ ∀ n ∈ [5, 6], s.lineFree .device true ⟨.device, 128 * n⟩ = .ok) ∧
    (let s0 := pairState [] [] [] []
     let s := { s0 with mem := { s0.mem with peerOwned := [(5, 0)] } }
     s.mem.peerOwned.find? (fun x => x.1 == 5) = some (5, 0) ∧ s.linkUp = true ∧ s.ownedBefore 0 ⟨.device, 128 * 5⟩ = false) := by decide

/-! ### Encodings, steps, checks, the handler, the invariant -/

theorem wit_decodeReadsEncode :
    (∀ i ∈ [Instr.dp4aS false (.v 10) (.v 11) (.v 12), .xor16 true 31 31, .bfeu false (.v 4) (.v 9) (.lit32 0x508), .mul true (.a 2) (.a 2) (.lit64 1)],
      i.wf = true ∧ i.isEncoded = true ∧ i.isStream = false) ∧
    (∀ i ∈ [Instr.mnop, .mloop 3 4095 4095, .mmaS4Sp8 aWord], i.wf = true ∧ i.isEncoded = true ∧ i.isStream = true ∧ (encode i).length = 2) := by decide
theorem wit_encodeWritesDecode :
    decode [0x0A7D, 0x0C0B, 0] = .ok (.dp4aS false (.v 10) (.v 11) (.v 12)) 4 ∧ decodeStream 0x43 = .ok (.marr 1) 4 := by decide

/-- The head of an agenda, a chosen instruction, a stream word, a stopped clock. -/
theorem wit_stepRunsDecoded :
    (let s : State := { tst with agenda := [.mnop] }
     s.regs.clockStopped = false ∧ s.agenda = [.mnop]) ∧
    (let s := State.reset.withFetchWord 32 0x0C0B0A7D
     let s1 : State := { s with clk := s.clk + 1 }
     s.regs.clockStopped = false ∧ s.agenda = [] ∧ s.clk % 3 = 0 ∧ (s.clk + 1) % 65536 ≠ 0 ∧ s1.choose.any (fun c => (s1.at_ c).view?.any (fun w => w.dueCause.isNone &&
       (match w.xlate w.sl.pc ⟨.fetch, w.g.hm, false⟩ with
         | .ok _ => true
         | _ => false) && decode (s1.codeHalves (clusterOfCore w.g.core) w.b.asid w.sl.pc.toNat) == .ok (.dp4aS false (.v 10) (.v 11) (.v 12)) 4 &&
       nextPage w.sl.pc 4 == none)) = true) ∧
    (let s := State.reset.withFetchWord 32 0x02
     let s1 : State := { s with clk := s.clk + 1 }
     s.regs.clockStopped = false ∧ s.agenda = [] ∧ s.clk % 3 = 1 ∧ (s.clk + 1) % 65536 ≠ 0 ∧ s1.seqTurn.length = 1 ∧ s1.seqTurn.all (fun x => x.st == .run && x.key.index < 4 &&
       x.wordHere == some 2 && (s.block? x.blk).any (fun b => s1.ctxRuns b.asid) && decodeStream 2 == .ok (.mwait 0 false) 4 && x.step.isNone) = true) ∧
    (let s := regsState (fun r => { r with clockStopped := true })
     s.regs.clockStopped = true ∧ s.agenda = []) := by
  refine ⟨by decide, by decide, by decide, by decide⟩

/-- One state for each check: those before it pass. -/
theorem wit_checksInOrder :
    let seen := fun (s : State) (p : View → Bool) => s.view?.any (fun w => w.open && p w)
    let c : Cause := { code := 0x19, sub := 0, tval := 0, slot := 1 }
    let quiet := fun (w : View) => w.dueCause.isNone && w.g.pendingOf false w.sl.guardRegs == []
    seen (tstG (fun g => { g with deferred := [c] })) (fun w => w.dueCause == some c) = true ∧
    seen (tst.putAsid ((((tst.asidInfo 1)).dbgWrite 0 0x10000).dbgWrite 1 0x80000000)) (fun w => quiet w && w.breakpoint == some 0) = true ∧
    seen (tstG (fun g => { g with role := .cpy, vregs := 4 })) (fun w => quiet w && w.breakpoint.isNone && !w.g.hasOpnd (.v 4) && w.g.hasOpnd (.v 0) &&
      !roleOk w.g.role w.b.mx { len := 4, e := false, srcs := [.v 0] }) = true ∧
    seen tst (fun w => quiet w && w.breakpoint.isNone && w.g.hasOpnd (.v 0) && roleOk w.g.role w.b.mx { len := 4, e := false, srcs := [.v 0, .latch] } &&
      w.g.pendingOf false [.v 0] == [] && w.sl.latch.isNone) = true ∧
    seen (tstG (lanesG 1)) (fun w => quiet w && w.breakpoint.isNone && w.act != w.g.emask && uniformDst w.g.hm (.s 0) && !uniformDst w.g.hm (.v 0)) = true ∧
    (let s := tstG (fun g => { g with tokNew := [.s 5] })
     let f : Form := { len := 4, e := false, srcs := [.s 5] }
     ∃ w, s.view? = some w ∧ s.gate f noCheck noCheck = .go w ∧ ∃ r ∈ w.g.tokNew, r ∈ f.reads w.g.hm) := by
  refine ⟨by decide, by decide, by decide, by decide, by decide, _, rfl, rfl, .s 5, by decide, by decide⟩

/-- The tests' context with a handler at an address. -/
def handledState (hpc : DWord) : State := tst.modCtx 1 (fun c => { c with hpc := hpc, fth := true })
theorem wit_handlerEntry :
    ((handledState 0x40).group? ⟨2, 0⟩).map (fun g => (g.hm, g.slot0.wait, g.slot1.wait)) = some (false, none, none) ∧
    ((handledState 0x40).ctx? 1).map (fun c => (c.hpc, c.fth, c.halt)) = some (0x40, true, .running) ∧
    ((handledState 0).ctx? 1).map (fun c => (c.hpc, c.halt)) = some (0, .running) ∧
    ((tstG (fun g => { g with hm := true })).group? ⟨2, 0⟩).map (·.hm) = some true := by
  refine ⟨by decide, by decide, by decide, by decide⟩

/-- A state with memory that has the form, and a step from it. -/
theorem wit_invariantOfSteps : State.reset.MemoryWf ∧
    (match step { State.reset with dram := ⟨[(3, 1), (70, 2)]⟩ } with
      | .next _ => true
      | _ => false) = true ∧ State.MemoryWf { State.reset with dram := ⟨[(3, 1), (70, 2)]⟩ } := by
  refine ⟨?_, by decide, ?_⟩
  · exact ⟨by decide, by decide, by decide, fun b hb => by cases hb⟩
  · exact ⟨by decide, by decide, by decide, fun b hb => by cases hb⟩

/-! ### Local accesses at their counts and past the allocation -/

/-- Every count at 63; only lanes past the allocation of a5's first 16; a6 misaligned, and out of the allocation from lane 16 on. -/
def fullG (g : Group) : Group := { g with ldCnt := 63, stCnt := 63 }
/-- Slot 0 covered by a guard that lets lane 31 alone act. -/
def lastLaneG (g : Group) : Group := { g with slot0 := { g.slot0 with gleft := 1, gmask := 0x80000000 } }
/-- The same beside an address misaligned in lanes 0 to 15 and out of the allocation in the others. -/
def skewG (g : Group) : Group := { g with a := g.a.set 5 ⟨2, 64⟩ }

theorem wit_localStoreAccesses_full :
    (tstA fullG).Meets (formLdl false (.v 0) (.a 4) plainMem)
      (fun _ => badAddr false (.a 4) || !opndRunOk (.v 0) 1 || Width.w32 == .rsvd || CachePol.normal != .normal || ((Opnd.a 4).isLit && false))
      (fun w => !w.clsRule (.v 0) [.a 4] false) (fun w => w.act != 0 && w.g.ldCnt == 63) ∧
    (tstA fullG).Meets (formStl false (.v 0) (.a 5) plainMem)
      (fun _ => badAddr false (.a 5) || badStoreData (.v 0) .w32 || Width.w32 == .rsvd || Width.w32 == .s8 || Width.w32 == .s16 ||
        CachePol.normal != .normal || ((Opnd.a 5).isLit && false)) (fun _ => wideA (.v 0) .w32) (fun w => w.act != 0 && w.g.stCnt == 63) ∧
    ∀ ret ∈ [true, false], (tstA fullG).Meets (formAtoml false (.v 0) (.a 4) ⟨.add, ret, .die⟩)
      (fun _ => badAddr false (.a 4) || badAtomData (.v 0) .add) (fun _ => atomCls (.v 0) ⟨.add, ret, .die⟩)
      (fun w => w.act != 0 && w.atomFull ⟨.add, ret, .die⟩) := by
  refine ⟨meets (by decide), meets (by decide), fun ret h => ?_⟩
  simp only [List.mem_cons, List.mem_nil_iff, or_false] at h
  rcases h with rfl | rfl <;> exact meets (by decide)
/-- Every active lane is out of the allocation, and others of the slot are not active; a misaligned lane beside one out of range. -/
theorem wit_localStoreAccesses_none :
    let bad := fun (_ : View) => badAddr false (.a 5) || badStoreData (.v 0) .w32 || Width.w32 == .rsvd || Width.w32 == .s8 || Width.w32 == .s16 ||
      CachePol.normal != .normal || ((Opnd.a 5).isLit && false)
    (tstA lastLaneG).Meets (formStl false (.v 0) (.a 5) plainMem) bad (fun _ => wideA (.v 0) .w32)
      (fun w => let as := w.localAddrs (.a 5) 0
        let off := laneMask (as.map (·.1))
        off == 0x80000000 && as.all (fun a => w.b.alloc < a.2 + 4) && (w.sl.mask &&& ~~~off) != 0) ∧
    ((tstA id).modGroup ⟨2, 0⟩ skewG).Meets (formStl false (.v 0) (.a 5) plainMem) bad (fun _ => wideA (.v 0) .w32)
      (fun w => let as := w.localAddrs (.a 5) 0
        laneMask ((as.filter (fun a => w.b.alloc < a.2 + 4)).map (·.1)) != 0 &&
          ((as.filter (fun a => a.2 + 4 ≤ w.b.alloc)).find? (fun x => x.2 % 4 != 0)).isSome) := 
  ⟨meets (by decide), meets (by decide)⟩

/-! ### Entries that wait, steps and traces -/

/-- A group with a handler whose slot 1 waits in a `tq.pop` that has taken its record. -/
def poppingState (up : Group → Group) (b : OpBody) : State :=
  let s := tstG (fun g => up { g with slot1 := { g.slot0 with mask := 0, st := .wait, wait := some (.tqPop tst.ids) } })
  (s.modCtx 1 (fun c => { c with hpc := 0x40, fth := true })).addOp ⟨2, 0⟩ 1 b
/-- A pop that has started. -/
def startedPop : OpBody := .slice (.pop 960 none none) { txn with started := true }

/-- The entry of a cause is held behind the pop, not where the pop has not begun; the deferred cause and the held one (R448). -/
theorem wit_deferredCauses_held :
    let c : Cause := { code := 0x19, sub := 0, tval := 0, slot := 0 }
    (poppingState id startedPop).entryHeld ⟨2, 0⟩ 1 c = true ∧
    (poppingState id (.slice (.pop 960 none none) txn)).entryHeld ⟨2, 0⟩ 1 c = false ∧
    (let s := poppingState (fun g => { g with deferred := [c] }) startedPop
     (s.ctx? 1).map Ctx.runs = some true ∧ (s.block? 2).map (·.st) = some .resident ∧ (s.group? ⟨2, 0⟩).map (fun g => !g.hm && !g.stopped && !g.ended &&
      g.entering.isNone && [0, 1].find? (fun n => (g.slot n).st == .ready && g.deferred.any (fun c => c.code != 3 || c.slot == n)) == some 0 &&
      g.deferred.find? (fun c => c.code != 3 || c.slot == 0) == some c) = some true ∧ s.entryHeld ⟨2, 0⟩ 1 c = true) ∧
    (let s := tstG (fun g => { g with entering := some c })
     (s.group? ⟨2, 0⟩).map (fun g => !g.hm && !g.stopped && !g.ended && g.entering == some c) = some true ∧ s.entryHeld ⟨2, 0⟩ 1 c = false) := by decide
/-- A `trap` and a watched access whose entries are held, and a `trap` that is not. -/
theorem wit_trapsAndReturn_held :
    (poppingState id startedPop).Meets { len := 4, e := false, srcs := [.inl 14] } noCheck (fun w => !w.atMost .s (.inl 14))
      (fun w => w.act != 0 && w.s.entryHeld w.k w.b.asid { code := 6, sub := 0, tval := w.sval (.inl 14), slot := w.n }) ∧
    tst.Meets { len := 4, e := false, srcs := [.inl 14] } noCheck (fun w => !w.atMost .s (.inl 14))
      (fun w => w.act != 0 && !w.s.entryHeld w.k w.b.asid { code := 6, sub := 0, tval := w.sval (.inl 14), slot := w.n }) :=
  ⟨meets (by decide), meets (by decide)⟩
/-- A group that is stepped outside its handler, at an instruction, with and without a pop that holds the entry. -/
theorem wit_stepTraps : ∀ b ∈ [aLoad, startedPop], ∃ w, (poppingState (fun g => { g with sstep := true }) b).Issues { len := 4, e := false }
    noCheck noCheck w ∧ (w.g.sstep && !w.g.hm && w.s.traces.isEmpty) = true := by
  intro b h
  simp only [List.mem_cons, List.mem_nil_iff, or_false] at h
  rcases h with rfl | rfl <;> exact State.issuesWith_issues (by decide)

/-- The group traced, at a stage of its run, its core's run having issued some instructions. -/
def tracedState (n runs : Nat) (e : Bool) : State :=
  { tst with traces := [⟨(tst.group? ⟨2, 0⟩).elim 0 (·.core), ⟨2, 0⟩, 0, n, 0x10000, 0xFFFFFFFF, 5⟩]
             runs := if e then [{ core := (tst.group? ⟨2, 0⟩).elim 0 (·.core), gk := ⟨2, 0⟩, slot := 0, count := runs }] else [] }
/-- The first instruction of a traced run, one inside it, the 24th of the core's run, one with E = 1; a run that ends with and without
instructions. -/
theorem wit_traceRecords_runs :
    (∀ x ∈ [(0, 0, false), (5, 5, true), (23, 23, true)], ∃ w, (tracedState x.1 x.2.1 x.2.2).Issues { len := 4, e := false } noCheck noCheck w ∧
      (!w.g.sstep && (tracedState x.1 x.2.1 x.2.2).traces.any (fun t => t.gk == w.k && t.count == x.1) &&
        (tracedState x.1 x.2.1 x.2.2).runCount w.g.core w.k w.n == x.2.1) = true) ∧
    ∃ w, (tracedState 0 0 false).Issues { len := 4, e := true } noCheck noCheck w ∧ (!w.g.sstep) = true := by
  refine ⟨fun x h => ?_, State.issuesWith_issues (by decide)⟩
  simp only [List.mem_cons, List.mem_nil_iff, or_false] at h
  rcases h with rfl | rfl | rfl <;> exact State.issuesWith_issues (by decide)
/-- Debug registers of address space 1. -/
def dbgState (rs : List (Nat × Nat)) (s : State) : State := s.putAsid (rs.foldl (fun a r => a.setReg r.1 r.2) (s.asidInfo 1))
/-- Trace buffers with room, full, without a place, and of a wrong size. -/
theorem wit_traceRecords_buffers :
    let place := fun (s : State) => let a := s.asidInfo 1
      s.ringPlace (((s.ctx? 1).map (·.vfn)).getD 0) (a.reg 0x88 + a.reg 0x89 * 2 ^ 32) 12 (2 ^ (a.reg 0x8A % 32))
    let used := fun (s : State) => let a := s.asidInfo 1
      (a.reg 0x8B + 2 ^ 32 - a.reg 0x8C) % 2 ^ 32
    let full := dbgState [(0x88, 0x100000), (0x8A, 12), (0x8B, 4096)] tst
    let room := dbgState [(0x88, 0x100000), (0x8A, 12), (0x8B, 0), (0x8C, 0xFFFFF020)] tst
    (place room).isSome = true ∧ used room + 32 ≤ 2 ^ 12 ∧ (place full).isSome = true ∧ 2 ^ 12 < used full + 32 ∧
      place (dbgState [(0x88, 0x100001), (0x8A, 12)] tst) = none ∧ ((dbgState [(0x8A, 25)] tst).asidInfo 1).reg 0x8A % 32 = 25 := by decide
/-- TEN set, for a group that is traced and one that is not, a candidate on a core without a traced group, one excluded by its number. -/
theorem wit_traceRecords_groups :
    let on := dbgState [(0x80, 0x20)] tst
    let out := dbgState [(0x80, 0x20), (0x90, 1), (0x91, 1)] tst
    bitAt ((on.asidInfo 1).reg 0x80) 5 = true ∧ on.traces = [] ∧ (tracedState 0 0 false).traces.any (fun t => t.gk == ⟨2, 0⟩) = true ∧
    bitAt ((tst.asidInfo 1).reg 0x80) 5 = false ∧
    (on.block? 2).map (fun b => b.groups.all (fun g => !g.ended && (g.gid ^^^ BitVec.ofNat 32 ((on.asidInfo b.asid).reg 0x90)) &&&
      BitVec.ofNat 32 ((on.asidInfo b.asid).reg 0x91) == 0) && !bitAt ((on.asidInfo b.asid).reg 0x92) 31 && b.groups.length == 1) = some true ∧
    (out.block? 2).map (fun b => b.groups.all (fun g => (g.gid ^^^ BitVec.ofNat 32 ((out.asidInfo b.asid).reg 0x90)) &&&
      BitVec.ofNat 32 ((out.asidInfo b.asid).reg 0x91) != 0)) = some true := by decide

/-! ### Page tables -/

/-- An entry of a page table. -/
def pte (addr low : Nat) : List Byte := leBytes 8 (addr + low)
/-- The machine with the tests' context, its root at 0x40000, whose first entry and the ones below it are given: `e0` at 0x40000, `e1` at
0x50000, the leaves from 0x60000 on. -/
def tableOf (e0 e1 : List Byte) (leaves : List Byte) : State :=
  { tst.modCtx 1 (fun c => { c with root := 0x40000 }) with
    dram := ⟨cells 0x40000 e0 ++ cells 0x50000 e1 ++ cells 0x60000 leaves⟩, tlb := [] }
/-- Whether an entry can be read and has a value. -/
def isEntry (s : State) (pa : Nat) (e : DWord) : Bool :=
  s.lineStatus (.ctx 1) false ⟨.device, pa⟩ == .ok && !s.poisonIn (.ctx 1) ⟨.device, pa⟩ 8 && s.numAt (.ctx 1) ⟨.device, pa⟩ 8 == e.toNat
theorem entry {s : State} {pa : Nat} {e : DWord} (h : isEntry s pa e = true) : s.Entry ⟨some 1, false⟩ pa e := by
  simp only [isEntry, Bool.and_eq_true, beq_iff_eq, Bool.not_eq_true'] at h
  exact ⟨h.1.1, h.1.2, h.2⟩
/-- The entries of a walk of VA 0x20000: at the root not valid, of a bad shape, naming a table; in the middle not valid, a misaligned and an
aligned mapping, a table; a leaf not valid, of a bad shape, a page alone. -/
theorem wit_pageWalk_root : ∀ e ∈ [0, 1, 0x50003], isEntry (tableOf (leBytes 8 e) [] []) 0x40000 (BitVec.ofNat 64 e) = true := by decide
theorem wit_pageWalk_middle : ∀ e ∈ [0, 0x10001, 0x20000001, 0x60003],
    isEntry (tableOf (pte 0x50000 3) (leBytes 8 e) []) 0x50000 (BitVec.ofNat 64 e) = true := by decide
theorem wit_pageWalk_leaf : ∀ e ∈ [0, 0x50003, 0x50061],
    isEntry (tableOf (pte 0x50000 3) (pte 0x60000 3) (leBytes 16 0 ++ leBytes 8 e)) 0x60010 (BitVec.ofNat 64 e) = true := by decide
/-- A table's address that is sound, misaligned, out of its function's range; nothing cached of the walk. -/
theorem wit_pageWalk :
    let s := tableOf (pte 0x50000 3) (pte 0x60000 3) []
    s.tableBad 0 0x40000 = none ∧ s.tableBad 0 0x40001 = some 5 ∧ s.tableBad 3 0x50000 = some 7 ∧
    s.walkCached 0 1 1 (bitsAt 0x20000 29 25) = none ∧ s.walkCached 0 1 0 (bitsAt 0x20000 42 12) = none ∧
    (s.ctx? 1).map (fun c => (c.root, c.vfn)) = some (0x40000, 0) := by decide
/-- A root entry that is poisoned, and one whose line is lost. -/
theorem wit_pageWalk_poison :
    let s0 := tableOf (pte 0x50000 3) (pte 0x60000 3) []
    let s := { s0 with mem := { s0.mem with bad := [0x40000 / 32] } }
    let t := { s0 with mem := { s0.mem with dir := [(0x40000 / 128, .pl)] } }
    s.lineStatus (.ctx 1) false ⟨.device, 0x40000⟩ = .ok ∧ s.poisonIn (.ctx 1) ⟨.device, 0x40000⟩ 8 = true ∧
    t.lineStatus (.ctx 1) false ⟨.device, 0x40000⟩ = .lost := by decide
/-- 32 leaves of VA 0 to 0x1FFFFF that agree, from an address on. -/
def runState (k : Nat) : State :=
  { tst.modCtx 1 (fun c => { c with root := 0x40000 }) with
    dram := ⟨(List.range 32).flatMap (fun j => [(0x60000 + 8 * j, 0x61), (0x60001 + 8 * j, 1), (0x60002 + 8 * j, BitVec.ofNat 8 (k + j))])⟩, tlb := [] }
theorem wit_pageWalk_run : ∀ k ∈ [0x20, 0x21], ∀ j ∈ List.range 32,
    isEntry (runState k) (0x60000 + 8 * (2 / 32 * 32 + j)) (BitVec.ofNat 64 (65536 * k + 65536 * j + 0x161)) = true := by decide
/-- Mappings that pass every check, and that fail at some. -/
theorem wit_pageWalk_checks :
    let u : Use := ⟨.store, false, false⟩
    let of_ := fun (k : Nat) => { fetchTlb 1 with kind := k }
    tst.checkMapping 0 (of_ 0) 0x10000 u 0 = .ok ⟨.device, 0x10000⟩ ∧ kindOf 5 = none ∧
    tst.checkMapping 3 (of_ 0) 0x10000 u 0 = .fault { cause := 0x20, sub := 7, level := 3, ent := 0, pa := 0x10000 } ∧
    tst.checkMapping 0 (of_ 4) 0x10000 ⟨.load, false, false⟩ 0 = .fault { cause := 0x20, sub := 9, level := 3, ent := 0 } := by decide
/-- An address out of range; a page that a core's TLB holds, and one that it does not. -/
theorem wit_translationsHeld :
    (0x40000000000000#64).toNat / 2 ^ 54 ≠ 0 ∧
    (let s : State := { tst with tlb := [fetchTlb 1, { fetchTlb 1 with at_ := .part 0 }] }
     (s.tlbFind (some 0) 0 1 0x10000).isSome = true ∧ s.tlbFind (some 0) 0 1 0x20000 = none ∧ (fetchTlb 1).covers 1 0x10000 = true) := by decide

/-! ### Copies: engines, records, claims -/

/-- An engine that holds 32 commands. -/
theorem wit_copyCommandsIssue_engine : ∀ c ∈ copyInstrs, { tstA id with cmds := List.replicate 32 aCopy }.Meets (copyForm false .none (.s 56) c.2.1)
    (fun _ => !opndRunOk (.s 56) c.2.1) noCheck (fun w => w.act != 0 && w.g.cpCnt < 63 && 32 ≤ w.s.engineLoad (engineOf w.b.cluster)) :=
  meetsAll (by decide)
/-- Records at the last place of the block, past it, misaligned. -/
theorem wit_copyCommandsIssue_records :
    (tstA (paramG 960)).view?.map (fun w => (w.param (.s 0) 0).toNat + 64 ≤ w.b.alloc && (w.param (.s 0) 0).toNat % 64 == 0) = some true ∧
    (tstA (paramG 1000)).view?.map (fun w => decide (w.b.alloc < (w.param (.s 0) 0).toNat + 64)) = some true ∧
    (tstA (paramG 4)).view?.map (fun w => (w.param (.s 0) 0).toNat + 64 ≤ w.b.alloc && (w.param (.s 0) 0).toNat % 64 != 0) = some true := by decide
/-- A gather whose indices lie in a page that nothing maps. -/
def lostGather : CopyCmd := { aCopy with body := .gath 4 0x20000 0 64 8, sls := false, src := 0x10000 }
theorem wit_copiesAccepted_indices :
    (∃ b g, (withCopy lostGather).AtEngine lostGather b g) ∧ (withCopy lostGather).groupDone lostGather.gk lostGather.id lostGather.seen = true ∧
    (match (withCopy lostGather).gathRows lostGather 1024 with
      | .fault _ f va => f.cause == 0x20 && va == 0x20000
      | _ => false) = true := by
  refine ⟨atEngine (by decide), by decide, by decide⟩
/-- The claims of a copy in the reproducible range: its word of the side table held by the peer, poisoned, and another block's. -/
def ownedCopy (up : State → State) : State :=
  up { (withCopy aCopy).modCtx 1 (fun c => { c with repro := true, rva := 0x10000, rlen := 0x10000, own := 0x20000 }) with
    dram := ⟨[(0x20008, 1), (0x2000C, 0x77)]⟩ }
/-- Its line poisoned, and lost. -/
def badWord (s : State) : State := { s with mem := { s.mem with bad := [0x20000 / 32] } }
/-- Its line in use by a transaction with the peer. -/
def busyWord (s : State) : State := { s with mem := { s.mem with dir := [(0x20000 / 128, .pm)], homeTxn := [(0x20000 / 128, .recall)] } }
theorem wit_copiesAccepted_claims :
    (∀ up ∈ [id, badWord, busyWord], (ownedCopy up).cmd? 900 = some aCopy) ∧ aCopy.refusal 1024 = 0 ∧ aCopy.fr = false ∧
    (match (ownedCopy badWord).copyClaimStop aCopy with
      | some (.fault f) => f.cause == 0x23
      | _ => false) = true ∧
    (ownedCopy id).copyClaimStop aCopy = none ∧ (ownedCopy id).copyClaims aCopy = none := by
  refine ⟨?_, by decide, by decide, by decide, by decide, ?_⟩
  · intro up h
    simp only [List.mem_cons, List.mem_nil_iff, or_false] at h
    rcases h with rfl | rfl | rfl <;> decide
  · have h : ((ownedCopy id).copyClaims aCopy).isNone = true := by decide
    simpa using h
/-- A `st` whose claims have to wait, and take a fault. -/
theorem wit_memoryAccesses_claims : ∀ up ∈ [badWord, busyWord], (up tstOwned).Meets (stForm .zero (.a 1) plainMem) (stBad .zero (.a 1) plainMem)
    (fun _ => wideA .zero .w32) (fun w => match goodLanes w ⟨.store, w.g.hm, false⟩ 4 (w.addrs (.a 1) 0) with
      | some accs => (match w.s.claimStop w.c (w.c.ownLines (accs.map (·.va.toNat))) with
        | some _ => true
        | none => false)
      | none => false) := by
  intro up h
  simp only [List.mem_cons, List.mem_nil_iff, or_false] at h
  rcases h with rfl | rfl <;> exact meets (by decide)
/-! ### The Cirque again -/

theorem wit_cirqueInstructions_binrep_full : (tstG (fun g => { paramG 0x10040 g with cpCnt := 63 })).Meets
    { len := 4, e := false, srcs := opndRun (.s 0) 2, toks := [.s 63], kind := .ray, access := true } (fun _ => !opndRunOk (.s 0) 2) noCheck
    (fun w => w.act != 0 && 63 ≤ w.g.cpCnt) := meets (by decide)
/-- An update of a region under replay. -/
theorem wit_appendsToBins_replaying :
    let s : State := { cirqueState 6 0 1 aLoad with replays := [aReplay true] }
    (match s.binSet who 0x10000 with
      | .ok (s1, d) => !d.bad && 2 ^ d.rlog ≤ s1.replBytes 0 1 && 0 < d.nreg && s1.replaying 1 0x10000 0
      | .error _ => false) = true := by decide
/-- A region replay at its end: its lines, the place of the fill count. -/
theorem wit_scatterReplays_done :
    let s : State := { cirqueState 6 1 1 aLoad with replays := [aReplay true] }
    let w := s.replayWho (aReplay true)
    s.replays.find? (fun y => y.id == 500) = some (aReplay true) ∧ s.ctxRuns 1 = true ∧ (match s.binSet w 0x10000 with
      | .ok (s1, d) => (match s1.cirqueNum w (d.binVa 0) 8 with
        | .ok (s2, n) => n == 1 && (match s2.binRead w (d.binVa 0) (List.range n) with
          | .ok (s3, recs) =>
            let mine := (s3.binRecords (aReplay true) 0x10000 0 recs).filter (fun e => d.region e.1 == 0)
            let ls := mine.filterMap (fun e => pageLoc (aReplay true).pages (d.tgt + 4 * e.1))
            mine == [(3, 7)] && s3.statusAfter w.agent true 0 ls == .ok && ls.all (fun l => !s3.poisonAt w.agent l) &&
              (match s3.cirquePlace w (d.binVa 0) true with
                | .ok _ => true
                | .error _ => false)
          | .error _ => false)
        | .error _ => false)
      | .error _ => false) = true := by
  refine ⟨by decide, by decide, by decide⟩
/-- One element, in a page whose place is known, that no watchpoint of its address space matches. -/
theorem wit_scatterReplays_write :
    pageLoc (aReplay true).pages 0x1400C = some ⟨.device, 0x1400C⟩ ∧ 0x1400C % 4 = 0 ∧ ∀ u n seen, State.reset.engineWatch 1 u n seen = [] :=
  ⟨by decide, by decide, fun u n seen => by
    have h : ∀ i < 8, bitAt ((State.reset.asidInfo 1).reg (8 * i + 68)) 31 = false := by decide
    simp only [State.engineWatch, List.filter_eq_nil_iff, List.mem_range]
    intro i hi
    simp [h i hi]⟩

/-! ### Poison -/

/-- The sector of a place poisoned in device memory. -/
def poisonedAt (pa : Nat) (s : State) : State := { s with mem := { s.mem with bad := [pa / 32] } }

theorem wit_poisonMet_load : ∀ pk ∈ [false, true],
    let accs : List LaneAcc := [⟨31, 0x30000, devLoc⟩]
    let s := poisonedAt 0x30000 (withOp (.load accs .w32 (.v 0) .bypass .plain false pk))
    ∃ o b g, o.id = opId ∧ s.Holds o b g ∧ ((s.before o).isEmpty &&
      s.statusOf (s.agentFor o.gk false) false (s.missLocs o accs 4 .bypass .plain) == .ok &&
      (s.missLocs o accs 4 .bypass .plain).find? (fun l => (s.beforeSys (s.agentFor o.gk false) []).poisonIn (s.agentFor o.gk false) l 4) == some devLoc) = true :=
  holdsAll (by decide)
theorem wit_poisonMet_atomic : ∀ x ∈ [(true, false), (false, true)],
    let ls : List LaneAtom := [⟨0, devLoc, 1, 0⟩]
    let s := poisonedAt 0x30000 (withOp (.atomic ls .add x.1 .die (.v 0) none x.2))
    ∃ o b g, o.id = opId ∧ s.Holds o b g ∧ ((s.before o).isEmpty && s.released o .die && !s.earlierLeft g.core o.id s.ids [devLoc.lineLoc] &&
      s.hostInOrder o [devLoc] && s.statusOf (s.agentFor o.gk false) true [devLoc.lineLoc] == .ok &&
      s.poisonIn (s.agentFor o.gk false) devLoc 4) = true := holdsAll (by decide)
theorem wit_poisonMet_texture :
    let s := poisonedAt 0x30000 (withOp (.tex 0 [(31, some [(16777216, 0x30000)])] (.v 124) [(0x30000, devLoc)]))
    ∃ o b g, o.id = opId ∧ s.Holds o b g ∧ ((s.before o).isEmpty && s.statusOf (s.agentFor o.gk false) false [devLoc] == .ok &&
      !(s.mem.l1Hit g.core devLoc) && s.poisonIn (s.agentFor o.gk false) devLoc (texelBytes 0)) = true := holds (by decide)
theorem wit_poisonMet_slice : ∀ x ∈ sliceCases,
    let s0 := sliceState [] x.2
    let s := poisonedAt 0x10000 { s0 with mem := { s0.mem with l2 := [] } }
    ∃ o b g, o.id = opId ∧ s.Holds o b g ∧ (o.body == .slice x.2 txn && s.sliceMay o x.2 txn && !txn.started && !s.queueHeld o.id txn.place &&
      s.lineStatus (s.sliceWho o txn).agent true txn.place == .ok && s.poisonAt (s.sliceWho o txn).agent txn.place) = true := holdsAll (by decide)

/-! ### Textures, ray groups, saves -/

/-- A texture descriptor that is poisoned, texels whose claims wait or fault. -/
theorem wit_textureInstructions_poison :
    (poisonedAt 0x10000 (tstG (paramG 0x10000))).Meets (texForm true) (fun _ => !opndRunOk (.v 0) 4 || !opndRunOk (.s 0) 2) noCheck
      (fun w => w.act != 0 && w.g.ldCnt < 63 && (match w.xlate (w.param64 (.s 0) 0) ⟨.load, w.g.hm, false⟩ with
        | .ok l => w.s.ops.isEmpty && w.s.poisonIn (.ctx w.b.asid) l 32 && w.s.lineStatus (.ctx w.b.asid) false l == .ok && !(w.s.mem.l1Hit w.g.core l)
        | _ => false)) := meets (by decide)
theorem wit_textureInstructions_claims : ∀ up ∈ ([badWord, busyWord] : List (State → State)),
    (up tstOwned).view?.map (fun w => match w.texels [(31, some [(16777216, 0x10000)])] with
      | .inr accs => (match w.s.claimStop w.c (w.c.ownLines (accs.map (·.va.toNat))) with
        | some _ => true
        | none => false)
      | _ => false) = some true := by
  intro up h
  simp only [List.mem_cons, List.mem_nil_iff, or_false] at h
  rcases h with rfl | rfl <;> decide
/-- Ray groups: a bin can form a group, so none starves. -/
theorem wit_rayGroupsForm_starve : (formState.formPlan? 0 1).isSome = true ∧ (formState.formPlan? 0 1).any (fun p => p.rays.length ≤ 32 && (p.rays.head?).isSome) = true := by
  decide
/-- A group of a block that is saved waits at each of the points, or at none. -/
theorem wit_evictionAndRestore_wakes :
    let s := tstG (waitG (.barBlk true))
    (s.group? ⟨2, 0⟩).map (fun g => s.wakeCond g g.slot0) = some (some (1, 1, 0, 0)) ∧
    (s.group? ⟨2, 0⟩).map (fun g => s.wakeCond g g.slot1) = some none ∧
    (let s := tstG (waitG (.stage 15 false))
     (s.group? ⟨2, 0⟩).map (fun g => s.wakeCond g g.slot0) = some (some (2, 0, 15, 0))) ∧
    (let s := tstG (fun g => { waitG (.regs [.v 0]) g with pend := [⟨.v 0, .var, 5, true⟩] })
     (s.group? ⟨2, 0⟩).map (fun g => (g.slot0.wait, (g.pend.find? (fun p => p.far && [RegId.v 0].contains p.reg)).isSome)) = some (some (.regs [.v 0]), true)) ∧
    tst.posted = [] ∧ tst.statusOf .device true [⟨.device, 0x30000⟩] = .ok := by
  refine ⟨by decide, by decide, by decide, by decide, by decide, by decide⟩

/-! ### The host's side again -/

/-- A debug window of a context that a virtual function owns, and of one that it does not. -/
theorem wit_hostRegisters_windows :
    ((tst.modCtx 1 (fun c => { c with vfn := 3 })).ctxFn 1) = some 3 ∧ tst.ctxFn 1 ≠ some 3 := by decide
/-- A BAR 4 offset of no doorbell; an entry that the peer holds, and one that is poisoned. -/
theorem wit_hostAccessesAndDoorbells_waits :
    (8 < 0x100000 ∧ 8 % 256 ≠ 0 ∧ 8 % 256 ≠ 4) ∧
    (let s0 := tableState 0
     let s := { s0 with mem := { s0.mem with dir := [(0x100000 / 128, .pm)], homeTxn := [(0x100000 / 128, .recall)] } }
     s.bells = [] ∧ s.bellReads 0 = true ∧ s.regs.qtab.getLsbD 0 = true ∧ s.regs.fwstat < 0x80 ∧ (match s.queueReads 0 with
      | .wait _ => true
      | _ => false) = true) ∧
    (match (poisonedAt 0x100000 (tableState 0)).queueReads 0 with
      | .bad _ => true
      | _ => false) = true ∧ (poisonedAt 0x100000 (tableState 0)).bellReads 0 = true ∧
    (match (tableState 0).queueReads 0 with
      | .ok => true
      | _ => false) = true ∧ (tableState 0).bells = [] := by decide
/-- A retrain with nothing outstanding is in `wit_firmwareLinkAndPower`; with a faulted context, an address space that left with one, a
lost line. -/
theorem wit_firmwareLinkAndPower_outstanding :
    (tst.modCtx 1 (fun c => { c with linkFault := true })).ctxs.any (·.linkFault) = true ∧
    (tst.putAsid { (tst.asidInfo 1) with linkFault := true }).asids.any (·.linkFault) = true ∧
    (pairState [(5, .pl)] [] [] []).mem.dir.any (fun e => e.2 == .pl) = true ∧ State.reset.regs.sumBusy = false ∧
    State.reset.host.wf = true := by decide
/-- A context with work and one without at the end of its halt; an engine with a command. -/
theorem wit_halts_done :
    (tst.ctx? 1).map tst.busyCtx = some true ∧
    (let s : State := { tst with blocks := [], launches := [], ops := [], seqs := [], rays := [] }
     (s.ctx? 1).map (fun c => s.busyCtx c) = some false ∧ s.launches = []) ∧ (withCopy aCopy).engineCmds 1 0 ≠ [] := by decide

/-! ### Single instructions: the results the spec's examples and tables state -/

/-- What the group shows after an instruction, where it goes on. -/
def after {α : Type} (i : Instr) (s : State) (f : Group → α) : Option α :=
  match exec i s with
  | .next t => (t.group? ⟨2, 0⟩).map f
  | _ => none
/-- V registers with one value in every lane, S registers. -/
def valsG (vs : List (Fin 128 × Word)) (ss : List (Fin 64 × Word)) (g : Group) : Group :=
  { g with v := vs.foldl (fun v x => v.set x.1.val (Vector.replicate 32 x.2) x.1.isLt) g.v,
           s := ss.foldl (fun s x => s.set x.1.val x.2 x.1.isLt) g.s }
/-- Lane 0 of a V register. -/
def lane0 (n : Fin 128) (g : Group) : Word := g.v[n][(0 : Fin 32)]
/-- The instruction in a group whose lane 0 alone is active. -/
def v0 (i : Instr) (d : Fin 128) (vs : List (Fin 128 × Word)) (ss : List (Fin 64 × Word) := []) : Option Word :=
  after i (tstG (fun g => valsG vs ss (lanesG 1 g))) (lane0 d)
/-- The instruction on S registers, every lane active. -/
def s0 (i : Instr) (d : Fin 64) (ss : List (Fin 64 × Word)) : Option Word := after i (tstG (valsG [] ss)) (fun g => g.s[d])
/-- The cause the group raises. -/
def causeOf (i : Instr) (up : Group → Group) : Option Nat :=
  match exec i (tstG up) with
  | .next t => ((t.group? ⟨2, 0⟩).bind (·.stopCause)).map (·.code)
  | _ => none

-- R309, R310, R197
theorem test_mul : v0 (.mul false (.v 4) (.v 1) (.v 2)) 4 [(1, 3), (2, 5)] = some 15 := by decide
theorem test_sub : v0 (.sub true (.v 6) (.v 4) (.v 5)) 6 [(4, 15), (5, 22)] = some 0xFFFFFFF9 := by decide
theorem test_add : s0 (.add false (.s 4) (.s 4) (.inl 0)) 4 [(4, 0xFFFFFFFF)] = some 0 := by decide
theorem test_mad : s0 (.mad false (.s 1) (.s 2) (.s 3)) 1 [(1, 5), (2, 7), (3, 9)] = some 68 := by decide
theorem test_mulhs : s0 (.mulhs false (.s 1) (.s 2) (.s 3)) 1 [(2, 0x80000000), (3, 2)] = some 0xFFFFFFFF := by decide
theorem test_mulhu : s0 (.mulhu false (.s 1) (.s 2) (.s 3)) 1 [(2, 0x80000000), (3, 2)] = some 1 := by decide
theorem test_mins : s0 (.mins false (.s 1) (.s 2) (.s 3)) 1 [(2, 0x80000000), (3, 2)] = some 0x80000000 := by decide
theorem test_maxs : s0 (.maxs false (.s 1) (.s 2) (.s 3)) 1 [(2, 0x80000000), (3, 2)] = some 2 := by decide
theorem test_minu : s0 (.minu false (.s 1) (.s 2) (.s 3)) 1 [(2, 0x80000000), (3, 2)] = some 2 := by decide
theorem test_maxu : s0 (.maxu false (.s 1) (.s 2) (.s 3)) 1 [(2, 0x80000000), (3, 2)] = some 0x80000000 := by decide
theorem test_and : s0 (.and false (.s 1) (.s 2) (.s 3)) 1 [(2, 0xF0F0), (3, 0xFF00)] = some 0xF000 := by decide
theorem test_or : s0 (.or false (.s 1) (.s 2) (.s 3)) 1 [(2, 0xF0F0), (3, 0xFF00)] = some 0xFFF0 := by decide
theorem test_xor : s0 (.xor false (.s 1) (.s 2) (.s 3)) 1 [(2, 0xF0F0), (3, 0xFF00)] = some 0x0FF0 := by decide
theorem test_andn : s0 (.andn false (.s 1) (.s 2) (.s 3)) 1 [(2, 0xF0F0), (3, 0xFF00)] = some 0x00F0 := by decide
-- R311
theorem test_shl : s0 (.shl false (.s 1) (.s 2) (.s 3)) 1 [(2, 0x800000F0), (3, 0x24)] = some 0 := by decide
theorem test_shru : s0 (.shru false (.s 1) (.s 2) (.s 3)) 1 [(2, 0x800000F0), (3, 0x24)] = some 0 := by decide
theorem test_shrs : s0 (.shrs false (.s 1) (.s 2) (.s 3)) 1 [(2, 0x800000F0), (3, 0x24)] = some 0xFFFFFFFF := by decide
theorem test_rotl : s0 (.rotl false (.s 1) (.s 2) (.s 3)) 1 [(2, 0x800000F0), (3, 0x24)] = some 0xF08 := by decide
-- R312, R313
theorem test_bfeu : v0 (.bfeu false (.v 4) (.v 9) (.lit32 0x508)) 4 [(9, 0x1234ABCD)] = some 0xB := by decide
theorem test_bfeu_top : v0 (.bfeu false (.v 4) (.v 9) (.lit32 0xF1C)) 4 [(9, 0x1234ABCD)] = some 1 := by decide
theorem test_bfes : v0 (.bfes false (.v 4) (.v 9) (.lit32 0x508)) 4 [(9, 0x1234B0CD)] = some 0xFFFFFFF0 := by decide
theorem test_bfi : v0 (.bfi false (.v 4) (.v 9) (.lit32 0xF1C)) 4 [(4, 0x1234ABCD), (9, 0xFFFFFFFF)] = some 0xF234ABCD := by decide
-- R314
theorem test_dp4aS : v0 (.dp4aS false (.v 10) (.v 11) (.v 12)) 10 [(10, 100), (11, 0x80FF7F02), (12, 0x80FF7F03)] = some 32620 := by decide
theorem test_dp4aU : v0 (.dp4aU false (.v 10) (.v 11) (.v 12)) 10 [(10, 100), (11, 0x80FF7F02), (12, 0x80FF7F03)] = some 97644 := by decide
-- R315
theorem test_mul_lane : after (.mul false (.a 2) .lane (.lit32 24)) tst (fun g => (g.a[(2 : Fin 32)].base, g.a[(2 : Fin 32)].stride.toNat)) =
    some (0, 24) := by decide
theorem test_mul_stride : causeOf (.mul false (.a 3) (.a 2) (.lit32 0x10000000)) (fun g => { g with a := g.a.set 2 ⟨0x1280000100, 24⟩ }) = some 0x14 := by
  decide
theorem test_add_wraps : after (.add false (.a 4) (.a 1) (.lit64 0xFFFFFFFFFFFFFF00)) (tstG (fun g => { g with a := g.a.set 1 ⟨0x1280000100, 0⟩ }))
    (fun g => g.a[(4 : Fin 32)].base) = some 0x1280000000 := by decide
theorem test_shl_affine : after (.shl false (.a 1) (.a 1) (.lit32 32)) (tstG (fun g => { g with a := g.a.set 1 ⟨0x12, 0⟩ }))
    (fun g => g.a[(1 : Fin 32)].base) = some 0x1200000000 := by decide
-- R309 to R311, R323: the 16-bit forms
theorem test_xor16 : v0 (.xor16 false 1 1) 1 [(1, 5)] = some 0 := by decide
theorem test_mins16 : v0 (.mins16 false 9 10) 9 [(9, 1), (10, 0xFFFFFFFF)] = some 0xFFFFFFFF := by decide
-- R316
theorem test_mov_partial : causeOf (.mov false (.s 4) (.s 5)) (lanesG 0xFFFF) = some 0x13 := by decide
theorem test_mov_class : causeOf (.mov false (.s 4) (.v 2)) (lanesG 0xFFFF) = some 0x11 := by decide
theorem test_not : s0 (.not false (.s 1) (.s 2)) 1 [(2, 5)] = some 0xFFFFFFFA := by decide
theorem test_neg : s0 (.neg false (.s 1) (.s 2)) 1 [(2, 5)] = some 0xFFFFFFFB := by decide
theorem test_abs : s0 (.abs false (.s 1) (.s 2)) 1 [(2, 0xFFFFFFFB)] = some 5 := by decide
theorem test_popc : v0 (.popc false (.v 7) (.v 7)) 7 [(7, 0x80000101)] = some 3 := by decide
theorem test_clz : s0 (.clz false (.s 5) (.s 9)) 5 [(9, 0x00800000)] = some 8 := by decide
theorem test_clz_class : causeOf (.clz false (.s 5) (.v 9)) id = some 0x11 := by decide
theorem test_ctz : s0 (.ctz false (.s 5) (.s 9)) 5 [(9, 0x00800000)] = some 23 := by decide
theorem test_brev : s0 (.brev false (.s 5) (.s 9)) 5 [(9, 0x00000003)] = some 0xC0000000 := by decide
theorem test_sextb : s0 (.sextb false (.s 5) (.s 9)) 5 [(9, 0x180)] = some 0xFFFFFF80 := by decide
theorem test_zexth : s0 (.zexth false (.s 5) (.s 9)) 5 [(9, 0x18000)] = some 0x8000 := by decide
theorem test_bswap : s0 (.bswap false (.s 5) (.s 9)) 5 [(9, 0x01020304)] = some 0x04030201 := by decide
-- R317, R318
theorem test_unpkS4 : after (.unpkS4 false (.v 16) (.v 3)) (tstG (fun g => valsG [(3, 0x8F7012A9)] [] (lanesG 1 g)))
    (fun g => [16, 17, 18, 19, 20, 21, 22, 23].map (fun n => (lane0 n g).toInt)) = some [-7, -6, 2, 1, 0, 7, -1, -8] := by decide
theorem test_packS4 : v0 (.packS4 false (.v 3) (.v 16)) 3 [(16, 0xFFFFFFF9), (17, 100), (18, 2), (19, 1), (20, 0), (21, 7), (22, 0xFFFFFFFF),
    (23, 0xFFFFFFF8)] = some 0x8F701279 := by decide
-- R321, R322
/-- The entry mask and the active lanes, a V register by lanes. -/
def lanedG (m : Mask) (n : Fin 128) (f : Fin 32 → Word) (g : Group) : Group :=
  { g with slot0 := { g.slot0 with mask := m }, emask := m, v := g.v.set n.val (Vector.ofFn f) n.isLt }
theorem test_bcastS : after (.bcastS false (.s 9) (.v 4)) (tstG (lanedG 0xFFFFFFF8 4 (fun i => BitVec.ofNat 32 (100 + i.val)))) (fun g => g.s[(9 : Fin 64)]) = some 103 := by decide
theorem test_affx : after (.affx false (.a 2) (.v 6)) (tstG (lanedG 0xFFFFFFFC 6 (fun i => BitVec.ofNat 32 (0x200 + 8 * i.val)))) (fun g => (g.a[(2 : Fin 32)].base, g.a[(2 : Fin 32)].stride.toNat, g.afx)) =
      some (0x200, 8, false) := by decide
theorem test_affx_not : after (.affx false (.a 2) (.v 6)) (tstG (lanedG 0xFFFFFFFC 6 (fun i => if i.val = 17 then 0x290 else BitVec.ofNat 32 (0x200 + 8 * i.val)))) (fun g => g.afx) = some true := by decide
-- R328, R329
theorem test_ffma : v0 (.ffma false (.v 8) (.v 1) (.v 2)) 8 [(1, 0x3F800800), (2, 0x3F800800), (8, 0xBF801000)] = some 0x33800000 := by decide +kernel
theorem test_fmul : v0 (.fmul false (.v 9) (.v 1) (.v 2)) 9 [(1, 0x3F800800), (2, 0x3F800800)] = some 0x3F801000 := by decide +kernel
theorem test_fadd : v0 (.fadd false (.v 8) (.v 8) (.v 9)) 8 [(8, 0xBF801000), (9, 0x3F801000)] = some 0 := by decide +kernel
theorem test_hadd2 : v0 (.hadd2 false (.v 9) (.v 9) (.v 10)) 9 [(9, 0x7BFF3C00), (10, 0x40003C00)] = some 0x7BFF4000 := by decide +kernel
theorem test_hfma2 : v0 (.hfma2 false (.v 9) (.v 10) (.inl 0x0C)) 9 [(9, 0x7BFF3C00), (10, 0x40003C00)] = some 0x7BFF4000 := by decide +kernel
-- R333, R335 to R338
theorem test_frcp : v0 (.frcp false (.v 5) (.v 6)) 5 [(6, 0x40400000)] = some 0x3EAAAAAC := by decide +kernel
theorem test_ffrac : v0 (.ffrac false (.v 5) (.v 6)) 5 [(6, 0xB0800000)] = some 0x3F800000 := by decide +kernel
theorem test_frintNe : v0 (.frintNe false (.v 5) (.v 6)) 5 [(6, 0xBF000000)] = some 0x80000000 := by decide +kernel
theorem test_frintDn : v0 (.frintDn false (.v 5) (.v 6)) 5 [(6, 0xBF000000)] = some 0xBF800000 := by decide +kernel
theorem test_cvtS32F32Ne : v0 (.cvtS32F32Ne false (.v 5) (.v 6)) 5 [(6, 0xC0200000)] = some 0xFFFFFFFE := by decide +kernel
theorem test_cvtS32F32Dn : v0 (.cvtS32F32Dn false (.v 5) (.v 6)) 5 [(6, 0xC0200000)] = some 0xFFFFFFFD := by decide +kernel
theorem test_cvtS32F32Z : v0 (.cvtS32F32Z false (.v 5) (.v 6)) 5 [(6, 0x4F32D05E)] = some 0x7FFFFFFF := by decide +kernel
theorem test_cvtU32F32Z : v0 (.cvtU32F32Z false (.v 5) (.v 6)) 5 [(6, 0x4F32D05E)] = some 0xB2D05E00 := by decide +kernel
theorem test_cvtF16x2F32 : v0 (.cvtF16x2F32 false (.v 4) (.v 10)) 4 [(10, 0x477FF000), (11, 0x3EAAAAAB)] = some 0x35557C00 := by decide +kernel
-- R342
/-- The predicate after a compare of lane 0. -/
def pred0 (i : Instr) (p : Fin 96) (vs : List (Fin 128 × Word)) : Option Bool :=
  after i (tstG (fun g => valsG vs [] (lanesG 1 g))) (fun g => (g.p[p]).getLsbD 0)
theorem test_cmpfGe : pred0 (.cmpfGe false (.p 3) (.v 4) (.v 5)) 3 [(4, 0x7FC00000), (5, 0x3F800000)] = some false := by decide +kernel
theorem test_cmpfUo : pred0 (.cmpfUo false (.p 3) (.v 4) (.v 5)) 3 [(4, 0x7FC00000), (5, 0x3F800000)] = some true := by decide +kernel
theorem test_cmpiLt : pred0 (.cmpiLt false (.p 3) (.v 4) (.v 5)) 3 [(4, 0x80000000), (5, 1)] = some true := by decide
theorem test_cmpuLt : pred0 (.cmpuLt false (.p 3) (.v 4) (.v 5)) 3 [(4, 0x80000000), (5, 1)] = some false := by decide
-- R347, R348
theorem test_xlaneSel : after (.xlaneSel false (.s 5) (.v 2) (.inl 3)) (tstG (fun g => { g with v := g.v.set 2 (Vector.ofFn (fun i =>
    BitVec.ofNat 32 (7 * i.val))) })) (fun g => g.s[(5 : Fin 64)]) = some 56 := by decide
theorem test_xlaneFlip : after (.xlaneFlip false (.v 6) (.v 6) (.inl 0)) (tstG (fun g => { g with v := g.v.set 6 (Vector.ofFn (fun i =>
    BitVec.ofNat 32 i.val)) })) (fun g => (g.v[(6 : Fin 128)][(0 : Fin 32)], g.v[(6 : Fin 128)][(31 : Fin 32)])) = some (1, 30) := by decide
theorem test_qbc0 : after (.qbc0 false (.v 3) (.v 3)) (tstG (fun g => { g with v := g.v.set 3 (Vector.ofFn (fun i => BitVec.ofNat 32 i.val)) }))
    (fun g => g.v[(3 : Fin 128)][(31 : Fin 32)]) = some 28 := by decide
-- R351, R352
theorem test_redAddF32 : after (.redAddF32 false (.s 2) (.v 5)) (tstG (fun g => { g with v := g.v.set 5 (Vector.ofFn (fun i =>
    if i.val = 0 then 0x4B800000 else 0x3F800000)) })) (fun g => g.s[(2 : Fin 64)]) = some 0x4B80000F := by decide +kernel
/-- R84: the sum of one active lane that holds a NaN is the canonical NaN. -/
theorem test_redAddF32_nan : after (.redAddF32 false (.s 2) (.v 5)) (tstG (fun g => { lanesG 1 (valsG [(5, 0xFFC12345)] [] g) with emask := 1 }))
    (fun g => g.s[(2 : Fin 64)]) = some 0x7FC00000 := by decide +kernel
theorem test_scanAddF32 : after (.scanAddF32 false (.v 6) (.v 5)) (tstG (fun g => { g with v := g.v.set 5 (Vector.ofFn (fun i =>
    if i.val = 0 then 0x4B800000 else 0x3F800000)) })) (fun g => (g.v[(6 : Fin 128)][(1 : Fin 32)], g.v[(6 : Fin 128)][(31 : Fin 32)])) =
      some (0x4B800000, 0x4B80000F) := by decide +kernel
-- R354
/-- Counts of work items per lane. -/
def countsG (g : Group) : Group :=
  { g with v := g.v.set 9 (Vector.ofFn (fun i => if i.val = 0 then 3 else if i.val = 2 then 5 else if i.val = 3 then 2 else 0)) }
/-- An instruction whose result comes later, then the result's arrival. -/
def landed (i : Instr) (s : State) : State :=
  match exec i s with
  | .next t => (match execVarLatencyWrite s.ids t with
    | .next u => u
    | _ => s)
  | _ => s
/-- What the group shows. -/
def shows {α : Type} (s : State) (f : Group → α) : Option α := (s.group? ⟨2, 0⟩).map f
theorem test_rebalLd : shows (landed (.rebalLd false (.v 10) (.v 9)) (tstG countsG)) (fun g => ((g.v[(10 : Fin 128)]).toList.take 5, g.rbt)) =
    some ([0, 3, 3, 8, 10], 10) := by decide
theorem test_rebalNx : shows (landed (.rebalNx false (.v 12) .zero) (landed (.rebalLd false (.v 10) (.v 9)) (tstG countsG)))
    (fun g => ((g.v[(12 : Fin 128)]).toList.take 11, (g.v[(13 : Fin 128)]).toList.take 11)) =
      some ([0, 0, 0, 2, 2, 2, 2, 2, 3, 3, 0xFFFFFFFF], [0, 1, 2, 0, 1, 2, 3, 4, 0, 1, 0xFFFFFFFF]) := by decide

-- R195, R346, R355, R357, R358
/-- PC, mask and state of both slots, and the depth of the stack. -/
def slots (g : Group) : List (Nat × Mask × SlotState) × Nat :=
  ([(g.slot0.pc.toNat, g.slot0.mask, g.slot0.st), (g.slot1.pc.toNat, g.slot1.mask, g.slot1.st)], g.sd)
theorem test_bra : after (.bra false 0x7FFFF8) tst (fun g => g.slot0.pc) = some 0xFFF0 := by decide
theorem test_call : after (.call false 0x7FFFF8) tst (fun g => (g.slot0.pc, lane0 126 g, lane0 127 g)) = some (0xFFF0, 0x10004, 0) := by decide
theorem test_jmpI : after (.jmpI false (.a 3)) (tstG (fun g => { g with a := g.a.set 3 ⟨0x20001, 8⟩ })) (fun g => g.slot0.pc) = some 0x20000 := by decide
theorem test_ret : after (.ret false) (tstG (linkG (fun _ => 0x20))) (fun g => g.slot0.pc) = some 0x20 := by decide
theorem test_brsNz : after (.brsNz false 4 2) (tstG (valsG [] [(4, 1)])) (fun g => g.slot0.pc) = some 0x10004 := by decide
theorem test_brsZ : after (.brsZ false 4 2) (tstG (valsG [] [(4, 0)])) (fun g => g.slot0.pc) = some 0x10004 := by decide
/-- A mixed `brv` with slot 1 Free, and one with slot 1 in use. -/
theorem test_brv : after (.brv false (.p 1) false 0x80) (tstG (fun g => { g with p := g.p.set 1 0xFFFF })) slots =
    some ([(0x10004, 0xFFFF0000, .ready), (0x10100, 0xFFFF, .wait)], 0) := by decide
theorem test_join : after (.join false) (tstG (fun g => { g with slot0 := { g.slot0 with mask := 0xF },
                                                                  slot1 := { Slot.readyAt 0x10000 0xFFF0 with st := .join } }))
    (fun g => (g.slot0.pc, g.slot0.mask, g.slot1.st)) = some (0x10004, 0xFFFF, .free) := by decide
theorem test_ballot : after (.ballot false (.v 8) (.p 3)) (tstG (fun g => { lanesG 0x00FFFFFF g with p := g.p.set 3 0x55555555 }))
    (fun g => (lane0 8 g, g.v[(8 : Fin 128)][(24 : Fin 32)])) = some (0x555555, 0) := by decide
theorem test_pxor : after (.pxor false (.p 2) (.p 1) .tru) (tstG (fun g => { g with p := g.p.set 1 0x0F })) (fun g => g.p[(2 : Fin 96)]) =
    some 0xFFFFFFF0 := by decide
-- R364, R367, R368
theorem test_trap : (match exec (.trap false (.s 5)) ((tstG (valsG [] [(5, 77)])).modCtx 1 (fun c => { c with hpc := 0x30000 })) with
    | .next t => (t.group? ⟨2, 0⟩).map (fun g => (g.hm, g.slot0.pc, g.cause, g.tval))
    | _ => none) = some (true, 0x30000, 6, 77) := by decide
theorem test_wrsr_mode : causeOf (.wrsr false 4 (.s 3)) id = some 0x10 := by decide
-- R406
theorem test_rng : (match exec (.rng false (.v 28) (.s 12)) (tstG (lanesG 1)) with
    | .next t => (match execRngResult tst.ids t with
      | .next u => shows u (fun g => [28, 29, 30, 31].map (fun n => lane0 n g))
      | _ => none)
    | _ => none) = some [0x6627E8D5, 0xE169C58D, 0xBC57AC4C, 0x9B00DBD8] := by decide

-- R384: an atomic with return of four lanes on one word
/-- The word at 0x10000 holds 10, in L2; V register 4 holds 1 to 4. -/
def atomState : State :=
  let s := tstG (fun g => { valsG [] [(10, 0x10000), (11, 0)] (lanesG 0xF g) with v := g.v.set 4 (Vector.ofFn (fun i => BitVec.ofNat 32 (i.val + 1))) })
  { s with mem := { s.mem with l2 := [l2At 0x10000 (leBytes 4 10)] } }
/-- After the instruction, its departure and its performance. -/
def atomDone : State :=
  match decodeTableWord 32 0x508A04C5 with
  | some (.atom e d x m) => (match execAtom e d x m atomState with
    | .next t => (match execStoreFifoLeave ⟨2, 0⟩ t with
      | .next u => (match execAtomicPerformed tst.ids u with
        | .next w => w
        | _ => tst)
      | _ => tst)
    | _ => tst)
  | _ => tst
theorem test_atom : shows atomDone (fun g => ((g.v[(4 : Fin 128)]).toList.take 5)) = some [10, 11, 13, 16, 5] ∧
    atomDone.numAt (Agent.ctx 1) ⟨.device, 0x10000⟩ 4 = 20 := by decide

/-- Words of the worked programs of chapters 18 to 20 (R482, R484, R488, R504, R510). -/
theorem test_worked_words :
    decodeTableWord 32 0x8401023D = some (.shru false (.v 2) (.v 1) (.s 4)) ∧
    decodeTableWord 32 0xE3028191 = some (.cmpiNe false (.p 1) (.v 2) .zero) ∧
    decodeTableWord 32 0x020185D5 = some (.ballot false (.s 5) (.p 1)) ∧
    decodeTableWord 32 0x84E40291 = some (.cmpiEq false (.p 2) .lane (.s 4)) ∧
    decodeTableWord 32 0x00E682CD = some (.mov false (.s 2) .grp) ∧
    decodeTableWord 32 0xFFEC46E9 = some (.brsNz false 6 0xFFEC) ∧
    decodeTableWord 32 0x000290E1 = some (.grd (.p 16) true 2) ∧
    decodeTableWord 32 0x0110FFF5 = some (.spawn false .none (.v 16)) ∧
    decodeTableWord 32 0x0088FFF1 = some (.copyLin false .none (.s 8)) ∧
    decodeTableWord 32 0x22FF89FD = some (.mbarWait false 2 (.s 9)) ∧
    decodeTableWord 32 0x10FFFFFD = some (.mbarArr false 0) ∧
    decodeTableWord 32 0x018300FD = some (.accld false (.v 0) (.s 3)) ∧
    decodeTableWord 32 0x0B01B9D9 = some (.rdsr false (.s 57) 1) ∧
    decodeTableWord 32 0x01FFFFD9 = some (.exit false) ∧
    decodeTableWord 32 0xFFF03FDD = some (.wait false 63 0 63 63) ∧
    decodeTableWord 32 0x04C2 = some (.mwait 3 true) ∧
    decodeTableWord 16 0x0894 = some (.xor16 false 2 1) ∧
    decodeTableWord 16 0x9C24 = some (.fmul16 false 16 19) := by decide
/-- Steps 1 and 3 of the stream of R499, and the BF16 step of R504. -/
theorem test_worked_stream_words :
    decodeStream 0x80200212 = .ok (.mmaS8 { tile := 0, ga := 1, va := 0, gb := 1, bhalf := 32 }) 4 ∧
    decodeStream 0xC0280212 = .ok (.mmaS8 { tile := 0, ga := 1, va := 32, gb := 1, bhalf := 48 }) 4 ∧
    decodeStream 0x00200211 = .ok (.mmaBf16 { tile := 0, ga := 1, va := 0, gb := 1, bhalf := 0 }) 4 ∧
    decodeStream 0xA0040010 = .ok (.mmaF16 { tile := 0, ga := 0, va := 16, gb := 0, bhalf := 40 }) 4 := by decide

end Sys2Proof
end

section
/-! What reset and a device reset leave (R20, R61, R95, R420, R519). -/
open Sys2Proof Sys2Proof.Machine

namespace Sys2Proof.Machine

/-- Every window is disabled after reset (R95). -/
theorem HostRegs.reset_win_en (i : Fin 16) : (HostRegs.reset.win[i]).en = false := by
  simp [HostRegs.reset, Window.reset]

/-- No Cirque allocation is valid after reset (R165). -/
theorem HostRegs.reset_cq_v (p e : Fin 8) : (HostRegs.reset.cq[p][e]).v = false := by
  simp [HostRegs.reset, CqEnt.reset]

end Sys2Proof.Machine

/-- Settles O37: the fields of the reset state, and the memories that a device reset keeps. -/
theorem resetState : Obligations.ResetState := by
  refine ⟨⟨rfl, rfl, rfl, rfl, rfl, rfl, rfl, rfl, rfl, rfl, rfl, rfl, HostRegs.reset_win_en, HostRegs.reset_cq_v,
    rfl, rfl, rfl, rfl, rfl, rfl⟩, fun s => ⟨_, rfl, ?_⟩⟩
  exact ⟨rfl, rfl, rfl, rfl, rfl, rfl, rfl, rfl, rfl⟩

/-- Settles O38: the memories are empty lists of cells, and there is no block. -/
theorem invariantAtReset : Obligations.InvariantAtReset := by
  obtain ⟨hdram, hhost, hpeer⟩ := State.reset_memories_wf
  exact ⟨hdram, hhost, hpeer, fun b hb => absurd hb List.not_mem_nil⟩

end

section
/-! The accesses of memory and the records of the device: which parts of the state they leave alone. -/
namespace Sys2Proof.Machine

/-! ### Accesses of memory -/

/-- `t` differs from `s` at most in the byte memories and the caches. -/
def MemFrame (s t : State) : Prop := ∃ d h p m, t = { s with dram := d, host := h, peer := p, mem := m }

theorem MemFrame.refl (s : State) : MemFrame s s := ⟨_, _, _, _, rfl⟩

theorem MemFrame.trans {s t u : State} (h : MemFrame s t) (h' : MemFrame t u) : MemFrame s u := by
  obtain ⟨_, _, _, _, rfl⟩ := h
  obtain ⟨_, _, _, _, rfl⟩ := h'
  exact ⟨_, _, _, _, rfl⟩

/-- Only the caches change. -/
theorem MemFrame.mem {s t : State} (h : MemFrame s t) (c : Caches) : MemFrame s { t with mem := c } :=
  h.trans ⟨_, _, _, _, rfl⟩

theorem MemFrame.foldl {α : Type} {s t : State} (h : MemFrame s t) (f : State → α → State) (l : List α)
    (hf : ∀ u a, MemFrame u (f u a)) : MemFrame s (l.foldl f t) := by
  induction l generalizing t with
  | nil => exact h
  | cons a l ih => exact ih (h.trans (hf t a))

theorem MemFrame.ite {s t u : State} {c : Prop} [Decidable c] (h : MemFrame s t) (h' : MemFrame s u) : MemFrame s (if c then t else u) := by
  split
  · exact h
  · exact h'

theorem State.writeBack_frame (s : State) (l : L2Line) : MemFrame s (s.writeBack l) :=
  MemFrame.ite ⟨_, _, _, _, rfl⟩ (.refl s)

theorem State.flushL2_frame (s : State) (p : L2Line → Bool) : MemFrame s (s.flushL2 p) :=
  ((MemFrame.refl s).foldl _ _ State.writeBack_frame).mem _

theorem State.cleanL2_frame (s : State) (p : L2Line → Bool) : MemFrame s (s.cleanL2 p) :=
  ((MemFrame.refl s).foldl _ _ State.writeBack_frame).mem _

theorem State.dropL2_frame (s : State) (p : L2Line → Bool) : MemFrame s (s.dropL2 p) := (MemFrame.refl s).mem _

theorem State.persistRoom_frame (s : State) (sl ln : Nat) : MemFrame s (s.persistRoom sl ln) := by
  unfold State.persistRoom
  split
  · exact .ite (s.flushL2_frame _) ((MemFrame.refl s).mem _)
  · exact .refl s

/-- Room for a persist line, where one is asked for. -/
theorem State.persistIf_frame (s : State) (c : Bool) (sl ln : Nat) : MemFrame s (if c then s.persistRoom sl ln else s) :=
  .ite (s.persistRoom_frame sl ln) (.refl s)

theorem State.l2Install_frame (s : State) (l : L2Line) (al : L2Alloc) : MemFrame s (s.l2Install l al) := by
  unfold State.l2Install
  dsimp only
  have h := s.persistIf_frame (s.l2Kind al == .persist) l.slice l.line
  split
  · exact h
  · refine MemFrame.mem ?_ _
    split
    · exact h.trans (State.flushL2_frame _ _)
    · exact h

theorem State.l2Touch_frame (s : State) (sl ln : Nat) (secs : BitVec 4) (al : L2Alloc) : MemFrame s (s.l2Touch sl ln secs al) := by
  unfold State.l2Touch
  dsimp only
  split
  · exact (s.persistIf_frame _ _ _).mem _
  · exact s.l2Install_frame _ _

theorem State.dramWriteLine_frame (s : State) (ln : Nat) (bs : List (Nat × Byte)) : MemFrame s (s.dramWriteLine ln bs) :=
  ⟨_, _, _, _, rfl⟩

theorem State.sliceWriteLine_frame (s : State) (sl ln : Nat) (bs : List (Nat × Byte)) (al : L2Alloc) :
    MemFrame s (s.sliceWriteLine sl ln bs al) := by
  unfold State.sliceWriteLine
  dsimp only
  split
  · exact (s.l2Touch_frame _ _ _ _).mem _
  · exact (s.l2Touch_frame _ _ _ _).trans (State.dramWriteLine_frame _ _ _)

theorem State.devWrite_frame (s : State) (via : Nat → Via) (bs : List (Nat × Byte)) (al : L2Alloc) : MemFrame s (s.devWrite via bs al) := by
  refine (MemFrame.refl s).foldl _ _ (fun t ln => ?_)
  split
  · exact t.sliceWriteLine_frame _ _ _ _
  · exact t.dramWriteLine_frame _ _

theorem State.beforeSys_frame (s : State) (a : Agent) (ls : List Nat) : MemFrame s (s.beforeSys a ls) := by
  unfold State.beforeSys
  split
  · exact .ite (s.flushL2_frame _) (.refl s)
  · exact .refl s

theorem State.sysRelease_frame (s : State) (a : Agent) : MemFrame s (s.sysRelease a) := by
  unfold State.sysRelease
  split
  · exact .ite (s.cleanL2_frame _) (.refl s)
  · exact .refl s

theorem State.rdcWriteBack_frame (s : State) (l : RdcLine) : MemFrame s (s.rdcWriteBack l) :=
  MemFrame.ite ⟨_, _, _, _, rfl⟩ (.refl s)

theorem State.surrender_frame (s : State) (p : RdcLine → Bool) : MemFrame s (s.surrender p) :=
  ((MemFrame.refl s).foldl _ _ State.rdcWriteBack_frame).mem _

theorem State.flushRdc_frame (s : State) (p : RdcLine → Bool) : MemFrame s (s.flushRdc p) := s.surrender_frame _

theorem State.rdcTouch_frame (s : State) (a : Agent) (ln : Nat) (m : Bool) : MemFrame s (s.rdcTouch a ln m) := by
  unfold State.rdcTouch
  dsimp only
  split
  · exact (MemFrame.refl s).mem _
  · split
    · exact s.surrender_frame _
    · refine MemFrame.mem (t := ?_) ?_ _
      split
      · exact (s.surrender_frame _).trans (State.flushRdc_frame _ _)
      · exact s.surrender_frame _

theorem State.peerHomeWrite_frame (s : State) (bs : List (Nat × Byte)) : MemFrame s (s.peerHomeWrite bs) :=
  (s.surrender_frame (fun l => (linesOf (bs.map (fun x : Nat × Byte => x.1))).contains l.line)).trans ⟨_, _, _, _, rfl⟩

theorem State.peerWrite_frame (s : State) (a : Agent) (bs : List (Nat × Byte)) : MemFrame s (s.peerWrite a bs) := by
  refine (MemFrame.refl s).foldl _ _ (fun t ln => ?_)
  exact .ite ((t.rdcTouch_frame a ln true).trans (State.peerHomeWrite_frame _ _)) ((t.rdcTouch_frame a ln true).mem _)

theorem State.viewTouch_frame (s : State) (a : Agent) (pa : Nat) (al : L2Alloc) : MemFrame s (s.viewTouch a pa al) := by
  unfold State.viewTouch
  split
  · exact (s.persistIf_frame _ _ _).mem _
  · exact .refl s

/-- Reading changes nothing but the memories and the caches. -/
theorem State.touchFor_frame (s : State) (a : Agent) (ls : List Loc) (al : L2Alloc) (whole : Bool) : MemFrame s (s.touchFor a ls al whole) := by
  refine MemFrame.foldl ?_ _ _ (fun _ _ => State.rdcTouch_frame _ _ _ _)
  refine MemFrame.foldl ?_ _ _ (fun _ _ => State.viewTouch_frame _ _ _ _)
  refine (s.beforeSys_frame a _).foldl _ _ (fun t ln => ?_)
  split
  · exact t.l2Touch_frame _ _ _ _
  · exact .refl t

/-- Writing changes nothing but the memories and the caches. -/
theorem State.writeAt_frame (s : State) (a : Agent) (bs : List (Loc × Byte)) (al : L2Alloc) : MemFrame s (s.writeAt a bs al) := by
  unfold State.writeAt
  dsimp only
  exact (((s.beforeSys_frame a _).trans (State.devWrite_frame _ _ _ _)).trans (State.peerWrite_frame _ _ _)).trans ⟨_, _, _, _, rfl⟩

theorem State.writeBytes_frame (s : State) (a : Agent) (l : Loc) (bs : List Byte) : MemFrame s (s.writeBytes a l bs) := s.writeAt_frame a _ _

theorem State.askPeer_frame (s : State) (ln : Nat) (wr : Bool) : MemFrame s (s.askPeer ln wr) := by
  unfold State.askPeer
  refine .ite (.refl s) ?_
  split
  · exact (MemFrame.refl s).mem _
  · exact .ite ((MemFrame.refl s).mem _) (.refl s)
  · exact .refl s

theorem State.askPeerFor_frame (s : State) (wr : Bool) (ls : List Loc) : MemFrame s (s.askPeerFor wr ls) :=
  (MemFrame.refl s).foldl _ _ (fun t _ => .ite (t.askPeer_frame _ _) (.refl t))

/-! ### Records, counters and halts -/

/-- `t` differs from `s` at most in the memories and caches, what the device has posted and recorded, and what it keeps of contexts. -/
def RecordFrame (s t : State) : Prop := ∃ d h p m ps rs cs ai,
  t = { s with dram := d, host := h, peer := p, mem := m, posted := ps, records := rs, ctxs := cs, asids := ai }

theorem RecordFrame.refl (s : State) : RecordFrame s s := ⟨_, _, _, _, _, _, _, _, rfl⟩

theorem RecordFrame.trans {s t u : State} (h : RecordFrame s t) (h' : RecordFrame t u) : RecordFrame s u := by
  obtain ⟨_, _, _, _, _, _, _, _, rfl⟩ := h
  obtain ⟨_, _, _, _, _, _, _, _, rfl⟩ := h'
  exact ⟨_, _, _, _, _, _, _, _, rfl⟩

theorem RecordFrame.foldl {α : Type} {s t : State} (h : RecordFrame s t) (f : State → α → State) (l : List α)
    (hf : ∀ u a, RecordFrame u (f u a)) : RecordFrame s (l.foldl f t) := by
  induction l generalizing t with
  | nil => exact h
  | cons a l ih => exact ih (h.trans (hf t a))

theorem MemFrame.record {s t : State} (h : MemFrame s t) : RecordFrame s t := by
  obtain ⟨_, _, _, _, rfl⟩ := h
  exact ⟨_, _, _, _, _, _, _, _, rfl⟩

theorem RecordFrame.ite {s t u : State} {c : Prop} [Decidable c] (h : RecordFrame s t) (h' : RecordFrame s u) :
    RecordFrame s (if c then t else u) := by
  split
  · exact h
  · exact h'

theorem RecordFrame.blocks {s t : State} (h : RecordFrame s t) : t.blocks = s.blocks := by
  obtain ⟨_, _, _, _, _, _, _, _, rfl⟩ := h
  rfl

theorem RecordFrame.traces {s t : State} (h : RecordFrame s t) : t.traces = s.traces := by
  obtain ⟨_, _, _, _, _, _, _, _, rfl⟩ := h
  rfl

theorem State.modCtx_frame (s : State) (n : Nat) (f : Ctx → Ctx) : RecordFrame s (s.modCtx n f) := ⟨_, _, _, _, _, _, _, _, rfl⟩

theorem State.putAsid_frame (s : State) (a : AsidInfo) : RecordFrame s (s.putAsid a) := ⟨_, _, _, _, _, _, _, _, rfl⟩

theorem State.post_frame (s : State) (bs : List (Loc × Byte)) : RecordFrame s (s.post bs) := by
  unfold State.post
  dsimp only
  split
  · exact (s.writeAt_frame _ _ _).record
  · exact (s.askPeerFor_frame true (linesOfLocs (bs.map (·.1)))).record.trans ⟨_, _, _, _, _, _, _, _, rfl⟩

theorem State.postNum_frame (s : State) (l : Loc) (n v : Nat) : RecordFrame s (s.postNum l n v) := s.post_frame _

theorem State.dropRecord_frame (s : State) (asid : Nat) : RecordFrame s (s.dropRecord asid) := by
  unfold State.dropRecord
  split
  · exact .refl s
  · dsimp only
    split
    · exact (s.modCtx_frame _ _).trans (State.postNum_frame _ _ _ _)
    · exact .refl s

theorem State.putRecord_frame (s : State) (c : Ctx) (ring wb : Loc) (stop : Bool) (bs : List Byte) :
    RecordFrame s (s.putRecord c ring wb stop bs) := by
  unfold State.putRecord
  exact .ite (((s.post_frame _).trans (State.modCtx_frame _ _ _)).trans (State.postNum_frame _ _ _ _)) (s.dropRecord_frame _)

/-- Waiting for the lines of a table changes the caches only. -/
theorem State.tableRead_wait {s t : State} {ps : List (Loc × Nat)} (h : s.tableRead ps = .wait t) : t = s.askPeerFor false (ps.map (·.1)) := by
  unfold State.tableRead at h
  dsimp only at h
  split at h
  · split at h <;> cases h
  · cases h
  · cases h
    rfl

theorem State.pushRecord_frame (s : State) (asid : Nat) (stop : Bool) (bs : List Byte) : RecordFrame s (s.pushRecord asid stop bs) := by
  unfold State.pushRecord
  split
  · exact .refl s
  · split
    · dsimp only
      split
      · exact ⟨_, _, _, _, _, _, _, _, rfl⟩
      · split
        · exact s.putRecord_frame _ _ _ _ _
        · next t ht =>
          have hask : MemFrame s t := s.tableRead_wait ht ▸ s.askPeerFor_frame _ _
          exact hask.record.trans ⟨_, _, _, _, _, _, _, _, rfl⟩
        · exact s.dropRecord_frame _
    · exact s.dropRecord_frame _

theorem State.haltContext_frame (s : State) (asid : Nat) : RecordFrame s (s.haltContext asid) := by
  unfold State.haltContext
  split
  · split
    · exact (s.putAsid_frame _).trans (State.modCtx_frame _ _ _)
    · exact .refl s
  · exact .refl s

theorem State.goneRecord_frame (s : State) (asid code sub : Nat) (corr gid tval : Word) (seq : Option (List (Nat × Nat × Nat))) :
    RecordFrame s (s.goneRecord asid code sub corr gid tval seq) :=
  (s.haltContext_frame asid).trans (State.pushRecord_frame _ _ _ _)

end Sys2Proof.Machine
end

section
/-! What an instruction leaves that acts on more than its group, and the local accesses of R33 and R375 to R385. -/
open Sys2Proof
namespace Sys2Proof.Machine

/-! ### The end of a run -/

/-- No trace follows a group. -/
def State.Untraced (s : State) (k : GroupKey) : Prop := ∀ t ∈ s.traces, t.gk ≠ k

/-- The latch of a slot of a group is invalid, in every block that goes by the group's key. -/
def State.Unlatched (s : State) (k : GroupKey) (n : Nat) : Prop :=
  ∀ b ∈ s.blocks, b.serial = k.block → ∀ g, b.groups[k.index]? = some g → (g.slot n).latch = none

theorem State.Unlatched.group {s : State} {k : GroupKey} {n : Nat} (h : s.Unlatched k n) {g : Group} (hg : s.group? k = some g) :
    (g.slot n).latch = none := by
  obtain ⟨b, hb, hi⟩ := State.group?_eq_some hg
  exact h b (List.mem_of_find?_eq_some hb) (State.block?_serial hb) g hi

theorem State.unlatched_putGroup (s : State) (k : GroupKey) {n : Nat} {g : Group} (h : (g.slot n).latch = none) :
    (s.putGroup k g).Unlatched k n := by
  intro b hb hs g' hg'
  obtain ⟨c, -, rfl⟩ := List.mem_map.mp hb
  by_cases hc : c.serial = k.block
  · rw [if_pos hc] at hg'
    obtain ⟨_, e⟩ := List.getElem?_eq_some_iff.mp hg'
    simp only [List.getElem_set_self] at e
    exact e ▸ h
  · rw [if_neg hc] at hs
    exact absurd hs hc

theorem State.Unlatched.modBlock {s : State} {k : GroupKey} {n : Nat} (h : s.Unlatched k n) (m : Nat) (f : Block → Block)
    (hs : ∀ b, (f b).serial = b.serial) (hg : ∀ b, (f b).groups = b.groups) : (s.modBlock m f).Unlatched k n := by
  intro b hb
  obtain ⟨c, hc, rfl⟩ := List.mem_map.mp hb
  split
  · rw [hs, hg]
    exact h c hc
  · exact h c hc

theorem State.Unlatched.releaseBlocks {s : State} {k : GroupKey} {n : Nat} (h : s.Unlatched k n) : s.releaseBlocks.Unlatched k n :=
  fun b hb => h b (List.mem_of_mem_filter hb)

theorem State.Unlatched.endBlock {s : State} {k : GroupKey} {n : Nat} (h : s.Unlatched k n) (b : Block) (aborted : Bool) :
    (s.endBlock b aborted).Unlatched k n := by
  have hb : (if (((s.ctx? b.asid).map (·.bxall)).getD false || aborted || b.groups.any (fun g => g.lfmask != 0)) = true then
      s.pushRecord b.asid true (blockExitRecord b (s.corrOfBlock b) aborted) else s).blocks = s.blocks :=
    (RecordFrame.ite (s.pushRecord_frame _ _ _) (.refl s)).blocks
  refine State.Unlatched.releaseBlocks (State.Unlatched.modBlock ?_ _ _ (fun _ => rfl) (fun _ => rfl))
  exact fun c hc => h c (hb ▸ hc)

theorem View.Calm.untraced {s : State} {w : View} (hv : s.view? = some w) (hc : w.Calm) : s.Untraced w.k :=
  State.view?_state hv ▸ hc.2

theorem State.Unlatched.addOp {s : State} {k : GroupKey} {n : Nat} (h : s.Unlatched k n) (j : GroupKey) (m : Nat) (b : OpBody) :
    (s.addOp j m b).Unlatched k n := h

/-- The end of an untraced run whose latch is invalid changes nothing but the runs. -/
theorem State.endRun_sameButRuns {s : State} {core : Nat} {k : GroupKey} {n why : Nat} (ht : s.Untraced k) (hl : s.Unlatched k n) :
    SameButRuns s (s.endRun core k n why) := by
  cases hg : s.group? k with
  | none =>
    have e : s.endRun core k n why = { s with runs := s.runs.filter (fun r => !(r.core == core)) } := by
      have hr : s.traceRunEnd k why = s := by simp [State.traceRunEnd, hg]
      simp [State.endRun, hr, State.modGroup, hg]
    rw [e]
    exact ⟨fun _ => rfl, fun _ => rfl, rfl⟩
  | some g =>
    have hsame : g.setSlot n { g.slot n with latch := none } = g := by
      have hs : ({ g.slot n with latch := none } : Slot) = g.slot n := by rw [← hl.group hg]
      rw [hs]
      unfold Group.setSlot Group.slot
      split <;> rfl
    rw [State.endRun_untraced hg ht, hsame]
    refine ⟨fun j => ?_, fun m => s.shell_putGroup k g m, rfl⟩
    by_cases hj : j = k
    · rw [hj]
      exact (State.group?_putGroup hg).trans hg.symm
    · exact s.group?_putGroup_ne g hj

/-! ### What is left behind an instruction -/

theorem State.placed_only {s : State} {w : View} {f : Form} {d : Done} (hv : s.view? = some w) (hc : w.Calm) :
    OnlyGroup s (s.placed w f d) w.k (d.leaves w f) := by
  have ht : s.Untraced w.k := View.Calm.untraced hv hc
  have hr := State.placed_rest (f := f) (d := d) ht
  exact OnlyGroup.of_putGroup (State.view?_group hv) (by rw [hr]) (by rw [hr])

theorem State.placed_unlatched (s : State) {w : View} {f : Form} {d : Done} (h : ((d.leaves w f).slot w.n).latch = none) :
    (s.placed w f d).Unlatched w.k w.n := s.unlatched_putGroup w.k h

/-- An instruction without a trap behind it leaves its group and then acts as its meaning says. -/
theorem leaves_of_done {i : Instr} {s : State} {f : Form} {bad cls : View → Bool} {body : View → Res} {w : View} {d : Done}
    (hx : exec i s = .next (s.issue f bad cls body)) (hi : s.Issues f bad cls w) (hc : w.Calm) (hb : body w = .done d)
    (ha : d.after = none) (ht : (d.post (s.placed w f d)).Untraced w.k) (hl : (d.post (s.placed w f d)).Unlatched w.k w.n) :
    Leaves i s w (d.leaves w f) d.post := by
  refine ⟨s.placed w f d, s.commit w f d, ?_, State.placed_only hi.view hc, ?_⟩
  · rw [hx, State.issue_of_issues hi, hb]
    rfl
  · rcases State.commit_eq s w f d hc.1 ha with h | ⟨y, h⟩
    · exact h ▸ ⟨fun _ => rfl, fun _ => rfl, rfl⟩
    · exact h ▸ State.endRun_sameButRuns ht hl

/-- What leaves a group and adds a piece of work differs in nothing else. -/
theorem Leaves.addOp {i : Instr} {s : State} {w : View} {g' : Group} {o : OpBody} (h : Leaves i s w g' (fun t => t.addOp w.k w.n o))
    (hg : s.group? w.k = some w.g) (hseen : g'.seen = w.g.seen) :
    ∃ t, exec i s = .next t ∧ OnlyGroupOp s t w.k g' w.n o := by
  obtain ⟨u, t, hx, hu, ht⟩ := h
  have hadd : u.addOp w.k w.n o = { u with ops := u.ops ++ [{ id := u.ids, gk := w.k, slot := w.n, seen := w.g.seen, body := o }],
                                           ids := u.ids + 1 } := by
    simp [State.addOp, hu.group, hseen]
  have hrest : t = { s with blocks := t.blocks, runs := t.runs, turn := t.turn, fails := t.fails, lastIssue := t.lastIssue,
                            ops := s.ops ++ [{ id := s.ids, gk := w.k, slot := w.n, seen := ((s.group? w.k).map (·.seen)).getD 0, body := o }],
                            ids := s.ids + 1 } := by
    have hr : t = { u.addOp w.k w.n o with blocks := t.blocks, runs := t.runs } := ht.rest
    rw [hadd] at hr
    rw [hr, hu.rest, hg]
    rfl
  refine ⟨t, hx, ?_, fun j hj => ?_, fun n => ?_, hrest, fun a l => ?_⟩
  · exact (ht.groups _).trans hu.group
  · exact (ht.groups _).trans (hu.others j hj)
  · exact (ht.blocks n).trans (hu.blocks n)
  · rw [hrest]
    rfl

/-- An instruction that does nothing but go on. -/
theorem passes_of_doneNone {i : Instr} {s : State} {f : Form} {bad cls : View → Bool} {body : View → Res} {w : View}
    (hx : exec i s = .next (s.issue f bad cls body)) (hi : s.Issues f bad cls w) (hc : w.Calm) (hb : body w = .done w.doneNone) :
    Passes i s w f.len := by
  obtain ⟨g', hg', hl⟩ := State.commit_plain (f := f) (d := w.doneNone) hi.view hc rfl rfl
  have hr : g' = { w.g with slot0 := g'.slot0, slot1 := g'.slot1, icnt := g'.icnt } := leaves_regs rfl hl
  refine ⟨_, g', hx, ?_, advanced_fall hi.ready rfl rfl rfl hl, ?_, ?_⟩
  · rw [State.issue_of_issues hi, hb]
    exact hg'
  · unfold SameFrame
    rw [hr]
  · exact ⟨by rw [hr], by rw [hr], by rw [hr], by rw [hr], by rw [hr]⟩

/-! ### Lanes that leave the entry mask -/

theorem State.retireLanes_traces (s : State) (k : GroupKey) (x : Mask) : (s.retireLanes k x).traces = s.traces := by
  unfold State.retireLanes
  split
  · dsimp only
    split <;> simp
  · rfl

theorem Group.slot_withHandle (g : Group) (hs : Lanes) (n : Nat) : ({ g with handle := hs } : Group).slot n = g.slot n := rfl

theorem State.Unlatched.retireLanes {s : State} {k : GroupKey} {n : Nat} (h : s.Unlatched k n) (x : Mask) :
    (s.retireLanes k x).Unlatched k n := by
  unfold State.retireLanes
  split
  · next g b hg hb =>
    dsimp only
    split
    · exact h
    · refine State.unlatched_putGroup _ k ?_
      rw [Group.slot_withHandle]
      exact h.group hg
  · exact h

theorem State.endBlock_traces (s : State) (b : Block) (aborted : Bool) : (s.endBlock b aborted).traces = s.traces :=
  (RecordFrame.ite (s.pushRecord_frame _ _ _) (.refl s)).traces

theorem State.goneRecords_traces (s : State) (asid : Nat) (corr gid : Word) (l : List Cause) :
    (l.foldl (fun s c => s.goneRecord asid c.code c.sub corr gid c.tval c.strm) s).traces = s.traces :=
  ((RecordFrame.refl s).foldl _ l (fun u _ => u.goneRecord_frame _ _ _ _ _ _ _)).traces

/-- The end of a group leaves no trace of it. -/
theorem State.Untraced.endIfEmpty {s : State} {k : GroupKey} (h : s.Untraced k) (why : Nat) : (s.endIfEmpty k why).Untraced k := by
  unfold State.endIfEmpty State.Untraced
  split
  · exact h
  · dsimp only
    split
    · exact h
    · split
      · split <;> simp [State.endBlock_traces, State.goneRecords_traces]
      · simp [State.goneRecords_traces]

/-- The end of a group leaves its slots free. -/
theorem State.Unlatched.endIfEmpty {s : State} {k : GroupKey} {n : Nat} (h : s.Unlatched k n) (why : Nat) :
    (s.endIfEmpty k why).Unlatched k n := by
  have hfree : ∀ g : Group, g.slot0 = Slot.free → g.slot1 = Slot.free → (g.slot n).latch = none := by
    intro g h0 h1
    unfold Group.slot
    split
    · rw [h0]
      rfl
    · rw [h1]
      rfl
  have hbar : ∀ b : Block, b.barTest.serial = b.serial ∧ b.barTest.groups = b.groups := by
    intro b
    unfold Block.barTest
    split <;> exact ⟨rfl, rfl⟩
  unfold State.endIfEmpty
  split
  · exact h
  · dsimp only
    split
    · exact h
    · have hput := fun (u : State) (g : Group) (hg : (g.slot n).latch = none) =>
        (u.unlatched_putGroup k hg).modBlock k.block Block.barTest (fun b => (hbar b).1) (fun b => (hbar b).2)
      split
      · split
        · exact (hput _ _ (hfree _ rfl rfl)).endBlock _ _
        · exact hput _ _ (hfree _ rfl rfl)
      · exact hput _ _ (hfree _ rfl rfl)

/-! ### Local accesses -/

/-- Lanes that leave while others of the slot remain: their bits go to the local-fault mask, the slot keeps the others. -/
theorem Group.switchOff_live (g : Group) (n : Nat) {x : Mask} {next : Slot} (h : next.mask &&& ~~~x ≠ 0) :
    g.switchOff n x next =
      (({ g with lfmask := g.lfmask ||| x, emask := g.emask &&& ~~~x }.leaveSaved x).setSlot n { next with mask := next.mask &&& ~~~x },
        none) := by
  simp only [Group.switchOff, Group.leave, if_neg h]

theorem Group.leaveSaved_frame (g : Group) (x : Mask) :
    g.leaveSaved x = { g with save0 := (g.leaveSaved x).save0, save1 := (g.leaveSaved x).save1, stack := (g.leaveSaved x).stack } := by
  unfold Group.leaveSaved
  split <;> rfl

theorem Group.setSlot_frame (g : Group) (n : Nat) (x : Slot) :
    g.setSlot n x = { g with slot0 := (g.setSlot n x).slot0, slot1 := (g.setSlot n x).slot1 } := by
  unfold Group.setSlot
  split <;> rfl

/-- What switching lanes off leaves of a group but for its slots and what a handler has saved. -/
theorem Group.switchOff_frame (g : Group) (n : Nat) {x : Mask} {next : Slot} (h : next.mask &&& ~~~x ≠ 0) :
    ∃ a b st s0 s1, (g.switchOff n x next).1 =
      { g with lfmask := g.lfmask ||| x, emask := g.emask &&& ~~~x, save0 := a, save1 := b, stack := st, slot0 := s0, slot1 := s1 } := by
  rw [g.switchOff_live n h, Group.setSlot_frame, Group.leaveSaved_frame]
  exact ⟨_, _, _, _, _, rfl⟩

theorem Group.switchOff_slot (g : Group) (n : Nat) {x : Mask} {next : Slot} (h : next.mask &&& ~~~x ≠ 0) :
    (g.switchOff n x next).1.slot n = { next with mask := next.mask &&& ~~~x } := by
  rw [g.switchOff_live n h, Group.slot_setSlot]

/-- What the group of a lane-off access is behind it, against the group before. -/
structure LanesOff (w : View) (len : Nat) (off : Mask) (g g' : Group) : Prop where
  emask : g'.emask = w.g.emask &&& ~~~off
  lfmask : g'.lfmask = w.g.lfmask ||| off
  mask : (g'.slot w.n).mask = w.sl.mask &&& ~~~off
  pc : (g'.slot w.n).pc = w.sl.pc + BitVec.ofNat 64 len
  latch : (g'.slot w.n).latch = none
  regs : SameRegs w.g g'
  counts : g'.ldCnt = g.ldCnt ∧ g'.stCnt = g.stCnt ∧ g'.cpCnt = w.g.cpCnt ∧ g'.tlCnt = w.g.tlCnt ∧ g'.pend = g.pend

/-- A group that differs from the issuing one in its load and store counts and its pending registers. -/
def Counted (w : View) (g : Group) : Prop := g = { w.g with ldCnt := g.ldCnt, stCnt := g.stCnt, pend := g.pend }

theorem Counted.lanesOff {w : View} {g : Group} (hg : Counted w g) (len : Nat) {off : Mask} (h : w.sl.mask &&& ~~~off ≠ 0) :
    LanesOff w len off g { (g.switchOff w.n off (w.behind len none)).1 with icnt := (g.switchOff w.n off (w.behind len none)).1.icnt + 1 } := by
  have h' : (w.behind len none).mask &&& ~~~off ≠ 0 := h
  have hs := g.switchOff_slot w.n h'
  obtain ⟨a, b, st, s0, s1, e⟩ := g.switchOff_frame w.n h'
  have hslot : ({ (g.switchOff w.n off (w.behind len none)).1 with
      icnt := (g.switchOff w.n off (w.behind len none)).1.icnt + 1 } : Group).slot w.n = _ := hs
  refine ⟨?_, ?_, by rw [hslot]; rfl, by rw [hslot]; rfl, by rw [hslot]; rfl, ?_, ?_⟩
  · rw [e, hg]
  · rw [e, hg]
  · rw [e, hg]
    exact ⟨rfl, rfl, rfl, rfl, rfl⟩
  · rw [e]
    refine ⟨rfl, rfl, ?_, ?_, rfl⟩ <;> rw [hg]

theorem laneMask_filter_none {as : List (Nat × Nat)} {p : Nat × Nat → Prop} [DecidablePred p] (h : ∀ a ∈ as, ¬ p a) :
    laneMask ((as.filter (fun a => p a)).map (·.1)) = 0 := by
  have e : as.filter (fun a => decide (p a)) = [] := by simpa using h
  rw [e]
  decide

theorem View.misaligned_none {w : View} {n : Nat} {as : List (Nat × Nat)} (h : ∀ a ∈ as, a.2 % n = 0) : w.misaligned n as = none := by
  have e : as.find? (fun a => a.2 % n ≠ 0) = none := by simpa using h
  simp only [View.misaligned, e]

theorem View.misaligned_some {w : View} {n : Nat} {as : List (Nat × Nat)} {a : Nat × Nat} (h : as.find? (fun a => a.2 % n ≠ 0) = some a) :
    w.misaligned n as = some { code := 0x1C, sub := 0, tval := BitVec.ofNat 32 a.2, slot := w.n } := by
  simp only [View.misaligned, h]

section
variable {w : View} {f : Form} {bytes : Nat} {as : List (Nat × Nat)} {ok : List (Nat × Nat) → Done}

/-- The lanes of an access out of the block's allocation. -/
def View.offLanes (w : View) (bytes : Nat) (as : List (Nat × Nat)) : Mask :=
  laneMask ((as.filter (fun a => w.b.alloc < a.2 + bytes)).map (·.1))

/-- With every lane in range only the alignment is left to check. -/
theorem View.localAccess_inRange (h : ∀ a ∈ as, a.2 + bytes ≤ w.b.alloc) :
    (w.misaligned bytes as = none → w.localAccess f bytes as ok = .done (ok as)) ∧
    ∀ c, w.misaligned bytes as = some c → w.localAccess f bytes as ok = .raise c := by
  have hoff : laneMask ((as.filter (fun a => w.b.alloc < a.2 + bytes)).map (·.1)) = 0 :=
    laneMask_filter_none (fun a ha => Nat.not_lt.mpr (h a ha))
  have hrest : as.filter (fun a => decide (a.2 + bytes ≤ w.b.alloc)) = as := by simpa using h
  constructor
  · intro hm
    simp only [View.localAccess, hoff, hrest, if_true, hm]
  · intro c hm
    simp only [View.localAccess, hoff, hrest, if_true, hm]

/-- Lanes out of range with a misaligned lane in range: they are off, then the cause is raised. -/
theorem View.localAccess_off_misaligned {c : Cause} (h : w.offLanes bytes as ≠ 0)
    (hm : w.misaligned bytes (as.filter (fun a => a.2 + bytes ≤ w.b.alloc)) = some c) : w.localAccess f bytes as ok =
      .raiseAfter (fun s => (s.putGroup w.k (w.g.switchOff w.n (w.offLanes bytes as) w.sl).1).retireLanes w.k (w.offLanes bytes as)) c := by
  unfold View.offLanes at h
  simp only [View.localAccess, if_neg h, hm]
  rfl

/-- Lanes out of range with none left: nothing is sent. -/
theorem View.localAccess_off_all (h : w.offLanes bytes as ≠ 0) (hr : as.filter (fun a => decide (a.2 + bytes ≤ w.b.alloc)) = [])
    (hl : w.sl.mask &&& ~~~(w.offLanes bytes as) ≠ 0) : w.localAccess f bytes as ok =
      .done { g := (w.g.switchOff w.n (w.offLanes bytes as) (w.behind f.len none)).1, flow := .placed none,
              post := fun s => (s.retireLanes w.k (w.offLanes bytes as)).endIfEmpty w.k 4 } := by
  have ha := congrArg Prod.snd (w.g.switchOff_live w.n (x := w.offLanes bytes as) (next := w.behind f.len none) hl)
  unfold View.offLanes at *
  simp only [View.localAccess, if_neg h, hr, View.misaligned_none (List.forall_mem_nil _), if_neg hl, if_true, ha]

/-- Lanes out of range with others left, all aligned: the others are sent. -/
theorem View.localAccess_off_some (h : w.offLanes bytes as ≠ 0) (hr : as.filter (fun a => decide (a.2 + bytes ≤ w.b.alloc)) ≠ [])
    (hm : ∀ a ∈ as.filter (fun a => decide (a.2 + bytes ≤ w.b.alloc)), a.2 % bytes = 0) (hl : w.sl.mask &&& ~~~(w.offLanes bytes as) ≠ 0) :
    w.localAccess f bytes as ok =
      let d := ok (as.filter (fun a => a.2 + bytes ≤ w.b.alloc))
      .done { d with g := (d.g.switchOff w.n (w.offLanes bytes as) (w.behind f.len none)).1, flow := .placed none, after := none,
                     post := fun s => (d.post s).retireLanes w.k (w.offLanes bytes as) } := by
  have ha := fun g : Group =>
    congrArg Prod.snd (g.switchOff_live w.n (x := w.offLanes bytes as) (next := w.behind f.len none) hl)
  unfold View.offLanes at *
  simp only [View.localAccess, if_neg h, View.misaligned_none hm, if_neg hr, ha]

end

/-- The conditions of R33, R112 and R380 hold of an instruction whose meaning is a local access that raises a count and sends its
lanes. -/
theorem localAccesses_of_issue {i : Instr} {s : State} {f : Form} {bad cls : View → Bool} {body : View → Res} {w : View} {bytes : Nat}
    {as : List (Nat × Nat)} {ok : List (Nat × Nat) → Done} {up : Group → Group} {rs : List RegId} {o : List (Nat × Nat) → OpBody} {g : Group}
    (hx : exec i s = .next (s.issue f bad cls body)) (hi : s.Issues f bad cls w) (hc : w.Calm)
    (hb : body w = w.localAccess f bytes as ok) (hok : ∀ l, ok l = { g := g, post := fun s => s.addOp w.k w.n (o l) })
    (hg : Counted w g) (hup : up w.g = { g with pend := w.g.pend })
    (hrs : ∀ r ∈ rs, ∃ p ∈ g.pend, p.reg = r ∧ p.kind = .var ∧ p.op = s.ids) : LocalAccesses i s w f.len bytes as up rs o := by
  have hgrp := State.view?_group hi.view
  have hunt : ∀ d : Done, (s.placed w f d).Untraced w.k := fun d => State.placed_untraced (hc.untraced hi.view)
  have hsettle : exec i s = .next (s.settle w f (w.localAccess f bytes as ok)) := by
    rw [hx, State.issue_of_issues hi, hb]
  have hcnt : g.ldCnt = (up w.g).ldCnt ∧ g.stCnt = (up w.g).stCnt := by simp only [hup, and_self]
  refine ⟨fun h => ?_, fun a h ha => ?_, fun hoff hr hm hl => ?_, fun hoff h hl => ?_, fun hoff a ha => ?_⟩
  · have hin : w.localAccess f bytes as ok = .done { g := g, post := fun s => s.addOp w.k w.n (o as) } := by
      rw [(View.localAccess_inRange (fun a ha => (h a ha).1)).1 (View.misaligned_none (fun a ha => (h a ha).2)), hok]
    have hlv := leaves_of_done (d := { g := g, post := fun s => s.addOp w.k w.n (o as) }) hx hi hc (hb.trans hin) rfl (hunt _)
      (s.placed_unlatched (by simp only [Done.leaves, Flow.counts, Flow.apply, if_true]; exact congrArg Slot.latch (Group.slot_setSlot _ _ _)))
    have hreg := leaves_regs (w := w) (f := f) (d := { g := g, post := fun s => s.addOp w.k w.n (o as) }) rfl (.inl rfl)
    obtain ⟨t, ht, hop⟩ := hlv.addOp hgrp (by rw [hreg, hg])
    refine ⟨t, _, ht, hop, advanced_fall hi.ready rfl ?_ ?_ (.inl rfl), ?_, ?_⟩
    · rw [hg]
      rfl
    · rw [hg]
    · rw [hreg, hup]
    · rw [hreg]
      exact hrs
  · rw [Raises, hsettle, (View.localAccess_inRange h).2 _ (View.misaligned_some ha)]
    rfl
  · have hL := hg.lanesOff f.len hl
    have hd := View.localAccess_off_some (f := f) (ok := ok) hoff hr hm hl
    simp only [hok] at hd
    refine ⟨_, leaves_of_done hx hi hc (hb.trans hd) rfl ?_ ?_, hL.emask, hL.lfmask, hL.mask, hL.pc, hL.regs,
      hL.counts.1.trans hcnt.1, hL.counts.2.1.trans hcnt.2, hL.counts.2.2.1, hL.counts.2.2.2.1, ?_⟩
    · intro t ht
      rw [State.retireLanes_traces] at ht
      exact hunt _ t ht
    · refine State.Unlatched.retireLanes (State.Unlatched.addOp (s.placed_unlatched ?_) _ _ _) _
      exact hL.latch
    · exact fun r hr => hL.counts.2.2.2.2 ▸ hrs r hr
  · have hno : as.filter (fun a => decide (w.b.alloc < a.2 + bytes)) = as := by simpa using h
    have hnone : as.filter (fun a => decide (a.2 + bytes ≤ w.b.alloc)) = [] := by simpa using h
    have hoffs : w.offLanes bytes as = laneMask (as.map (·.1)) := by rw [View.offLanes, hno]
    have hd := View.localAccess_off_all (f := f) (ok := ok) (hoffs ▸ hoff) hnone (hoffs ▸ hl)
    rw [hoffs] at hd
    have hsame : Counted w w.g := rfl
    have hL := hsame.lanesOff f.len hl
    have hret : ∀ d : Done, ((s.placed w f d).retireLanes w.k (laneMask (as.map (·.1)))).Untraced w.k := by
      intro d t ht
      rw [State.retireLanes_traces] at ht
      exact hunt d t ht
    refine ⟨_, leaves_of_done hx hi hc (hb.trans hd) rfl ((hret _).endIfEmpty 4) (State.Unlatched.endIfEmpty ?_ 4),
      hL.emask, hL.lfmask, hL.mask, hL.pc, hL.regs, hL.counts⟩
    refine State.Unlatched.retireLanes (s.placed_unlatched ?_) _
    exact hL.latch
  · have hd := View.localAccess_off_misaligned (f := f) (ok := ok) hoff (View.misaligned_some ha)
    rw [hsettle, hd]
    rfl

end Sys2Proof.Machine
end

section
open Sys2Proof Sys2Proof.Machine
namespace Sys2Proof.Machine

/-- Registers that a piece of work is to bring are pending from it. -/
theorem Group.markOp_pending (g : Group) (rs : List RegId) (kind : PendKind) (op : Nat) (far : Bool) :
    ∀ r ∈ rs, ∃ p ∈ (g.markOp rs kind op far).pend, p.reg = r ∧ p.kind = kind ∧ p.op = op := by
  intro r hr
  exact ⟨{ reg := r, kind := kind, op := op, far := far }, by simp [Group.markOp, hr], rfl, rfl, rfl⟩

end Sys2Proof.Machine

/-- Settles O7: each of the three is the shared local access with the count that it raises and the work that it sends. -/
theorem localStoreAccesses : Obligations.LocalStoreAccesses := by
  refine ⟨fun s w e d x m hi hc => ?_, fun s w e d x m hi hc => ?_, fun s w e d x f hi hc => ?_⟩
  · have hs := State.view?_state hi.view
    refine ⟨fun ha => passes_of_doneNone rfl hi hc (if_pos ha), fun ha hn => ?_, fun ha hn => ?_⟩
    · rw [show exec (.ldl e d x m) s = execLdl e d x m s from rfl, execLdl, State.issue_of_issues hi, if_neg ha, if_pos hn]
      rfl
    · exact localAccesses_of_issue rfl hi hc ((if_neg ha).trans (if_neg (Nat.not_le.mpr hn))) (fun _ => rfl) rfl rfl
        (hs ▸ Group.markOp_pending _ _ _ _ _)
  · refine ⟨fun ha => passes_of_doneNone rfl hi hc (if_pos ha), fun ha hn => ?_, fun ha hn => ?_⟩
    · rw [show exec (.stl e d x m) s = execStl e d x m s from rfl, execStl, State.issue_of_issues hi, if_neg ha, if_pos hn]
      rfl
    · exact localAccesses_of_issue rfl hi hc ((if_neg ha).trans (if_neg (Nat.not_le.mpr hn))) (fun _ => rfl) rfl rfl
        (List.forall_mem_nil _)
  · have hs := State.view?_state hi.view
    refine ⟨fun ha => passes_of_doneNone rfl hi hc (if_pos ha), fun ha hn => ?_, fun ha hn => ?_⟩
    · rw [show exec (.atoml e d x f) s = execAtoml e d x f s from rfl, execAtoml, State.issue_of_issues hi, if_neg ha, if_pos hn]
      rfl
    · refine localAccesses_of_issue (g := w.atomGroup d f false) rfl hi hc ((if_neg ha).trans (if_neg (by simp [hn]))) (fun _ => rfl) ?_ ?_ ?_
      · unfold Counted View.atomGroup
        split <;> rfl
      · unfold View.atomGroup
        split <;> rfl
      · unfold View.atomGroup
        split
        · exact hs ▸ Group.markOp_pending _ _ _ _ _
        · next hr =>
          have hnone : atomDsts d f = [] := if_neg hr
          rw [hnone]
          exact List.forall_mem_nil _

end

section
/-! The management packets: how a packet is read, and what each leaves (R42 to R47, R427, R445, R450, R458, R459). -/
open Sys2Proof Sys2Proof.Machine
namespace Sys2Proof.Machine

/-! ### Reading a packet -/

theorem MemFrame.ctxs {s t : State} (h : MemFrame s t) : t.ctxs = s.ctxs := by
  obtain ⟨_, _, _, _, rfl⟩ := h
  rfl

/-- A write that the device posts changes no context. -/
theorem State.post_ctxs (s : State) (bs : List (Loc × Byte)) : (s.post bs).ctxs = s.ctxs := by
  unfold State.post
  dsimp only
  split
  · exact (s.writeAt_frame _ _ _).ctxs
  · exact (s.askPeerFor_frame true (linesOfLocs (bs.map (·.1)))).ctxs

theorem State.takePacket_ctx? (s : State) (p : Packet) (asid : Nat) : (s.takePacket p).ctx? asid = s.ctx? asid := by
  have h : (s.takePacket p).ctxs = s.ctxs := State.post_ctxs _ _
  simp only [State.ctx?, h]

section
variable {s : State} {q code : Nat} {p : Packet} {ok : Packet → Bool} {go : State → Packet → State}

/-- A packet that may be read and that a test accepts is taken. -/
theorem State.Reads.goodPacket (h : s.Reads q code p) (hok : ok p = true) : s.goodPacket? q code ok go = some (go (s.takePacket p) p) := by
  obtain ⟨hnext, hkept, hgood, hop, hfree⟩ := h
  have hser : (p.legal && p.ser && p.op != 1 && p.op != 4 && !p.x.inFlight.isEmpty) = false := by
    rcases hfree with h | h | h | h <;> simp [h, hop]
  simp [State.goodPacket?, State.packet?, hnext, hkept, hgood, hop, hok, hop ▸ hser]

/-- The same of one that reads the tables again first. -/
theorem State.Reads.tablesFirst (h : s.Reads q code p) (hok : ok p = true) (hw : ∀ u, s.rereadReads p.asid ≠ .wait u) :
    s.tablesFirst q code ok go = some (go (s.takePacket p) p) := by
  have hgo := h.goodPacket (go := go) hok
  obtain ⟨hnext, hkept, hgood, hop, -⟩ := h
  have hpass : (decide (p.x.skip ≠ 0) || !s.packetGood p || decide (p.op ≠ code) || !ok p) = false := by
    simp [hkept, hgood, hop, hok]
  cases hr : s.rereadReads p.asid with
  | wait u => exact absurd hr (hw u)
  | ok => simp only [State.tablesFirst, hnext, hpass, Bool.false_eq_true, if_false, hr, hgo]
  | bad l => simp only [State.tablesFirst, hnext, hpass, Bool.false_eq_true, if_false, hr, hgo]

end

/-! ### INVAL -/

/-- The fields that reading an entry again brings up to date (R22). -/
theorem State.rereadCtx_ctx? {s : State} {c : Ctx} {w : Nat × Nat} (hc : s.ctx? c.asid = some c) (hw : s.ctxtWords c.asid = some w) :
    (s.rereadCtx c.asid).ctx? c.asid = some { c with v := bitAt w.1 0, root := bitsAt w.1 16 36 * 65536, fth := bitAt w.1 7 } := by
  obtain ⟨w0, w1⟩ := w
  simp only [State.rereadCtx, hw]
  rw [State.ctx?_modCtx, hc]
  · simp
  · exact fun _ => rfl

theorem State.readExc_asid (s : State) (c : Ctx) : (s.readExc c).asid = c.asid := by
  unfold State.readExc
  split <;> rfl

theorem State.readHeads_frame (s : State) (c : Ctx) : ∃ a b d, s.readHeads c = { c with fhead := a, shead := b, drops := d } := by
  unfold State.readHeads
  split <;> exact ⟨_, _, _, rfl⟩

/-- Reading the exception entry again changes at most the counts of what it names. -/
theorem State.rereadExc_frame (s : State) (c : Ctx) : ∃ a b d, s.rereadExc c = { s.readExc c with fhead := a, shead := b, drops := d } := by
  unfold State.rereadExc
  dsimp only
  split
  · exact ⟨_, _, _, rfl⟩
  · exact s.readHeads_frame _

theorem State.rereadExc_asid (s : State) (c : Ctx) : (s.rereadExc c).asid = c.asid := by
  obtain ⟨a, b, d, h⟩ := s.rereadExc_frame c
  rw [h]
  exact s.readExc_asid c

/-- What the device reads for itself does not depend on the contexts. -/
theorem State.byteAt_device_modCtx (s : State) (n : Nat) (f : Ctx → Ctx) (l : Loc) : (s.modCtx n f).byteAt .device l = s.byteAt .device l := rfl

theorem State.numAt_device_modCtx (s : State) (n : Nat) (f : Ctx → Ctx) (l : Loc) (k : Nat) :
    (s.modCtx n f).numAt .device l k = s.numAt .device l k := by
  simp only [State.numAt, State.bytesAt, State.byteAt_device_modCtx]

theorem State.readExc_modCtx (s : State) (n : Nat) (f : Ctx → Ctx) (c : Ctx) : (s.modCtx n f).readExc c = s.readExc c := by
  have hring : (s.modCtx n f).ringPlace = s.ringPlace := rfl
  have hlog : (s.modCtx n f).logRing = s.logRing := rfl
  unfold State.readExc
  simp only [State.devNum, State.numAt_device_modCtx, hring, hlog, State.modCtx_regs]
  rfl

theorem State.readHeads_modCtx (s : State) (n : Nat) (f : Ctx → Ctx) (c : Ctx) : (s.modCtx n f).readHeads c = s.readHeads c := by
  unfold State.readHeads
  split <;> rfl

theorem State.rereadExc_modCtx (s : State) (n : Nat) (f : Ctx → Ctx) (c : Ctx) : (s.modCtx n f).rereadExc c = s.rereadExc c := by
  simp only [State.rereadExc, State.readExc_modCtx, State.readHeads_modCtx]

theorem State.rereadExc_rereadCtx (s : State) (asid : Nat) (c : Ctx) : (s.rereadCtx asid).rereadExc c = s.rereadExc c := by
  unfold State.rereadCtx
  split <;> exact s.rereadExc_modCtx _ _ c

theorem State.rereadTables_ctx? {s : State} {c d : Ctx} (hr : s.rereadReads c.asid = .ok) (hd : (s.rereadCtx c.asid).ctx? c.asid = some d) :
    (s.rereadTables c.asid).ctx? c.asid = some ((s.rereadCtx c.asid).rereadExc d) := by
  have hda : d.asid = c.asid := by simpa using List.find?_some hd
  simp only [State.rereadTables, hr]
  rw [State.ctx?_modCtx _ _ _ _ s.rereadExc_asid, hd, s.rereadExc_rereadCtx]
  simp [hda]

/-- The counts are read again only where the entry names a new write-back area (R445). -/
theorem State.rereadExc_spec (s : State) (c : Ctx) : (s.rereadExc c).hpc = (s.readExc c).hpc ∧ (s.rereadExc c).fring = (s.readExc c).fring ∧
    (s.rereadExc c).sring = (s.readExc c).sring ∧ (s.rereadExc c).wbArea = (s.readExc c).wbArea ∧
    ((s.rereadExc c).wbArea = c.wbArea → s.rereadExc c = s.readExc c) := by
  obtain ⟨a, b, d, h⟩ := s.rereadExc_frame c
  refine ⟨by rw [h], by rw [h], by rw [h], by rw [h], fun hwb => ?_⟩
  have hwb' : (s.readExc c).wbArea = c.wbArea := by
    rw [h] at hwb
    exact hwb
  simp only [State.rereadExc, if_pos hwb']

/-- What a shootdown of a range keeps (R43). -/
theorem State.dropRange_spec (s : State) (asid va pages : Nat) :
    (∀ e, e ∈ (s.dropRange asid va pages).tlb ↔
      e ∈ s.tlb ∧ ¬ (e.asid = asid ∧ e.vbase < va + 65536 * pages ∧ va < e.vbase + e.size.bytes)) ∧
    (∀ f, f ∈ (s.dropRange asid va pages).fails ↔ f ∈ s.fails ∧ s.asidOf f.gk ≠ asid) := by
  constructor
  · intro e
    simp only [State.dropRange, State.shootdown, List.mem_filter, Bool.not_eq_true', ← Bool.not_eq_true]
    simp [TlbEnt.meets, and_assoc]
  · intro f
    have hasid : (s.shootdown asid va (va + 65536 * pages)).asidOf f.gk = s.asidOf f.gk := rfl
    have hfails : (s.shootdown asid va (va + 65536 * pages)).fails = s.fails := rfl
    simp only [State.dropRange, List.mem_filter, hasid, hfails, Bool.not_eq_true', beq_eq_false_iff_ne]

/-- An invalidate whose accesses have drained and whose lines no engine and no peer holds writes its lines back (R43). -/
theorem State.drain_go {s : State} {j : Job} (hj : s.job? j.id = some j) (hp : j.phase = 1)
    (hops : ∀ o ∈ s.ops, o.id < j.id → s.asidOf o.gk = j.asid → o.body.holdsJob j = false) (hown : ∀ l ∈ s.ownedLocs, j.covers l.pa = false)
    (hpeer : ∀ x ∈ s.mem.peerOwned, j.covers (128 * x.1) = false) (hheld : s.peerHeld (fun ln => j.covers (128 * ln)) = []) :
    s.drain? j.id = some (State.putJob { s.discardLines (fun ln => j.covers (128 * ln)) with
      mem := { (s.discardLines (fun ln => j.covers (128 * ln))).mem with
        dir := (s.discardLines (fun ln => j.covers (128 * ln))).mem.dir.filter (fun e => !(j.covers (128 * e.1))) } } { j with phase := 2 }) := by
  have hops' : s.ops.any (fun o => decide (o.id < j.id) && s.asidOf o.gk == j.asid && o.body.holdsJob j) = false := by
    simp only [List.any_eq_false, Bool.and_eq_true, decide_eq_true_eq, beq_iff_eq, not_and, Bool.not_eq_true]
    exact fun o ho h => hops o ho h.1 h.2
  have hown' : s.ownedLocs.any (fun l => j.covers l.pa) = false := by
    simpa only [List.any_eq_false, Bool.not_eq_true] using hown
  have hpeer' : s.mem.peerOwned.any (fun x => j.covers (128 * x.1)) = false := by
    simpa only [List.any_eq_false, Bool.not_eq_true] using hpeer
  simp [State.drain?, hj, hp, hops', hown', hpeer', hheld]

/-! ### PMOVE -/

/-- The tables of an address space that is not resident can be read, or need not be (R46). -/
theorem State.moveTables_ready {s : State} {asid : Nat}
    (h : (s.ctx? asid).isSome = true ∨ (∀ u, s.tableRead (s.entryPlaces asid) ≠ .wait u)) :
    (if (s.ctx? asid).isSome then TableRead.ok else s.tableRead (s.entryPlaces asid)) = .ok ∨
      ∃ l, (if (s.ctx? asid).isSome then TableRead.ok else s.tableRead (s.entryPlaces asid)) = .bad l := by
  by_cases hc : (s.ctx? asid).isSome = true
  · exact .inl (if_pos hc)
  · rw [if_neg hc]
    cases hr : s.tableRead (s.entryPlaces asid) with
    | ok => exact .inl rfl
    | wait u => exact absurd hr (h.resolve_left hc u)
    | bad l => exact .inr ⟨l, rfl⟩

section
variable {s : State} {q : Nat} {p : Packet}

/-- A page move that may be read answers what its checks find (R46, R47). -/
theorem State.Reads.pmove (h : s.Reads q 6 p)
    (ht : (s.ctx? p.asid).isSome = true ∨ (∀ u, s.tableRead (s.entryPlaces p.asid) ≠ .wait u)) :
    let big := p.f 6 2 == 1
    let size := if big then 2097152 else 65536
    let va := p.f 8 8 / size * size
    (∀ st, s.moveCheck p.asid va (p.f 0x10 8) big = .refuse st → s.pmove? q = some ((s.takePacket p).finishPacket p st)) ∧
    (∀ old leaves, s.moveCheck p.asid va (p.f 0x10 8) big = .go old leaves → s.pmove? q =
      some { s.takePacket p with
        ids := (s.takePacket p).ids + 1,
        jobs := (s.takePacket p).jobs ++ [⟨(s.takePacket p).ids, q, p.n, p.irq, p.asid, va, size / 65536, none,
          some (old, p.f 0x10 8, size, leaves), 0, []⟩] }) := by
  intro big size va
  have hpass : (decide (p.x.skip ≠ 0) || !s.packetGood p || decide (p.op ≠ 6)) = false := by
    simp [h.kept, h.good, h.op]
  have hgo := fun go => h.goodPacket (ok := fun _ => true) (go := go) rfl
  constructor
  · intro st hm
    simp only [big, size, va] at hm
    obtain hr | ⟨l, hr⟩ := State.moveTables_ready ht <;>
      simp only [State.pmove?, h.next, hpass, Bool.false_eq_true, if_false, hr, hm, hgo]
  · intro old leaves hm
    simp only [big, size, va] at hm
    obtain hr | ⟨l, hr⟩ := State.moveTables_ready ht <;>
      simp only [State.pmove?, h.next, hpass, Bool.false_eq_true, if_false, hr, hm, hgo] <;> rfl

end

/-- A page move whose lines are at hand copies, rewrites its leaf entries, and begins its invalidation (R47). -/
theorem State.moveCopied_go {s : State} {j : Job} {old new size : Nat} {leaves : List Nat} (hj : s.job? j.id = some j)
    (hm : j.move = some (old, new, size, leaves)) (hp : j.phase = 0) :
    let a := Agent.ctx j.asid
    let lines := fun (base : Nat) => (upFrom 0 (size / 128)).map (fun i => Loc.mk .device (base + 128 * i))
    (∀ l ∈ lines old, s.lineStatus a false l = .ok) →
    (∀ l ∈ lines new, s.lineStatus a true l = .ok) → (∀ pa ∈ leaves, s.lineStatus a true ⟨.device, pa⟩ = .ok) →
    let leaf := fun (u : State) (x : Nat × Nat) => let e := u.numAt a ⟨.device, x.1⟩ 8
      u.writeNum a ⟨.device, x.1⟩ 8 (e - bitsAt e 16 36 * 65536 + (new / 65536 + x.2) * 65536)
    let t := (leaves.zip (upFrom 0 leaves.length)).foldl leaf (s.copyRange a old new size)
    s.moveCopied? j.id = some ((t.dropRange j.asid j.va j.pages).putJob
      { j with pa := some old, phase := 1, dropped := t.droppedBy j.asid j.va j.pages }) := by
  intro a lines hold hnew hleaves leaf t
  have hreads : (lines old).any (fun l => s.lineStatus a false l != .ok) = false := by
    simpa only [List.any_eq_false, bne_iff_ne, ne_eq, not_not] using hold
  have hwrites : (lines new ++ leaves.map (fun pa => Loc.mk .device pa)).any (fun l => s.lineStatus a true l != .ok) = false := by
    simp only [List.any_eq_false, bne_iff_ne, ne_eq, not_not, List.mem_append, List.mem_map]
    rintro l (hl | ⟨pa, hpa, rfl⟩)
    · exact hnew l hl
    · exact hleaves pa hpa
  simp only [a, lines] at hreads hwrites
  simp only [State.moveCopied?, hj, hm, hp, ne_eq, not_true_eq_false, if_false, hreads, hwrites, Bool.or_self, Bool.false_eq_true]
  rfl

theorem State.copyRange_zero (s : State) (a : Agent) (old new : Nat) : s.copyRange a old new 0 = s := rfl

theorem State.copyRange_succ (s : State) (a : Agent) (old new n : Nat) :
    s.copyRange a old new (32 * (n + 1)) = (s.copyRange a old new (32 * n)).copySector a (old + 32 * n) (new + 32 * n) := by
  simp [State.copyRange, upFrom, List.range_succ]

/-! ### The completion of an invalidate, ABORT and CTXCTL -/

theorem State.invalDone_go {s : State} {j : Job} {x : Queue} (hj : s.job? j.id = some j) (hp : j.phase = 2) (hx : s.queue? j.q = some x) :
    s.invalDone? j.id = some ({ s with jobs := s.jobs.filter (fun x => x.id != j.id) }.completePacket j.q
      (x.plainDone j.n (if j.move.isSome then 6 else 5) 0 j.irq)) := by
  have hx' : State.queue? { s with jobs := s.jobs.filter (fun x => x.id != j.id) } j.q = some x := hx
  simp only [State.invalDone?, hj, hp, ne_eq, not_true_eq_false, if_false, hx']

/-- Nothing that waited for a halt of a context is still to be carried out. -/
theorem State.resuming_of_ctx {s : State} {asid : Nat} {c : Ctx} (hc : s.ctx? asid = some c) (h : c.halt ≠ .halted ∨ c.afterPkts = []) :
    s.resuming asid = false := by
  rcases h with h | h <;> simp [State.resuming, hc, h]

theorem State.resuming_of_none {s : State} {asid : Nat} (hc : s.ctx? asid = none) : s.resuming asid = false := by
  simp [State.resuming, hc]

theorem State.rereadReads_of_none {s : State} {asid : Nat} (hc : s.ctx? asid = none) : s.rereadReads asid = .ok := by
  simp only [State.rereadReads, hc]

theorem State.resume_of_halted {s : State} {asid : Nat} {c : Ctx} (hc : s.ctx? asid = some c) (hh : c.halt = .halted) :
    ((∃ b ∈ s.blocks, b.asid = asid ∧ b.lostOrDbl = true) → s.resume asid = (s, 2)) ∧
    ((∀ b ∈ s.blocks, b.asid = asid → b.lostOrDbl = false) → s.resume asid = (s.restart asid, 0)) := by
  have hany : s.blocks.any (fun b => b.asid == asid && b.lostOrDbl) = true ↔ ∃ b ∈ s.blocks, b.asid = asid ∧ b.lostOrDbl = true := by
    simp only [List.any_eq_true, Bool.and_eq_true, beq_iff_eq]
  constructor
  · intro h
    simp only [State.resume, hc, hh, ne_eq, not_true_eq_false, if_false, hany.mpr h, if_true]
  · intro h
    have hnone : ¬ s.blocks.any (fun b => b.asid == asid && b.lostOrDbl) = true := by
      rw [hany]
      rintro ⟨b, hb, ha, hl⟩
      exact absurd (h b hb ha) (hl ▸ Bool.noConfusion)
    simp only [State.resume, hc, hh, ne_eq, not_true_eq_false, if_false, if_neg hnone]

section
variable {s : State} {q : Nat} {p : Packet}

theorem State.Reads.abortLost (h : s.Reads q 7 p) (hm : p.f 6 2 = 0) :
    let t := s.takePacket p
    s.abortLost? q = some (((t.blocks.filter (fun b => b.asid == p.asid && b.lostOrDbl)).foldl State.abortBlock t).finishPacket p 0) :=
  h.goodPacket (by simp [hm])

theorem State.Reads.abortLaunch (h : s.Reads q 7 p) (hm : p.f 6 2 = 1) :
    let t := s.takePacket p
    let found := t.launches.find? (fun l => l.asid == p.asid && l.corr.toNat == p.f 8 4)
    (found = none → s.abortLaunch? q = some (t.finishPacket p 0)) ∧
    (∀ l, found = some l → s.abortLaunch? q = some ((t.abortLaunch l).finishPacket p 0)) := by
  intro t found
  have hgo := fun go => h.goodPacket (ok := fun p => p.f 6 2 == 1) (go := go) (by simp [hm])
  constructor
  · intro hf
    simp only [found, t] at hf
    simp only [State.abortLaunch?, hgo, hf, t]
  · intro l hf
    simp only [found, t] at hf
    simp only [State.abortLaunch?, hgo, hf, t]

end

section
variable {s : State} {q : Nat} {p : Packet} {c : Ctx} (h : s.Reads q 8 p)
include h

theorem State.Reads.ctxHalt_of_none (hc : (s.takePacket p).ctx? p.asid = none) (hm : p.f 6 2 = 0) :
    s.ctxHalt? q = some ((s.takePacket p).finishPacket p 0) := by
  have hn := State.resuming_of_none (s.takePacket_ctx? p p.asid ▸ hc)
  simp only [State.ctxHalt?, h.goodPacket (ok := fun p => p.f 6 2 == 0 && !s.resuming p.asid) (by simp [hm, hn]), hc]

theorem State.Reads.ctxResume_of_none (hc : (s.takePacket p).ctx? p.asid = none) (hm : p.f 6 2 = 1) (hmv : s.moving p.asid = false) :
    s.ctxResume? q = some ((s.takePacket p).finishPacket p 1) := by
  have hs : s.ctx? p.asid = none := s.takePacket_ctx? p p.asid ▸ hc
  have hn := State.resuming_of_none hs
  have hw : ∀ u, s.rereadReads p.asid ≠ .wait u := fun u => by simp [State.rereadReads_of_none hs]
  simp only [State.ctxResume?, h.tablesFirst (ok := fun p => p.f 6 2 == 1 && !s.moving p.asid && !s.resuming p.asid)
    (by simp [hm, hn, hmv]) hw]
  simp [State.halting, State.resume, hc]

theorem State.Reads.ctxEnd_of_none (hc : (s.takePacket p).ctx? p.asid = none) (hm : p.f 6 2 = 2) :
    s.ctxEnd? q = some (((s.takePacket p).endContext p.asid).finishPacket p 0) := by
  have hn := State.resuming_of_none (s.takePacket_ctx? p p.asid ▸ hc)
  simp only [State.ctxEnd?, h.goodPacket (ok := fun p => p.f 6 2 == 2 && !s.resuming p.asid) (by simp [hm, hn]), hc]

variable (hc : (s.takePacket p).ctx? p.asid = some c) (hn : s.resuming p.asid = false)
include hc hn

theorem State.Reads.ctxHalt_resident (hm : p.f 6 2 = 0) : let t := s.takePacket p
    s.ctxHalt? q = some (if c.halt = .halted then t.finishPacket p 0
      else (t.haltContext p.asid).modCtx p.asid (fun c => { c with haltPkts := c.haltPkts ++ [(q, p.n, p.irq)] })) := by
  simp only [State.ctxHalt?, h.goodPacket (ok := fun p => p.f 6 2 == 0 && !s.resuming p.asid) (by simp [hm, hn]), hc]

theorem State.Reads.ctxEnd_resident (hm : p.f 6 2 = 2) : let t := s.takePacket p
    s.ctxEnd? q = some (if c.halt = .halted then (t.endContext p.asid).finishPacket p 0
      else (t.haltContext p.asid).modCtx p.asid (fun c => { c with afterPkts := c.afterPkts ++ [(p.x.q, p.n, p.irq, true)] })) := by
  simp only [State.ctxEnd?, h.goodPacket (ok := fun p => p.f 6 2 == 2 && !s.resuming p.asid) (by simp [hm, hn]), hc, State.afterward]

/-- A resume of a resident context waits where a halt of it is in progress, and answers else (R458). -/
theorem State.Reads.ctxResume_resident (hm : p.f 6 2 = 1) (hmv : s.moving p.asid = false) (hw : ∀ u, s.rereadReads p.asid ≠ .wait u) :
    let t := s.takePacket p
    (c.halt = .raised ∨ c.halt = .stopping → s.ctxResume? q = some (t.afterward p false)) ∧
    (c.halt = .running ∨ c.halt = .halted → s.ctxResume? q = some ((t.resume p.asid).1.finishPacket p (t.resume p.asid).2)) := by
  intro t
  have hgo := fun go => h.tablesFirst (ok := fun p => p.f 6 2 == 1 && !s.moving p.asid && !s.resuming p.asid) (go := go)
    (by simp [hm, hn, hmv]) hw
  constructor <;> intro hh
  · have hhalt : (s.takePacket p).halting p.asid = true := by rcases hh with hh | hh <;> simp [State.halting, hc, hh]
    simp only [State.ctxResume?, hgo, hhalt, if_true, t]
  · have hhalt : (s.takePacket p).halting p.asid = false := by rcases hh with hh | hh <;> simp [State.halting, hc, hh]
    simp only [State.ctxResume?, hgo, hhalt, Bool.false_eq_true, if_false, t]

end

/-- An instruction whose function answers a state leaves it. -/
theorem next_getD {o : Option State} {s t : State} (h : o = some t) :
    (Host.Outcome.next (o.getD s) : Host.Outcome State Fault Refusal) = .next t := by
  rw [h, Option.getD_some]

end Sys2Proof.Machine

/-- Settles O26: what each packet does when it is read is `goodPacket`, with the tables read first where the packet asks for it; what
follows is the job's phases, one lemma each. -/
theorem managementPackets : Obligations.ManagementPackets := by
  refine ⟨fun s q p h hw => next_getD (h.tablesFirst (ok := fun _ => true) rfl hw), fun s c w hc hw => ⟨State.rereadCtx_ctx? hc hw,
      fun hr => State.rereadTables_ctx? hr (State.rereadCtx_ctx? hc hw), fun l hl => by simp only [State.rereadTables, hl]⟩,
    fun s c => s.rereadExc_spec c,
    fun s asid va pages => ⟨(s.dropRange_spec asid va pages).1, (s.dropRange_spec asid va pages).2, rfl, rfl, rfl⟩,
    fun s j hj hp hops hown hpeer hheld => next_getD (State.drain_go hj hp hops hown hpeer hheld),
    fun s j x hj hp hx => next_getD (State.invalDone_go hj hp hx), fun s q p h ht => ?_,
    fun s j old new size leaves hj hm hp hold hnew hleaves => next_getD (State.moveCopied_go hj hm hp hold hnew hleaves),
    fun s a old new n => ⟨s.copyRange_zero a old new, s.copyRange_succ a old new n, rfl⟩,
    fun s q p h => ⟨fun hm => next_getD (h.abortLost hm), fun hm => ?_⟩, fun s q p c h hc hn => ?_,
    fun s q p h hc => ⟨fun hm => next_getD (h.ctxHalt_of_none hc hm), fun hm hmv => next_getD (h.ctxResume_of_none hc hm hmv),
      fun hm => next_getD (h.ctxEnd_of_none hc hm)⟩⟩
  · obtain ⟨hrefuse, hgo⟩ := h.pmove ht
    exact ⟨fun st hm => next_getD (hrefuse st hm), fun old leaves hm => next_getD (hgo old leaves hm),
      fun hmay => by simp only [State.moveCheck, hmay, Bool.not_false, if_true]⟩
  · obtain ⟨hnone, hsome⟩ := h.abortLaunch hm
    refine ⟨fun hf => next_getD (hnone hf), fun l hf => ⟨fun hst => ?_, fun hst => ?_⟩⟩
    · exact next_getD ((hsome l hf).trans (by simp only [State.abortLaunch, if_pos hst]))
    · exact next_getD ((hsome l hf).trans (by simp only [State.abortLaunch, if_neg hst]))
  · have hn' : s.resuming p.asid = false := State.resuming_of_ctx (s.takePacket_ctx? p p.asid ▸ hc) hn
    refine ⟨fun hm => next_getD (h.ctxHalt_resident hc hn' hm), fun hm hmv hw => ?_,
      fun hm => next_getD (h.ctxEnd_resident hc hn' hm)⟩
    obtain ⟨hwait, hgo⟩ := h.ctxResume_resident hc hn' hm hmv hw
    refine ⟨fun hh => next_getD ((hgo (.inl hh)).trans ?_), fun hh => next_getD (hwait hh), fun hh hb => next_getD ((hgo (.inr hh)).trans ?_),
      fun hh hb => next_getD ((hgo (.inr hh)).trans ?_)⟩
    · simp [State.resume, hc, hh]
    · rw [(State.resume_of_halted hc hh).1 hb]
    · rw [(State.resume_of_halted hc hh).2 hb]
end

section
/-! Launches: how a packet enters one, its acceptance, its start and its completion, and the mode switch (R64 to R66, R428 to R431). -/
open Sys2Proof Sys2Proof.Machine
namespace Sys2Proof.Machine

/-! ### What changes no launch -/

theorem MemFrame.launches {s t : State} (h : MemFrame s t) : t.launches = s.launches := by
  obtain ⟨_, _, _, _, rfl⟩ := h
  rfl

theorem MemFrame.blocks {s t : State} (h : MemFrame s t) : t.blocks = s.blocks := h.record.blocks

/-- `t` differs from `s` at most in the memories and caches, what the device has posted and signalled, and the queues. -/
def QueueFrame (s t : State) : Prop := ∃ d h p m ps qs ms,
  t = { s with dram := d, host := h, peer := p, mem := m, posted := ps, queues := qs, msix := ms }

theorem QueueFrame.refl (s : State) : QueueFrame s s := ⟨_, _, _, _, _, _, _, rfl⟩

theorem QueueFrame.trans {s t u : State} (h : QueueFrame s t) (h' : QueueFrame t u) : QueueFrame s u := by
  obtain ⟨_, _, _, _, _, _, _, rfl⟩ := h
  obtain ⟨_, _, _, _, _, _, _, rfl⟩ := h'
  exact ⟨_, _, _, _, _, _, _, rfl⟩

theorem MemFrame.queue {s t : State} (h : MemFrame s t) : QueueFrame s t := by
  obtain ⟨_, _, _, _, rfl⟩ := h
  exact ⟨_, _, _, _, _, _, _, rfl⟩

theorem QueueFrame.table {s t : State} (h : QueueFrame s t) : t.launches = s.launches ∧ t.gangs = s.gangs ∧ t.handles = s.handles := by
  obtain ⟨_, _, _, _, _, _, _, rfl⟩ := h
  exact ⟨rfl, rfl, rfl⟩

theorem State.putQueue_frame (s : State) (x : Queue) : QueueFrame s (s.putQueue x) := ⟨_, _, _, _, _, _, _, rfl⟩

theorem State.post_queueFrame (s : State) (bs : List (Loc × Byte)) : QueueFrame s (s.post bs) := by
  unfold State.post
  dsimp only
  split
  · exact (s.writeAt_frame _ _ _).queue
  · exact ((s.askPeerFor_frame true (linesOfLocs (bs.map (·.1)))).queue).trans ⟨_, _, _, _, _, _, _, rfl⟩

theorem State.putStatus_frame (s : State) (x : Queue) : QueueFrame s (s.putStatus x) :=
  (s.putQueue_frame x).trans (State.post_queueFrame _ _)

theorem State.queueMsix_frame (s : State) (x : Queue) : QueueFrame s (s.queueMsix x) := by
  unfold State.queueMsix
  split
  · exact ⟨_, _, _, _, _, _, _, rfl⟩
  · exact QueueFrame.refl s

theorem State.flushRecords_frame (q n : Nat) (s : State) : QueueFrame s (s.flushRecords q n) := by
  induction n generalizing s with
  | zero => exact QueueFrame.refl s
  | succ n ih =>
    simp only [State.flushRecords]
    split
    · split
      · split
        · exact QueueFrame.refl s
        · refine .trans ?_ (ih _)
          split
          · exact ((s.post_queueFrame _).trans (State.putStatus_frame _ _)).trans (State.queueMsix_frame _ _)
          · exact (s.post_queueFrame _).trans (State.putStatus_frame _ _)
      · exact QueueFrame.refl s
    · exact QueueFrame.refl s

/-- The completion of a packet changes no launch. -/
theorem State.completePacket_frame (s : State) (q : Nat) (c : Completion) : QueueFrame s (s.completePacket q c) := by
  unfold State.completePacket
  split
  · exact (s.putQueue_frame _).trans (State.flushRecords_frame _ _ _)
  · exact QueueFrame.refl s

/-! ### The LAUNCH packet -/

theorem State.nextPacket_packet {s : State} {q : Nat} {p : Packet} (h : s.nextPacket q = .packet p) :
    s.queue? q = some p.x ∧ p.x.letsPass p.op = true := by
  have hop : ∀ l, s.numAt .device l 1 = fieldAt (s.bytesAt .device l 64) 0 1 := fun l => by
    simp only [State.numAt, fieldAt, State.bytesAt, upFrom, List.drop_zero, ← List.map_take, List.take_range]
    rfl
  unfold State.nextPacket at h
  split at h
  · cases h
  · next x hx =>
    split at h
    · cases h
    · dsimp only at h
      split at h
      · cases h
      · split at h
        · cases h
        · split at h <;> cases h
        · split at h
          · cases h
          · split at h
            · next hpass =>
              cases h
              exact ⟨hx, (congrArg _ (hop _)).symm.trans hpass⟩
            · cases h
        · cases h

/-- A packet that opens a launch is read from a queue that no launch holds (R425). -/
theorem State.Reads.launchPacket {s : State} {q : Nat} {p : Packet} (h : s.Reads q 1 p) (hq : s.hostQuiet = true) :
    s.launchPacket? q = some ((s.takePacket p).enterLaunch p) := by
  obtain ⟨hx, hpass⟩ := State.nextPacket_packet h.next
  have hhold : ∀ n, p.x.hold ≠ some (.launch n) := fun n hn => by
    simp [Queue.letsPass, hn, h.op] at hpass
  simp only [State.launchPacket?, hx, Option.bind_some]
  exact h.goodPacket hq

theorem State.launchPacket_retry {s : State} {q n : Nat} {x : Queue} (hx : s.queue? q = some x) (hh : x.hold = some (.launch n))
    (hm : s.letAllIn.admitMark ≠ s.admitMark) : s.launchPacket? q = some s.letAllIn := by
  simp only [State.launchPacket?, hx, Option.bind_some, hh, if_neg hm]

/-! ### Acceptance -/

theorem State.acceptOne_closed {s : State} {l : Launch} (hl : s.launch? l.id = some l) (hb : s.regs.ctxtBase.getLsbD 0 = false) :
    s.acceptOne l.id = s.refuseLaunch l 0x10 := by
  simp only [State.acceptOne, hl, hb, Bool.not_false, if_true]

theorem State.acceptIn_refuse {s : State} {l : Launch} {c : Ctx} (h : c.v = false ∨ c.vfn ≠ l.fn) :
    s.acceptIn c l = s.refuseLaunch l 0x10 := by
  have hc : (!c.v || decide (c.vfn ≠ l.fn)) = true := by rcases h with h | h <;> simp [h]
  simp only [State.acceptIn, hc, if_true]

theorem State.bumpWindow_frame (s : State) (i : Fin 16) : ∃ m r, s.bumpWindow i = { s with mem := m, regs := r } := by
  simp only [State.bumpWindow]
  split <;> exact ⟨_, _, rfl⟩

/-- The generations of a function's windows are all that an acceptance moves of the caches and the registers (R99). -/
theorem State.bumpWindows_frame (s : State) (vfn : Nat) : ∃ m r, s.bumpWindows vfn = { s with mem := m, regs := r } := by
  unfold State.bumpWindows
  generalize List.finRange 16 = is
  induction is generalizing s with
  | nil => exact ⟨_, _, rfl⟩
  | cons i is ih =>
    obtain ⟨m, r, hb⟩ : ∃ m r, (if s.regs.win[i].vfn.toNat = vfn then s.bumpWindow i else s) = { s with mem := m, regs := r } := by
      split
      · exact s.bumpWindow_frame i
      · exact ⟨_, _, rfl⟩
    obtain ⟨m', r', ht⟩ := ih { s with mem := m, regs := r }
    exact ⟨m', r', by rw [List.foldl_cons, hb, ht]⟩

/-- An event of a context that is not reproducible is not noted (R479). -/
theorem State.dtNote_of_free {s : State} {asid : Nat} {c : Ctx} (hc : s.ctx? asid = some c) (hr : c.repro = false) (st : Stream) (e : List Byte) :
    s.dtNote asid st e = s := by
  simp [State.dtNote, hc, hr]

/-- A launch as its acceptance leaves it (R430, R477). -/
def Launch.accepted (l : Launch) (x : LaunchData) (pcap lseq : Nat) : Launch :=
  { l with st := .accepted, desc := x.desc, tables := x.tables, hdr := x.hdr, shaders := x.shaders, prio := min x.desc.prio pcap, lseq := lseq }

/-- A queue goes on. -/
def State.unhold (s : State) (q : Nat) : State :=
  match s.queue? q with
  | some y => s.putQueue { y with hold := none }
  | none => s

theorem State.unhold_launch? (s : State) (q n : Nat) : (s.unhold q).launch? n = s.launch? n := by
  unfold State.unhold
  split <;> rfl

theorem State.unhold_queue? {s : State} {q : Nat} {y : Queue} (hy : s.queue? q = some y) :
    ((s.unhold q).queue? q).map (·.hold) = some none := by
  have hq : y.q = q := by simpa using List.find?_some hy
  subst hq
  simp only [State.unhold, hy]
  exact congrArg (Option.map Queue.hold) (s.queue?_putQueue { y with hold := none })

theorem State.bumpWindows_finds (s : State) (vfn n : Nat) :
    (s.bumpWindows vfn).launch? n = s.launch? n ∧ (s.bumpWindows vfn).queue? n = s.queue? n := by
  obtain ⟨m, r, h⟩ := s.bumpWindows_frame vfn
  rw [h]
  exact ⟨rfl, rfl⟩

/-- The state with a launch accepted and its context's ordinal advanced; its windows and its queue are as they were. -/
def State.entered (s : State) (c : Ctx) (l : Launch) (x : LaunchData) : State :=
  (s.putAsid { s.asidInfo c.asid with lseq := ((s.asidInfo c.asid).lseq + 1) % 2 ^ 32 }).modLaunch l.id
    (fun m => m.accepted x (((s.queue? l.q).map (·.pcap)).getD 0) (((s.asidInfo c.asid).lseq + 1) % 2 ^ 32))

theorem State.entered_launch? {s : State} {l : Launch} (hl : s.launch? l.id = some l) (c : Ctx) (x : LaunchData) :
    (s.entered c l x).launch? l.id = some (l.accepted x (((s.queue? l.q).map (·.pcap)).getD 0) (((s.asidInfo c.asid).lseq + 1) % 2 ^ 32)) := by
  have hput : (s.putAsid { s.asidInfo c.asid with lseq := ((s.asidInfo c.asid).lseq + 1) % 2 ^ 32 }).launch? l.id = some l := hl
  rw [State.entered, State.launch?_modLaunch, hput]
  · simp
  · exact fun _ => rfl

theorem State.entered_ctx? (s : State) (c : Ctx) (l : Launch) (x : LaunchData) (n : Nat) : (s.entered c l x).ctx? n = s.ctx? n := by
  unfold State.entered State.ctx?
  rw [State.modLaunch_ctxs, State.putAsid_ctxs]

/-- Of a context that is not reproducible an acceptance notes nothing. -/
theorem State.admitLaunch_eq {s : State} {c : Ctx} (hc : s.ctx? c.asid = some c) (hr : c.repro = false) (l : Launch) (x : LaunchData) :
    s.admitLaunch c l x = ((s.entered c l x).bumpWindows c.vfn).unhold l.q := by
  have hnote := State.dtNote_of_free ((s.entered_ctx? c l x c.asid).trans hc) hr .processor
    (acceptEntry l.corr (((s.asidInfo c.asid).lseq + 1) % 2 ^ 32))
  unfold State.admitLaunch
  dsimp only
  generalize hv : State.bumpWindows (State.dtNote _ c.asid .processor _) c.vfn = v
  rw [← hnote, show ((s.entered c l x).dtNote _ _ _).bumpWindows c.vfn = v from hv]
  unfold State.unhold
  cases v.queue? l.q <;> rfl

theorem State.admitLaunch_spec {s : State} {l : Launch} {c : Ctx} {x : LaunchData} (hl : s.launch? l.id = some l) (hc : s.ctx? c.asid = some c)
    (hr : c.repro = false) : let t := s.admitLaunch c l x
    ∃ m, t.launch? l.id = some m ∧ m.st = .accepted ∧ m.desc = x.desc ∧ m.tables = x.tables ∧ m.hdr = x.hdr ∧ m.shaders = x.shaders ∧
      m.prio = min x.desc.prio (((s.queue? l.q).map (·.pcap)).getD 0) ∧ m.lseq = ((s.asidInfo c.asid).lseq + 1) % 2 ^ 32 ∧
      ∀ y, s.queue? l.q = some y → (t.queue? l.q).map (·.hold) = some none := by
  intro t
  have hlaunch : t.launch? l.id = some (l.accepted x (((s.queue? l.q).map (·.pcap)).getD 0) (((s.asidInfo c.asid).lseq + 1) % 2 ^ 32)) := by
    simp only [t]
    rw [State.admitLaunch_eq hc hr l x, State.unhold_launch?, (State.bumpWindows_finds _ _ _).1, State.entered_launch? hl c x]
  refine ⟨_, hlaunch, rfl, rfl, rfl, rfl, rfl, rfl, rfl, fun y hy => ?_⟩
  simp only [t]
  rw [State.admitLaunch_eq hc hr l x]
  exact State.unhold_queue? ((State.bumpWindows_finds _ _ _).2.trans hy)

/-! ### Start and completion -/

theorem State.leaveHandles_handles (s : State) (id : Nat) : ∀ e ∈ (s.leaveHandles id).handles, id ∉ e.writers ∧ id ∉ e.readers := by
  intro e he
  simp only [State.leaveHandles, List.mem_filter, List.mem_map] at he
  obtain ⟨⟨d, -, rfl⟩, -⟩ := he
  simp

theorem Launch.unwait_id (m l : Launch) (part : Option Nat) : (m.unwait l part).id = m.id := by
  unfold Launch.unwait
  split <;> rfl

/-- What is left of the launches and the gangs once a launch is over (R428). -/
def State.without (s : State) (l : Launch) : State :=
  { s with launches := (s.launches.filter (fun (m : Launch) => m.id != l.id)).map (fun (m : Launch) => m.unwait l ((s.ctx? l.asid).bind Ctx.confined)),
           gangs := s.gangs.filter (fun g => g.1 != l.id) }.leaveHandles l.id

theorem State.without_launch? (s : State) (l : Launch) : (s.without l).launch? l.id = none := by
  simp only [State.launch?, State.without, State.leaveHandles, List.find?_eq_none, List.mem_map, List.mem_filter]
  rintro _ ⟨m, ⟨-, hm⟩, rfl⟩
  simpa [Launch.unwait_id] using hm

/-- A launch that is over leaves the launches, the gangs and the handle table; else only queues change (R428, R432). -/
theorem State.postLaunch_frame {s : State} {l : Launch} (hl : s.launch? l.id = some l) (status : Nat) :
    QueueFrame (s.without l) (s.postLaunch l.id status) := by
  simp only [State.postLaunch, hl]
  refine .trans ?_ (State.completePacket_frame _ _ _)
  split
  · split
    · exact State.putQueue_frame _ _
    · exact QueueFrame.refl _
  · exact QueueFrame.refl _

theorem State.postLaunch_spec {s : State} {l : Launch} (hl : s.launch? l.id = some l) (status : Nat) : let t := s.postLaunch l.id status
    t.launch? l.id = none ∧ (∀ g ∈ t.gangs, g.1 ≠ l.id) ∧ ∀ e ∈ t.handles, l.id ∉ e.writers ∧ l.id ∉ e.readers := by
  intro t
  obtain ⟨hlaunches, hgangs, hhandles⟩ := (State.postLaunch_frame hl status).table
  refine ⟨?_, fun g hg => ?_, fun e he => ?_⟩
  · rw [State.launch?, hlaunches]
    exact s.without_launch? l
  · rw [hgangs] at hg
    simpa using (List.mem_filter.mp hg).2
  · rw [hhandles] at he
    exact State.leaveHandles_handles _ _ e he

/-- A launch that may start starts: of the caches only lines that another partition's cores hold are left (R431). -/
theorem State.launchStart_go {s : State} {l : Launch} (hl : s.launch? l.id = some l) (hs : s.mayStart l = true) :
    ∃ t, s.launchStart? l.id = some t ∧ t.launch? l.id = some { l with st := .started, flush := [] } ∧ t.blocks = s.blocks ∧
      (∀ x ∈ t.mem.l1, ∃ p, (s.ctx? l.asid).bind Ctx.confined = some p ∧ partOfCluster (clusterOfCore x.core) ≠ p) ∧
      (∀ x ∈ t.mem.code, ∃ p, (s.ctx? l.asid).bind Ctx.confined = some p ∧ partOfCluster x.1 ≠ p) := by
  simp only [State.launchStart?, hl, hs, Bool.not_true, Bool.false_eq_true, if_false]
  generalize hu : State.freshViews _ _ = u
  have hframe : MemFrame s u := by
    rw [← hu]
    exact (MemFrame.foldl (MemFrame.refl s) _ _ (fun v f => v.flushL2_frame _)).trans (State.dropL2_frame _ _)
  have hlu : u.launch? l.id = some l := by rw [State.launch?, hframe.launches]; exact hl
  refine ⟨_, rfl, ?_, hframe.blocks, ?_⟩
  · rw [State.launch?_modLaunch]
    · refine (congrArg _ hlu).trans ?_
      simp
    · exact fun _ => rfl
  · cases hp : (s.ctx? l.asid).bind Ctx.confined with
    | none => exact ⟨fun x hx => absurd (List.mem_filter.mp hx).2 (by simp), fun x hx => absurd (List.mem_filter.mp hx).2 (by simp)⟩
    | some p =>
      exact ⟨fun x hx => ⟨p, rfl, by simpa [hp] using (List.mem_filter.mp hx).2⟩,
        fun x hx => ⟨p, rfl, by simpa [hp] using (List.mem_filter.mp hx).2⟩⟩

/-- A launch of which nothing is left completes once its result word is written (R136). -/
theorem State.launchComplete_go {s s' : State} {l : Launch} {c : Ctx} (hl : s.launch? l.id = some l) (hc : s.ctx? l.asid = some c)
    (hst : l.st = .started) (hrun : c.halt = .running ∨ l.abort.isSome = true) (hbusy : s.launchBusy l = false) (hsets : l.binSets = [])
    (hbins : ∀ b ∈ s.accBins, b.launch ≠ l.id) (hspilled : ∀ b ∈ s.spilled, b.launch ≠ l.id) (hreplays : ∀ r ∈ s.replays, r.launch ≠ l.id)
    (hput : s.putResult c l = .ok s') :
    s.launchComplete? l.id = some (((s'.releaseAll c).postLaunch l.id (l.abort.getD 0)).boundary l.asid) := by
  have hready : (l.st != .started || !(c.halt == .running || l.abort.isSome) || s.launchBusy l) = false := by
    rcases hrun with h | h <;> simp [hst, hbusy, h]
  have hnobins : (!l.binSets.isEmpty || s.accBins.any (fun b => b.launch == l.id) || s.spilled.any (fun b => b.launch == l.id)) = false := by
    simpa [hsets] using ⟨hbins, hspilled⟩
  have hnoreplay : s.replays.any (fun r => r.launch == l.id) = false := by simpa using hreplays
  simp only [State.launchComplete?, hl, hc, hready, hnobins, hnoreplay, hput, Bool.false_eq_true, if_false]

theorem State.putResult_go {s t : State} {c : Ctx} {l : Launch} {p : Loc} (hr : l.desc.result ≠ 0)
    (hp : s.cpPlace ⟨l.asid, c.confined.getD 0, l.corr⟩ l.desc.result.toNat .store = .ok (t, p)) :
    s.putResult c l = .ok (t.writeBytes ⟨some l.asid, true⟩ p (leBytes 4 (if l.abort.isSome then 0 else l.result.toNat))) := by
  simp only [State.putResult, if_neg hr, hp]

/-! ### The mode switch -/

section
variable {s : State} (hswp : s.regs.l2cfg.swp = true) (hctxs : s.ctxs = [])
include hswp hctxs

/-- With no context resident everything is written back once nothing of it is at the peer (R66). -/
theorem State.modeFlush_go (hm : s.modeCached = true) (hheld : s.peerHeld (fun _ => true) = []) :
    s.modeFlush? = some ((s.flushL2 (fun _ => true)).flushRdc (fun _ => true)) := by
  have hidle : s.idleCtx? = none := by simp [State.idleCtx?, hctxs]
  simp [State.modeFlush?, hidle, hswp, hctxs, hm, hheld]

theorem State.modeDone_go (hm : s.modeCached = false) : s.modeDone? =
    some { s with regs := { s.regs with l2cfg := { s.regs.l2cfg with mode := !s.regs.l2cfg.mode, swp := false } } }.letAllIn := by
  simp only [State.modeDone?, hswp, hctxs, hm, List.isEmpty_nil, Bool.not_false, Bool.and_self, if_true]

end

end Sys2Proof.Machine

/-- Settles O27: a launch packet is never read behind a launch that holds its queue, so it enters; acceptance, start, completion and mode
switch follow their one open path each. -/
theorem launches : Obligations.Launches := by
  refine ⟨fun s q p h hq => next_getD (h.launchPacket hq), fun s q n x hx hh hm => next_getD (State.launchPacket_retry hx hh hm),
    fun s l hl hb => State.acceptOne_closed hl hb, fun s l c h => State.acceptIn_refuse h,
    fun s l c x hl hc hr => State.admitLaunch_spec hl hc hr, fun s l status hl => State.postLaunch_spec hl status, fun s l hl hs => ?_,
    fun s l c s' hl hc hst hrun hbusy hsets hbins hspilled hreplays hput =>
      next_getD (State.launchComplete_go hl hc hst hrun hbusy hsets hbins hspilled hreplays hput),
    fun s c l t p hr hp => State.putResult_go hr hp,
    fun s hswp hctxs => ⟨fun hm hheld => next_getD (State.modeFlush_go hswp hctxs hm hheld),
      fun hm => next_getD (State.modeDone_go hswp hctxs hm)⟩⟩
  obtain ⟨t, ht, hspec⟩ := State.launchStart_go hl hs
  exact ⟨t, next_getD ht, hspec⟩
end

section
/-! Page walks: the three levels, the checks of a mapping, and what the TLBs hold (R23 to R30, R34). -/
open Sys2Proof Sys2Proof.Machine
namespace Sys2Proof.Machine

/-! ### Reading an entry -/

theorem bitAt_toNat (e : DWord) (i : Nat) : bitAt e.toNat i = e.getLsbD i := by
  simp only [bitAt, bitsAt, BitVec.getLsbD, Nat.testBit_eq_decide_div_mod_eq]
  rfl

theorem entAddr_eq (e : DWord) : entAddr e = e.toNat / 65536 % 2 ^ 36 * 65536 := rfl

theorem State.Entry.read {s : State} {a : Agent} {pa : Nat} {e : DWord} (h : s.Entry a pa e) : s.readEntry a pa = .inr e := by
  obtain ⟨hline, hwhole, hword⟩ := h
  simp [State.readEntry, hline, hwhole, hword]

theorem State.readEntry_lost {s : State} {a : Agent} {pa : Nat} (h : s.lineStatus a false ⟨.device, pa⟩ = .lost) :
    s.readEntry a pa = .inl (.fault { cause := 0x25, sub := 0, level := 3, ent := 0 }) := by
  simp only [State.readEntry, h]

theorem State.readEntry_poison {s : State} {a : Agent} {pa : Nat} (h : s.lineStatus a false ⟨.device, pa⟩ = .ok)
    (hp : s.poisonIn a ⟨.device, pa⟩ 8 = true) : s.readEntry a pa = .inl (.poison pa) := by
  simp only [State.readEntry, h, hp, if_true]

/-! ### The address of a table -/

/-- The fault of a walk's entry or of a table's address (R29). -/
def walkFault (sub level : Nat) (e : DWord) (pa : Nat) : WalkRes := .fault { cause := 0x20, sub := sub, level := level, ent := e, pa := pa }

theorem State.tableFault_of_bad {s : State} {vfn base k : Nat} (h : s.tableBad vfn base = some k) (level : Nat) (last : DWord) :
    s.tableFault vfn base level last = some { cause := 0x20, sub := k, level := level, ent := last, pa := if k = 7 then base else 0 } := by
  unfold State.tableBad at h
  split at h
  · next hb =>
    cases h
    simp [State.tableFault, hb]
  · next hb =>
    split at h
    · next hr =>
      cases h
      simp [State.tableFault, hb, hr]
    · cases h

theorem State.tableFault_of_good {s : State} {vfn base : Nat} (h : s.tableBad vfn base = none) (level : Nat) (last : DWord) :
    s.tableFault vfn base level last = none := by
  unfold State.tableBad at h
  split at h
  · cases h
  · next hb =>
    split at h
    · cases h
    · next hr => simp [State.tableFault, hb, hr]

/-! ### The levels, one step each -/

section
variable {s : State} {a : Agent} {vfn asid base va : Nat}

theorem State.walkTop_bad {k : Nat} (h : s.tableBad vfn base = some k) :
    s.walkTop a vfn asid base va none = (walkFault k 0 0 (if k = 7 then base else 0), []) := by
  simp [State.walkTop, State.tableFault_of_bad h, walkFault]

theorem State.walkMiddle_bad {k : Nat} {last : DWord} (h : s.tableBad vfn base = some k) :
    s.walkMiddle a vfn asid base va last none = (walkFault k 1 last (if k = 7 then base else 0), []) := by
  simp [State.walkMiddle, State.tableFault_of_bad h, walkFault]

theorem State.walkLeaf_bad {k : Nat} {last : DWord} (h : s.tableBad vfn base = some k) :
    s.walkLeaf a vfn asid base va last = (walkFault k 2 last (if k = 7 then base else 0), []) := by
  simp [State.walkLeaf, State.tableFault_of_bad h, walkFault]

variable (ht : s.tableBad vfn base = none)
include ht

theorem State.walkTop_stopped {r : WalkRes} (hr : s.readEntry a (base + 8 * (va / 2 ^ 42 % 4096)) = .inl r) :
    s.walkTop a vfn asid base va none = (r, []) := by
  have hr' : s.readEntry a (base + 8 * bitsAt va 42 12) = .inl r := hr
  simp [State.walkTop, State.tableFault_of_good ht, hr']

/-- The top level with its entry read: it is not valid, it maps nothing, or it names the middle table (R26). -/
theorem State.walkTop_entry {e : DWord} (he : s.Entry a (base + 8 * (va / 2 ^ 42 % 4096)) e) :
    (e.getLsbD 0 = false → (s.walkTop a vfn asid base va none).1 = walkFault 2 0 e 0) ∧
    (e.getLsbD 0 = true → e.getLsbD 1 = false → (s.walkTop a vfn asid base va none).1 = walkFault 3 0 e 0) ∧
    (e.getLsbD 0 = true → e.getLsbD 1 = true → s.walkTop a vfn asid base va none =
      ((s.walkMiddle a vfn asid (entAddr e) va e none).1,
        ⟨0, base + 8 * (va / 2 ^ 42 % 4096), e⟩ :: (s.walkMiddle a vfn asid (entAddr e) va e none).2)) := by
  have hr : s.readEntry a (base + 8 * bitsAt va 42 12) = .inr e := he.read
  refine ⟨fun h0 => ?_, fun h0 h1 => ?_, fun h0 h1 => ?_⟩ <;>
    simp only [State.walkTop, State.tableFault_of_good ht, hr, bitAt_toNat, Option.isSome_none, Bool.false_eq_true, if_false, h0,
      Bool.not_false, Bool.not_true, if_true]
  · rfl
  · simp only [h1, Bool.not_false, if_true]
    rfl
  · simp only [h1, Bool.not_true, Bool.false_eq_true, if_false]
    rfl

/-- The middle level (R26). -/
theorem State.walkMiddle_entry {e last : DWord} (he : s.Entry a (base + 8 * (va / 2 ^ 29 % 8192)) e) :
    (e.getLsbD 0 = false → (s.walkMiddle a vfn asid base va last none).1 = walkFault 2 1 e 0) ∧
    (e.getLsbD 0 = true → e.getLsbD 1 = false → entAddr e % 2 ^ 29 ≠ 0 → (s.walkMiddle a vfn asid base va last none).1 = walkFault 3 1 e 0) ∧
    (e.getLsbD 0 = true → e.getLsbD 1 = false → entAddr e % 2 ^ 29 = 0 → s.walkMiddle a vfn asid base va last none =
      (.ok (mapEnt asid .m512 va (entAddr e) e), [⟨1, base + 8 * (va / 2 ^ 29 % 8192), e⟩])) ∧
    (e.getLsbD 0 = true → e.getLsbD 1 = true → s.walkMiddle a vfn asid base va last none =
      ((s.walkLeaf a vfn asid (entAddr e) va e).1,
        ⟨1, base + 8 * (va / 2 ^ 29 % 8192), e⟩ :: (s.walkLeaf a vfn asid (entAddr e) va e).2)) := by
  have hr : s.readEntry a (base + 8 * bitsAt va 29 13) = .inr e := he.read
  have hshape : bitsAt e.toNat 16 13 = 0 ↔ entAddr e % 2 ^ 29 = 0 := by
    simp only [bitsAt, entAddr_eq]
    omega
  refine ⟨fun h0 => ?_, fun h0 h1 hz => ?_, fun h0 h1 hz => ?_, fun h0 h1 => ?_⟩ <;>
    simp only [State.walkMiddle, State.tableFault_of_good ht, hr, bitAt_toNat, Option.isSome_none, Bool.false_eq_true, if_false, h0,
      Bool.not_false, Bool.not_true, if_true]
  · rfl
  · simp only [h1, Bool.false_eq_true, if_false, ne_eq, hshape, hz, not_false_eq_true, if_true]
    rfl
  · simp only [h1, Bool.false_eq_true, if_false, ne_eq, hshape, hz, not_true_eq_false]
    rfl
  · simp only [h1, if_true]
    rfl

/-- The leaf level: a page of 64 KiB, or the run of 32 entries is read (R26, R27). -/
theorem State.walkLeaf_entry {e last : DWord} (he : s.Entry a (base + 8 * (va / 65536 % 8192)) e) :
    (e.getLsbD 0 = false → (s.walkLeaf a vfn asid base va last).1 = walkFault 2 2 e 0) ∧
    (e.getLsbD 0 = true → e.getLsbD 1 = true → (s.walkLeaf a vfn asid base va last).1 = walkFault 3 2 e 0) ∧
    (e.getLsbD 0 = true → e.getLsbD 1 = false → e.getLsbD 8 = false → s.walkLeaf a vfn asid base va last =
      (.ok (mapEnt asid .k64 va (entAddr e) e), [⟨2, base + 8 * (va / 65536 % 8192), e⟩])) ∧
    (e.getLsbD 0 = true → e.getLsbD 1 = false → e.getLsbD 8 = true → ∀ es, s.readRun a base va = .inr es →
      (s.walkLeaf a vfn asid base va last).1 = if runOk es then .ok (mapEnt asid .m2 va (bitsAt (es.headD 0) 16 36 * 65536) e)
        else .ok (mapEnt asid .k64 va (entAddr e) e)) := by
  have hr : s.readEntry a (base + 8 * bitsAt va 16 13) = .inr e := he.read
  refine ⟨fun h0 => ?_, fun h0 h1 => ?_, fun h0 h1 h8 => ?_, fun h0 h1 h8 es hes => ?_⟩ <;>
    simp only [State.walkLeaf, State.tableFault_of_good ht, hr, bitAt_toNat, Bool.false_eq_true, if_false, h0,
      Bool.not_false, Bool.not_true, if_true]
  · rfl
  · simp only [h1, if_true]
    rfl
  · simp only [h1, h8, Bool.false_eq_true, if_false, Bool.not_false, if_true]
    rfl
  · simp only [h1, h8, Bool.false_eq_true, if_false, Bool.not_true, hes]
    split <;> rfl

end

/-! ### The run of 32 leaf entries -/

/-- One entry more of a run. -/
def State.readMore (s : State) (a : Agent) (base : Nat) (acc : Sum WalkRes (List Nat)) (j : Nat) : Sum WalkRes (List Nat) :=
  match acc with
  | .inl r => .inl r
  | .inr es => match s.readEntry a (base + 8 * j) with
    | .inl r => .inl r
    | .inr e => .inr (es ++ [e.toNat])

theorem State.readMore_entries {s : State} {a : Agent} {base first : Nat} {es : Fin 32 → DWord}
    (hes : ∀ j : Fin 32, s.Entry a (base + 8 * (first + j.val)) (es j)) (js : List (Fin 32)) (pre : List Nat) :
    (js.map (fun j => first + j.val)).foldl (s.readMore a base) (.inr pre) = .inr (pre ++ js.map (fun j => (es j).toNat)) := by
  induction js generalizing pre with
  | nil => simp
  | cons j js ih =>
    have hj : s.readMore a base (.inr pre) (first + j.val) = .inr (pre ++ [(es j).toNat]) := by
      simp only [State.readMore, (hes j).read]
    rw [List.map_cons, List.foldl_cons, hj, ih]
    simp

/-- The entries of a run, in order. -/
theorem State.readRun_entries {s : State} {a : Agent} {base va : Nat} {es : Fin 32 → DWord}
    (hes : ∀ j : Fin 32, s.Entry a (base + 8 * (va / 65536 % 8192 / 32 * 32 + j.val)) (es j)) :
    s.readRun a base va = .inr ((List.finRange 32).map (fun j => (es j).toNat)) := by
  have hplaces : upFrom (bitsAt va 16 13 / 32 * 32) 32 = (List.finRange 32).map (fun j => va / 65536 % 8192 / 32 * 32 + j.val) := by
    rw [upFrom, ← List.map_coe_finRange_eq_range, List.map_map]
    rfl
  have hfold := State.readMore_entries hes (List.finRange 32) []
  rw [List.nil_append, ← hplaces] at hfold
  exact hfold

/-- What makes a run one page of 2 MiB (R27). -/
theorem runOk_iff (es : Fin 32 → DWord) : runOk ((List.finRange 32).map (fun j => (es j).toNat)) = true ↔
    (∀ j : Fin 32, (es j).getLsbD 0 = true ∧ (es j).getLsbD 8 = true ∧ (es j).extractLsb' 0 16 = (es 0).extractLsb' 0 16 ∧
      entAddr (es j) = entAddr (es 0) + 65536 * j.val) ∧ entAddr (es 0) % 2 ^ 21 = 0 := by
  have hhead : ((List.finRange 32).map (fun j => (es j).toNat)).headD 0 = (es 0).toNat := rfl
  have hget : ∀ j : Fin 32, ((List.finRange 32).map (fun j => (es j).toNat)).getD j.val 0 = (es j).toNat := by
    intro j
    simp [List.getD]
  have hlow : ∀ d e : DWord, d.extractLsb' 0 16 = e.extractLsb' 0 16 ↔ d.toNat % 65536 = e.toNat % 65536 := by
    intro d e
    rw [BitVec.toNat_eq]
    simp
  have halign : bitsAt (es 0).toNat 16 5 = 0 ↔ entAddr (es 0) % 2 ^ 21 = 0 := by
    simp only [bitsAt, entAddr_eq]
    omega
  have haddr : ∀ j : Fin 32, bitsAt (es j).toNat 16 36 = bitsAt (es 0).toNat 16 36 + j.val ↔ entAddr (es j) = entAddr (es 0) + 65536 * j.val := by
    intro j
    simp only [bitsAt, entAddr_eq]
    omega
  have hall : ∀ f : Nat → Bool, (List.range 32).all f = true ↔ ∀ j : Fin 32, f j.val = true := by
    intro f
    simp only [List.all_eq_true, List.mem_range]
    exact ⟨fun h j => h j.val j.isLt, fun h j hj => h ⟨j, hj⟩⟩
  simp only [runOk, hhead, Bool.and_eq_true, hall, hget, beq_iff_eq, halign, haddr, bitAt_toNat, hlow]
  constructor
  · rintro ⟨hz, hj⟩
    exact ⟨fun j => ⟨(hj j).1.1.1, (hj j).1.1.2, (hj j).1.2, (hj j).2⟩, hz⟩
  · rintro ⟨hj, hz⟩
    refine ⟨hz, fun j => ?_⟩
    obtain ⟨h0, h8, hlo, had⟩ := hj j
    exact ⟨⟨⟨h0, h8⟩, hlo⟩, had⟩

theorem mapEnt_eq (asid : Nat) (size : PageSize) (va pbase : Nat) (e : DWord) :
    mapEnt asid size va pbase e = mappedBy asid va size.bytes size pbase e := by
  simp only [mapEnt, mappedBy, bitAt_toNat]
  rfl

/-- The leaf level with the run's 32 entries read (R27). -/
theorem State.walkLeaf_run {s : State} {a : Agent} {vfn asid base va : Nat} {e last : DWord} {es : Fin 32 → DWord}
    (ht : s.tableBad vfn base = none) (he : s.Entry a (base + 8 * (va / 65536 % 8192)) e) (h0 : e.getLsbD 0 = true) (h1 : e.getLsbD 1 = false)
    (h8 : e.getLsbD 8 = true) (hes : ∀ j : Fin 32, s.Entry a (base + 8 * (va / 65536 % 8192 / 32 * 32 + j.val)) (es j)) :
    (s.walkLeaf a vfn asid base va last).1 = if runOk ((List.finRange 32).map (fun j => (es j).toNat))
      then .ok (mapEnt asid .m2 va (entAddr (es 0)) e) else .ok (mapEnt asid .k64 va (entAddr e) e) := by
  obtain ⟨-, -, -, hrun⟩ := State.walkLeaf_entry (s := s) (a := a) (asid := asid) (last := last) ht he
  exact hrun h0 h1 h8 _ (State.readRun_entries hes)

theorem State.pageWalk (s : State) (part : Nat) (c : Ctx) (va : Nat) (hmid : s.walkCached part c.asid 1 (bitsAt va 29 25) = none)
    (htop : s.walkCached part c.asid 0 (bitsAt va 42 12) = none) : s.walkFor part c va = s.walkTop ⟨some c.asid, false⟩ c.vfn c.asid c.root va none := by
  simp only [State.walkFor, hmid, htop]

/-! ### The checks of a mapping -/

/-- The first check that fails, or the place. -/
def firstFault (checks : List (Bool × XFault)) (l : Loc) : XRes := ((checks.find? (·.1)).map (fun x => XRes.fault x.2)).getD (.ok l)

theorem firstFault_nil (l : Loc) : firstFault [] l = .ok l := rfl

theorem firstFault_cons (b : Bool) (f : XFault) (checks : List (Bool × XFault)) (l : Loc) :
    firstFault ((b, f) :: checks) l = if b then .fault f else firstFault checks l := by
  cases b <;> rfl

/-- Steps 5 to 9 of R29 in their order. -/
def State.mappingChecks (s : State) (vfn : Nat) (e : TlbEnt) (va : Nat) (u : Use) (ent : DWord) (k : MemKind) : List (Bool × XFault) :=
  let pa := e.paOf va
  let f := fun (c sub : Nat) => XFault.mk c sub 3 ent 0
  [(decide ((k = .device ∨ k = .view) ∧ vfn ≠ 0 ∧ s.inRange vfn pa = false), { f 0x20 7 with pa := pa }),
    (decide ((k = .device ∨ k = .peer) ∧ Config.deviceEnd ≤ pa), f 0x20 6),
    (decide (k = .peer ∧ s.regs.pairstat = 0), f 0x20 8), (decide (k = .peer ∧ s.regs.pairstat = 3), f 0x25 0),
    (e.p && !u.hm, f 0x21 3), (u.writes && !e.w, f 0x21 1), (decide (u.acc = .fetch) && !e.x, f 0x21 2),
    (decide ¬(u.acc = .fetch → k = .device ∨ k = .peer), f 0x21 4),
    (decide ¬(u.acc = .atomic → k ≠ .hostUnc ∧ (k = .hostCoh → u.hostAtom = true)), f 0x21 5), (u.writes && decide (k = .view), f 0x22 1),
    (decide (k = .view) && !s.windowFor vfn pa, f 0x20 9)]

theorem State.checkMapping_eq {s : State} {e : TlbEnt} {k : MemKind} (hk : kindOf e.kind = some k) (vfn va : Nat) (u : Use) (ent : DWord) :
    s.checkMapping vfn e va u ent = firstFault (s.mappingChecks vfn e va u ent k) ⟨k, e.paOf va⟩ := by
  simp only [State.checkMapping, hk, State.mappingChecks, firstFault_cons, firstFault_nil]
  cases k <;> simp

theorem part_pageWalk : Part.PageWalk := by
  refine ⟨fun s part c va hmid htop => ?_, ?_⟩
  · intro a w bad badTable addr p0
    have hw : w = s.walkTop a c.vfn c.asid c.root va none := s.pageWalk part c va hmid htop
    refine ⟨fun k hk => by rw [hw, State.walkTop_bad hk]; rfl, fun ht hl => by rw [hw, State.walkTop_stopped ht (State.readEntry_lost hl)],
      fun ht hl hp => by rw [hw, State.walkTop_stopped ht (State.readEntry_poison hl hp)], fun ht e0 he0 => ?_⟩
    obtain ⟨hinvalid, hshape, hnext⟩ := State.walkTop_entry (asid := c.asid) ht he0
    rw [← hw] at hinvalid hshape hnext
    refine ⟨hinvalid, hshape, fun h00 h01 => ?_⟩
    intro p1
    have hw : w = ((s.walkMiddle a c.vfn c.asid (addr e0) va e0 none).1, ⟨0, p0, e0⟩ :: (s.walkMiddle a c.vfn c.asid (addr e0) va e0 none).2) :=
      hnext h00 h01
    refine ⟨fun k hk => by rw [hw, State.walkMiddle_bad hk]; rfl, fun ht e1 he1 => ?_⟩
    obtain ⟨hinvalid, hshape, hmaps, hnext⟩ := State.walkMiddle_entry (asid := c.asid) (last := e0) ht he1
    refine ⟨fun h10 => by rw [hw]; exact hinvalid h10, fun h10 h11 hz => by rw [hw]; exact hshape h10 h11 hz,
      fun h10 h11 hz => ?_, fun h10 h11 => ?_⟩
    · rw [hw, hmaps h10 h11 hz, mapEnt_eq]
      rfl
    intro n page
    have hw : w = ((s.walkLeaf a c.vfn c.asid (addr e1) va e1).1,
        ⟨0, p0, e0⟩ :: ⟨1, p1, e1⟩ :: (s.walkLeaf a c.vfn c.asid (addr e1) va e1).2) := by
      rw [hw, hnext h10 h11]
      rfl
    refine ⟨fun k hk => by rw [hw, State.walkLeaf_bad hk]; rfl, fun ht e2 he2 => ?_⟩
    obtain ⟨hinvalid, hshape, hpage, -⟩ := State.walkLeaf_entry (asid := c.asid) (last := e1) ht he2
    refine ⟨fun h20 => by rw [hw]; exact hinvalid h20, fun h20 h21 => by rw [hw]; exact hshape h20 h21,
      fun h20 h21 h28 => ?_, fun h20 h21 h28 es hes => ?_⟩
    · rw [hw, hpage h20 h21 h28, mapEnt_eq]
      rfl
    · have hrun := State.walkLeaf_run (asid := c.asid) (last := e1) ht he2 h20 h21 h28 hes
      constructor
      · intro hok
        rw [hw]
        exact hrun.trans (by rw [if_pos ((runOk_iff es).mpr hok), mapEnt_eq]; rfl)
      · intro hok
        rw [hw]
        exact hrun.trans (by rw [if_neg (fun h => hok ((runOk_iff es).mp h)), mapEnt_eq]; rfl)
  · intro s vfn e va u ent pa f
    refine ⟨fun hk => by simp only [State.checkMapping, hk]; rfl, fun k hk => ?_⟩
    intro inMem atomOk checks
    have heq : s.checkMapping vfn e va u ent = firstFault checks ⟨k, pa⟩ := State.checkMapping_eq hk vfn va u ent
    rw [heq, firstFault]
    cases checks.find? (·.1) <;> rfl

end Sys2Proof.Machine
end

section
/-! What the TLBs and the walk caches hold after a walk (R34). -/
open Sys2Proof Sys2Proof.Machine
namespace Sys2Proof.Machine

/-! ### Making room -/

section
variable {α : Type} [DecidableEq α] (clk n : Nat) (p : α → Bool) (l : List α)

theorem capDrop_sublist : (capDrop clk n p l).Sublist l := by
  unfold capDrop
  dsimp only
  split
  · exact List.Sublist.refl l
  · split
    · exact List.erase_sublist
    · exact List.Sublist.refl l

/-- Room is made among the entries of the test alone. -/
theorem capDrop_cons_of_not {a : α} (ha : p a = false) : capDrop clk n p (a :: l) = a :: capDrop clk n p l := by
  have hfilter : (a :: l).filter p = l.filter p := by simp [ha]
  unfold capDrop
  dsimp only
  rw [hfilter]
  split
  · rfl
  · split
    · next v hv =>
      have hv' : p v = true := List.of_mem_filter (List.mem_of_getElem? hv)
      have hne : a ≠ v := fun h => by simp [h, hv'] at ha
      exact List.erase_cons_tail (by simpa using hne)
    · rfl

theorem capDrop_length (h : (l.filter p).length ≤ n + 1) : ((capDrop clk n p l).filter p).length ≤ n := by
  unfold capDrop
  dsimp only
  split
  · assumption
  · next hn =>
    split
    · next v hv =>
      have hmem : v ∈ l.filter p := List.mem_of_getElem? hv
      have hperm := ((List.perm_cons_erase (List.mem_of_mem_filter hmem)).filter p).length_eq
      rw [List.filter_cons_of_pos (List.of_mem_filter hmem), List.length_cons] at hperm
      omega
    · next hv =>
      have hpos : 0 < (l.filter p).length := by omega
      exact absurd (List.getElem?_eq_none_iff.mp hv) (Nat.not_le.mpr (Nat.mod_lt _ hpos))

end

/-! ### The TLBs -/

theorem State.tlbFind_none (s : State) (part asid va : Nat) :
    s.tlbFind none part asid va = s.tlb.find? (fun e => e.at_ == .part part && e.covers asid va) := rfl

/-- What serves a core's access is held there, or by its partition where the core holds nothing for it (R34). -/
theorem State.tlbFind_some {s : State} {n part asid va : Nat} {e : TlbEnt} (h : s.tlbFind (some n) part asid va = some e) :
    e ∈ s.tlb ∧ e.covers asid va = true ∧ (e.at_ = .core n ∨ e.at_ = .part part ∧ ∀ x ∈ s.tlb, x.at_ = .core n → x.covers asid va = false) := by
  simp only [State.tlbFind, Option.or_eq_some_iff] at h
  rcases h with h | ⟨hnone, h⟩
  · have htest := List.find?_some h
    simp only [Bool.and_eq_true, beq_iff_eq] at htest
    exact ⟨List.mem_of_find?_eq_some h, htest.2, .inl htest.1⟩
  · have htest := List.find?_some h
    simp only [Bool.and_eq_true, beq_iff_eq] at htest
    refine ⟨List.mem_of_find?_eq_some h, htest.2, .inr ⟨htest.1, fun x hx hc => ?_⟩⟩
    simpa [hc] using List.find?_eq_none.mp hnone x hx

theorem State.translate_spec (s : State) (core : Option Nat) (part asid : Nat) (va : DWord) (u : Use) (ent : DWord) :
    (va.toNat / 2 ^ 54 ≠ 0 → s.translate core part asid va u ent = .fault { cause := 0x20, sub := 1, level := 3, ent := 0 }) ∧
    (va.toNat / 2 ^ 54 = 0 → (∀ e, s.tlbFind core part asid va.toNat = some e →
        s.translate core part asid va u ent = s.checkMapping (((s.ctx? asid).map (·.vfn)).getD 0) e va.toNat u ent) ∧
      (s.tlbFind core part asid va.toNat = none → s.translate core part asid va u ent = .miss)) := by
  refine ⟨fun h => by simp only [State.translate, if_pos h], fun h => ⟨fun e he => ?_, fun he => ?_⟩⟩
  · simp only [State.translate, h, ne_eq, not_true_eq_false, if_false, he]
  · simp only [State.translate, h, ne_eq, not_true_eq_false, if_false, he]

/-- What is left of the TLBs beside the entries that served a VA, with room for one entry of a set in the partition's (R34). -/
def State.tlbRoom (s : State) (core : Option Nat) (part : Nat) (c : Ctx) (va : Nat) (e : TlbEnt) : List TlbEnt :=
  let drop := s.tlb.filter (fun x => !(x.covers c.asid va && (x.at_ == .part part || some x.at_ == core.map TlbWhere.core)))
  if (drop.filter (fun x => x.at_ == .part part)).length < 8 then drop else capDrop s.clk 7 (fun x => x.at_ == .part part && x.set == e.set) drop

section
variable (s : State) (core : Option Nat) (part : Nat) (c : Ctx) (va : Nat) (e : TlbEnt)

theorem State.tlbRoom_sublist : (s.tlbRoom core part c va e).Sublist s.tlb := by
  unfold State.tlbRoom
  dsimp only
  split
  · exact List.filter_sublist
  · exact (capDrop_sublist _ _ _ _).trans List.filter_sublist

/-- A set of the partition's TLB keeps at most 8 entries with the new one (R34). -/
theorem State.tlbRoom_set (h : ∀ k, (s.tlb.filter (fun x => x.at_ == .part part && x.set == k)).length ≤ 8) (k : Nat) :
    (({ e with at_ := .part part } :: s.tlbRoom core part c va e).filter (fun x => x.at_ == .part part && x.set == k)).length ≤ 8 := by
  have hset : TlbEnt.set { e with at_ := .part part } = e.set := rfl
  by_cases hk : k = e.set
  · have hroom : ((s.tlbRoom core part c va e).filter (fun x => x.at_ == .part part && x.set == k)).length ≤ 7 := by
      unfold State.tlbRoom
      dsimp only
      split
      · next hlt =>
        have hle : ∀ l : List TlbEnt, (l.filter (fun x => x.at_ == .part part && x.set == k)).length ≤ (l.filter (fun x => x.at_ == .part part)).length :=
          fun l => (List.monotone_filter_right l (fun x hx => (Bool.and_eq_true _ _ ▸ hx).1)).length_le
        exact Nat.le_of_lt_succ (Nat.lt_of_le_of_lt (hle _) hlt)
      · rw [hk]
        exact capDrop_length _ _ _ _ (Nat.le_trans (List.filter_sublist.filter _).length_le (h _))
    rw [List.filter_cons]
    split
    · exact Nat.succ_le_succ hroom
    · exact Nat.le_succ_of_le hroom
  · rw [List.filter_cons_of_neg (by simp [hset, Ne.symm hk])]
    exact Nat.le_trans ((s.tlbRoom_sublist core part c va e).filter _).length_le (h k)

variable (rds : List WalkRead)

theorem State.installWalk_none_tlb : (s.installWalk none part c va e rds).tlb = { e with at_ := .part part } :: s.tlbRoom none part c va e := rfl

theorem State.installWalk_some_tlb (n : Nat) : (s.installWalk (some n) part c va e rds).tlb =
    { e with at_ := .core n } :: { e with at_ := .part part } :: capDrop s.clk 63 (fun x => x.at_ == .core n) (s.tlbRoom (some n) part c va e) := by
  have hkeep := capDrop_cons_of_not s.clk 63 (fun x : TlbEnt => x.at_ == .core n) (s.tlbRoom (some n) part c va e)
    (a := { e with at_ := .part part }) rfl
  rw [← hkeep]
  rfl

/-- A walk's result serves its VA in the partition (R34). -/
theorem State.installWalk_part (he : e.covers c.asid va = true) :
    (s.installWalk core part c va e rds).tlbFind none part c.asid va = some { e with at_ := .part part } := by
  have hcov : ∀ w, TlbEnt.covers { e with at_ := w } c.asid va = true := fun _ => he
  rw [State.tlbFind_none]
  cases core with
  | none => rw [State.installWalk_none_tlb, List.find?_cons_of_pos (by simp [hcov])]
  | some n => rw [State.installWalk_some_tlb, List.find?_cons_of_neg (by simp), List.find?_cons_of_pos (by simp [hcov])]

/-- And in the core, of whose entries at most 64 are kept. -/
theorem State.installWalk_core (he : e.covers c.asid va = true) (n : Nat) :
    (s.installWalk (some n) part c va e rds).tlbFind (some n) part c.asid va = some { e with at_ := .core n } ∧
    ((s.tlb.filter (fun x => x.at_ == .core n)).length ≤ 64 →
      ((s.installWalk (some n) part c va e rds).tlb.filter (fun x => x.at_ == .core n)).length ≤ 64) := by
  have hcov : ∀ w, TlbEnt.covers { e with at_ := w } c.asid va = true := fun _ => he
  constructor
  · simp only [State.tlbFind, State.installWalk_some_tlb]
    rw [List.find?_cons_of_pos (by simp [hcov]), Option.some_or]
  · intro h
    rw [State.installWalk_some_tlb, List.filter_cons_of_pos (by simp), List.filter_cons_of_neg (by simp)]
    exact Nat.succ_le_succ (capDrop_length _ _ _ _ (Nat.le_trans ((s.tlbRoom_sublist _ _ _ _ _).filter _).length_le h))

theorem State.installWalk_set (h : ∀ k, (s.tlb.filter (fun x => x.at_ == .part part && x.set == k)).length ≤ 8) (k : Nat) :
    ((s.installWalk core part c va e rds).tlb.filter (fun x => x.at_ == .part part && x.set == k)).length ≤ 8 := by
  refine Nat.le_trans (List.Sublist.length_le ?_) (s.tlbRoom_set core part c va e h k)
  cases core with
  | none => rw [State.installWalk_none_tlb]
  | some n =>
    rw [State.installWalk_some_tlb, List.filter_cons_of_neg (by simp)]
    exact ((capDrop_sublist _ _ _ _).cons_cons _).filter _

/-- Nothing else comes into the TLBs. -/
theorem State.installWalk_mem {x : TlbEnt} (hx : x ∈ (s.installWalk core part c va e rds).tlb) :
    x ∈ s.tlb ∨ x = { e with at_ := .part part } ∨ ∃ n, core = some n ∧ x = { e with at_ := .core n } := by
  cases core with
  | none =>
    rw [State.installWalk_none_tlb, List.mem_cons] at hx
    exact hx.elim (fun h => .inr (.inl h)) (fun h => .inl ((s.tlbRoom_sublist _ _ _ _ _).subset h))
  | some n =>
    rw [State.installWalk_some_tlb, List.mem_cons, List.mem_cons] at hx
    rcases hx with h | h | h
    · exact .inr (.inr ⟨n, rfl, h⟩)
    · exact .inr (.inl h)
    · exact .inl ((s.tlbRoom_sublist _ _ _ _ _).subset ((capDrop_sublist _ _ _ _).subset h))

/-- The walk cache holds what the walk read of the two upper levels (log 24). -/
theorem State.installWalk_cached {r : WalkRead} (hr : r ∈ rds) :
    (r.level = 0 → ((s.installWalk core part c va e rds).walkCached part c.asid 0 (bitsAt va 42 12)).isSome = true) ∧
    (r.level = 1 → r.ent.getLsbD 1 = true →
      ((s.installWalk core part c va e rds).walkCached part c.asid 1 (bitsAt va 29 25)).isSome = true) := by
  constructor
  · intro hl
    simp only [State.walkCached, Option.isSome_map, List.find?_isSome]
    refine ⟨⟨part, c.asid, 0, bitsAt va 42 12, r.ent⟩, List.mem_append_left _ (List.mem_filterMap.mpr ⟨r, hr, ?_⟩), by simp⟩
    simp [hl]
  · intro hl hb
    simp only [State.walkCached, Option.isSome_map, List.find?_isSome]
    refine ⟨⟨part, c.asid, 1, bitsAt va 29 25, r.ent⟩, List.mem_append_left _ (List.mem_filterMap.mpr ⟨r, hr, ?_⟩), by simp⟩
    simp only [hl, bitAt_toNat, hb]
    rfl

end

theorem part_translationsHeld : Part.TranslationsHeld := by
  refine ⟨fun s core part asid va u ent => s.translate_spec core part asid va u ent, fun s n part asid va e h => State.tlbFind_some h,
    fun s core part c va e rds he => ⟨s.installWalk_part core part c va e rds he, ?_, s.installWalk_set core part c va e rds,
      fun r hr => s.installWalk_cached core part c va e rds hr, fun x hx => s.installWalk_mem core part c va e rds hx, fun _ _ => rfl⟩⟩
  rintro n rfl
  exact s.installWalk_core part c va e rds he n

end Sys2Proof.Machine
end

section
/-! What a page walk answers to those who wait for it, and the fills of the code cache (R34, R35, R273). -/
open Sys2Proof Sys2Proof.Machine
namespace Sys2Proof.Machine

/-! ### A group among others -/

theorem State.modGroup_blocks (s : State) (k : GroupKey) (f : Group → Group) : ∃ bs, s.modGroup k f = { s with blocks := bs } := by
  unfold State.modGroup
  split <;> exact ⟨_, rfl⟩

theorem State.group?_modGroup {s : State} {k : GroupKey} {g : Group} (hg : s.group? k = some g) (f : Group → Group) :
    (s.modGroup k f).group? k = some (f g) := by
  rw [State.modGroup_eq hg, State.group?_putGroup hg]

theorem State.group?_modGroup_ne (s : State) {k j : GroupKey} (f : Group → Group) (hj : j ≠ k) : (s.modGroup k f).group? j = s.group? j := by
  unfold State.modGroup
  split
  · exact s.group?_putGroup_ne _ hj
  · rfl

theorem State.group?_of_blocks {s t : State} (h : t.blocks = s.blocks) (k : GroupKey) : t.group? k = s.group? k := by
  simp only [State.group?, State.block?, h]

/-! ### The answers of a walk -/

/-- What an answer to a slot of one group leaves to the others: the walks that are left, the groups, and the answers. -/
structure AnswersOnly (k : GroupKey) (s t : State) : Prop where
  walks : t.walks = s.walks
  groups : ∀ j, j ≠ k → t.group? j = s.group? j
  fails : ∀ f ∈ s.fails, f.gk ≠ k → f ∈ t.fails

theorem AnswersOnly.trans {k : GroupKey} {s t u : State} (h : AnswersOnly k s t) (h' : AnswersOnly k t u) : AnswersOnly k s u :=
  ⟨h'.walks.trans h.walks, fun j hj => (h'.groups j hj).trans (h.groups j hj), fun f hf hk => h'.fails f (h.fails f hf hk) hk⟩

theorem AnswersOnly.of_eq {k : GroupKey} {s t : State} (hw : t.walks = s.walks) (hb : t.blocks = s.blocks) (hf : t.fails = s.fails) :
    AnswersOnly k s t :=
  ⟨hw, fun j _ => State.group?_of_blocks hb j, fun _ h _ => hf ▸ h⟩

theorem MemFrame.answers {s t : State} (h : MemFrame s t) (k : GroupKey) : AnswersOnly k s t := by
  obtain ⟨_, _, _, _, rfl⟩ := h
  exact .of_eq rfl rfl rfl

theorem State.modGroup_answers (s : State) (k : GroupKey) (f : Group → Group) : AnswersOnly k s (s.modGroup k f) := by
  refine ⟨?_, fun j hj => s.group?_modGroup_ne f hj, fun y hy _ => ?_⟩ <;> obtain ⟨bs, hbs⟩ := s.modGroup_blocks k f
  · rw [hbs]
  · rw [hbs]
    exact hy

theorem State.wakeWalk_blocks (s : State) (k : GroupKey) (n : Nat) : ∃ bs, s.wakeWalk k n = { s with blocks := bs } := s.modGroup_blocks k _

theorem State.wakeWalk_answers (s : State) (k : GroupKey) (n : Nat) : AnswersOnly k s (s.wakeWalk k n) := s.modGroup_answers k _

/-- A walk's answer is left for the slot that waits. -/
def State.leaveAnswer (s : State) (x : Walk) (f : XFault) : State :=
  { s with fails := { gk := x.gk, slot := x.slot, vpage := x.va.toNat / 65536, fault := f : WalkFail } ::
      s.fails.filter (fun y => !(y.gk == x.gk && y.slot == x.slot && y.vpage == x.va.toNat / 65536)) }

theorem State.tellWalk_eq (s : State) (x : Walk) (f : XFault) : s.tellWalk x f = (s.leaveAnswer x f).wakeWalk x.gk x.slot := rfl

theorem State.leaveAnswer_answers (s : State) (x : Walk) (f : XFault) : AnswersOnly x.gk s (s.leaveAnswer x f) :=
  ⟨rfl, fun _ _ => rfl, fun _ hy hk => List.mem_cons_of_mem _ (List.mem_filter.mpr ⟨hy, by simp [hk]⟩)⟩

theorem State.tellWalk_answers (s : State) (x : Walk) (f : XFault) : AnswersOnly x.gk s (s.tellWalk x f) :=
  (s.leaveAnswer_answers x f).trans ((s.leaveAnswer x f).wakeWalk_answers x.gk x.slot)

theorem State.installWalk_answers (k : GroupKey) (s : State) (core : Option Nat) (part : Nat) (c : Ctx) (va : Nat) (e : TlbEnt)
    (rds : List WalkRead) : AnswersOnly k s (s.installWalk core part c va e rds) := .of_eq rfl rfl rfl

theorem State.walkTouch_frame (s : State) (c : Ctx) (rds : List WalkRead) : MemFrame s (s.walkTouch c rds) := s.touchFor_frame _ _ _ _

theorem State.walkAnswer_answers (s0 : State) (c : Ctx) (s : State) (y : Walk) : AnswersOnly y.gk s (s0.walkAnswer c s y) := by
  unfold State.walkAnswer
  split
  dsimp only
  split
  · exact ((s.walkTouch_frame c _).answers _).trans ((State.installWalk_answers _ _ _ _ c _ _ _).trans (State.tellWalk_answers _ y _))
  · exact ((s.walkTouch_frame c _).answers _).trans (State.tellWalk_answers _ _ _)
  · exact ((s.walkTouch_frame c _).answers _).trans (State.tellWalk_answers _ _ _)
  · exact ((s.walkTouch_frame c _).answers _).trans (State.wakeWalk_answers _ _ _)

/-- The answers to requests of other groups leave a group's own. -/
theorem State.walkAnswers_others (s0 : State) (c : Ctx) (k : GroupKey) (ys : List Walk) (s : State) (hys : ∀ y ∈ ys, y.gk ≠ k) :
    (ys.foldl (s0.walkAnswer c) s).walks = s.walks ∧ (ys.foldl (s0.walkAnswer c) s).group? k = s.group? k ∧
    ∀ f ∈ s.fails, f.gk = k → f ∈ (ys.foldl (s0.walkAnswer c) s).fails := by
  induction ys generalizing s with
  | nil => exact ⟨rfl, rfl, fun f hf _ => hf⟩
  | cons y ys ih =>
    have hy : k ≠ y.gk := Ne.symm (hys y (List.mem_cons_self ..))
    obtain ⟨hw, hg, hf⟩ := s0.walkAnswer_answers c s y
    obtain ⟨hw', hg', hf'⟩ := ih (s0.walkAnswer c s y) (fun z hz => hys z (List.mem_cons_of_mem _ hz))
    exact ⟨hw'.trans hw, hg'.trans (hg k hy), fun f hm hk => hf' f (hf f hm (hk ▸ hy)) hk⟩

/-- The slot that waits is told the cause, and is ready where it stands. -/
theorem State.tellWalk_self {s : State} {x : Walk} {g : Group} (hg : s.group? x.gk = some g) (hst : (g.slot x.slot).st = .wait)
    (hw : (g.slot x.slot).wait = some .walk) (f : XFault) : ∃ g', (s.tellWalk x f).group? x.gk = some g' ∧ SameRegs g g' ∧
      (g'.slot x.slot).st = .ready ∧ (g'.slot x.slot).pc = (g.slot x.slot).pc ∧
      ∃ y ∈ (s.tellWalk x f).fails, y.gk = x.gk ∧ y.slot = x.slot ∧ y.vpage = x.va.toNat / 65536 ∧ y.fault.cause = f.cause := by
  have hg' : (s.leaveAnswer x f).group? x.gk = some g := hg
  have hfails : (s.tellWalk x f).fails = (s.leaveAnswer x f).fails := by
    obtain ⟨bs, hbs⟩ := (s.leaveAnswer x f).wakeWalk_blocks x.gk x.slot
    rw [State.tellWalk_eq, hbs]
  have hslot : (if (g.slot x.slot).wait = some .walk then (g.slot x.slot).wake else g.slot x.slot) =
      { g.slot x.slot with st := .ready, wait := none, latch := none } := by
    rw [if_pos hw, Slot.wake, if_pos hst]
  refine ⟨g.setSlot x.slot { g.slot x.slot with st := .ready, wait := none, latch := none }, ?_, ?_, ?_, ?_, ?_⟩
  · rw [State.tellWalk_eq, State.wakeWalk, State.modSlot, State.group?_modGroup hg', hslot]
  · rw [Group.setSlot_frame]
    exact ⟨rfl, rfl, rfl, rfl, rfl⟩
  · rw [Group.slot_setSlot]
  · rw [Group.slot_setSlot]
  · rw [hfails]
    exact ⟨_, List.mem_cons_self .., rfl, rfl, rfl, rfl⟩

theorem State.walkAnswer_ok {s0 s : State} {c : Ctx} {x : Walk} {e : TlbEnt} {rds : List WalkRead}
    (h : s0.walkFor x.part c x.va.toNat = (.ok e, rds)) : s0.walkAnswer c s x =
      ((s.walkTouch c rds).installWalk (some x.core) x.part c x.va.toNat e rds).tellWalk x
        { cause := 0, sub := 0, level := 3, ent := ((rds.getLast?).map (·.ent)).getD e.ent } := by
  simp only [State.walkAnswer, h]

theorem State.walkAnswer_fault {s0 s : State} {c : Ctx} {x : Walk} {f : XFault} {rds : List WalkRead}
    (h : s0.walkFor x.part c x.va.toNat = (.fault f, rds)) : s0.walkAnswer c s x = (s.walkTouch c rds).tellWalk x f := by
  simp only [State.walkAnswer, h]

/-- The request that a walk answers with a mapping or a fault is told the cause, 0 for a mapping. -/
theorem State.walkAnswer_self {s0 : State} {c : Ctx} {x : Walk} {r : Nat}
    (hr : (∃ e rds, s0.walkFor x.part c x.va.toNat = (.ok e, rds) ∧ r = 0) ∨
      ∃ f rds, s0.walkFor x.part c x.va.toNat = (.fault f, rds) ∧ r = f.cause) (s : State) :
    ∃ (u : State) (f : XFault), s0.walkAnswer c s x = u.tellWalk x f ∧ u.blocks = s.blocks ∧ f.cause = r := by
  rcases hr with ⟨e, rds, hwalk, rfl⟩ | ⟨f, rds, hwalk, rfl⟩
  · exact ⟨_, _, State.walkAnswer_ok hwalk, (s.walkTouch_frame c rds).blocks, rfl⟩
  · exact ⟨_, _, State.walkAnswer_fault hwalk, (s.walkTouch_frame c rds).blocks, rfl⟩

theorem State.tellWalk_tlb (s : State) (x : Walk) (f : XFault) : (s.tellWalk x f).tlb = s.tlb := by
  obtain ⟨bs, hbs⟩ := (s.leaveAnswer x f).wakeWalk_blocks x.gk x.slot
  rw [State.tellWalk_eq, hbs]
  rfl

/-- The state without a walk and without what has joined it. -/
def State.withoutWalk (s : State) (x : Walk) : State :=
  { s with walks := s.walks.filter (fun y => !(y.id == x.id) && y.lead != some x.id) }

section
variable {s : State} {x : Walk} {c : Ctx} (hx : s.walks.find? (fun y => y.id == x.id) = some x) (hrun : s.walkRuns x = true)
  (hc : s.ctx? x.asid = some c)
include hx hrun hc

/-- A walk that does not wait for a line answers its own request and then those that joined it (R35). -/
theorem State.walkDone_go (hw : ∀ pa, (s.walkFor x.part c x.va.toNat).1 ≠ .wait pa) : s.walkDone? x.id =
    some ((s.walks.filter (fun y => y.lead == some x.id)).foldl (s.walkAnswer c) (s.walkAnswer c (s.withoutWalk x) x)) := by
  simp only [State.walkDone?, hx, hrun, hc, Bool.not_true, Bool.false_eq_true, if_false]
  cases hr : (s.walkFor x.part c x.va.toNat).1 with
  | wait pa => exact absurd hr (hw pa)
  | ok e => rfl
  | fault f => rfl
  | poison pa => rfl

/-- A mapping that the walk finds stands in the TLBs of the partition and of the core. -/
theorem State.walkDone_held {e : TlbEnt} {rds : List WalkRead} (hwalk : s.walkFor x.part c x.va.toNat = (.ok e, rds))
    (halone : ∀ y ∈ s.walks, y.lead ≠ some x.id) :
    ∃ t, s.walkDone? x.id = some t ∧ { e with at_ := .part x.part } ∈ t.tlb ∧ { e with at_ := .core x.core } ∈ t.tlb := by
  have hteam : s.walks.filter (fun y => y.lead == some x.id) = [] := by
    simpa [List.filter_eq_nil_iff] using halone
  refine ⟨_, State.walkDone_go hx hrun hc (by simp [hwalk]), ?_⟩
  rw [hteam, List.foldl_nil, State.walkAnswer_ok hwalk, State.tellWalk_tlb, State.installWalk_some_tlb]
  exact ⟨List.mem_cons_of_mem _ (List.mem_cons_self ..), List.mem_cons_self ..⟩

/-- The slot that waits for the walk is told its cause and issues again; its request is over. -/
theorem State.walkDone_told {g : Group} {r : Nat} (hg : s.group? x.gk = some g) (hst : (g.slot x.slot).st = .wait)
    (hwait : (g.slot x.slot).wait = some .walk) (hothers : ∀ y ∈ s.walks, y.lead = some x.id → y.gk ≠ x.gk)
    (hr : (∃ e rds, s.walkFor x.part c x.va.toNat = (.ok e, rds) ∧ r = 0) ∨
      ∃ f rds, s.walkFor x.part c x.va.toNat = (.fault f, rds) ∧ r = f.cause) :
    ∃ t g', s.walkDone? x.id = some t ∧ (∀ y ∈ t.walks, y.id ≠ x.id) ∧ t.group? x.gk = some g' ∧ SameRegs g g' ∧
      (g'.slot x.slot).st = .ready ∧ (g'.slot x.slot).pc = (g.slot x.slot).pc ∧
      ∃ y ∈ t.fails, y.gk = x.gk ∧ y.slot = x.slot ∧ y.vpage = x.va.toNat / 65536 ∧ y.fault.cause = r := by
  have hw : ∀ pa, (s.walkFor x.part c x.va.toNat).1 ≠ .wait pa := fun pa => by
    rcases hr with ⟨e, rds, hwalk, -⟩ | ⟨f, rds, hwalk, -⟩ <;> simp [hwalk]
  have hteam : ∀ y ∈ s.walks.filter (fun y => y.lead == some x.id), y.gk ≠ x.gk := fun y hy => by
    obtain ⟨hmem, hlead⟩ := List.mem_filter.mp hy
    exact hothers y hmem (by simpa using hlead)
  obtain ⟨u, f, hu, hblocks, hcause⟩ := State.walkAnswer_self hr (s.withoutWalk x)
  have hgu : u.group? x.gk = some g := (State.group?_of_blocks hblocks x.gk).trans hg
  obtain ⟨g', hg', hregs, hready, hpc, y, hy, hyk, hys, hyp, hyc⟩ := State.tellWalk_self hgu hst hwait f
  rw [← hu] at hg' hy
  obtain ⟨hwalks, hgroup, hfails⟩ := s.walkAnswers_others c x.gk _ (s.walkAnswer c (s.withoutWalk x) x) hteam
  refine ⟨_, g', State.walkDone_go hx hrun hc hw, fun z hz => ?_, hgroup.trans hg', hregs, hready, hpc, y, hfails y hy hyk, hyk, hys, hyp,
    hyc.trans hcause⟩
  rw [hwalks, (s.walkAnswer_answers c (s.withoutWalk x) x).walks] at hz
  have htest := (List.mem_filter.mp hz).2
  simp only [Bool.and_eq_true, Bool.not_eq_true', beq_eq_false_iff_ne] at htest
  exact htest.1

end

/-! ### The code cache -/

theorem State.modSlots_mem {α : Type} (s : State) (k : α → GroupKey) (n : α → Nat) (f : Slot → Slot) (xs : List α) :
    (xs.foldl (fun s x => s.modSlot (k x) (n x) f) s).mem = s.mem := by
  induction xs generalizing s with
  | nil => rfl
  | cons x xs ih =>
    obtain ⟨bs, hbs⟩ := s.modGroup_blocks (k x) (fun g => g.setSlot (n x) (f (g.slot (n x))))
    rw [List.foldl_cons, ih, State.modSlot, hbs]

/-- A line of code that a slot waits for comes with the bytes of its place (R273). -/
theorem State.codeFill_go {s u : State} {cluster asid line : Nat} {l : Loc} {k : GroupKey} {n : Nat}
    (hk : (k, n, line) ∈ s.lineWaiters cluster asid)
    (hx : s.engineXlate (partOfCluster cluster) asid (BitVec.ofNat 64 (128 * line)) ⟨.fetch, true, false⟩ = (.ok l, u))
    (hl : u.lineStatus ⟨some asid, false⟩ false l = .ok) (hp : u.poisonIn ⟨some asid, false⟩ l 128 = false) :
    ∃ t d, s.codeFill? cluster asid line = some t ∧ t.codeLine cluster asid line = some d ∧
      ∀ i : Fin 128, d[i] = u.byteAt ⟨some asid, false⟩ (l.add i.val) := by
  have hwho : (s.lineWaiters cluster asid).filter (fun x => x.2.2 == line) ≠ [] :=
    List.ne_nil_of_mem (List.mem_filter.mpr ⟨hk, by simp⟩)
  simp only [State.codeFill?, if_neg hwho, hx, hl, hp, Bool.false_eq_true, if_false]
  refine ⟨_, Vector.ofFn (fun i => u.byteAt ⟨some asid, false⟩ (l.add i.val)), rfl, ?_, fun i => by simp⟩
  rw [State.codeLine, State.modSlots_mem _ (fun x : GroupKey × Nat × Nat => x.1) (fun x => x.2.1)]
  simp

theorem part_walksAndCodeFills : Part.WalksAndCodeFills := by
  refine ⟨fun s x c g hx hrun hc hg hslot hst hwait hothers => ⟨fun e rds hwalk halone => ?_, fun r hr => ?_⟩,
    fun s u cluster asid line l k n hk hx hl hp => ?_⟩
  · obtain ⟨t, ht, hheld⟩ := State.walkDone_held hx hrun hc hwalk halone
    exact ⟨t, next_getD ht, hheld⟩
  · obtain ⟨t, g', ht, htold⟩ := State.walkDone_told hx hrun hc hg hst hwait hothers hr
    exact ⟨t, g', next_getD ht, htold⟩
  · obtain ⟨t, d, ht, hline⟩ := State.codeFill_go hk hx hl hp
    exact ⟨t, d, next_getD ht, hline⟩

end Sys2Proof.Machine
end

section
/-! The fills of view lines (R97 to R100). -/
open Sys2Proof Sys2Proof.Machine
namespace Sys2Proof.Machine

/-! ### Lines of the L2 under other lines' moves -/

/-- No line of a place is in the L2. -/
def State.NoLine (s : State) (sl : Nat) (k : MemKind) (ln : Nat) : Prop := ∀ l ∈ s.mem.l2, l.is sl k ln = false

theorem State.noLine_dropL2 (s : State) (sl : Nat) (k : MemKind) (ln : Nat) : (s.dropL2 (·.is sl k ln)).NoLine sl k ln := fun _ hl => by
  simpa using (List.mem_filter.mp hl).2

theorem State.writeBack_l2 (s : State) (l : L2Line) : (s.writeBack l).mem.l2 = s.mem.l2 := by
  unfold State.writeBack
  split <;> rfl

theorem State.writeBacks_l2 (s : State) (ls : List L2Line) : (ls.foldl State.writeBack s).mem.l2 = s.mem.l2 := by
  induction ls generalizing s with
  | nil => rfl
  | cons l ls ih => rw [List.foldl_cons, ih, State.writeBack_l2]

theorem L2Line.rest_is {l r : L2Line} (h : l.rest = some r) (sl : Nat) (k : MemKind) (ln : Nat) : r.is sl k ln = l.is sl k ln := by
  unfold L2Line.rest at h
  split at h
  · cases h
    rfl
  · cases h

theorem State.persistOver_mem {s : State} {sl ln : Nat} {v : L2Line} (h : s.persistOver sl ln = some v) : v ∈ s.mem.l2 := by
  unfold State.persistOver at h
  dsimp only at h
  split at h
  · cases h
  · split at h
    · cases h
    · exact (List.mem_filter.mp (List.mem_filter.mp (List.mem_of_getLast? h)).1).1

section
variable {s : State} {sl ln : Nat} {k : MemKind} (h : s.NoLine sl k ln)
include h

/-- What stays behind of lines that go is of their places. -/
theorem State.NoLine.flushL2 (p : L2Line → Bool) : (s.flushL2 p).NoLine sl k ln := by
  intro l hl
  simp only [State.flushL2, State.writeBacks_l2, List.mem_filterMap] at hl
  obtain ⟨m, hm, hlm⟩ := hl
  split at hlm
  · rw [L2Line.rest_is hlm]
    exact h m hm
  · cases hlm
    exact h _ hm

theorem State.NoLine.persistRoom (sl' ln' : Nat) : (s.persistRoom sl' ln').NoLine sl k ln := by
  unfold State.persistRoom
  split
  · next v hv =>
    split
    · exact h.flushL2 _
    · intro l hl
      rcases List.mem_cons.mp hl with rfl | hl
      · exact h v (State.persistOver_mem hv)
      · exact h l (List.mem_filter.mp hl).1
  · exact h

theorem State.NoLine.find : s.mem.l2Find sl k ln = none := by
  exact List.find?_eq_none.mpr (fun l hl => by simp [h l hl])

end

/-- What is found of a line that is put into a slice that had none of its place: the line, or nothing where no way is to be had. -/
theorem State.l2Install_find {s : State} {l : L2Line} (h : s.NoLine l.slice l.kind l.line) (al : L2Alloc) :
    (∀ x, (s.l2Install l al).mem.l2Find l.slice l.kind l.line = some x → ∃ w b c, x = { l with way := w, persist := b, stream := c }) ∧
    (s.l2Kind al ≠ .persist → (s.l2Room l.slice l.line (s.l2Kind al)).isSome = true →
      ((s.l2Install l al).mem.l2Find l.slice l.kind l.line).isSome = true) := by
  have hput : ∀ (c : Caches) (w : Nat) (b d : Bool), (c.l2Put { l with way := w, persist := b, stream := d }).l2Find l.slice l.kind l.line =
      some { l with way := w, persist := b, stream := d } := fun c w b d => by
    simp [Caches.l2Find, Caches.l2Put, L2Line.is]
  have hroom : (if s.l2Kind al == .persist then s.persistRoom l.slice l.line else s).NoLine l.slice l.kind l.line := by
    split
    · exact h.persistRoom _ _
    · exact h
  unfold State.l2Install
  dsimp only
  constructor
  · intro x hx
    split at hx
    · rw [hroom.find] at hx
      cases hx
    · exact ⟨_, _, _, Option.some.inj (hx.symm.trans (hput _ _ _ _))⟩
  · intro hk hr
    rw [if_neg (by simpa using hk)]
    split
    · next hn => simp [hn] at hr
    · exact Option.isSome_iff_exists.mpr ⟨_, hput _ _ _ _⟩

/-! ### The decoded line -/

theorem MemFrame.viewPlace {s t : State} (h : MemFrame s t) (a : Agent) (pa : Nat) :
    t.viewSlice a pa = s.viewSlice a pa ∧ t.windowAt pa = s.windowAt pa ∧ ∀ i, t.winGen i = s.winGen i := by
  obtain ⟨_, _, _, _, rfl⟩ := h
  exact ⟨rfl, rfl, fun _ => rfl⟩

/-- The line that a fill decodes (R98). -/
def State.decoded (s : State) (w : Window) (i sl ln : Nat) (bad : Bool) : L2Line :=
  { L2Line.empty sl .view ln with
    valid := 0xF, poison := if bad then 0xF else 0, win := i, gen := s.winGen i,
    data := Vector.ofFn (fun (i : Fin 128) => BitVec.ofNat 8 ((s.viewElems w ln).getD (i.val / 2) 0 / 256 ^ (i.val % 2))) }

theorem append_bytes (n : Nat) : BitVec.ofNat 8 (n / 256) ++ BitVec.ofNat 8 n = BitVec.ofNat 16 n := by
  apply BitVec.eq_of_toNat_eq
  rw [BitVec.toNat_append, BitVec.toNat_ofNat, BitVec.toNat_ofNat, BitVec.toNat_ofNat, ← Nat.shiftLeft_add_eq_or_of_lt (Nat.mod_lt _ (by decide)),
    Nat.shiftLeft_eq]
  omega

/-- The elements of a view line (R97). -/
theorem State.viewElems_getD (s : State) (w : Window) (ln : Nat) (k : Fin 64) :
    (s.viewElems w ln).getD k.val 0 = w.decodeElem ((128 * ln - w.view) / 2 + k.val)
      (s.byteAt Agent.device ⟨.device, w.codePlace ((128 * ln - w.view) / 2 + k.val)⟩)
      (s.numAt Agent.device ⟨.device, w.scalePlace ((128 * ln - w.view) / 2 + k.val)⟩ 2) := by
  have hscale : ∀ p, s.numAt Agent.device ⟨.device, p⟩ 2 = leNat [s.byteAt .device ⟨.device, p⟩, s.byteAt .device ⟨.device, p + 1⟩] := fun _ => rfl
  simp [State.viewElems, List.getD, hscale]

/-- Two bytes of a decoded line are an element of its window (R97). -/
theorem State.decoded_data (s : State) (w : Window) (i sl ln : Nat) (bad : Bool) (k : Fin 64) :
    (s.decoded w i sl ln bad).data[2 * k.val + 1] ++ (s.decoded w i sl ln bad).data[2 * k.val] =
      BitVec.ofNat 16 (w.decodeElem ((128 * ln - w.view) / 2 + k.val)
        (s.byteAt Agent.device ⟨.device, w.codePlace ((128 * ln - w.view) / 2 + k.val)⟩)
        (s.numAt Agent.device ⟨.device, w.scalePlace ((128 * ln - w.view) / 2 + k.val)⟩ 2)) := by
  have hhi : (s.decoded w i sl ln bad).data[2 * k.val + 1] = BitVec.ofNat 8 ((s.viewElems w ln).getD k.val 0 / 256) := by
    have hdiv : (2 * k.val + 1) / 2 = k.val := by omega
    simp [State.decoded, hdiv, Nat.add_mod]
  have hlo : (s.decoded w i sl ln bad).data[2 * k.val] = BitVec.ofNat 8 ((s.viewElems w ln).getD k.val 0) := by
    simp [State.decoded]
  rw [hhi, hlo, append_bytes, State.viewElems_getD]

/-- A view line whose codes and scales can be read is decoded and put into its slice (R98). -/
theorem State.viewFill_go {s : State} {a : Agent} {ln i sl : Nat} {w : Window} (hwin : s.windowAt (128 * ln) = some (i, w))
    (hsl : s.viewSlice a (128 * ln) = some sl) (hnone : s.viewLine a (128 * ln) = none)
    (hst : s.statusOf Agent.device false (w.fillPlaces ln) = .ok) (al : L2Alloc) :
    ∃ bad, s.viewFill? a ln al = some (((s.touchFor Agent.device (w.fillPlaces ln) .normal false).dropL2 (·.is sl .view ln)).l2Install
      (s.decoded w i sl ln bad) al) := by
  refine ⟨(w.fillPlaces ln).any (fun l => s.poisonAt .device l), ?_⟩
  simp only [State.viewFill?, hwin, hsl, hnone, hst, Option.isSome_none, Bool.false_eq_true, if_false]
  rfl

theorem part_viewLinesFill : Part.ViewLinesFill := by
  intro s a ln i sl al w hhead hwin hsl hst u
  obtain ⟨rest, hwants⟩ : ∃ rest, s.viewWants.filter (fun x => x.2.1 == ln) = (a, ln, al) :: rest :=
    List.head?_eq_some_iff.mp hhead
  have hnone : s.viewLine a (128 * ln) = none := by
    have hmem : (a, ln, al) ∈ s.viewWants := (List.mem_filter.mp (hwants ▸ List.mem_cons_self ..)).1
    simpa using (List.mem_filter.mp hmem).2
  obtain ⟨bad, hfill⟩ := State.viewFill_go hwin hsl hnone hst al
  have hgo : s.viewFillFor? ln = some (u.l2Install (s.decoded w i sl ln bad) al) := by
    rw [State.viewFillFor?, hwants, List.findSome?_cons, hfill]
  have hline : lineOf (128 * ln) = ln := Nat.mul_div_cancel_left ln (by decide)
  have hframe : MemFrame s (u.l2Install (s.decoded w i sl ln bad) al) :=
    ((s.touchFor_frame _ _ _ _).trans (State.dropL2_frame _ _)).trans (State.l2Install_frame _ _ _)
  obtain ⟨hslice, hwindow, hgen⟩ := hframe.viewPlace a (128 * ln)
  obtain ⟨hfound, hroom⟩ := State.l2Install_find (l := s.decoded w i sl ln bad) (State.noLine_dropL2 _ sl .view ln) al
  have hview : (u.l2Install (s.decoded w i sl ln bad) al).viewLine a (128 * ln) =
      ((u.l2Install (s.decoded w i sl ln bad) al).mem.l2Find sl .view ln).filter (fun l => l.win == i && l.gen == s.winGen i) := by
    simp only [State.viewLine, hslice, hwindow, hgen, hsl, hwin, hline]
  refine ⟨_, next_getD hgo, fun hk hr => ?_, fun x hx => ?_⟩
  · obtain ⟨x, hx⟩ := Option.isSome_iff_exists.mp (hroom hk hr)
    obtain ⟨_, _, _, rfl⟩ := hfound x hx
    rw [hview, show (u.l2Install (s.decoded w i sl ln bad) al).mem.l2Find sl .view ln = _ from hx]
    simp [State.decoded]
  · rw [hview, Option.filter_eq_some_iff] at hx
    obtain ⟨_, _, _, rfl⟩ := hfound x hx.1
    exact ⟨rfl, rfl, rfl, rfl, fun k => s.decoded_data w i sl ln bad k⟩

end Sys2Proof.Machine

/-- Settles O53, part by part: the levels of a walk, what its answers and installs leave, and the fill of a view line. -/
theorem walksAndFills : Obligations.WalksAndFills :=
  ⟨part_walksAndCodeFills, part_pageWalk, part_translationsHeld, part_viewLinesFill⟩
end

section
/-! The completion of a copy command (R156, R157). -/
open Sys2Proof Sys2Proof.Machine
namespace Sys2Proof.Machine

/-! ### A group of a resident block -/

/-- A group that a property holds of, in a resident block. -/
def State.Lives (s : State) (k : GroupKey) (P : Group → Prop) : Prop :=
  ∃ b g, s.block? k.block = some b ∧ b.st = .resident ∧ b.groups[k.index]? = some g ∧ P g

/-- `h` is `g` but for its slots and for what a slot that goes on leaves: its count and a step trap. -/
def WakesOnly (g h : Group) : Prop := ∃ x y i d, h = { g with slot0 := x, slot1 := y, icnt := i, deferred := d }

theorem WakesOnly.refl (g : Group) : WakesOnly g g := ⟨_, _, _, _, rfl⟩

theorem WakesOnly.trans {g h i : Group} (e : WakesOnly g h) (e' : WakesOnly h i) : WakesOnly g i := by
  obtain ⟨_, _, _, _, rfl⟩ := e
  obtain ⟨_, _, _, _, rfl⟩ := e'
  exact ⟨_, _, _, _, rfl⟩

theorem Group.wakeIf_wakesOnly (g : Group) (p : WaitReason → Bool) : WakesOnly g (g.wakeIf p) := ⟨_, _, _, _, rfl⟩

theorem Group.passSlot_wakesOnly (g : Group) (n len : Nat) : WakesOnly g (g.passSlot n len) := by
  have hset : WakesOnly g (g.setSlot n ((g.slot n).pass len)) := ⟨_, _, _, _, g.setSlot_frame n _⟩
  unfold Group.passSlot
  dsimp only
  split <;> exact hset.trans ⟨_, _, _, _, rfl⟩

theorem Group.passIf_wakesOnly (g : Group) (p : WaitReason → Bool) : WakesOnly g (g.passIf p) := by
  unfold Group.passIf
  generalize g.slotsFor p = ns
  induction ns generalizing g with
  | nil => exact WakesOnly.refl g
  | cons n ns ih => exact (g.passSlot_wakesOnly n 4).trans (ih _)

section
variable {s : State} {k : GroupKey} {P : Group → Prop} (h : s.Lives k P)
include h

theorem State.Lives.found : ∃ g, s.group? k = some g ∧ P g := by
  obtain ⟨b, g, hb, -, hg, hP⟩ := h
  exact ⟨g, by simp [State.group?, hb, hg], hP⟩

theorem State.Lives.of_blocks {t : State} (ht : t.blocks = s.blocks) : t.Lives k P := by
  obtain ⟨b, g, hb, hst, hg, hP⟩ := h
  exact ⟨b, g, by rw [State.block?, ht]; exact hb, hst, hg, hP⟩

theorem State.Lives.putGroup {Q : Group → Prop} {g : Group} (hQ : Q g) : (s.putGroup k g).Lives k Q := by
  obtain ⟨b, g0, hb, hst, hg, -⟩ := h
  have hlt : k.index < b.groups.length := (List.getElem?_eq_some_iff.mp hg).1
  refine ⟨{ b with groups := b.groups.set k.index g }, g, ?_, hst, by simp [hlt], hQ⟩
  rw [State.block?_putGroup, hb, Option.map_some, if_pos (State.block?_serial hb)]

theorem State.Lives.modGroup {Q : Group → Prop} {f : Group → Group} (hPQ : ∀ g, P g → Q (f g)) : (s.modGroup k f).Lives k Q := by
  obtain ⟨g, hg, hP⟩ := h.found
  rw [State.modGroup_eq hg]
  exact h.putGroup (hPQ g hP)

/-- A resident block is not forgotten. -/
theorem State.Lives.releaseBlocks : s.releaseBlocks.Lives k P := by
  obtain ⟨b, g, hb, hst, hg, hP⟩ := h
  refine ⟨b, g, ?_, hst, hg, hP⟩
  obtain ⟨htest, before, after, hblocks, hbefore⟩ := List.find?_eq_some_iff_append.mp hb
  rw [State.block?, State.releaseBlocks, hblocks, List.filter_append, List.filter_cons_of_pos (by simp [hst])]
  exact List.find?_eq_some_iff_append.mpr ⟨htest, _, _, rfl, fun a ha => hbefore a (List.mem_of_mem_filter ha)⟩

variable (hwake : ∀ g g', WakesOnly g g' → P g → P g')
include hwake

theorem State.Lives.wakeGroup : (s.wakeGroup k).Lives k P := by
  obtain ⟨b, g, hb, hst, hg, hP⟩ := id h
  have hg' : s.group? k = some g := by simp [State.group?, hb, hg]
  have hput : (s.putGroup k ((g.wakeIf g.canWake).passIf g.countsMet)).Lives k P :=
    h.putGroup (hwake _ _ ((g.wakeIf_wakesOnly _).trans (Group.passIf_wakesOnly _ _)) hP)
  simp only [State.wakeGroup, hb, hg', if_pos hst]
  split
  · exact hput
  · exact hput.of_blocks rfl

theorem State.Lives.wakeEngine (e : Nat) : (s.wakeEngine e).Lives k P := by
  obtain ⟨b, g, hb, hst, hg, hP⟩ := h
  have hfind : (s.wakeEngine e).block? k.block = some (if engineOf b.cluster = e then
      { b with groups := b.groups.map (fun g => g.wakeIf (fun r => r == .engine)) } else b) := by
    have hkey : ∀ d : Block, (if engineOf d.cluster = e then
        { d with groups := d.groups.map (fun g => g.wakeIf (fun r => r == .engine)) } else d).serial = d.serial := fun d => by
      split <;> rfl
    simp only [State.block?, State.wakeEngine, List.find?_map, Function.comp_def, hkey]
    rw [show s.blocks.find? (fun d => d.serial == k.block) = some b from hb, Option.map_some]
  by_cases he : engineOf b.cluster = e
  · rw [if_pos he] at hfind
    exact ⟨_, g.wakeIf (fun r => r == .engine), hfind, hst, by simp [hg], hwake _ _ (g.wakeIf_wakesOnly _) hP⟩
  · rw [if_neg he] at hfind
    exact ⟨b, g, hfind, hst, hg, hP⟩

end

/-! ### Writing registers -/

theorem Group.writeReg_frame (g : Group) (w : RegWrite) : ∃ v s a p k, g.writeReg w = { g with v := v, s := s, a := a, p := p, k := k } := by
  unfold Group.writeReg
  split <;> exact ⟨_, _, _, _, _, rfl⟩

theorem Group.writeRegs_frame (g : Group) (ws : List RegWrite) :
    ∃ v s a p k, ws.foldl Group.writeReg g = { g with v := v, s := s, a := a, p := p, k := k } := by
  induction ws generalizing g with
  | nil => exact ⟨_, _, _, _, _, rfl⟩
  | cons w ws ih =>
    obtain ⟨_, _, _, _, _, hw⟩ := g.writeReg_frame w
    obtain ⟨_, _, _, _, _, hws⟩ := ih (g.writeReg w)
    rw [List.foldl_cons, hws, hw]
    exact ⟨_, _, _, _, _, rfl⟩

/-- A write sees nothing of a group but its registers. -/
theorem SameRegs.writeReg {g h : Group} (e : SameRegs g h) (w : RegWrite) : SameRegs (g.writeReg w) (h.writeReg w) := by
  obtain ⟨hv, hs, ha, hp, hk⟩ := e
  unfold Group.writeReg
  split <;> constructor <;> simp only [hv, hs, ha, hp, hk]

theorem SameRegs.writeRegs {g h : Group} (e : SameRegs g h) (ws : List RegWrite) :
    SameRegs (ws.foldl Group.writeReg g) (ws.foldl Group.writeReg h) := by
  induction ws generalizing g h with
  | nil => exact e
  | cons w ws ih => exact ih (e.writeReg w)

/-! ### The end of a command -/

/-- A group whose command has completed with a status: the token, the count, no mark left (R157). -/
def TokenGiven (c : CopyCmd) (st : Nat) (g g' : Group) : Prop :=
  g'.cpCnt = g.cpCnt - 1 ∧ (∀ p ∈ g'.pend, p.op ≠ c.id) ∧
    SameRegs ((tokReg c.hm c.tok).foldl (fun g r => g.writeReg ⟨r, 0, .s (tokenOf st)⟩) g) g'

theorem TokenGiven.wakes {c : CopyCmd} {st : Nat} {g g' g'' : Group} (e : WakesOnly g' g'') (h : TokenGiven c st g g') : TokenGiven c st g g'' := by
  obtain ⟨_, _, _, _, rfl⟩ := e
  obtain ⟨hcnt, hpend, hv, hs, ha, hp, hk⟩ := h
  exact ⟨hcnt, hpend, hv, hs, ha, hp, hk⟩

/-- A group as a command found it, its registers and its copy count. -/
def AsIssued (g h : Group) : Prop := SameRegs g h ∧ h.cpCnt = g.cpCnt ∧ h.ended = false

/-- The marks and the count of a command that has completed. -/
def Group.tokenDone (g : Group) (id : Nat) : Group := ((g.noteTokens id).unpend id).cpDone

theorem Group.tokenDone_spec (g : Group) (id : Nat) : (g.tokenDone id).cpCnt = g.cpCnt - 1 ∧ (∀ p ∈ (g.tokenDone id).pend, p.op ≠ id) ∧
    SameRegs g (g.tokenDone id) :=
  ⟨rfl, fun p hp => by simpa using (List.mem_filter.mp hp).2, rfl, rfl, rfl, rfl, rfl⟩

theorem SameRegs.trans {g h i : Group} (e : SameRegs g h) (e' : SameRegs h i) : SameRegs g i :=
  ⟨e.v.trans e'.v, e.s.trans e'.s, e.a.trans e'.a, e.p.trans e'.p, e.k.trans e'.k⟩

/-- A token given to a group that has not ended (R157). -/
theorem AsIssued.given {c : CopyCmd} {st : Nat} {g h : Group} (e : AsIssued g h) : TokenGiven c st g
    (((((tokReg c.hm c.tok).map (fun r => (⟨r, 0, .s (tokenOf st)⟩ : RegWrite))).foldl Group.writeReg h)).tokenDone c.id) := by
  obtain ⟨hregs, hcnt, -⟩ := e
  have hwritten := hregs.writeRegs ((tokReg c.hm c.tok).map (fun r => (⟨r, 0, .s (tokenOf st)⟩ : RegWrite)))
  obtain ⟨_, _, _, _, _, hframe⟩ := h.writeRegs_frame ((tokReg c.hm c.tok).map (fun r => (⟨r, 0, .s (tokenOf st)⟩ : RegWrite)))
  obtain ⟨hdone, hpend, hsame⟩ := Group.tokenDone_spec (((tokReg c.hm c.tok).map (fun r => (⟨r, 0, .s (tokenOf st)⟩ : RegWrite))).foldl
    Group.writeReg h) c.id
  refine ⟨hdone.trans ?_, hpend, ?_⟩
  · rw [hframe, ← hcnt]
  · have hall := hwritten.trans hsame
    rwa [List.foldl_map] at hall

theorem State.copyEnd_completes {s : State} {c : CopyCmd} {g : Group} (h : s.Lives c.gk (AsIssued g)) :
    CopyCompletes (s.copyEnd c) c g c.status := by
  unfold State.copyEnd
  dsimp only
  generalize hs1 : (if c.sba then s.addOp ⟨c.gk.block, 33⟩ c.slot (.stageArr c.gk.block c.sb) else s) = s1
  have hlives : s1.Lives c.gk (AsIssued g) := h.of_blocks (by rw [← hs1]; split <;> rfl)
  generalize hs2 : s1.giveToken c.gk c.id _ _ = s2
  have hgiven : s2.Lives c.gk (TokenGiven c c.status g) := by
    rw [← hs2]
    exact State.Lives.wakeGroup (hlives.modGroup (fun i ⟨hregs, hcnt, hlive⟩ => by
      rw [if_neg (by simp [hlive])]
      exact AsIssued.given ⟨hregs, hcnt, hlive⟩)) (fun _ _ => TokenGiven.wakes)
  have hend : State.Lives { s2 with cmds := s2.cmds.filter (fun x => !(x.id == c.id)) } c.gk (TokenGiven c c.status g) := hgiven.of_blocks rfl
  obtain ⟨g', hg', hgiven'⟩ := (hend.wakeEngine (fun _ _ => TokenGiven.wakes) c.engine).releaseBlocks.found
  refine ⟨?_, g', hg', hgiven'⟩
  refine List.find?_eq_none.mpr (fun x hx => ?_)
  simpa using (List.mem_filter.mp hx).2

/-- A command without a future that has nothing left completes (R157). -/
theorem State.copyFinish_completes {s : State} {c : CopyCmd} {g : Group} (h : s.Lives c.gk (AsIssued g)) (hfr : c.fr = false) :
    ∃ t, s.copyFinish c = some t ∧ CopyCompletes t c g c.status := by
  refine ⟨_, by simp only [State.copyFinish, hfr, Bool.not_false, if_true]; rfl, ?_⟩
  exact State.copyEnd_completes (c := { c with owned := [], llines := [], entries := 0, todo := [], buf := none }) (h.of_blocks rfl)

/-- A command that is refused completes with the status at once (R156). -/
theorem State.copyRefuse_completes {s : State} {c : CopyCmd} {g : Group} (h : s.Lives c.gk (AsIssued g)) (hfr : c.fr = false) (st : Nat) :
    ∃ t, s.copyRefuse c st = some t ∧ CopyCompletes t c g st :=
  State.copyFinish_completes (c := { c with accepted := true, status := st, stamp := s.ids }) (h.of_blocks rfl) hfr

end Sys2Proof.Machine
end

section
/-! How a copy command is accepted (R41, R125, R148, R156, R158, R480). -/
open Sys2Proof Sys2Proof.Machine
namespace Sys2Proof.Machine

theorem State.AtEngine.lives {s : State} {c : CopyCmd} {b : Block} {g : Group} (h : s.AtEngine c b g) : s.Lives c.gk (AsIssued g) := by
  obtain ⟨-, hb, hg, hst, hlive, -⟩ := h
  obtain ⟨d, hd, hi⟩ := State.group?_eq_some hg
  obtain rfl : b = d := Option.some.inj (hb.symm.trans hd)
  exact ⟨b, g, hb, hst, hi, ⟨rfl, rfl, rfl, rfl, rfl⟩, rfl, hlive⟩

/-! ### The oldest command -/

section
variable {s : State} {c : CopyCmd} {b : Block} {g : Group} (h : s.AtEngine c b g) (hacc : c.accepted = false)
  (hdone : s.groupDone c.gk c.id c.seen = true) (hfirst : ∀ x ∈ s.cmds, x.engine = c.engine → x.id < c.id → x.accepted = true)
include h hacc hdone hfirst

theorem State.AtEngine.mayAccept : (c.accepted || !s.cmds.all (fun x => !(x.engine == c.engine && x.id < c.id && !x.accepted)) ||
    !s.ctxRuns c.asid || !s.groupDone c.gk c.id c.seen) = false := by
  have hall : s.cmds.all (fun x => !(x.engine == c.engine && x.id < c.id && !x.accepted)) = true := by
    simp only [List.all_eq_true, Bool.not_eq_true', Bool.and_eq_false_imp, beq_iff_eq, Bool.and_eq_true, decide_eq_true_eq, Bool.not_eq_false']
    exact fun x hx ⟨he, hid⟩ => hfirst x hx he hid
  rw [hacc, hall, hdone, h.runs]
  rfl

theorem State.AtEngine.acceptRows {s0 : State} {rows : List Nat} (hr : s.gathRows c b.alloc = .ok s0 rows) :
    s.copyAccept? c.id = s0.copyDecide? { c with rows := rows } b.alloc := by
  have hmay := h.mayAccept hacc hdone hfirst
  simp only [State.copyAccept?, h.cmd, hmay, h.block, Option.map_some, Option.getD_some, Bool.false_eq_true, if_false, hr]

theorem State.AtEngine.acceptFault {s0 : State} {f : XFault} {va : Nat} (hr : s.gathRows c b.alloc = .fault s0 f va) :
    s.copyAccept? c.id = some (s0.copyFault c f va .copyRead) := by
  have hmay := h.mayAccept hacc hdone hfirst
  simp only [State.copyAccept?, h.cmd, hmay, h.block, Option.map_some, Option.getD_some, Bool.false_eq_true, if_false, hr]

end

theorem State.gathRows_other {s : State} {c : CopyCmd} (h : ∀ n idx d p nr, c.body ≠ .gath n idx d p nr) (alloc : Nat) :
    s.gathRows c alloc = .ok s [] := by
  unfold State.gathRows
  split
  · next hb => exact absurd hb (h _ _ _ _ _)
  · rfl

/-! ### What is decided of it -/

section
variable {s : State} {c : CopyCmd} {alloc : Nat} {g : Group} (h : s.Lives c.gk (AsIssued g))

/-- A cause that is deferred leaves the registers and the counts of a group that has not ended. -/
theorem State.Lives.laterCause (h : s.Lives c.gk (AsIssued g)) (x : Cause) : (s.laterCause c.gk c.asid c.corr c.gid x).Lives c.gk (AsIssued g) := by
  obtain ⟨i, hi, hregs, hcnt, hlive⟩ := h.found
  simp only [State.laterCause, hi, hlive, Bool.false_eq_true, if_false]
  exact h.putGroup ⟨⟨hregs.v, hregs.s, hregs.a, hregs.p, hregs.k⟩, hcnt, rfl⟩

/-- Steps of which each moves only memory move only memory, where all are made. -/
theorem MemFrame.foldl_bind {α : Type} (f : State → α → Option State) (hf : ∀ u a v, f u a = some v → MemFrame u v) (xs : List α) {s t : State}
    (ht : xs.foldl (fun acc a => acc.bind (fun u => f u a)) (some s) = some t) : MemFrame s t := by
  induction xs generalizing s with
  | nil =>
    cases ht
    exact MemFrame.refl _
  | cons a xs ih =>
    cases hu : f s a with
    | none =>
      have hnone : ∀ ys : List α, ys.foldl (fun acc a => acc.bind (fun u => f u a)) none = none := fun ys => by
        induction ys with
        | nil => rfl
        | cons y ys ihy => exact ihy
      rw [List.foldl_cons, Option.bind_some, hu, hnone] at ht
      cases ht
    | some u =>
      rw [List.foldl_cons, Option.bind_some, hu] at ht
      exact (hf s a u hu).trans (ih ht)

theorem State.claimLines_frame {s t : State} {x : Ctx} {lseq key : Nat} {lines : List Nat} (ht : s.claimLines x lseq key lines = some t) :
    MemFrame s t := by
  refine MemFrame.foldl_bind _ (fun u ln v hv => ?_) lines ht
  dsimp only at hv
  split at hv
  · cases hv
    exact u.writeBytes_frame _ _ _
  · split at hv
    · cases hv
      exact MemFrame.refl u
    · cases hv

/-- The claims of a command move only memory (R480). -/
theorem State.copyClaims_frame {t : State} (ht : s.copyClaims c = some t) : MemFrame s t := by
  unfold State.copyClaims at ht
  split at ht
  · exact State.claimLines_frame ht
  · cases ht
    exact MemFrame.refl s

include h in
theorem State.copyDecide_refused (hfr : c.fr = false) (hst : c.refusal alloc ≠ 0) :
    ∃ t, s.copyDecide? c alloc = some t ∧ CopyCompletes t c g (c.refusal alloc) := by
  obtain ⟨t, ht, hc⟩ := State.copyRefuse_completes h hfr (c.refusal alloc)
  exact ⟨t, by simp only [State.copyDecide?, hst, ne_eq, not_false_eq_true, if_true, ht], hc⟩

variable (hst : c.refusal alloc = 0)
include hst

theorem State.copyDecide_fault {f : XFault} (hstop : s.copyClaimStop c = some (.fault f)) :
    s.copyDecide? c alloc = some (s.copyFault c f c.dstAt .copyWrite) := by
  simp only [State.copyDecide?, hst, ne_eq, not_true_eq_false, if_false, hstop]

variable (hstop : s.copyClaimStop c = none)
include hstop

include h in
theorem State.copyDecide_conflict (hclaims : s.copyClaims c = none) (hfr : c.fr = false) :
    ∃ t, s.copyDecide? c alloc = some t ∧ CopyCompletes t c g 6 := by
  obtain ⟨t, ht, hc⟩ := State.copyRefuse_completes (h.laterCause (.plain 0x1B c.slot)) hfr 6
  exact ⟨t, by simp only [State.copyDecide?, hst, ne_eq, not_true_eq_false, if_false, hstop, hclaims, ht], hc⟩

variable {s1 : State} (hclaims : s.copyClaims c = some s1)
include hclaims

include h in
theorem State.copyDecide_empty (hempty : c.empty = true) (hfr : c.fr = false) :
    ∃ t, s.copyDecide? c alloc = some t ∧ CopyCompletes t c g 1 := by
  have h1 : s1.Lives c.gk (AsIssued g) := h.of_blocks (State.copyClaims_frame hclaims).blocks
  obtain ⟨t, ht, hc⟩ := State.copyRefuse_completes h1 hfr 1
  exact ⟨t, by simp only [State.copyDecide?, hst, ne_eq, not_true_eq_false, if_false, hstop, hclaims, hempty, if_true, ht], hc⟩

/-- A command that nothing refuses takes its lines once its entries fit and no line is busy (R158). -/
theorem State.copyDecide_taken (hempty : c.empty = false) {s2 : State} {pages : List (Nat × Loc)}
    (hpages : s1.acceptPages c [] c.destVas = .inr (s2, pages)) :
    let all := c.linesOwned pages
    let own := all.filter (fun o => s1.lineFree c.agent true o.loc != .lost)
    ((s1.cmds.filter (fun x => x.engine == c.engine)).map (·.entries)).sum + c.entriesFor all ≤ 8 →
    (∀ o ∈ own, s1.lineFree c.agent true o.loc ≠ .busy) → s.copyDecide? c alloc = some (s2.copyOwn c pages own (c.entriesFor all)) := by
  intro all own hroom hbusy
  have hnobusy : own.any (fun o => s1.lineFree c.agent true o.loc == .busy) = false := by
    simpa only [List.any_eq_false, beq_iff_eq] using hbusy
  simp only [own, all] at hnobusy hroom
  simp only [State.copyDecide?, hst, ne_eq, not_true_eq_false, if_false, hstop, hclaims, hempty, Bool.false_eq_true, State.copyTake?, hpages,
    if_neg (Nat.not_lt.mpr hroom), hnobusy]
  rfl

end

/-! ### What an accepted command holds -/

theorem State.cmd?_putCmd {s : State} {c : CopyCmd} (h : (s.cmd? c.id).isSome = true) : (s.putCmd c).cmd? c.id = some c := by
  obtain ⟨x, hx⟩ := Option.isSome_iff_exists.mp h
  have hid : x.id = c.id := by simpa using List.find?_some hx
  have hkey : ∀ y : CopyCmd, ((if y.id = c.id then c else y).id == c.id) = (y.id == c.id) := fun y => by
    by_cases hy : y.id = c.id <;> simp [hy]
  simp only [State.cmd?, State.putCmd, List.find?_map, Function.comp_def, hkey]
  rw [show s.cmds.find? (fun y => y.id == c.id) = some x from hx, Option.map_some, if_pos hid]

theorem State.takeLines_frame (s : State) (cluster : Nat) (own : List OwnedLine) : MemFrame s (s.takeLines cluster own) :=
  (s.surrender_frame _).mem _

theorem MemFrame.cmds {s t : State} (h : MemFrame s t) : t.cmds = s.cmds := by
  obtain ⟨_, _, _, _, rfl⟩ := h
  rfl

theorem State.copyOwn_cmd? {s : State} {c : CopyCmd} (h : (s.cmd? c.id).isSome = true) (pages : List (Nat × Loc)) (own : List OwnedLine)
    (need : Nat) : ∃ c', (s.copyOwn c pages own need).cmd? c.id = some c' ∧
      c'.accepted = true ∧ c'.todo = c.units ∧ c'.owned = own ∧ c'.entries = need ∧ c'.body = c.body := by
  refine ⟨_, State.cmd?_putCmd ?_, rfl, rfl, rfl, rfl, rfl⟩
  have hrelease := s.sysRelease_frame ⟨some c.asid, pages.any (fun p => p.2.kind != .device)⟩
  refine (congrArg (fun cs => (List.find? (fun x : CopyCmd => x.id == c.id) cs).isSome) ?_).trans h
  exact (State.takeLines_frame _ c.cluster own).cmds.trans hrelease.cmds

theorem part_copiesAccepted : Part.CopiesAccepted := by
  refine ⟨fun s c b g h hacc hdone hfirst => ⟨fun hb => State.gathRows_other hb b.alloc,
      fun s0 f va hr => next_getD (h.acceptFault hacc hdone hfirst hr)⟩,
    fun s s0 c b g rows h hacc hdone hfirst hr h0 => ?_, fun s lns hup hfree => ?_⟩
  · have haccept := h.acceptRows hacc hdone hfirst hr
    have hlives : s0.Lives c.gk (AsIssued g) := h0.lives
    refine ⟨fun hfr hst => ?_, fun hst f hstop => next_getD (haccept.trans (State.copyDecide_fault hst hstop)), fun hst hstop hclaims hfr => ?_,
      fun hst hstop s1 hclaims => ⟨fun hfr hempty => ?_, fun hempty s2 pages hpages hroom hbusy => ⟨next_getD (haccept.trans
        (State.copyDecide_taken hst hstop hclaims hempty hpages hroom hbusy)), fun hsome => State.copyOwn_cmd? (c := { c with rows := rows }) hsome _ _ _⟩⟩⟩
    · obtain ⟨t, ht, hc⟩ := State.copyDecide_refused (c := { c with rows := rows }) hlives hfr hst
      exact ⟨t, next_getD (haccept.trans ht), hc⟩
    · obtain ⟨t, ht, hc⟩ := State.copyDecide_conflict (c := { c with rows := rows }) hlives hst hstop hclaims hfr
      exact ⟨t, next_getD (haccept.trans ht), hc⟩
    · obtain ⟨t, ht, hc⟩ := State.copyDecide_empty (c := { c with rows := rows }) hlives hst hstop hclaims hempty hfr
      exact ⟨t, next_getD (haccept.trans ht), hc⟩
  · have hlost : (lns.map (fun ln => (⟨.device, 128 * ln⟩ : Loc))).any (fun l => s.lineFree .device true l == .lost) = false :=
      List.any_eq_false.mpr (fun l hl => by simp [hfree l hl])
    have hbusy : (lns.map (fun ln => (⟨.device, 128 * ln⟩ : Loc))).any (fun l => s.lineFree .device true l == .busy) = false :=
      List.any_eq_false.mpr (fun l hl => by simp [hfree l hl])
    exact next_getD (by simp only [State.peerOwn?, hup, hlost, hbusy, Bool.not_true, Bool.or_self, Bool.false_eq_true, if_false])

end Sys2Proof.Machine
end

section
/-! How a copy command moves its data (R41, R101, R157 to R160). -/
open Sys2Proof Sys2Proof.Machine
namespace Sys2Proof.Machine

/-! ### Reads -/

/-- The byte that a source of a line gives, 0 past the rows of a gather (R155). -/
def State.refByte (s : State) (c : CopyCmd) (x : SrcRef) : Byte :=
  match x with
  | .zero => 0
  | .lit b => b
  | y => match s.refAddr c y with
    | some a => s.engineByte c c.sls c.spages a
    | none => 0

section
variable {s : State} {c : CopyCmd} {b : Block} {g : Group} (h : s.AtEngine c b g) (hworks : s.copyWorks c = true)
include h hworks

/-- The read of a line, its pages at hand: the index list first, then the rows. -/
theorem State.AtEngine.lineRead {u : Nat} {us : List Nat} (htodo : c.todo = u :: us) (hbuf : c.buf = none)
    (hbody : ∀ n op fmt tbl res scl, c.body ≠ .red n op fmt tbl res scl) {s1 s2 : State} {c1 c2 : CopyCmd}
    (hix : s.unitPages c { writes := (c.lineRefs u).map (fun x => (0, x.1)), src := if c.ils then [] else c.indexAddrs (c.lineRefs u), dst := [],
                           loc := if c.ils then c.indexAddrs (c.lineRefs u) else [] } = .ok s1 c1)
    (hrows : s1.unitPages c1 { writes := (c.lineRefs u).map (fun x => (0, x.1)),
                               src := if c1.sls then [] else (c.lineRefs u).filterMap (fun x => s1.refAddr c1 x.2), dst := [],
                               loc := if c1.sls then (c.lineRefs u).filterMap (fun x => s1.refAddr c1 x.2) else [] } = .ok s2 c2) :
    ∃ bad, s.copyRead? c.id =
      some (s2.putCmd { c2 with buf := some ((c.lineRefs u).map (fun x => (0, x.1, s2.refByte c2 x.2))), idxBad := bad }) := by
  simp only [State.copyRead?, h.cmd, htodo, hbuf, hworks, Bool.not_true, Bool.false_eq_true, if_false, hix, hrows]
  exact ⟨_, rfl⟩

/-- The read of a group of a quantisation (R101, R164). -/
theorem State.AtEngine.redRead {u : Nat} {us : List Nat} (htodo : c.todo = u :: us) (hbuf : c.buf = none) {n op fmt tbl : Nat} {res scl : DWord}
    (hbody : c.body = .red n op fmt tbl res scl) {s1 : State} {c1 : CopyCmd} (hpages : s.unitPages c (c.redRefs n op fmt res scl u) = .ok s1 c1) :
    s.copyRead? c.id = some (s1.putCmd { c1 with buf := some (s1.redBytes c1 n op fmt res scl u) }) := by
  simp only [State.copyRead?, h.cmd, htodo, hbuf, hworks, Bool.not_true, Bool.false_eq_true, if_false, hbody, hpages]

/-! ### Writes -/

/-- A command with nothing left completes, with status 5 where an index was out of range (R155, R157). -/
theorem State.AtEngine.copyWrite_done (hbuf : c.buf = none) (htodo : c.todo = []) (hfr : c.fr = false) :
    ∃ t, s.copyWrite? c.id = some t ∧ CopyCompletes t c g (if c.status = 0 ∧ c.idxBad = true then 5 else c.status) := by
  obtain ⟨t, ht, hc⟩ := State.copyFinish_completes (c := { c with status := if c.status = 0 && c.idxBad then 5 else c.status }) h.lives hfr
  have hst : CopyCompletes t c g (if (decide (c.status = 0) && c.idxBad) = true then 5 else c.status) := hc
  rw [htodo, hbuf] at ht
  refine ⟨t, by simp only [State.copyWrite?, h.cmd, hworks, Bool.not_true, Bool.false_eq_true, if_false, hbuf, htodo, ht], ?_⟩
  simpa only [Bool.and_eq_true, decide_eq_true_eq] using hst

end

/-- Steps that keep a part of a state keep it together. -/
theorem foldl_keeps {σ α β : Type} (π : σ → β) (f : σ → α → σ) (hf : ∀ x a, π (f x a) = π x) (l : List α) (x : σ) :
    π (l.foldl f x) = π x := by
  induction l generalizing x with
  | nil => rfl
  | cons a l ih => exact (ih _).trans (hf x a)

theorem RecordFrame.cmds {s t : State} (h : RecordFrame s t) : t.cmds = s.cmds := by
  obtain ⟨_, _, _, _, _, _, _, _, rfl⟩ := h
  rfl

theorem State.debugRecord_cmds (s : State) (asid evt sub flags agent : Nat) (corr gid : Word) (va src lseq : Nat) :
    (s.debugRecord asid evt sub flags agent corr gid va src lseq).cmds = s.cmds := by
  unfold State.debugRecord
  dsimp only
  split <;> exact (s.pushRecord_frame _ _ _).cmds

/-- Watchpoints leave the commands. -/
theorem State.copyWatch_cmds (s : State) (c : CopyCmd) (bs : List (Nat × Nat × Byte)) : (s.copyWatch c bs).1.cmds = s.cmds := by
  refine foldl_keeps (fun x : State × List Nat => x.1.cmds) _ (fun x d => ?_) _ _
  refine foldl_keeps (fun x : State × List Nat => x.1.cmds) _ (fun y a => ?_) _ _
  exact foldl_keeps State.cmds _ (fun u w => u.debugRecord_cmds _ _ _ _ _ _ _ _ _ _) _ _

theorem State.copyPut_cmds (s : State) (c : CopyCmd) (bs : List (Nat × Nat × Byte)) : (s.copyPut c bs).cmds = s.cmds :=
  (State.writeAt_frame _ _ _ _).cmds.trans (State.peerHomeWrite_frame _ _).cmds

/-- The frontier's passing releases lines and nothing else (R158). -/
theorem CopyCmd.passed_frame (c : CopyCmd) (ls : List (Nat × Nat)) :
    ∃ o l, ls.foldl (fun (c : CopyCmd) x => c.passed x.1 x.2) c = { c with owned := o, llines := l } := by
  induction ls generalizing c with
  | nil => exact ⟨_, _, rfl⟩
  | cons x ls ih =>
    obtain ⟨o, l, h⟩ := ih (c.passed x.1 x.2)
    exact ⟨o, l, h⟩

/-- A command that has written the complete lines of its unit in hand: they are released, and it holds back the rest. -/
def CopyCmd.wrote (c : CopyCmd) (out held : List (Nat × Nat × Byte)) (watched : List Nat) : CopyCmd :=
  (linesByDest out).foldl (fun (c : CopyCmd) x => c.passed x.1 x.2) { c with buf := none, held := held, watched := watched }

theorem CopyCmd.wrote_spec (c : CopyCmd) (out held : List (Nat × Nat × Byte)) (watched : List Nat) :
    (c.wrote out held watched).id = c.id ∧ (c.wrote out held watched).todo = c.todo ∧ (c.wrote out held watched).buf = none ∧
      (c.wrote out held watched).held = held := by
  obtain ⟨o, l, h⟩ := CopyCmd.passed_frame { c with buf := none, held := held, watched := watched } (linesByDest out)
  rw [CopyCmd.wrote, h]
  exact ⟨rfl, rfl, rfl, rfl⟩

/-- The state with complete lines written, and those of local store unlocked. -/
def State.written (s : State) (c : CopyCmd) (out : List (Nat × Nat × Byte)) : State :=
  ((s.copyWatch c out).1.copyPut c out).modBlock c.gk.block (fun b =>
    { b with locks := (((linesByDest out).filter (fun x => c.destLocal x.1)).map (·.2)).foldl List.erase b.locks })

/-- The write of the lines that are complete, with units still to do (R158, R160). -/
theorem State.AtEngine.lineWrite {s : State} {c : CopyCmd} {b : Block} {g : Group} (h : s.AtEngine c b g) (hworks : s.copyWorks c = true)
    {new : List (Nat × Nat × Byte)} {u v : Nat} {us : List Nat} (hbuf : c.buf = some new) (htodo : c.todo = u :: v :: us) :
    let c1 := { c with todo := v :: us }
    let fresh := new.filter (fun x => c.skip ≤ x.2.1 || x.1 != 0)
    let out := (c.held ++ fresh).filter (fun x => c1.complete x.1 x.2.1)
    s.copyMayPut c1 out = .ok → s.copyWrite? c.id = some ((s.written c1 out).putCmd
      (c1.wrote out ((c.held ++ fresh).filter (fun x => !c1.complete x.1 x.2.1)) (s.copyWatch c1 out).2)) := by
  intro c1 fresh out hput
  have hmore : (c1.wrote out ((c.held ++ fresh).filter (fun x => !c1.complete x.1 x.2.1)) (s.copyWatch c1 out).2).todo ≠ [] := by
    rw [(CopyCmd.wrote_spec _ _ _ _).2.1]
    exact List.cons_ne_nil _ _
  simp only [out, fresh, c1] at hput
  simp only [State.copyWrite?, h.cmd, hworks, Bool.not_true, Bool.false_eq_true, if_false]
  split
  · next hnone _ => cases hbuf.symm.trans hnone
  · next hnone _ => cases hbuf.symm.trans hnone
  · next hsome =>
    cases hbuf.symm.trans hsome
    simp only [htodo, List.tail_cons, hput]
    exact if_neg hmore

theorem State.written_cmds (s : State) (c : CopyCmd) (out : List (Nat × Nat × Byte)) : (s.written c out).cmds = s.cmds :=
  (State.copyPut_cmds _ _ _).trans (s.copyWatch_cmds c out)

theorem State.peerPut_go {s : State} {ln : Nat} {x : Nat × Nat} (hx : s.mem.peerOwned.find? (fun x => x.1 == ln) = some x) (hup : s.linkUp = true)
    (hbefore : s.ownedBefore x.2 ⟨.device, 128 * ln⟩ = false) (bs : List (Nat × Byte)) : s.peerPut? ln bs =
      some (({ s with mem := { s.mem with peerOwned := s.mem.peerOwned.erase x } }).writeAt .device
        (bs.map (fun (y : Nat × Byte) => ((⟨.device, 128 * ln + y.1 % 128⟩ : Loc), y.2))) .normal) := by
  simp only [State.peerPut?, hx, hup, hbefore, Bool.not_true, Bool.or_self, Bool.false_eq_true, if_false]

theorem State.putCmd_bytes (s : State) (c : CopyCmd) : SameBytes s (s.putCmd c) := fun _ _ => rfl

theorem State.modBlock_bytes (s : State) (n : Nat) (f : Block → Block) : SameBytes s (s.modBlock n f) := fun _ _ => rfl

theorem SameBytes.trans {s t u : State} (h : SameBytes s t) (h' : SameBytes t u) : SameBytes s u := fun a l => (h' a l).trans (h a l)

/-- A command that is there takes its new value. -/
theorem State.putCmd_there {s : State} {c : CopyCmd} {id : Nat} (hid : c.id = id) (h : (s.cmd? id).isSome = true) :
    (s.putCmd c).cmd? id = some c := by
  subst hid
  exact State.cmd?_putCmd h

theorem part_copiesMove : Part.CopiesMove := by
  refine ⟨?_, ?_, ?_, ?_, ?_⟩
  · intro s s1 s2 c c1 c2 b g u us h hworks htodo hbuf hbody refs ws ix rows hix hrows hid hsome
    obtain ⟨bad, ht⟩ := h.lineRead hworks htodo hbuf hbody hix hrows
    refine ⟨_, _, _, next_getD ht, State.putCmd_there hid hsome, rfl, rfl, State.putCmd_bytes _ _, ?_, fun x hx => ?_⟩
    · rw [List.map_map]
      rfl
    · have hmem : (0, x.1, s2.refByte c2 x.2) ∈ refs.map (fun x => (0, x.1, s2.refByte c2 x.2)) := List.mem_map_of_mem hx
      obtain ⟨a, y⟩ := x
      cases y <;> exact hmem
  · intro s s1 c c1 b g u us n op fmt tbl res scl h hworks htodo hbuf hbody hpages hid hsome
    exact ⟨_, _, next_getD (h.redRead hworks htodo hbuf hbody hpages), State.putCmd_there hid hsome, rfl, State.putCmd_bytes _ _⟩
  · intro s c b g h hworks hbuf htodo hfr
    obtain ⟨t, ht, hc⟩ := h.copyWrite_done hworks hbuf htodo hfr
    exact ⟨t, next_getD ht, hc⟩
  · intro s c b g new u v us h hworks hbuf htodo c1 fresh out hput
    obtain ⟨hid, hmore, hnone, hheld⟩ := CopyCmd.wrote_spec c1 out ((c.held ++ fresh).filter (fun x => !c1.complete x.1 x.2.1)) (s.copyWatch c1 out).2
    have hthere : ((s.written c1 out).cmd? c.id).isSome = true := by
      rw [State.cmd?, State.written_cmds]
      exact Option.isSome_iff_exists.mpr ⟨c, h.cmd⟩
    exact ⟨_, _, next_getD (h.lineWrite hworks hbuf htodo hput), State.putCmd_there hid hthere, hmore, hnone, hheld,
      (State.modBlock_bytes _ _ _).trans (State.putCmd_bytes _ _)⟩
  · exact fun s ln bs x hx hup hbefore => next_getD (State.peerPut_go hx hup hbefore bs)

end Sys2Proof.Machine

/-- Settles O54: acceptance decides on the rows that the indices name; a refused or finished command gives its token to a group that still
lives; reads and writes change the command alone beside memory. -/
theorem copiesProceed : Obligations.CopiesProceed := ⟨part_copiesAccepted, part_copiesMove⟩
end

section
/-! What an instruction leaves that acts on more than its group, sends a piece of work, or makes its slot wait (R194, R279, R292). -/
open Sys2Proof
namespace Sys2Proof.Machine

theorem Group.setSlot_regs (g : Group) (n : Nat) (x : Slot) : SameRegs g (g.setSlot n x) := by
  rw [Group.setSlot_frame]
  exact ⟨rfl, rfl, rfl, rfl, rfl⟩

/-- What an instruction that falls through leaves of its group: the slot behind it, the count. -/
theorem Done.leaves_fall {d : Done} (hf : d.flow = .fall) (w : View) (f : Form) :
    d.leaves w f = { d.g.setSlot w.n (w.behind f.len d.latch) with icnt := d.g.icnt + 1 } := by
  simp only [Done.leaves, hf, Flow.counts, Flow.apply, if_true, View.behind]
  congr 2
  rw [Group.setSlot_frame]

theorem Done.leaves_fall_latch {d : Done} (hf : d.flow = .fall) (hl : d.latch = none) (w : View) (f : Form) :
    ((d.leaves w f).slot w.n).latch = none := by
  rw [Done.leaves_fall hf, ← hl]
  exact congrArg Slot.latch (d.g.slot_setSlot w.n (w.behind f.len d.latch))

/-- The slot of an instruction that waits. -/
def View.waitingFor (w : View) (r : WaitReason) : Slot := { w.issued with st := .wait, wait := some r, latch := none }

/-- What an instruction that waits leaves of its group: the slot, waiting; no instruction counts. -/
theorem Done.leaves_stay {d : Done} {r : WaitReason} (hf : d.flow = .stay r) (w : View) (f : Form) :
    d.leaves w f = d.g.setSlot w.n (w.waitingFor r) := by
  simp only [Done.leaves, hf, Flow.counts, Flow.apply, Bool.false_eq_true, if_false, View.waitingFor]

theorem View.setSlot_waitingFor_stays (w : View) (r : WaitReason) : Stays w r (w.g.setSlot w.n (w.waitingFor r)) := by
  have hslot := w.g.slot_setSlot w.n (w.waitingFor r)
  refine ⟨?_, ?_, ?_, ?_, ?_, w.g.slot_setSlot_sib w.n (w.waitingFor r), by rw [Group.setSlot_frame]⟩
  all_goals
    rw [hslot]
    rfl

theorem SameFrame.setSlot (g : Group) (n : Nat) (x : Slot) : SameFrame g (g.setSlot n x) := by
  unfold SameFrame
  rw [Group.setSlot_frame]

section
variable {i : Instr} {s : State} {f : Form} {bad cls : View → Bool} {body : View → Res} {w : View}
  (hx : exec i s = .next (s.issue f bad cls body)) (hi : s.Issues f bad cls w)
include hx hi

/-- Behind the gate an instruction does what its meaning answers. -/
theorem exec_of_issues {r : Res} (hb : body w = r) : exec i s = .next (s.settle w f r) := by
  rw [hx, State.issue_of_issues hi, hb]

theorem raises_of_raise {c : Cause} (hb : body w = .raise c) : Raises i s w c := exec_of_issues hx hi hb

theorem exec_of_wait {r : WaitReason} (hb : body w = .wait r) : exec i s = .next (s.cutRun w r) := exec_of_issues hx hi hb

variable (hc : w.Calm)
include hc

/-- An instruction that goes on; what it does beside its group, said as `q`, touches neither the blocks nor the traces. -/
theorem passesThen_of_post {p q : State → State} (hb : body w = .done { g := w.g, post := p }) (hpq : ∀ u, u.regs = s.regs → p u = q u)
    (ht : ∀ u, (q u).traces = u.traces) (hbl : ∀ u, (q u).blocks = u.blocks) : PassesThen i s w f.len q := by
  have hfall := Done.leaves_fall (d := { g := w.g, post := p }) rfl w f
  have hplaced := State.placed_only (f := f) (d := { g := w.g, post := p }) hi.view hc
  have hpost := hpq _ (show (s.placed w f { g := w.g, post := p }).regs = s.regs by rw [hplaced.rest])
  have hlatch := s.placed_unlatched (f := f) (d := { g := w.g, post := p }) (Done.leaves_fall_latch rfl rfl w f)
  obtain ⟨u, t, hnext, hu, hsame⟩ := leaves_of_done hx hi hc hb rfl
    (by
      show State.Untraced (p _) w.k
      rw [hpost, State.Untraced, ht]
      exact State.placed_untraced (hc.untraced hi.view))
    (by
      show State.Unlatched (p _) w.k w.n
      rw [hpost, State.Unlatched, hbl]
      exact hlatch)
  refine ⟨_, ⟨u, t, hnext, hu, hpq u (by rw [hu.rest]) ▸ hsame⟩, advanced_fall hi.ready rfl rfl rfl (.inl rfl), ?_, ?_⟩
  · unfold SameFrame
    rw [hfall, Group.setSlot_frame]
  · have hregs := w.g.setSlot_regs w.n (w.behind f.len none)
    rw [hfall]
    exact ⟨hregs.v, hregs.s, hregs.a, hregs.p, hregs.k⟩

/-- An instruction that makes its slot wait and does nothing else. -/
theorem waits_of_stay {r : WaitReason} (hb : body w = .done { g := w.g, flow := .stay r }) : Waits i s w r := by
  obtain ⟨g', hg', hl⟩ := State.commit_plain (f := f) (d := { g := w.g, flow := .stay r }) hi.view hc rfl rfl
  have hstay : g' = w.g.setSlot w.n (w.waitingFor r) := by
    rw [Done.leaves_stay rfl, Group.slot_setSlot, Group.setSlot_setSlot] at hl
    exact hl.elim id id
  subst hstay
  exact ⟨_, _, exec_of_issues hx hi hb, hg', w.setSlot_waitingFor_stays r, .setSlot _ _ _, Group.setSlot_regs _ _ _⟩

/-- An instruction whose slot keeps no latch and which adds a piece of work. -/
theorem onlyGroupOp_of_done {d : Done} {o : OpBody} (hb : body w = .done d) (ha : d.after = none)
    (hp : d.post = fun t => t.addOp w.k w.n o) (hlatch : ((d.leaves w f).slot w.n).latch = none)
    (hseen : (d.leaves w f).seen = w.g.seen) : ∃ t, exec i s = .next t ∧ OnlyGroupOp s t w.k (d.leaves w f) w.n o := by
  have hl := leaves_of_done hx hi hc hb ha
  rw [hp] at hl
  exact (hl (State.placed_untraced (hc.untraced hi.view)) (s.placed_unlatched hlatch)).addOp (State.view?_group hi.view) hseen

/-- An instruction that waits for the piece of work that it adds. -/
theorem stays_of_addOp {r : WaitReason} {o : OpBody}
    (hb : body w = .done { g := w.g, flow := .stay r, post := fun t => t.addOp w.k w.n o }) :
    ∃ t g', exec i s = .next t ∧ OnlyGroupOp s t w.k g' w.n o ∧ Stays w r g' ∧ SameFrame w.g g' ∧ SameRegs w.g g' := by
  have hstay := Done.leaves_stay (d := { g := w.g, flow := .stay r, post := fun t => t.addOp w.k w.n o }) rfl w f
  obtain ⟨t, ht, hop⟩ := onlyGroupOp_of_done hx hi hc hb rfl rfl (by rw [hstay, Group.slot_setSlot]; rfl)
    (by rw [hstay, Group.setSlot_frame])
  rw [hstay] at hop
  exact ⟨t, _, ht, hop, w.setSlot_waitingFor_stays r, .setSlot _ _ _, Group.setSlot_regs _ _ _⟩

/-- An instruction of four bytes that goes on, changes its group's tile count and pending registers, and adds a piece of work. -/
theorem goesOn_pending_of_addOp {g : Group} {o : OpBody} {up : Group → Group} {rs : List RegId} (hlen : f.len = 4)
    (hb : body w = .done { g := g, post := fun t => t.addOp w.k w.n o }) (hg : g = { w.g with tlCnt := g.tlCnt, pend := g.pend })
    (hup : up w.g = { w.g with tlCnt := g.tlCnt }) (hrs : ∀ r ∈ rs, ∃ p ∈ g.pend, p.reg = r ∧ p.kind = .var ∧ p.op = s.ids) :
    ∃ u g', exec i s = .next u ∧ OnlyGroupOp s u w.k g' w.n o ∧ GoesOn w up g' ∧
      ∀ r ∈ rs, ∃ p ∈ g'.pend, p.reg = r ∧ p.kind = .var ∧ p.op = s.ids := by
  have hkept := leaves_regs (w := w) (f := f) (d := { g := g, post := fun t => t.addOp w.k w.n o }) rfl (.inl rfl)
  obtain ⟨t, ht, hop⟩ := onlyGroupOp_of_done hx hi hc hb rfl rfl
    (Done.leaves_fall_latch rfl rfl w f) (by rw [hkept, hg])
  refine ⟨t, _, ht, hop, ⟨?_, ?_⟩, by rw [hkept]; exact hrs⟩
  · exact hlen ▸ advanced_fall hi.ready rfl (by rw [hg]; rfl) (by rw [hg]) (.inl rfl)
  · rw [hkept, hup, hg]

theorem goesOn_of_addOp {g : Group} {o : OpBody} {up : Group → Group} (hlen : f.len = 4)
    (hb : body w = .done { g := g, post := fun t => t.addOp w.k w.n o }) (hg : g = { w.g with tlCnt := g.tlCnt, pend := g.pend })
    (hup : up w.g = { w.g with tlCnt := g.tlCnt }) :
    ∃ u g', exec i s = .next u ∧ OnlyGroupOp s u w.k g' w.n o ∧ GoesOn w up g' := by
  obtain ⟨u, g', hnext, hop, hgo, -⟩ := goesOn_pending_of_addOp (rs := []) hx hi hc hlen hb hg hup (List.forall_mem_nil _)
  exact ⟨u, g', hnext, hop, hgo⟩

end

end Sys2Proof.Machine
end

section
/-! Fences and `wait` (R64, R119, R386). -/
open Sys2Proof Sys2Proof.Machine
namespace Sys2Proof.Machine

/-- Every fence is the one operation with its scope. -/
theorem exec_fence (s : State) (e : Bool) : ∀ c ∈ fences, exec (c.1 e) s = .next (s.fence e c.2) := by
  simp only [fences, List.forall_mem_cons]
  exact ⟨rfl, rfl, rfl, rfl, rfl, List.forall_mem_nil _⟩

/-- Without the write-back of mode 1 a fence does no more than empty the L1 of its core (R119). -/
theorem State.fenceEffect_eq_l1Drop (s : State) (core : Nat) {sc : Scope} (h : ¬(sc = .sys ∧ s.regs.l2cfg.mode = true)) :
    s.fenceEffect core sc = if sc = .core then s else s.l1Drop (fun l => l.core == core) := by
  have hmode : (sc == .sys && s.regs.l2cfg.mode) = false := by simpa using h
  simp only [State.fenceEffect, hmode, Bool.false_eq_true, if_false, beq_iff_eq]

/-- Without that write-back no block and no byte changes, and beyond core scope no line of the core is left in its L1. -/
theorem State.fenceEffect_keeps (s : State) (core : Nat) {sc : Scope} (h : ¬(sc = .sys ∧ s.regs.l2cfg.mode = true)) :
    (s.fenceEffect core sc).blocks = s.blocks ∧ SameBytes s (s.fenceEffect core sc) ∧
      (sc ≠ .core → ∀ l ∈ (s.fenceEffect core sc).mem.l1, l.core ≠ core) := by
  rw [s.fenceEffect_eq_l1Drop core h]
  split
  · next hsc => exact ⟨rfl, fun _ _ => rfl, fun hne => absurd hsc hne⟩
  · exact ⟨rfl, fun _ _ => rfl, fun _ l hl => by simpa using (List.mem_filter.mp hl).2⟩

theorem State.op?_dropOp (s : State) (id : Nat) : (s.dropOp id).op? id = none := by
  refine List.find?_eq_none.mpr (fun o ho => ?_)
  simpa using (List.mem_filter.mp ho).2

/-- A change of a group changes the blocks at most. -/
theorem State.modGroup_frame (s : State) (k : GroupKey) (f : Group → Group) :
    s.modGroup k f = { s with blocks := (s.modGroup k f).blocks } := by
  unfold State.modGroup
  split <;> rfl

theorem Group.passSlot_slot (g : Group) (n len : Nat) : (g.passSlot n len).slot n = (g.slot n).pass len := by
  have h := g.slot_setSlot n ((g.slot n).pass len)
  unfold Group.passSlot
  dsimp only
  split <;> exact h

theorem Group.passSlot_slot_sib (g : Group) (n len : Nat) : (g.passSlot n len).slot (sib n) = g.slot (sib n) := by
  have h := g.slot_setSlot_sib n ((g.slot n).pass len)
  unfold Group.passSlot
  dsimp only
  split <;> exact h

/-- Of the slots that pass, each goes on behind its instruction, whatever the other does. -/
theorem Group.foldl_passSlot_slot (g : Group) {n : Nat} {q : Nat → Bool} (hn : n < 2) (hq : q n = true) :
    (([0, 1].filter q).foldl (fun g n => g.passSlot n 4) g).slot n = (g.slot n).pass 4 := by
  have h01 : ∀ g : Group, (g.passSlot 0 4).slot 1 = g.slot 1 := fun g => g.passSlot_slot_sib 0 4
  have h10 : ∀ g : Group, (g.passSlot 1 4).slot 0 = g.slot 0 := fun g => g.passSlot_slot_sib 1 4
  obtain rfl | rfl : n = 0 ∨ n = 1 := by omega
  · cases h : q 1 <;> simp [hq, h, h10, Group.passSlot_slot]
  · cases h : q 0 <;> simp [hq, h, h01, Group.passSlot_slot]

/-- A group behind a fence: the slot that waited for it has gone on. -/
def Group.pastFence (g : Group) (id : Nat) : Group := g.passIf (fun r => r == .fence id)

theorem Slot.pass_of_wait {x : Slot} (h : x.st = .wait) (len : Nat) :
    (x.pass len).st = .ready ∧ (x.pass len).pc = x.pc + BitVec.ofNat 64 len := by
  rw [Slot.pass, if_pos h]
  exact ⟨rfl, rfl⟩

theorem Group.pastFence_regs (g : Group) (id : Nat) : SameRegs g (g.pastFence id) := by
  obtain ⟨_, _, _, _, h⟩ := g.passIf_wakesOnly (fun r => r == .fence id)
  rw [Group.pastFence, h]
  exact ⟨rfl, rfl, rfl, rfl, rfl⟩

/-- The slot that waited for a fence is Ready behind its four bytes (R119). -/
theorem Group.pastFence_slot {g : Group} {n id : Nat} (hn : n < 2) (hst : (g.slot n).st = .wait) (hw : (g.slot n).wait = some (.fence id)) :
    ((g.pastFence id).slot n).st = .ready ∧ ((g.pastFence id).slot n).pc = (g.slot n).pc + 4 := by
  have hpass : (g.pastFence id).slot n = (g.slot n).pass 4 := g.foldl_passSlot_slot hn (by simp [hst, hw])
  rw [hpass]
  exact Slot.pass_of_wait hst 4

/-- A fence that is released completes: its effect, its work gone, its slot behind it (R119). -/
theorem State.fenceDone?_of_released {s : State} {o : Op} {sc : Scope} (hb : o.body = .fence sc) (h : s.released o sc = true) :
    s.fenceDone? o = some (((s.fenceEffect (s.coreOf o.gk) sc).dropOp o.id).modGroup o.gk
      (fun g => g.pastFence o.id)) := by
  simp only [State.fenceDone?, hb, h, if_true, Group.pastFence]

theorem State.Lives.dropOp {s : State} {k : GroupKey} {P : Group → Prop} (h : s.Lives k P) (id : Nat) : (s.dropOp id).Lives k P :=
  State.Lives.releaseBlocks (s := { s with ops := s.ops.filter (fun o => !(o.id == id)) }) (h.of_blocks rfl)

theorem State.Lives.of_group {s : State} {k : GroupKey} {b : Block} {g : Group} (hb : s.block? k.block = some b) (hres : b.st = .resident)
    (hg : s.group? k = some g) : s.Lives k (· = g) := by
  obtain ⟨b', hb', hg'⟩ := State.group?_eq_some hg
  obtain rfl : b = b' := Option.some.inj (hb.symm.trans hb')
  exact ⟨b, g, hb, hres, hg', rfl⟩

end Sys2Proof.Machine

/-- Settles O5: a fence is one operation for the five scopes, at issue and at its completion; `wait` looks at the four counts. -/
theorem fencesAndWait : Obligations.FencesAndWait := by
  refine ⟨fun s w e c hmem hi hc => ?issue, fun s o sc hop hbody hrel hmode b g hb hres hg hst hwait hslot => ?complete,
    fun s w e l st c t hi hc => ?wait⟩
  case issue =>
    have hs := State.view?_state hi.view
    have hx := exec_fence s e c hmem
    have hgate : (w.s.fenceHolds w.k c.2 w.s.ops && !(c.2 == .sys && w.s.regs.l2cfg.mode)) = true ↔
        s.fenceHolds w.k c.2 s.ops = true ∧ ¬(c.2 = .sys ∧ s.regs.l2cfg.mode = true) := by
      simp only [hs, Bool.and_eq_true, Bool.not_eq_true', Bool.and_eq_false_imp, beq_iff_eq, not_and, Bool.not_eq_true]
    split
    · next h =>
      refine passesThen_of_post hx hi hc (if_pos (hgate.mpr h)) (fun u hu => ?_) (fun u => ?_) (fun u => ?_)
      · exact u.fenceEffect_eq_l1Drop w.g.core (hu ▸ h.2)
      · split <;> rfl
      · split <;> rfl
    · next h => exact stays_of_addOp hx hi hc ((if_neg (fun hh => h (hgate.mp hh))).trans (by rw [hs]))
  case complete =>
    have hlocal : ¬(sc = .sys ∧ s.regs.l2cfg.mode = true) := by
      rintro ⟨hsys, hm⟩
      simp [hsys, hm] at hmode
    have hcore : s.coreOf o.gk = g.core := by simp [State.coreOf, hg]
    obtain ⟨hblocks, hbytes, hl1⟩ := s.fenceEffect_keeps g.core hlocal
    have hx : exec (.fenceComplete o.id) s = .next (((s.op? o.id).bind s.fenceDone?).getD s) := rfl
    rw [hop, Option.bind_some, State.fenceDone?_of_released hbody hrel, hcore, State.modGroup_frame] at hx
    obtain ⟨g', hg', rfl⟩ := ((((State.Lives.of_group hb hres hg).of_blocks hblocks).dropOp o.id).modGroup
      (Q := (· = g.pastFence o.id)) (f := fun g => g.pastFence o.id) (fun h e => e ▸ rfl)).found
    obtain ⟨hready, hpc⟩ := Group.pastFence_slot hslot hst hwait
    exact ⟨_, _, hx, State.op?_dropOp _ o.id, hg', g.pastFence_regs o.id, hready, hpc, hbytes, hl1⟩
  case wait =>
    have hmet : w.g.countsMet (.counts l.toNat st.toNat c.toNat t.toNat) = true ↔
        w.g.ldCnt ≤ l.toNat ∧ w.g.stCnt ≤ st.toNat ∧ w.g.cpCnt ≤ c.toNat ∧ w.g.tlCnt ≤ t.toNat := by
      simp [Group.countsMet, and_assoc]
    split
    · next h => exact passesThen_of_post rfl hi hc (if_pos (hmet.mpr h)) (fun _ _ => rfl) (fun _ => rfl) (fun _ => rfl)
    · next h => exact waits_of_stay rfl hi hc (if_neg (fun hh => h (hmet.mp hh)))

end

section
/-! The matrix instructions of a group (R135, R261, R407 to R414). -/
open Sys2Proof Sys2Proof.Machine
namespace Sys2Proof.Machine

/-- What `accld` and `acczero` look at in turn: the mask, the tiles of the block, the tile count (R410, R411, R385). -/
theorem tileChecks_of_issue {i : Instr} {s : State} {f : Form} {bad cls : View → Bool} {body : View → Res} {w : View} {tile : Nat} {d : Done}
    (hx : exec i s = .next (s.issue f bad cls body)) (hi : s.Issues f bad cls w) (hc : w.Calm)
    (hb : body w = if w.act = 0 then .done w.doneNone else if w.b.tiles ≤ tile then .raise (.plain 0x10 w.n)
      else if 63 ≤ w.g.tlCnt then .wait (.count 3) else .done d) :
    (w.act = 0 → Passes i s w f.len) ∧ (w.act ≠ 0 → w.b.tiles ≤ tile → Raises i s w (.plain 0x10 w.n)) ∧
    (w.act ≠ 0 → tile < w.b.tiles → 63 ≤ w.g.tlCnt → exec i s = .next (s.cutRun w (.count 3))) ∧
    (w.act ≠ 0 → tile < w.b.tiles → w.g.tlCnt < 63 → body w = .done d) := by
  refine ⟨fun ha => passes_of_doneNone hx hi hc (hb.trans (if_pos ha)), fun ha ht => raises_of_raise hx hi ?_,
    fun ha ht hn => exec_of_wait hx hi ?_, fun ha ht hn => ?_⟩
  · rw [hb, if_neg ha, if_pos ht]
  · rw [hb, if_neg ha, if_neg (Nat.not_le.mpr ht), if_pos hn]
  · rw [hb, if_neg ha, if_neg (Nat.not_le.mpr ht), if_neg (Nat.not_le.mpr hn)]

end Sys2Proof.Machine

/-- Settles O19: each instruction looks at the mask, its operand and its count in turn, then goes on, sends its work or waits. -/
theorem matrixInstructions : Obligations.MatrixInstructions := by
  refine ⟨fun s w e b hi hc => ?mstart, fun s w e t b hi hc => ?accld, fun s w e b hi hc => ?acczero, fun s w e b hi hc => ?mcfg,
    fun s w e n hi hc => goesOn_of_addOp rfl hi hc rfl rfl rfl rfl, fun s w e n t hi hc => ?mbarWait⟩
  case mstart =>
    refine ⟨fun hva => raises_of_raise rfl hi (if_pos hva), fun hva x hseq => ?_⟩
    have hseq' : w.s.seqOfBlock w.k.block = some x := State.view?_state hi.view ▸ hseq
    refine ⟨fun hst => exec_of_wait rfl hi ((if_neg (not_not.mpr hva)).trans ?_), fun hst =>
      passesThen_of_post rfl hi hc ((if_neg (not_not.mpr hva)).trans ?_) (fun _ _ => rfl) (fun _ => rfl) (fun _ => rfl)⟩
    · simp only [hseq']
      exact if_pos (bne_iff_ne.mpr hst)
    · simp only [hseq']
      exact if_neg (by simp [hst])
  case accld =>
    obtain ⟨hoff, htile, hfull, hdone⟩ := tileChecks_of_issue (i := .accld e t b) rfl hi hc rfl
    exact ⟨hoff, htile, hfull, fun ha ht hn => goesOn_pending_of_addOp rfl hi hc rfl (hdone ha ht hn) rfl rfl
      (State.view?_state hi.view ▸ Group.markOp_pending _ _ _ _ _)⟩
  case acczero =>
    obtain ⟨hoff, htile, hfull, hdone⟩ := tileChecks_of_issue (i := .acczero e b) rfl hi hc rfl
    exact ⟨hoff, htile, hfull, fun ha ht hn => goesOn_of_addOp rfl hi hc rfl (hdone ha ht hn) rfl rfl⟩
  case mcfg =>
    exact ⟨fun ha => passes_of_doneNone rfl hi hc (if_pos ha), fun ha => goesOn_of_addOp rfl hi hc rfl (if_neg ha) rfl rfl⟩
  case mbarWait =>
    exact ⟨fun hph => passesThen_of_post rfl hi hc (if_pos (bne_iff_ne.mpr hph)) (fun _ _ => rfl) (fun _ => rfl) (fun _ => rfl),
      fun hph => waits_of_stay rfl hi hc (if_neg (not_not.mpr hph ∘ bne_iff_ne.mp))⟩

end

section
/-! The issue of copy commands (R148 to R155, R161, R163, R385, R388 to R390). -/
open Sys2Proof Sys2Proof.Machine
namespace Sys2Proof.Machine

/-! ### An instruction that raises counts and sends work off -/

/-- A group that differs from the issuing one in its counts, its ordinals and its pending registers. -/
def SentFrom (w : View) (g : Group) : Prop :=
  g = { w.g with ldCnt := g.ldCnt, stCnt := g.stCnt, cpCnt := g.cpCnt, tlCnt := g.tlCnt, ord := g.ord, pend := g.pend }

section
variable {w : View} {g : Group}

theorem SentFrom.slot (h : SentFrom w g) (n : Nat) : g.slot n = w.g.slot n := by
  rw [h]
  rfl

theorem SentFrom.icnt (h : SentFrom w g) : g.icnt = w.g.icnt := by rw [h]

theorem SentFrom.seen (h : SentFrom w g) : g.seen = w.g.seen := by rw [h]

variable {i : Instr} {s : State} {f : Form} {bad cls : View → Bool} {body : View → Res}
  (hx : exec i s = .next (s.issue f bad cls body)) (hi : s.Issues f bad cls w) (hc : w.Calm)
include hx hi hc

/-- An instruction that goes on, changes its group's counts and pending registers, and does one thing more beside the blocks. -/
theorem leaves_of_sent {p : State → State} (hb : body w = .done { g := g, post := p }) (hg : SentFrom w g)
    (ht : ∀ u, (p u).traces = u.traces) (hbl : ∀ u, (p u).blocks = u.blocks) :
    ∃ g', Leaves i s w g' p ∧ Advanced w f.len g' ∧ g' = { g with slot0 := g'.slot0, slot1 := g'.slot1, icnt := g'.icnt } := by
  refine ⟨_, leaves_of_done hx hi hc hb rfl ?_ ?_, advanced_fall hi.ready rfl (hg.slot _) hg.icnt (.inl rfl), leaves_regs rfl (.inl rfl)⟩
  · rw [State.Untraced, ht]
    exact State.placed_untraced (hc.untraced hi.view)
  · rw [State.Unlatched, hbl]
    exact s.placed_unlatched (Done.leaves_fall_latch rfl rfl w f)

end

/-! ### The fields of a command -/

theorem bitAt_eq (n i : Nat) : bitAt n i = n.testBit i := by
  rw [bitAt, bitsAt, Nat.testBit_eq_decide_div_mod_eq]
  rfl

/-- Every copy instruction is the one operation of issue with its command. -/
theorem exec_copy (s : State) (e : Bool) (t b : Opnd) :
    ∀ c ∈ copyInstrs, exec (c.1 e t b) s = .next (s.copyIssue e t b c.2.1 c.2.2.1 (fun w => c.2.2.2 w t b)) := by
  simp only [copyInstrs, List.forall_mem_cons]
  exact ⟨rfl, rfl, rfl, rfl, rfl, rfl, List.forall_mem_nil _⟩

/-- The command is sent: the copy count rises, and its token is pending (R148, R390). -/
theorem copy_sends {i : Instr} {s : State} {w : View} {e : Bool} {t b : Opnd} {n : Nat} {byRecord : Bool} {cmd : View → CopyCmd}
    (hx : exec i s = .next (s.copyIssue e t b n byRecord cmd)) (hi : s.Issues (copyForm e t b n) (fun _ => !opndRunOk b n) noCheck w)
    (hc : w.Calm) (ha : w.act ≠ 0) (hn : w.g.cpCnt < 63) (he : s.engineLoad (engineOf w.b.cluster) < 32)
    (hr : byRecord = false ∨ w.localReady (w.param b 0).toNat 64 = true) :
    ∃ g', Leaves i s w g' (fun u => { u with cmds := u.cmds ++ [cmd w], ids := u.ids + 1 }) ∧ Advanced w 4 g' ∧
      g' = { w.g with cpCnt := w.g.cpCnt + 1, pend := g'.pend, slot0 := g'.slot0, slot1 := g'.slot1, icnt := g'.icnt } ∧
      ∀ r, regOf w.g.hm t = some r → ∃ p ∈ g'.pend, p.reg = r ∧ p.kind = .token ∧ p.op = s.ids := by
  have hs := State.view?_state hi.view
  have hready : (byRecord && !w.localReady (w.param b 0).toNat 64) = false := by
    rcases hr with h | h <;> simp [h]
  have hg : SentFrom w ({ w.g with cpCnt := w.g.cpCnt + 1 }.markOp (regsOf w.g.hm [t]) .token s.ids false) := rfl
  obtain ⟨g', hl, hadv, hg'⟩ := leaves_of_sent (p := fun u => { u with cmds := u.cmds ++ [cmd w], ids := u.ids + 1 }) hx hi hc
    (by rw [if_neg ha, if_neg (Nat.not_le.mpr hn), hs, if_neg (Nat.not_le.mpr he), hready, if_neg Bool.false_ne_true])
    hg (fun _ => rfl) (fun _ => rfl)
  refine ⟨g', hl, hadv, by rw [hg']; rfl, fun r hr => ?_⟩
  rw [hg']
  exact Group.markOp_pending _ _ _ _ _ r (by simp only [regsOf, List.filterMap_cons, hr, List.mem_cons, true_or])

theorem bitAt_toNat_word (v : Word) (i : Nat) : bitAt v.toNat i = v.getLsbD i := bitAt_eq v.toNat i

theorem toNat_extractLsb'_word (v : Word) (lo n : Nat) : (v.extractLsb' lo n).toNat = bitsAt v.toNat lo n := by
  rw [BitVec.extractLsb'_toNat, Nat.shiftRight_eq_div_pow]
  rfl

/-- The flags word of a command, as a number, gives the bits that the spec names (R151). -/
theorem flagsOf_command (w : View) (kind : Nat) (t : Opnd) (dst src fut : DWord) (v : Word) (body : CopyBody) :
    FlagsOf (w.command kind t dst src v.toNat fut body) v :=
  ⟨bitAt_toNat_word v 0, bitAt_toNat_word v 2, bitAt_toNat_word v 3, (toNat_extractLsb'_word v 4 4).symm,
    (toNat_extractLsb'_word v 8 2).symm, bitAt_toNat_word v 10⟩

theorem freshCommand_command (w : View) (kind : Nat) (t : Opnd) (dst src fut : DWord) (flags : Nat) (body : CopyBody) :
    FreshCommand (w.command kind t dst src flags fut body) w t kind :=
  ⟨rfl, rfl, rfl, rfl, rfl, rfl, rfl, rfl, rfl, rfl, rfl, rfl, rfl⟩

theorem View.fillCommand_spec (w : View) (t b : Opnd) : FlagsOf (w.fillCommand t b) (w.param b 3) ∧ FreshCommand (w.fillCommand t b) w t 5 :=
  ⟨flagsOf_command w 5 t (w.param64 b 0) 0 (w.param64 b 5) (w.param b 3) (.fill (w.param b 2).toNat (w.param b 4)),
    freshCommand_command w 5 t (w.param64 b 0) 0 (w.param64 b 5) (w.param b 3).toNat (.fill (w.param b 2).toNat (w.param b 4))⟩

/-- A register of a parameter run that stays inside the S file. -/
theorem View.param_s (w : View) {n : Fin 64} {k : Nat} (h : n.val + k < 64) :
    w.param (.s n) k = w.sval (.s ⟨(n.val + k) % 64, Nat.mod_lt _ (by decide)⟩) := by
  simp only [View.param, opndPlus, dif_pos h, Nat.mod_eq_of_lt h]

/-! ### The fields of a record -/

/-- A field of a record read from local store is read from the bytes of the field. -/
theorem fieldAt_read (m : Memory) (a : Nat) {o n len : Nat} (h : o + n ≤ len) :
    fieldAt (m.read a len) o n = leNat ((upFrom (a + o) n).map m.get) := by
  refine congrArg leNat (List.ext_getElem ?_ ?_)
  · simp only [Memory.read, upFrom, List.length_take, List.length_drop, List.length_map, List.length_range]
    omega
  · intro j _ _
    simp only [Memory.read, upFrom, List.getElem_take, List.getElem_drop, List.getElem_map, List.getElem_range, Nat.add_assoc]

theorem leNat_lt (bs : List Byte) : leNat bs < 256 ^ bs.length := by
  induction bs with
  | nil => decide
  | cons b r ih =>
    have hb := b.isLt
    simp only [leNat, List.length_cons, pow_succ]
    omega

end Sys2Proof.Machine

/-- Settles O11: every copy instruction is the one operation of issue with its command; a command's fields are read off its parameters. -/
theorem copyCommandsIssue : Obligations.CopyCommandsIssue := by
  refine ⟨fun s w e t b c hmem hi hc => ?issue, fun w t n hn => ?lin, fun w t n hn => ?fill, fun w k t b => ?record, fun w k t b => ?refused⟩
  case issue =>
    have hx := exec_copy s e t b c hmem
    have hs := State.view?_state hi.view
    refine ⟨fun ha => passes_of_doneNone hx hi hc (if_pos ha), fun ha hn => exec_of_wait hx hi ?_, fun ha hn he => exec_of_wait hx hi ?_,
      copy_sends hx hi hc⟩
    · rw [if_neg ha, if_pos hn]
    · rw [if_neg ha, if_neg (Nat.not_le.mpr hn), hs, if_pos he]
  case lin =>
    have hq : ∀ k ≤ 7, w.param (.s n) k = w.sval (.s ⟨(n.val + k) % 64, Nat.mod_lt _ (by decide)⟩) :=
      fun k hk => w.param_s (by omega)
    simp only [← hq 0 (by decide), ← hq 1 (by decide), ← hq 2 (by decide), ← hq 3 (by decide), ← hq 4 (by decide), ← hq 5 (by decide),
      ← hq 6 (by decide), ← hq 7 (by decide)]
    exact ⟨rfl, rfl, rfl, flagsOf_command _ _ _ _ _ _ _ _, bitAt_toNat_word _ 1, rfl, freshCommand_command _ _ _ _ _ _ _ _⟩
  case fill =>
    have hq : ∀ k ≤ 6, w.param (.s n) k = w.sval (.s ⟨(n.val + k) % 64, Nat.mod_lt _ (by decide)⟩) :=
      fun k hk => w.param_s (by omega)
    simp only [← hq 0 (by decide), ← hq 1 (by decide), ← hq 2 (by decide), ← hq 3 (by decide), ← hq 4 (by decide), ← hq 5 (by decide),
      ← hq 6 (by decide)]
    obtain ⟨hflags, hfresh⟩ := w.fillCommand_spec t (.s n)
    exact ⟨rfl, rfl, hflags, rfl, hfresh⟩
  case record =>
    intro a f c hin hal
    have hf : ∀ o n, o + n ≤ 64 → fieldAt (w.b.loc.read a 64) o n = f o n := fun o n h => fieldAt_read w.b.loc a h
    have hcmd : c = w.command k t (BitVec.ofNat 64 (f 0 8)) (BitVec.ofNat 64 (f 8 8)) (BitVec.ofNat 32 (f 0x10 4)).toNat
        (BitVec.ofNat 64 (f 0x38 8)) (bodyOf k (w.b.loc.read a 64)) := by
      have hword : (BitVec.ofNat 32 (f 0x10 4)).toNat = f 0x10 4 :=
        Nat.mod_eq_of_lt ((leNat_lt _).trans_eq (by simp only [List.length_map, upFrom, List.length_range]; rfl))
      rw [hword, ← hf 0 8 (by decide), ← hf 8 8 (by decide), ← hf 0x10 4 (by decide), ← hf 0x38 8 (by decide)]
      exact (if_neg (Nat.not_lt.mpr hin)).trans (if_neg (not_not.mpr hal))
    rw [hcmd]
    refine ⟨rfl, rfl, flagsOf_command _ _ _ _ _ _ _ _, bitAt_toNat_word _ 1, rfl, freshCommand_command _ _ _ _ _ _ _ _, ?_, ?_, ?_, ?_⟩
    all_goals
      intro hk
      simp (disch := decide) only [View.command, bodyOf, hk, hf, if_true, if_false, Nat.reduceEqDiff]
  case refused =>
    constructor
    · intro hout
      simp only [View.recordCommand, if_pos hout]
      exact ⟨rfl, rfl, rfl, freshCommand_command _ _ _ _ _ _ _ _⟩
    · intro hin hal
      simp only [View.recordCommand, if_neg (Nat.not_lt.mpr hin), if_pos hal]
      exact ⟨rfl, rfl, rfl, freshCommand_command _ _ _ _ _ _ _ _⟩
end

section
/-! The issue of `binp`, `binrep` and `accum` (R167, R385, R391, R392, R404, R481). -/
open Sys2Proof Sys2Proof.Machine
namespace Sys2Proof.Machine

section
variable {i : Instr} {s : State} {f : Form} {bad cls : View → Bool} {body : View → Res} {w : View} {g : Group} {o : OpBody}
  (hx : exec i s = .next (s.issue f bad cls body)) (hi : s.Issues f bad cls w) (hc : w.Calm)
include hx hi hc

/-- An instruction that goes on, changes its group's counts and pending registers, and adds a piece of work. -/
theorem addsOp_of_sent (hb : body w = .done { g := g, post := fun t => t.addOp w.k w.n o }) (hg : SentFrom w g) :
    ∃ u g', exec i s = .next u ∧ OnlyGroupOp s u w.k g' w.n o ∧ Advanced w f.len g' ∧
      g' = { g with slot0 := g'.slot0, slot1 := g'.slot1, icnt := g'.icnt } := by
  obtain ⟨g', hl, hadv, hg'⟩ := leaves_of_sent hx hi hc hb hg (fun _ => rfl) (fun _ => rfl)
  obtain ⟨u, hnext, hop⟩ := hl.addOp (State.view?_group hi.view) (by rw [hg']; exact hg.seen)
  exact ⟨u, g', hnext, hop, hadv, hg'⟩

/-- An instruction that waits for the piece of work that it adds, with its group's counts changed. -/
theorem addsOp_of_stays {r : WaitReason} (hb : body w = .done { g := g, flow := .stay r, post := fun t => t.addOp w.k w.n o })
    (hg : SentFrom w g) : ∃ u g', exec i s = .next u ∧ OnlyGroupOp s u w.k g' w.n o ∧ Stays w r g' ∧
      g' = { g with slot0 := g'.slot0, slot1 := g'.slot1, icnt := g'.icnt } := by
  have hstay := Done.leaves_stay (d := { g := g, flow := .stay r, post := fun t => t.addOp w.k w.n o }) rfl w f
  have hslot := g.slot_setSlot w.n (w.waitingFor r)
  have hkeeps : (g.setSlot w.n (w.waitingFor r)).icnt = g.icnt ∧ (g.setSlot w.n (w.waitingFor r)).seen = g.seen := by
    rw [Group.setSlot_frame]
    exact ⟨rfl, rfl⟩
  obtain ⟨u, hnext, hop⟩ := onlyGroupOp_of_done hx hi hc hb rfl rfl (by rw [hstay, hslot]; rfl) (by rw [hstay, hkeeps.2, hg.seen])
  rw [hstay] at hop
  refine ⟨u, _, hnext, hop, ⟨?_, ?_, ?_, ?_, ?_, (g.slot_setSlot_sib _ _).trans (hg.slot _), hkeeps.1.trans hg.icnt⟩, ?_⟩
  · rw [hslot]; rfl
  · rw [hslot]; rfl
  · rw [hslot]; rfl
  · rw [hslot]; rfl
  · rw [hslot]; rfl
  · rw [Group.setSlot_frame]

/-- Work for the Cirque: in a reproducible context its slot waits for the append, else it goes on (R481). -/
theorem sendsToCirque_of_issue {up : Group → Group} (hlen : f.len = 4) (hg : SentFrom w (up w.g))
    (hb : body w = if w.c.repro then .done { g := up w.g, flow := .stay (.binFull w.s.ids), post := fun t => t.addOp w.k w.n o }
      else .done { g := up w.g, post := fun t => t.addOp w.k w.n o }) : SendsToCirque i s w up o := by
  by_cases hr : w.c.repro = true
  · rw [if_pos hr, State.view?_state hi.view] at hb
    obtain ⟨u, g', hnext, hop, hstay, hg'⟩ := addsOp_of_stays hx hi hc hb hg
    exact ⟨u, g', hnext, hop, hg', by rwa [if_pos hr]⟩
  · rw [if_neg hr] at hb
    obtain ⟨u, g', hnext, hop, hadv, hg'⟩ := addsOp_of_sent hx hi hc hb hg
    exact ⟨u, g', hnext, hop, hg', by rw [if_neg hr]; exact hlen ▸ hadv⟩

end

end Sys2Proof.Machine

/-- Settles O12: each instruction looks at the mask, its count and its descriptor in turn, then sends its work. -/
theorem cirqueInstructions : Obligations.CirqueInstructions := by
  refine ⟨fun s w e t b hi hc => ?binp, fun s w e t b hi hc => ?binrep, fun s w e b hi hc => ?accum⟩
  case binp =>
    refine ⟨fun ha => passes_of_doneNone rfl hi hc (if_pos ha), fun ha hn => exec_of_wait rfl hi ((if_neg ha).trans (if_pos hn)),
      fun ha hn hd => raises_of_raise rfl hi ?_, fun ha hn hd => sendsToCirque_of_issue rfl hi hc rfl rfl ?_⟩
    · exact (if_neg ha).trans ((if_neg (Nat.not_le.mpr hn)).trans (if_pos hd))
    · exact (if_neg ha).trans ((if_neg (Nat.not_le.mpr hn)).trans ((if_neg (not_not.mpr hd)).trans (by rw [State.view?_state hi.view]; rfl)))
  case binrep =>
    have hs := State.view?_state hi.view
    refine ⟨fun ha => passes_of_doneNone rfl hi hc (if_pos ha), fun ha hn => exec_of_wait rfl hi ((if_neg ha).trans (if_pos hn)),
      fun ha hn hd => raises_of_raise rfl hi ?_, fun ha hn hd => ?_⟩
    · exact (if_neg ha).trans ((if_neg (Nat.not_le.mpr hn)).trans (if_pos hd))
    · have hg : SentFrom w ({ w.g with cpCnt := w.g.cpCnt + 1 }.markOp (regsOf w.g.hm [t]) .token s.ids false) := rfl
      obtain ⟨u, g', hnext, hop, hadv, hg'⟩ := addsOp_of_sent (i := .binrep e t b) (o := .binrep (w.param64 b 0) w.g.hm t false []) rfl hi hc
        ((if_neg ha).trans ((if_neg (Nat.not_le.mpr hn)).trans ((if_neg (not_not.mpr hd)).trans (by rw [hs])))) hg
      refine ⟨u, g', hnext, hop, hadv, by rw [hg']; rfl, fun r hr => ?_⟩
      rw [hg']
      exact Group.markOp_pending _ _ _ _ _ r (by simp only [regsOf, List.filterMap_cons, hr, List.mem_cons, true_or])
  case accum =>
    exact ⟨fun ha => passes_of_doneNone rfl hi hc (if_pos ha), fun ha => sendsToCirque_of_issue rfl hi hc rfl rfl
      ((if_neg ha).trans (by rw [State.view?_state hi.view]; rfl))⟩

end

section
/-! What becomes of a group and of its block's local store when work of the group ends (R157, R198, R385). -/
open Sys2Proof Sys2Proof.Machine
namespace Sys2Proof.Machine

/-! ### A group of a resident block, followed through the steps of an end -/

/-- A block is on its cores and has a local store and, at the key's place, a group. -/
def State.Holding (s : State) (k : GroupKey) (m : Memory) (g : Group) : Prop :=
  ∃ b, s.block? k.block = some b ∧ b.st = .resident ∧ b.loc = m ∧ b.groups[k.index]? = some g

theorem State.Holding.of_block {s : State} {k : GroupKey} {b : Block} {g : Group} (hblock : s.block? k.block = some b) (hst : b.st = .resident)
    (hgroup : s.group? k = some g) : s.Holding k b.loc g := by
  obtain ⟨b', hb', hg⟩ := State.group?_eq_some hgroup
  cases hblock.symm.trans hb'
  exact ⟨b, hblock, hst, rfl, hg⟩

theorem State.Holds.holding {s : State} {o : Op} {b : Block} {g : Group} (h : s.Holds o b g) : s.Holding o.gk b.loc g :=
  .of_block h.block h.resident h.group

/-- The slots that wait for registers or counts that have arrived go on (R198, R385). -/
def Group.woken (g : Group) : Group := (g.wakeIf g.canWake).passIf g.countsMet

theorem Group.woken_wakesOnly (g : Group) : WakesOnly g g.woken := (g.wakeIf_wakesOnly _).trans (Group.passIf_wakesOnly _ _)

section
variable {s : State} {k : GroupKey} {m : Memory} {g : Group} (h : s.Holding k m g)
include h

theorem State.Holding.group : s.group? k = some g := by
  obtain ⟨b, hb, -, -, hg⟩ := h
  simp only [State.group?, hb, Option.bind_some, hg]

theorem State.Holding.loc : (s.block? k.block).map (·.loc) = some m := by
  obtain ⟨b, hb, -, hm, -⟩ := h
  rw [hb, Option.map_some, hm]

theorem State.Holding.of_blocks {t : State} (ht : t.blocks = s.blocks) : t.Holding k m g := by
  obtain ⟨b, hb, hrest⟩ := h
  exact ⟨b, by rw [State.block?, ht]; exact hb, hrest⟩

theorem State.Holding.putGroup (i : Group) : (s.putGroup k i).Holding k m i := by
  obtain ⟨b, hb, hst, hm, hg⟩ := h
  have hlt : k.index < b.groups.length := (List.getElem?_eq_some_iff.mp hg).1
  refine ⟨{ b with groups := b.groups.set k.index i }, ?_, hst, hm, by simp [hlt]⟩
  rw [State.block?_putGroup, hb, Option.map_some, if_pos (State.block?_serial hb)]

theorem State.Holding.modGroup (f : Group → Group) : (s.modGroup k f).Holding k m (f g) := by
  rw [State.modGroup_eq h.group]
  exact h.putGroup (f g)

theorem State.Holding.modLocal (f : Memory → Memory) : (s.modLocal k f).Holding k (f m) g := by
  obtain ⟨b, hb, hst, hm, hg⟩ := h
  refine ⟨{ b with loc := f b.loc }, ?_, hst, congrArg f hm, hg⟩
  rw [State.modLocal, State.block?_modBlock _ _ _ (fun b : Block => { b with loc := f b.loc }) (fun _ => rfl), hb, Option.map_some,
    if_pos (State.block?_serial hb)]

/-- A block on its cores is not forgotten. -/
theorem State.Holding.releaseBlocks : s.releaseBlocks.Holding k m g := by
  obtain ⟨b, hb, hst, hrest⟩ := h
  refine ⟨b, ?_, hst, hrest⟩
  obtain ⟨htest, before, after, hblocks, hbefore⟩ := List.find?_eq_some_iff_append.mp hb
  rw [State.block?, State.releaseBlocks, hblocks, List.filter_append, List.filter_cons_of_pos (by simp [hst])]
  exact List.find?_eq_some_iff_append.mpr ⟨htest, _, _, rfl, fun a ha => hbefore a (List.mem_of_mem_filter ha)⟩

theorem State.Holding.dropOp (id : Nat) : (s.dropOp id).Holding k m g := State.Holding.releaseBlocks (h.of_blocks rfl)

/-- The wake of a group on its cores: what happens to the group, to the core's L1, to nothing else (R128, R198). -/
theorem State.Holding.wakeGroup_eq : s.wakeGroup k = s.putGroup k g.woken ∨
    s.wakeGroup k = (s.putGroup k g.woken).l1Drop (fun l => l.core == g.core) := by
  have hg := h.group
  obtain ⟨b, hb, hst, -⟩ := h
  simp only [State.wakeGroup, hb, hg, if_pos hst]
  split
  · exact .inl rfl
  · exact .inr rfl

theorem State.Holding.wakeGroup : (s.wakeGroup k).Holding k m g.woken := by
  rcases h.wakeGroup_eq with e | e
  · exact e ▸ h.putGroup _
  · exact e ▸ (h.putGroup _).of_blocks rfl

theorem State.Holding.wakeGroup_bytes : SameBytes s (s.wakeGroup k) := by
  rcases h.wakeGroup_eq with e | e <;> exact e ▸ fun _ _ => rfl

theorem State.Holding.giveToken (hlive : g.ended = false) (id : Nat) (ws : List RegWrite) (f : Group → Group) :
    (s.giveToken k id ws f).Holding k m (f (((ws.foldl Group.writeReg g).noteTokens id).unpend id)).woken := by
  have hmod := h.modGroup (fun g => if g.ended then g else f (((ws.foldl Group.writeReg g).noteTokens id).unpend id))
  rw [if_neg (by rw [hlive]; exact Bool.false_ne_true)] at hmod
  exact hmod.wakeGroup

theorem State.Holding.modGroup_bytes (f : Group → Group) : SameBytes s (s.modGroup k f) := by
  rw [State.modGroup_eq h.group]
  exact fun _ _ => rfl

theorem State.Holding.giveToken_bytes (id : Nat) (ws : List RegWrite) (f : Group → Group) : SameBytes s (s.giveToken k id ws f) :=
  (h.modGroup_bytes _).trans (h.modGroup _).wakeGroup_bytes

end

theorem State.dropOp_bytes (s : State) (id : Nat) : SameBytes s (s.dropOp id) := fun _ _ => rfl

theorem State.l1Drop_bytes (s : State) (p : L1Line → Bool) : SameBytes s (s.l1Drop p) := fun _ _ => rfl

/-! ### What a token's arrival leaves of a group -/

/-- The group when the token of a piece of work has come. -/
def Group.tokened (g : Group) (id : Nat) (ws : List RegWrite) : Group := ((ws.foldl Group.writeReg g).noteTokens id).unpend id

theorem Group.tokened_frame (g : Group) (id : Nat) (ws : List RegWrite) : ∃ v s a p k pd tn,
    g.tokened id ws = { g with v := v, s := s, a := a, p := p, k := k, pend := pd, tokNew := tn } := by
  obtain ⟨_, _, _, _, _, hframe⟩ := g.writeRegs_frame ws
  rw [Group.tokened, hframe]
  exact ⟨_, _, _, _, _, _, _, rfl⟩

theorem Group.tokened_regs (g : Group) (id : Nat) (ws : List RegWrite) : SameRegs (ws.foldl Group.writeReg g) (g.tokened id ws) :=
  ⟨rfl, rfl, rfl, rfl, rfl⟩

theorem Group.tokened_pend (g : Group) (id : Nat) (ws : List RegWrite) : ∀ p ∈ (g.tokened id ws).pend, p.op ≠ id :=
  fun p hp => by simpa using (List.mem_filter.mp hp).2

theorem WakesOnly.regs {g h : Group} (e : WakesOnly g h) : SameRegs g h := by
  obtain ⟨_, _, _, _, rfl⟩ := e
  exact ⟨rfl, rfl, rfl, rfl, rfl⟩

theorem WakesOnly.counts {g h : Group} (e : WakesOnly g h) :
    h.ldCnt = g.ldCnt ∧ h.stCnt = g.stCnt ∧ h.cpCnt = g.cpCnt ∧ h.tlCnt = g.tlCnt ∧ h.pend = g.pend := by
  obtain ⟨_, _, _, _, rfl⟩ := e
  exact ⟨rfl, rfl, rfl, rfl, rfl⟩

/-! ### A slot that waits at a pop -/

/-- A slot whose reason a test does not take keeps waiting. -/
theorem Group.wakeIf_slot {g : Group} {n : Nat} {r : WaitReason} {p : WaitReason → Bool} (hw : (g.slot n).wait = some r) (hp : p r = false) :
    (g.wakeIf p).slot n = g.slot n := by
  unfold Group.slot at *
  simp only [Group.wakeIf]
  split <;> simp_all

theorem Group.passSlot_slot_ne (g : Group) {n m len : Nat} (hn : n < 2) (hm : m < 2) (h : n ≠ m) : (g.passSlot m len).slot n = g.slot n := by
  have hs : n = sib m := by
    unfold sib
    split <;> omega
  rw [hs]
  exact g.passSlot_slot_sib m len

theorem Group.passIf_slot {g : Group} {n : Nat} {r : WaitReason} {p : WaitReason → Bool} (hn : n < 2) (hw : (g.slot n).wait = some r)
    (hp : p r = false) : (g.passIf p).slot n = g.slot n := by
  have hmem : ∀ m ∈ g.slotsFor p, m < 2 ∧ m ≠ n := by
    intro m hm
    obtain ⟨hm2, htest⟩ := List.mem_filter.mp hm
    refine ⟨by simp at hm2; omega, ?_⟩
    rintro rfl
    simp [hw, hp] at htest
  unfold Group.passIf
  generalize g.slotsFor p = ns at hmem
  induction ns generalizing g with
  | nil => rfl
  | cons m ns ih =>
    have hm := hmem m List.mem_cons_self
    have hkeep := g.passSlot_slot_ne (len := 4) hn hm.1 (Ne.symm hm.2)
    exact (ih (hkeep ▸ hw) (fun x hx => hmem x (List.mem_cons_of_mem _ hx))).trans hkeep

theorem Group.woken_slot {g : Group} {n id : Nat} (hn : n < 2) (hw : (g.slot n).wait = some (.tqPop id)) : g.woken.slot n = g.slot n := by
  have hwake := Group.wakeIf_slot (p := g.canWake) hw rfl
  exact (Group.passIf_slot hn (hwake ▸ hw) rfl).trans hwake

end Sys2Proof.Machine
end

section
/-! Operations of the slice logic that are performed (R173, R176, R177, R397, R528). -/
open Sys2Proof Sys2Proof.Machine
namespace Sys2Proof.Machine

/-! ### The end of a transaction -/

/-- The words of an operation's token, from the bytes in hand. -/
def SliceOp.words (op : SliceOp) (x : SliceTxn) (repro : Bool) : List Word :=
  match op with
  | .freg _ _ => fregToken x.data repro
  | _ => x.tok

/-- The count that an operation lowers. -/
def SliceOp.lowers : SliceOp → Group → Group
  | .freg _ _ => Group.ldDone
  | .fpoll => Group.ldDone
  | .pop _ _ _ => id
  | _ => Group.stDone

/-- The local store that an operation leaves: a pop's record is in it. -/
def SliceOp.leavesLocal (op : SliceOp) (data : List Byte) (m : Memory) : Memory :=
  match op with
  | .pop dst none _ => m.write dst data
  | _ => m

/-- The group that an operation leaves: its token, its count, the slot behind a pop. -/
def SliceOp.leavesGroup (op : SliceOp) (id : Nat) (ws : List RegWrite) (g : Group) : Group :=
  (op.lowers (g.tokened id ws)).woken.passIf (fun r => r == .tqPop id)

/-- The state with a pop's record in local store (R397). -/
def State.sliceLocal (s : State) (k : GroupKey) (op : SliceOp) (data : List Byte) : State :=
  match op with
  | .pop dst none _ => s.modLocal k (fun m => m.write dst data)
  | _ => s

/-- The end of a transaction by its parts: the record, the token and the count, the slot behind a pop; an acquire drops the L1. -/
theorem State.sliceFinish_eq (s : State) (o : Op) (op : SliceOp) (x : SliceTxn) :
    let t := (((s.sliceLocal o.gk op x.data).giveToken o.gk o.id (tokenWrites x.hm x.t (op.words x (s.isRepro (s.asidOf o.gk)))) op.lowers).modGroup
      o.gk (fun g => g.passIf (fun r => r == .tqPop o.id))).dropOp o.id
    s.sliceFinish o op x = t ∨ ∃ p, s.sliceFinish o op x = t.l1Drop p := by
  cases op
  all_goals
    unfold State.sliceFinish
    dsimp only
    split
    · exact .inr ⟨_, rfl⟩
    · exact .inl rfl

theorem State.Holding.sliceLocal {s : State} {k : GroupKey} {m : Memory} {g : Group} (h : s.Holding k m g) (op : SliceOp) (data : List Byte) :
    (s.sliceLocal k op data).Holding k (op.leavesLocal data m) g := by
  unfold State.sliceLocal SliceOp.leavesLocal
  split
  · exact h.modLocal _
  · exact h

theorem State.sliceLocal_bytes (s : State) (k : GroupKey) (op : SliceOp) (data : List Byte) : SameBytes s (s.sliceLocal k op data) := by
  unfold State.sliceLocal
  split <;> exact fun _ _ => rfl

section
variable {s : State} {o : Op} {m : Memory} {g : Group} (h : s.Holding o.gk m g) (hlive : g.ended = false) (op : SliceOp) (x : SliceTxn)
include h hlive

/-- The end of a transaction leaves the operation's group and its block's local store as the operation says. -/
theorem State.Holding.sliceFinish : (s.sliceFinish o op x).Holding o.gk (op.leavesLocal x.data m)
    (op.leavesGroup o.id (tokenWrites x.hm x.t (op.words x (s.isRepro (s.asidOf o.gk)))) g) := by
  have hend := (((h.sliceLocal op x.data).giveToken hlive o.id (tokenWrites x.hm x.t (op.words x (s.isRepro (s.asidOf o.gk)))) op.lowers).modGroup
    (fun g => g.passIf (fun r => r == .tqPop o.id))).dropOp o.id
  rcases s.sliceFinish_eq o op x with e | ⟨p, e⟩
  · exact e ▸ hend
  · exact e ▸ hend.of_blocks rfl

theorem State.Holding.sliceFinish_bytes : SameBytes s (s.sliceFinish o op x) := by
  have hlocal := h.sliceLocal op x.data
  have htoken := hlocal.giveToken hlive o.id (tokenWrites x.hm x.t (op.words x (s.isRepro (s.asidOf o.gk)))) op.lowers
  have hend := (((s.sliceLocal_bytes o.gk op x.data).trans (hlocal.giveToken_bytes _ _ _)).trans
    (htoken.modGroup_bytes (fun g => g.passIf (fun r => r == .tqPop o.id)))).trans (State.dropOp_bytes _ o.id)
  rcases s.sliceFinish_eq o op x with e | ⟨p, e⟩
  · exact e ▸ hend
  · exact e ▸ hend.trans (State.l1Drop_bytes _ p)

end

theorem State.sliceFinish_op? (s : State) (o : Op) (op : SliceOp) (x : SliceTxn) : (s.sliceFinish o op x).op? o.id = none := by
  rcases s.sliceFinish_eq o op x with e | ⟨p, e⟩
  · exact e ▸ State.op?_dropOp _ _
  · exact e ▸ State.op?_dropOp _ _

/-- The registers, the pending marks and the counts of the group that an operation leaves. -/
theorem SliceOp.leavesGroup_spec (op : SliceOp) (id : Nat) (ws : List RegWrite) (g : Group) :
    let g' := op.leavesGroup id ws g
    SameRegs (ws.foldl Group.writeReg g) g' ∧ (∀ p ∈ g'.pend, p.op ≠ id) ∧
      g'.ldCnt = (op.lowers g).ldCnt ∧ g'.stCnt = (op.lowers g).stCnt := by
  have hwakes : WakesOnly (op.lowers (g.tokened id ws)) (op.leavesGroup id ws g) :=
    (Group.woken_wakesOnly _).trans (Group.passIf_wakesOnly _ _)
  obtain ⟨hld, hst, -, -, hpend⟩ := hwakes.counts
  have hlow : SameRegs (g.tokened id ws) (op.lowers (g.tokened id ws)) ∧ (op.lowers (g.tokened id ws)).pend = (g.tokened id ws).pend := by
    cases op <;> exact ⟨⟨rfl, rfl, rfl, rfl, rfl⟩, rfl⟩
  obtain ⟨_, _, _, _, _, _, _, hframe⟩ := g.tokened_frame id ws
  refine ⟨((g.tokened_regs id ws).trans hlow.1).trans hwakes.regs, ?_, hld.trans ?_, hst.trans ?_⟩
  · rw [hpend, hlow.2]
    exact g.tokened_pend id ws
  · rw [hframe]
    cases op <;> rfl
  · rw [hframe]
    cases op <;> rfl

/-- The slot that waits for a pop stands behind it, Ready, once the pop is performed (R397). -/
theorem SliceOp.leavesGroup_slot (op : SliceOp) {id n : Nat} (ws : List RegWrite) {g : Group} (hn : n < 2) (hst : (g.slot n).st = .wait)
    (hw : (g.slot n).wait = some (.tqPop id)) :
    ((op.leavesGroup id ws g).slot n).st = .ready ∧ ((op.leavesGroup id ws g).slot n).pc = (g.slot n).pc + 4 := by
  have hlow : (op.lowers (g.tokened id ws)).slot n = g.slot n := by
    obtain ⟨_, _, _, _, _, _, _, hframe⟩ := g.tokened_frame id ws
    rw [hframe]
    cases op <;> rfl
  have hwoken : (op.lowers (g.tokened id ws)).woken.slot n = g.slot n := (Group.woken_slot hn (hlow ▸ hw)).trans hlow
  have hpass : (op.leavesGroup id ws g).slot n = (g.slot n).pass 4 := by
    rw [← hwoken]
    exact Group.foldl_passSlot_slot _ hn (by simp [hwoken, hst, hw])
  rw [hpass]
  exact Slot.pass_of_wait hst 4

/-! ### The performance of an operation -/

/-- The step that performs an operation is the one that its constructor names. -/
theorem exec_performs {s : State} {o : Op} {op : SliceOp} {x : SliceTxn} {i : Instr} (hi : Performs i o.id op) (ho : s.op? o.id = some o)
    (hb : o.body = .slice op x) : exec i s = .next ((s.slice? o).getD s) := by
  have hof : ∀ p : SliceOp → Bool, p op = true → s.sliceOf o.id p = s.slice? o := by
    intro p hp
    simp only [State.sliceOf, ho, Option.bind_some, hb, hp, if_true]
  cases op
  all_goals
    rw [show i = _ from hi]
    exact congrArg (fun y : Option State => Host.Outcome.next (y.getD s)) (hof _ rfl)

/-- An operation whose word is free and whose accesses all go through is brought to its end. -/
theorem State.slice?_done {s s1 : State} {o : Op} {op : SliceOp} {x : SliceTxn} {acts : List SliceAct} {tok : List Word}
    (hb : o.body = .slice op x) (hmay : s.sliceMay o op x = true) (hnew : x.started = false) (hfree : s.queueHeld o.id x.place = false)
    (hline : s.lineStatus (s.sliceWho o x).agent true x.place = .ok) (hgood : s.poisonAt (s.sliceWho o x).agent x.place = false)
    (hgo : (s.sysRelease ⟨some (s.asidOf o.gk), op.releases && x.place.kind.isHost⟩).sliceStart (s.sliceWho o x) o op x = .go s1 acts tok)
    (hfin : (State.sliceActs o.id (s.sliceWho o x) (2 * acts.length + 16) s1 x.data acts).fin = .done) :
    let r := State.sliceActs o.id (s.sliceWho o x) (2 * acts.length + 16) s1 x.data acts
    s.slice? o = some (r.s.sliceFinish o op { x with started := true, acts := r.acts, data := r.data, tok := tok }) := by
  unfold State.sliceWho at *
  simp only [State.slice?, hb, hmay, hnew, hfree, hline, hgood, hgo, Bool.not_true, Bool.false_eq_true, if_false, State.sliceGo, hfin]

end Sys2Proof.Machine

/-- Settles O14: the transaction runs to its end in one step, and its end gives the token, lowers the count and lets the slot go on. -/
theorem sliceOperationsPerformed : Obligations.SliceOperationsPerformed := by
  intro s o b g op x i h hi hb hmay hnew hfree hline hgood s1 acts tok hgo r words hfin hblocks1 hblocks
  have hdone := State.slice?_done hb hmay hnew hfree hline hgood hgo hfin
  have hold : r.s.Holding o.gk b.loc g := h.holding.of_blocks hblocks
  have hend := hold.sliceFinish h.live op { x with started := true, acts := r.acts, data := r.data, tok := tok }
  have hwords : op.words { x with started := true, acts := r.acts, data := r.data, tok := tok } (r.s.isRepro (r.s.asidOf o.gk)) = words := by
    have hasid : r.s.asidOf o.gk = s.asidOf o.gk := by simp only [State.asidOf, State.block?, hblocks]
    rw [hasid]
    cases op <;> rfl
  rw [hwords] at hend
  obtain ⟨hregs, hpend, hld, hst⟩ := op.leavesGroup_spec o.id (tokenWrites x.hm x.t words) g
  refine ⟨_, _, (exec_performs hi h.op hb).trans (next_getD hdone), State.sliceFinish_op? _ _ _ _, hend.group, hregs, hpend,
    hold.sliceFinish_bytes h.live op _, ?_⟩
  cases op with
  | freg _ _ => exact hld
  | fpoll => exact hld
  | fres _ _ => exact hst
  | push _ _ => exact hst
  | pop dst bad tail =>
    refine ⟨hend.loc.trans ?_, fun n => SliceOp.leavesGroup_slot _ _ n.isLt⟩
    cases bad <;> rfl
end

section
/-! Futures and task queues: what the operations do to a word and a descriptor (R171, R173, R176, R177, R393 to R397). -/
open Sys2Proof Sys2Proof.Machine
namespace Sys2Proof.Machine

/-! ### Words -/

theorem toNat_extractLsb'_dword (v : DWord) (lo n : Nat) : (v.extractLsb' lo n).toNat = bitsAt v.toNat lo n := by
  rw [BitVec.extractLsb'_toNat, Nat.shiftRight_eq_div_pow]
  rfl

theorem word_of_bitsAt (v : DWord) (lo : Nat) : BitVec.ofNat 32 (bitsAt v.toNat lo 32) = v.extractLsb' lo 32 := by
  rw [← toNat_extractLsb'_dword, BitVec.ofNat_toNat, BitVec.setWidth_eq]

theorem leNat_leBytes (n v : Nat) : leNat (leBytes n v) = v % 256 ^ n := by
  induction n generalizing v with
  | zero => simp [leBytes, leNat, Nat.mod_one]
  | succ n ih =>
    simp only [leBytes, leNat, ih, BitVec.toNat_ofNat]
    exact (Nat.mod_mul (a := 256)).symm.trans (by rw [pow_succ'])

theorem leBytes_ne_nil (n v : Nat) : leBytes (n + 1) v ≠ [] := List.cons_ne_nil _ _

/-! ### What a change of a context's bookkeeping leaves -/

theorem State.confine_modCtx (s : State) (n : Nat) (f : Ctx → Ctx) (a : Agent) (hid : ∀ c, (f c).asid = c.asid)
    (hpart : ∀ c, (f c).part = c.part) : (s.modCtx n f).confine a = s.confine a := by
  have hctx : ∀ m, ((s.modCtx n f).ctx? m).map (·.part) = (s.ctx? m).map (·.part) := fun m => by
    rw [State.ctx?_modCtx s n m f hid, Option.map_map]
    congr 1
    funext c
    exact (apply_ite Ctx.part _ _ _).trans (by rw [hpart, ite_self])
  unfold State.confine
  cases a.asid with
  | none => rfl
  | some m => simp only [Option.bind_some, hctx]; rfl

theorem State.viaOf_modCtx (s : State) (n : Nat) (f : Ctx → Ctx) (a : Agent) (pa : Nat) (hid : ∀ c, (f c).asid = c.asid)
    (hpart : ∀ c, (f c).part = c.part) : (s.modCtx n f).viaOf a pa = s.viaOf a pa := by
  unfold State.viaOf
  rw [s.confine_modCtx n f a hid hpart]
  rfl

theorem State.viewLine_modCtx (s : State) (n : Nat) (f : Ctx → Ctx) (a : Agent) (pa : Nat) (hid : ∀ c, (f c).asid = c.asid)
    (hpart : ∀ c, (f c).part = c.part) : (s.modCtx n f).viewLine a pa = s.viewLine a pa := by
  unfold State.viewLine State.viewSlice
  rw [s.viaOf_modCtx n f _ pa hid hpart]
  rfl

theorem State.sameBytes_modCtx (s : State) (n : Nat) (f : Ctx → Ctx) (hid : ∀ c, (f c).asid = c.asid)
    (hpart : ∀ c, (f c).part = c.part) : SameBytes s (s.modCtx n f) := fun a l => by
  unfold State.byteAt State.rdcPart
  rw [s.viaOf_modCtx n f a l.pa hid hpart, s.confine_modCtx n f a hid hpart, s.viewLine_modCtx n f a l.pa hid hpart]
  rfl
/-! ### Operations on a future -/

theorem State.homeWrite_frame (s : State) (a : Agent) (l : Loc) (bs : List Byte) : MemFrame s (s.homeWrite a l bs) := by
  unfold State.homeWrite
  split
  · exact s.peerHomeWrite_frame _
  · exact s.writeBytes_frame _ _ _

theorem State.homeWrite_listWalks (s : State) (a : Agent) (l : Loc) (bs : List Byte) : (s.homeWrite a l bs).listWalks = s.listWalks := by
  obtain ⟨_, _, _, _, hframe⟩ := s.homeWrite_frame a l bs
  rw [hframe]

/-- What a poll answers (R393). -/
theorem State.sliceStart_fpoll (s : State) (w : SliceWho) (o : Op) (x : SliceTxn) : let v := s.wordAt w.agent x.place
    s.sliceStart w o .fpoll x = .go s [] (if (v.extractLsb' 0 2).toNat < 2 then [0x80000000 + (v.extractLsb' 0 2).setWidth 32, 0]
      else [0x80000002, v.extractLsb' 32 32]) := by
  intro v
  have hstart : s.sliceStart w o .fpoll x = .go s [] [0x80000000 + BitVec.ofNat 32 (min (bitsAt v.toNat 0 2) 2),
      if min (bitsAt v.toNat 0 2) 2 = 2 then BitVec.ofNat 32 (bitsAt v.toNat 32 32) else 0] := rfl
  rw [hstart, ← toNat_extractLsb'_dword, word_of_bitsAt]
  generalize v.extractLsb' 0 2 = st
  by_cases hlt : st.toNat < 2
  · rw [if_pos hlt, Nat.min_eq_left hlt.le, if_neg hlt.ne, BitVec.ofNat_toNat]
  · have htwo : (0x80000000 + BitVec.ofNat 32 2 : Word) = 0x80000002 := by decide
    rw [if_neg hlt, Nat.min_eq_right (Nat.not_lt.mp hlt), if_pos rfl, htwo]

/-- A resolution of a word that is resolved is refused (R394). -/
theorem State.sliceStart_fres_refused {s : State} {w : SliceWho} {x : SliceTxn} (o : Op) (val : Word) (pc : DWord)
    (hv : 2 ≤ ((s.wordAt w.agent x.place).extractLsb' 0 2).toNat) :
    s.sliceStart w o (.fres val pc) x = .refuse { code := 0x19, sub := 0, tval := pc.setWidth 32, slot := o.slot } := by
  rw [toNat_extractLsb'_dword] at hv
  simp only [State.sliceStart, if_pos hv]

/-- A resolution writes the value and state 2, and starts the walk of a wait list (R173, R174). -/
theorem State.sliceStart_fres {s : State} {w : SliceWho} {x : SliceTxn} (o : Op) (val : Word) (pc : DWord)
    (hv : ¬ 2 ≤ ((s.wordAt w.agent x.place).extractLsb' 0 2).toNat) :
    ∃ s1, s.sliceStart w o (.fres val pc) x = .go s1 [] [0x80000000] ∧
      SameBytes (s.homeWrite w.agent x.place (leBytes 8 (2 + val.toNat * 2 ^ 32))) s1 ∧
      (if ((s.wordAt w.agent x.place).extractLsb' 0 2).toNat = 1 then s1.listWalks.length = s.listWalks.length + 1
        else s1.listWalks = s.listWalks) := by
  rw [toNat_extractLsb'_dword] at hv ⊢
  have hkept := s.homeWrite_listWalks w.agent x.place (leBytes 8 (2 + val.toNat * 2 ^ 32))
  by_cases hone : bitsAt (s.wordAt w.agent x.place).toNat 0 2 = 1
  · have hresolve := fun launch => show s.resolve? w.asid launch x.place val = _ from (if_neg hv).trans (congrArg some (if_pos hone))
    simp only [State.sliceStart, if_neg hv, hresolve, if_pos hone]
    exact ⟨_, rfl, fun _ _ => rfl, (List.length_append).trans (congrArg (·.length + 1) hkept)⟩
  · have hresolve := fun launch => show s.resolve? w.asid launch x.place val = _ from (if_neg hv).trans (congrArg some (if_neg hone))
    simp only [State.sliceStart, if_neg hv, hresolve, if_neg hone]
    exact ⟨_, rfl, fun _ _ => rfl, hkept⟩

/-- A registration on a resolved word takes the value and lowers JOIN (R393). -/
theorem State.sliceAct_regist_resolved {s : State} {w : SliceWho} {l : Loc} (id : Nat) (data : List Byte) (rcd : DWord) (slot : Nat)
    (hline : s.lineStatus w.agent true l = .ok) (hv : 2 ≤ ((s.wordAt w.agent l).extractLsb' 0 2).toNat) :
    s.sliceAct id w data (.regist l rcd slot) = (s,
      [.put (rcd + BitVec.ofNat 64 (0x18 + 4 * slot)) (leBytes 4 ((s.wordAt w.agent l).extractLsb' 32 32).toNat) true, .lower rcd],
      leBytes 4 ((s.wordAt w.agent l).extractLsb' 32 32).toNat, .done) := by
  rw [toNat_extractLsb'_dword] at hv ⊢
  simp only [State.sliceAct, hline, if_pos hv, recField]

/-- A registration on a word that is not resolved writes the record's link word, then the word (R171, R173). -/
theorem State.sliceAct_regist_link {s s1 : State} {w : SliceWho} {l k : Loc} (id : Nat) (data : List Byte) (rcd : DWord) (slot : Nat)
    (hline : s.lineStatus w.agent true l = .ok) (hv : ((s.wordAt w.agent l).extractLsb' 0 2).toNat < 2)
    (hx : s.sliceXlate w (rcd + BitVec.ofNat 64 (0x40 + 8 * slot)) .store true = (.inr k, s1)) :
    let v := s.wordAt w.agent l
    let link := if (v.extractLsb' 0 2).toNat = 1 then (v.extractLsb' 2 48).toNat * 64 + (v.extractLsb' 50 3).toNat else 0
    ∃ u, s.sliceAct id w data (.regist l rcd slot) = (u, [], [], .done) ∧
      SameBytes ((s1.homeWrite w.agent k (leBytes 8 link)).homeWrite w.agent l (leBytes 8 (regWord rcd slot))) u := by
  simp only [toNat_extractLsb'_dword] at hv ⊢
  simp only [State.sliceAct, hline, if_neg (Nat.not_le.mpr hv), recField, hx, linkOf]
  exact ⟨_, rfl, State.sameBytes_modCtx _ _ _ (fun _ => rfl) (fun _ => rfl)⟩

/-- The token of a registration: 0x80000000 of one that is linked, 0x80000001 with the value of a word that was resolved (R173). -/
theorem fregToken_value (v : Word) : fregToken (leBytes 4 v.toNat) false = [0x80000001, v] := by
  have hlt : v.toNat < 256 ^ 4 := v.isLt
  rw [fregToken, if_neg (by simpa using leBytes_ne_nil 3 v.toNat), leNat_leBytes, Nat.mod_eq_of_lt hlt, BitVec.ofNat_toNat, BitVec.setWidth_eq]

/-! ### Pushes -/

/-- Outside reproducible contexts no event of the dispatch trace is asked for and none is noted (R479). -/
theorem State.dtAsk_free {s : State} {asid : Nat} (hr : s.isRepro asid = false) (st : Stream) (mine : List Byte → Bool) :
    s.dtAsk asid st mine = .free := by
  unfold State.dtAsk
  split
  next c hc =>
    have hc' : c.repro = false := by simpa [State.isRepro, hc] using hr
    split
    · exact if_pos (by simp [hc'])
    · rfl
  next => rfl

theorem State.dtNote_free {s : State} {asid : Nat} (hr : s.isRepro asid = false) (st : Stream) (e : List Byte) : s.dtNote asid st e = s := by
  cases hc : s.ctx? asid with
  | none => simp [State.dtNote, hc]
  | some c => exact State.dtNote_of_free hc (by simpa [State.isRepro, hc] using hr) st e

theorem QueueDesc.capOk_iff (q : QueueDesc) : q.capOk = true ↔ 4 ≤ q.caplog ∧ q.caplog ≤ 24 := by
  simp [QueueDesc.capOk]

/-- A push outside reproducible contexts, by what the descriptor holds (R177). -/
theorem State.sliceStart_push {s : State} {w : SliceWho} (o : Op) (x : SliceTxn) (recs : List (List Byte)) (hr : s.isRepro w.asid = false) :
    let q := s.queueDesc w.agent x.place
    s.sliceStart w o (.push recs none) x = if ¬ (4 ≤ q.caplog ∧ q.caplog ≤ 24) then .go s [] [0x80000003]
      else if 2 ^ q.caplog < q.count + recs.length then .go s [] [0x80000006]
      else .go s ((upFrom 0 recs.length).map (fun j => SliceAct.put (q.slotVa (q.tail + j)) (recs.getD j []) false) ++
        [.store (x.place.add 0x18) (leBytes 8 (q.tail + recs.length))]) [0x80000000] := by
  intro q
  simp only [State.sliceStart, State.pushStart, State.dtAsk_free hr, State.dtNote_free hr, storeField, ← QueueDesc.capOk_iff, Bool.not_eq_true',
    Bool.not_eq_true, q]

theorem getElem?_upFrom_map {α : Type} (n j : Nat) (f : Nat → α) (hj : j < n) : ((upFrom 0 n).map f)[j]? = some (f j) := by
  simp [upFrom, hj]

/-- R171, R173, R176, R177, R393 to R397: the operations on a word and a descriptor. -/
theorem futuresAndQueues_holds : Part.FuturesAndQueues := by
  refine ⟨fun s w o x => s.sliceStart_fpoll w o x, fun s w o x val pc => ?_, fun _ _ _ _ _ _ => rfl,
    fun s id w data l rcd slot hline => ⟨State.sliceAct_regist_resolved id data rcd slot hline,
      fun hv s1 k hx => State.sliceAct_regist_link id data rcd slot hline hv hx⟩,
    ⟨rfl, fun data => by simp [fregToken], fregToken_value⟩, fun s w o x recs hr => ?_⟩
  · intro v
    have hword : s.wordAt w.agent x.place = v := rfl
    clear_value v
    by_cases hv : 2 ≤ (v.extractLsb' 0 2).toNat
    · rw [if_pos hv]
      exact State.sliceStart_fres_refused o val pc (hword ▸ hv)
    · rw [if_neg hv]
      exact hword ▸ State.sliceStart_fres o val pc (hword ▸ hv)
  · have hpush := State.sliceStart_push o x recs hr
    refine ⟨fun hcap hfull => ?_, fun hcap => ?_, fun hcap hroom => ?_⟩
    · rw [hpush, if_neg (not_not.mpr hcap), if_pos hfull]
    · rw [hpush, if_pos (by omega)]
    · rw [hpush, if_neg (not_not.mpr hcap), if_neg (Nat.not_lt.mpr hroom)]
      refine ⟨s, _, rfl, by simp [upFrom], fun j rec hj => ?_⟩
      obtain ⟨hlt, hget⟩ := List.getElem?_eq_some_iff.mp hj
      rw [getElem?_upFrom_map _ _ _ hlt, List.getD_eq_getElem?_getD, hj]
      rfl

end Sys2Proof.Machine
end

section
/-! The wake of a pop and the walk of a wait list (R174, R397, R463). -/
open Sys2Proof Sys2Proof.Machine
namespace Sys2Proof.Machine

/-- An operation whose body is replaced is found with its new body. -/
theorem State.op?_setOp {s : State} {id : Nat} {o : Op} (ho : s.op? id = some o) (body : OpBody) :
    (s.setOp id body).op? id = some { o with body := body } := by
  have hid : o.id = id := by simpa using List.find?_some ho
  have hfind := List.find?_map_same s.ops (fun p : Op => p.id = id) (fun p => p.id = id) (fun p => { p with body := body })
    (fun _ h => h) (fun _ h => h)
  simp only [State.op?, State.setOp, beq_eq_decide] at ho ⊢
  rw [hfind, ho, Option.map_some, if_pos hid]

/-! ### The wake of a pop -/

theorem exec_tqPopWake {s t : State} {o : Op} (ho : s.op? o.id = some o) (hwake : s.popWake? o = some t) :
    exec (.tqPopWake o.id) s = .next t :=
  next_getD (by rw [ho, Option.bind_some, hwake])

/-- A pop of a block on its core tries again when TAIL has changed (R397). -/
theorem State.popWake?_resident {s : State} {o : Op} {b : Block} {x : SliceTxn} {dst t : Nat} {bad : Option Word}
    (hblock : s.block? o.gk.block = some b) (hst : b.st = .resident) (hbody : o.body = .slice (.pop dst bad (some t)) x)
    (htail : (s.queueDesc (Agent.ctx (s.asidOf o.gk)) x.place).tail ≠ t) :
    s.popWake? o = some (s.slicePut o (.pop dst bad none) x) := by
  simp only [State.popWake?, hbody, if_neg htail, hblock, hst, beq_self_eq_true, if_true]

/-- Of a block that is off its core the wake is latched (R463). -/
theorem State.popWake?_away {s : State} {o : Op} {b : Block} {x : SliceTxn} {dst t : Nat} {bad : Option Word}
    (hblock : s.block? o.gk.block = some b) (hst : b.st ≠ .resident) (hwoken : b.woken = false)
    (hbody : o.body = .slice (.pop dst bad (some t)) x) (htail : (s.queueDesc (Agent.ctx (s.asidOf o.gk)) x.place).tail ≠ t) :
    s.popWake? o = some (s.modBlock b.serial (fun b => { b with woken := true })) := by
  simp only [State.popWake?, hbody, if_neg htail, hblock, beq_eq_false_iff_ne.mpr hst, hwoken, Bool.false_eq_true, if_false]

/-! ### The walk of a wait list -/

theorem find?_map_put {l : List ListWalk} {id : Nat} {x y : ListWalk} (hx : l.find? (fun z => z.id == id) = some x) (hy : y.id = id) :
    (l.map (fun z => if z.id = id then y else z)).find? (fun z => z.id == id) = some y := by
  induction l with
  | nil => cases hx
  | cons z l ih =>
    by_cases hz : z.id = id
    · simp [hz, hy]
    · simp only [List.find?_cons, beq_eq_false_iff_ne.mpr hz] at hx
      simp [hz, ih hx]

/-- A walk whose next is 0 ends (R174). -/
theorem State.listStep?_end {s : State} {x : ListWalk} (hx : s.listWalks.find? (fun y => y.id == x.id) = some x) (hgo : x.stopped = false)
    (hnext : x.next = 0) (hacts : x.acts = []) :
    s.listStep? x.id = some { s with listWalks := s.listWalks.filter (fun y => !(y.id == x.id)) } := by
  simp [State.listStep?, hx, hgo, hnext, hacts]

/-- The accesses of a visit: the link, VAL, JOIN (R174). -/
def ListWalk.visitActs (x : ListWalk) : List SliceAct :=
  let rcd := BitVec.ofNat 64 (bitsAt x.next.toNat 6 48 * 64)
  let slot := bitsAt x.next.toNat 0 3
  [.link rcd slot, .put (rcd + BitVec.ofNat 64 (0x18 + 4 * slot)) (leBytes 4 x.val.toNat) true, .lower rcd]

/-- Who visits a record. -/
def State.visitor (s : State) (x : ListWalk) : SliceWho := { asid := x.asid, slice := x.slice, hm := false, launch := s.launch? x.launch }

/-- A walk after a visit: at the link word that the visit read. -/
def ListWalk.visited (x : ListWalk) (data : List Byte) : ListWalk := { x with acts := [], data := [], next := BitVec.ofNat 64 (leNat data) }

/-- A visit that comes through goes on to the link (R174). -/
theorem State.listStep?_visit {s : State} {x : ListWalk} {r : SliceRun} (hx : s.listWalks.find? (fun y => y.id == x.id) = some x)
    (hgo : x.stopped = false) (hnext : x.next ≠ 0) (hacts : x.acts = [])
    (hr : State.sliceActs x.id (s.visitor x) 32 s x.data x.visitActs = r) (hfin : r.fin = .done) :
    ∃ f : Ctx → Ctx, (∀ c, (f c).asid = c.asid ∧ (f c).part = c.part) ∧ s.listStep? x.id = some { r.s.modCtx x.asid f with
      listWalks := r.s.listWalks.map (fun z => if z.id = x.id then x.visited r.data else z) } := by
  have hend : (decide (x.next = 0) && decide (x.acts = [])) = false := by rw [decide_eq_false hnext, Bool.false_and]
  refine ⟨fun c => { c with conts := c.conts.eraseP (fun y => y.2 == x.next.toNat) }, fun _ => ⟨rfl, rfl⟩, ?_⟩
  unfold State.visitor ListWalk.visitActs at hr
  simp only [State.listStep?, hx, hgo, hend, Bool.false_eq_true, if_false, if_pos hacts, recField, hr, hfin, ListWalk.visited]
  rfl

/-- R174, R397, R463: the wake of a pop and the walk of a wait list. -/
theorem popWakesAndListWalks_holds : Part.PopWakesAndListWalks := by
  refine ⟨fun s o b g x dst t bad h hbody htail => ?_, fun s o b x dst t bad ho hblock hst hwoken hbody htail =>
    exec_tqPopWake ho (State.popWake?_away hblock hst hwoken hbody htail),
    fun s x hx hgo hnext hacts => next_getD (State.listStep?_end hx hgo hnext hacts), fun s x hx hgo hnext hacts => ?_⟩
  · exact ⟨_, exec_tqPopWake h.op (State.popWake?_resident h.block h.resident hbody htail), State.op?_setOp h.op _, rfl, fun _ _ => rfl⟩
  · intro rcd slot w r hfin hwalks
    have hr : State.sliceActs x.id (s.visitor x) 32 s x.data x.visitActs = r := rfl
    clear_value r
    obtain ⟨f, hf, hstep⟩ := State.listStep?_visit hx hgo hnext hacts hr hfin
    refine ⟨_, x.visited r.data, next_getD hstep, ?_, rfl, rfl, rfl, ?_⟩
    · exact find?_map_put (hwalks ▸ hx) rfl
    · exact r.s.sameBytes_modCtx x.asid f (fun c => (hf c).1) (fun c => (hf c).2)

end Sys2Proof.Machine

/-- Settles O57: what each operation gives from the word or descriptor at its home slice, the two outcomes of a pop's wake, and the
two steps of a walk; a visit's note in the context leaves every byte, since no access is placed by it. -/
theorem futuresAndQueues : Obligations.FuturesAndQueues :=
  ⟨Sys2Proof.Machine.futuresAndQueues_holds, Sys2Proof.Machine.popWakesAndListWalks_holds⟩

end

section
/-! A tile replay that is dropped though its lines can be owned (R169, R170): `tileStart?` translates the tile's own address, and
`replayOwn` the addresses of the lines from the one that holds it. An image that begins inside a line tells the two apart when the
installed mapping ends inside the line. Nothing shuts such a mapping out of the statement's states; no table walk installs one,
since a walk's base is that of a page. -/
open Sys2Proof Sys2Proof.Machine
namespace Sys2Proof.Machine

/-- A header whose accumulation image begins in the middle of a line. -/
def skewedHeader : RayHeader :=
  { tlas := 0, inst := 0, ninst := 0, tlim := 0, g0 := Vector.replicate 3 0, cell := 0, hint := 0, pf := 0, lowt := 0, lows := 0,
    tot := 0, tos := 0, acc := 0x10040, aw := 8, ah := 8 }

/-- The replay of the image's first tile, with no contributions. -/
def skewedReplay : Replay :=
  { id := 500, part := 0, asid := 1, launch := 1, scatter := none, tile := 0, items := [], started := false, stamp := 0,
    pages := [], owned := [], stopped := false }

/-- A mapping of the image's page for partition 0 whose device addresses begin 64 bytes before the end of the device's memory:
the first half of the image's first line lies in the memory, and the image does not. -/
def skewedMapping : TlbEnt := { fetchTlb 1 with at_ := .part 0, pbase := Config.deviceEnd - 64 }

/-- A launch with that header, its replay at the head, the mapping installed, and replay room for its context. -/
def skewedState : State :=
  let s := (State.reset.withFetchWord 32 1).modLaunch 1 (fun l => { l with hdr := some skewedHeader })
  let e : CqEnt := { v := true, asid := 1, pool := 0, repl := 1, err := 0 }
  { s with tlb := [skewedMapping], replays := [skewedReplay], regs := { s.regs with cq := s.regs.cq.set 0 ((s.regs.cq[0]).set 0 e) } }

/-- The start drops the replay: the tile's own address has no place. -/
theorem skewedState_drops : (match exec (.accTileReplay 500) skewedState with
    | .next t => t.replays.isEmpty
    | _ => false) = true := by decide

/-- The lines of the tile are owned all the same. -/
theorem skewedState_owns : (match skewedState.replayOwn (skewedState.replayWho skewedReplay) skewedReplay 0x10040 1024 with
    | .ok (s, y) => decide (s.replays = skewedState.replays) && y.id == 500
    | .error _ => false) = true := by decide

theorem skewedState_mayStart : skewedState.replayMayStart skewedReplay = true := by decide

/-- The start of a tile replay whose lines can be owned does not always keep the replay. -/
theorem tileStart_drops : ¬ Part.Accumulation := by
  rintro ⟨-, -, hstart, -⟩
  have hdrop := skewedState_drops
  have howns := skewedState_owns
  split at howns
  next s y hown =>
    obtain ⟨hkept, hid⟩ : s.replays = skewedState.replays ∧ y.id = 500 := by simpa using howns
    obtain ⟨t, hexec, hfind, -⟩ := hstart skewedState s skewedReplay y skewedHeader rfl rfl rfl skewedState_mayStart hown hkept hid
    rw [show skewedReplay.id = 500 from rfl] at hexec hfind
    have hempty : t.replays = [] := by simpa [hexec] using hdrop
    simp [hempty] at hfind
  next => cases howns

end Sys2Proof.Machine

/-- Refutes O56: the start of a tile replay first translates the tile's own address, so where that has no place and the line that
holds it has one, the replay is dropped though its lines can be owned. The witness is a state with a mapping that ends inside a
line, which no table walk installs. -/
theorem not_replaysAndAccumulation : ¬ Obligations.ReplaysAndAccumulation := fun h => Sys2Proof.Machine.tileStart_drops h.2

end

section
/-! Appends to scatter bins (R116, R166 to R168, R481, R529). -/
open Sys2Proof Sys2Proof.Machine
namespace Sys2Proof.Machine

/-! ### What one append comes to -/

section
variable {s s1 : State} {w : CirqueWho} {desc ikey : DWord} {launch : Nat} {item : Nat × Word × Word} {d : BinSet}
variable (hset : s.binSet w desc = .ok (s1, d))
include hset

theorem State.appendOne_bad {s2 : State} (hbad : d.bad = true) (hstat : s1.binStat w desc d 1 = .ok s2) :
    s.appendOne w launch desc ikey item = .ok s2 := by
  simp only [State.appendOne, hset, hbad, if_true, hstat]

variable (hgood : d.bad = false)
include hgood

theorem State.appendOne_small {s2 : State} (hsmall : s1.replBytes w.part w.asid < 2 ^ d.rlog) (hstat : s1.binStat w desc d 2 = .ok s2) :
    s.appendOne w launch desc ikey item = .ok s2 := by
  simp only [State.appendOne, hset, hgood, Bool.false_eq_true, if_false, if_pos hsmall, hstat]

variable (hroom : ¬ s1.replBytes w.part w.asid < 2 ^ d.rlog)
include hroom

theorem State.appendOne_dropped {s2 s3 : State} (hr : d.nreg ≤ d.region item.2.1.toNat)
    (hput : s1.cirquePut w (desc.toNat + 0x1C) 4 (d.drop + 1) = .ok s2) (hstat : s2.binStat w desc d 3 = .ok s3) :
    s.appendOne w launch desc ikey item = .ok s3 := by
  simp only [State.appendOne, hset, hgood, Bool.false_eq_true, if_false, if_neg hroom, if_pos hr, hput, hstat]

variable (hr : ¬ d.nreg ≤ d.region item.2.1.toNat)
include hr

theorem State.appendOne_replaying (hrep : s1.replaying w.asid desc (d.region item.2.1.toNat) = true) :
    s.appendOne w launch desc ikey item = .full s1 := by
  simp only [State.appendOne, hset, hgood, Bool.false_eq_true, if_false, if_neg hroom, if_neg hr, hrep, if_true]

variable {s2 : State} {n : Nat} (hrep : s1.replaying w.asid desc (d.region item.2.1.toNat) = false)
  (hnum : s1.cirqueNum w (d.binVa (d.region item.2.1.toNat)) 8 = .ok (s2, n))
include hrep hnum

theorem State.appendOne_full (hfull : 2 ^ d.clog ≤ n) : s.appendOne w launch desc ikey item =
    .full (s2.addReplay w launch (some (desc, w.hm, d.region item.2.1.toNat)) 0 []) := by
  simp only [State.appendOne, hset, hgood, Bool.false_eq_true, if_false, if_neg hroom, if_neg hr, hrep, hnum, if_pos hfull]

theorem State.appendOne_stored {s3 s4 : State} (hfree : ¬ 2 ^ d.clog ≤ n)
    (hrec : s2.cirquePut w (d.binVa (d.region item.2.1.toNat) + 128 + 8 * n) 8 (item.2.1.toNat + item.2.2.toNat * 2 ^ 32) = .ok s3)
    (hcount : s3.cirquePut w (d.binVa (d.region item.2.1.toNat)) 8 (n + 1) = .ok s4) :
    s.appendOne w launch desc ikey item =
      .ok (s4.modLaunch launch (fun l => { l with binKeys := l.binKeys ++ [(desc, d.region item.2.1.toNat, n, ikey, item.1)] })) := by
  simp only [State.appendOne, hset, hgood, Bool.false_eq_true, if_false, if_neg hroom, if_neg hr, hrep, hnum, if_neg hfree, hrec, hcount]

end

/-- A replay that is added is of its region. -/
theorem State.replaying_addReplay (s : State) (w : CirqueWho) (launch : Nat) (desc : DWord) (hm : Bool) (r : Nat) :
    (s.addReplay w launch (some (desc, hm, r)) 0 []).replaying w.asid desc r = true := by
  simp [State.replaying, State.addReplay, Replay.ofRegion]

/-- R166 to R168: what one append comes to. -/
theorem appendsToBins_holds : Part.AppendsToBins := by
  intro s s1 w launch desc ikey item d hset
  refine ⟨fun hbad s2 => State.appendOne_bad hset hbad, fun hgood hsmall s2 => State.appendOne_small hset hgood hsmall, fun hgood hroom => ?_⟩
  have hroom := Nat.not_lt.mpr hroom
  refine ⟨fun hr s2 s3 => State.appendOne_dropped hset hgood hroom hr,
    fun hr => State.appendOne_replaying hset hgood hroom (Nat.not_le.mpr hr),
    fun hr hrep s2 n hnum => ⟨fun hfull => ?_, fun hfree s3 s4 hrec hcount => ?_⟩⟩
  · exact ⟨_, State.appendOne_full hset hgood hroom (Nat.not_le.mpr hr) hrep hnum hfull, State.replaying_addReplay _ _ _ _ _ _, fun _ _ => rfl⟩
  · exact ⟨_, State.appendOne_stored hset hgood hroom (Nat.not_le.mpr hr) hrep hnum (Nat.not_le.mpr hfree) hrec hcount, fun _ _ => rfl⟩

/-! ### The end of a `binp` -/

/-- A group behind whose `binp` all updates are appended: the slot that waited for its bins goes on (R168, R481). -/
def Group.binTaken (id : Nat) (repro : Bool) (g : Group) : Group :=
  (g.passIf (fun r => r == .binFull id && repro)).wakeIf (fun r => r == .binFull id)

theorem Group.binTaken_wakesOnly (id : Nat) (repro : Bool) (g : Group) : WakesOnly g (g.binTaken id repro) :=
  (Group.passIf_wakesOnly _ _).trans (Group.wakeIf_wakesOnly _ _)

/-- The state in which a `binp` has been performed. -/
def State.binTaken (s : State) (o : Op) (repro : Bool) : State := (s.endStore o).modGroup o.gk (Group.binTaken o.id repro)

theorem State.op?_modGroup (s : State) (k : GroupKey) (f : Group → Group) (id : Nat) : (s.modGroup k f).op? id = s.op? id := by
  rw [s.modGroup_frame k f]
  rfl

theorem State.binTaken_op? (s : State) (o : Op) (repro : Bool) : (s.binTaken o repro).op? o.id = none :=
  (State.op?_modGroup _ _ _ _).trans (State.op?_dropOp _ _)

theorem State.Holding.endStore {s : State} {o : Op} {m : Memory} {g : Group} (h : s.Holding o.gk m g) :
    (s.endStore o).Holding o.gk m g.stDone.woken ∧ SameBytes s (s.endStore o) :=
  ⟨((h.modGroup Group.stDone).wakeGroup).dropOp o.id,
    (h.modGroup_bytes _).trans ((h.modGroup Group.stDone).wakeGroup_bytes.trans (State.dropOp_bytes _ _))⟩

/-- The store count of the group falls, its registers and every byte stay. -/
theorem State.Holding.binTaken {s : State} {o : Op} {m : Memory} {g : Group} (h : s.Holding o.gk m g) (repro : Bool) :
    ∃ g', (s.binTaken o repro).group? o.gk = some g' ∧ SameRegs g g' ∧ g'.stCnt = g.stCnt - 1 ∧ SameBytes s (s.binTaken o repro) := by
  obtain ⟨hend, hbytes⟩ := h.endStore
  have hwakes : WakesOnly g.stDone (g.stDone.woken.binTaken o.id repro) := (g.stDone.woken_wakesOnly).trans (Group.binTaken_wakesOnly _ _ _)
  have hlowered : SameRegs g g.stDone := ⟨rfl, rfl, rfl, rfl, rfl⟩
  exact ⟨_, (hend.modGroup _).group, hlowered.trans hwakes.regs, hwakes.counts.2.1, hbytes.trans (hend.modGroup_bytes _)⟩

theorem State.appendAll_one {s0 s1 s2 : State} {o : Op} {w : CirqueWho} {launch : Nat} {desc ikey : DWord} {item : Nat × Word × Word}
    (hone : s0.appendOne w launch desc ikey item = .ok s2) :
    State.appendAll o w launch desc ikey s1 s0 [item] = some (s2.binTaken o (s2.isRepro w.asid)) := by
  simp only [State.appendAll, hone]
  rfl

/-- Whether a body is a `binp`. -/
def OpBody.isBinp : OpBody → Bool
  | .binp .. => true
  | _ => false

/-- Behind no acquire and no append of its kind a `binp` or a `binrep` waits for nothing but its context (R116, R529). -/
theorem State.goes_of_before {s : State} {o : Op} {asid : Nat}
    (hbefore : ∀ x ∈ s.before o, x.body.acquires = false ∧ ∀ d h i k, x.body ≠ .binp d h i k) (hopen : s.ctxOpen asid = true) :
    ¬ (s.appendWaits o OpBody.isBinp || !s.ctxOpen asid) = true := by
  have hwaits : s.appendWaits o OpBody.isBinp = false := by
    refine List.any_eq_false.mpr (fun x hx => ?_)
    obtain ⟨hacq, hkind⟩ := hbefore x hx
    have hbinp : x.body.isBinp = false := by
      cases hb : x.body with
      | binp d h i k => exact absurd hb (hkind d h i k)
      | _ => rfl
    simp [hacq, hbinp]
  simp [hwaits, hopen]

theorem State.Holds.asidOf {s : State} {o : Op} {b : Block} {g : Group} (h : s.Holds o b g) : s.asidOf o.gk = b.asid := by
  simp only [State.asidOf, h.block, Option.map_some, Option.getD_some]

theorem State.Holds.launchNo {s : State} {o : Op} {b : Block} {g : Group} (h : s.Holds o b g) :
    ((s.block? o.gk.block).map (·.launch)).getD 0 = b.launch := by
  rw [h.block]
  rfl

/-- The state in which the Cirque looks at a set: the launch has noted the set. -/
def State.notesSet (s : State) (launch part : Nat) (desc : DWord) (hm : Bool) : State :=
  s.modLaunch launch (fun l => if l.binSets.any (fun x => x.2.1 == desc) then l else { l with binSets := l.binSets ++ [(part, desc, hm)] })

/-- A `binp` of one update whose append goes through is performed (R529; of a reproducible context R481). -/
theorem State.binAppend?_one {s s0 s2 : State} {o : Op} {b : Block} {g : Group} {desc ikey : DWord} {hm : Bool} {item : Nat × Word × Word}
    (h : s.Holds o b g) (hb : o.body = .binp desc hm [item] ikey)
    (hbefore : ∀ x ∈ s.before o, x.body.acquires = false ∧ ∀ d h i k, x.body ≠ .binp d h i k) (hopen : s.ctxOpen b.asid = true)
    (hfits : if s.isRepro b.asid = true
      then (s.notesSet b.launch (s.cirqueFor o.gk hm).part desc hm).appendFits (s.cirqueFor o.gk hm) desc [item] = .ok (s0, true)
      else s0 = s.notesSet b.launch (s.cirqueFor o.gk hm).part desc hm)
    (hone : s0.appendOne (s.cirqueFor o.gk hm) b.launch desc ikey item = .ok s2) :
    s.binAppend? o = some (s2.binTaken o (s2.isRepro b.asid)) := by
  have hasid : (s.cirqueFor o.gk hm).asid = b.asid := h.asidOf
  rw [← hasid] at hfits hopen ⊢
  simp only [State.binAppend?, hb, h.launchNo]
  refine (if_neg (State.goes_of_before hbefore hopen)).trans ?_
  unfold State.notesSet at hfits
  by_cases hrepro : s.isRepro (s.cirqueFor o.gk hm).asid = true
  · rw [if_pos hrepro] at hfits
    simp only [hrepro, Bool.not_true, Bool.false_eq_true, if_false, hfits]
    exact State.appendAll_one hone
  · rw [if_neg hrepro] at hfits
    subst hfits
    simp only [hrepro, Bool.not_false, if_true]
    exact State.appendAll_one hone

/-- A `binp` that is performed leaves its group's registers, and its store count falls (R385). -/
theorem exec_binAppend {s s2 : State} {o : Op} {b : Block} {g : Group} {repro : Bool} (h : s.Holds o b g)
    (happend : s.binAppend? o = some (s2.binTaken o repro)) (hg : s2.group? o.gk = some g) (hblock : s2.block? o.gk.block = some b) :
    ∃ t g', exec (.binAppend o.id) s = .next t ∧ t.op? o.id = none ∧ t.group? o.gk = some g' ∧ SameRegs g g' ∧
      g'.stCnt = g.stCnt - 1 ∧ SameBytes s2 t := by
  obtain ⟨g', hend⟩ := (State.Holding.of_block hblock h.resident hg).binTaken repro
  have hexec : exec (.binAppend o.id) s = _ := next_getD (by rw [h.op, Option.bind_some, happend])
  exact ⟨_, g', hexec, State.binTaken_op? _ _ _, hend⟩

end Sys2Proof.Machine
end

section
/-! The work of `binrep` (R166, R167, R392, R481). -/
open Sys2Proof Sys2Proof.Machine
namespace Sys2Proof.Machine

/-! ### What the Cirque's reads leave -/

theorem State.viewFill?_frame {s t : State} {a : Agent} {ln : Nat} {al : L2Alloc} (h : s.viewFill? a ln al = some t) : MemFrame s t := by
  unfold State.viewFill? at h
  split at h
  next =>
    split at h
    · cases h
    · dsimp only at h
      split at h
      next =>
        obtain rfl := Option.some.inj h
        exact ((s.touchFor_frame _ _ _ _).trans (State.dropL2_frame _ _)).trans (State.l2Install_frame _ _ _)
      next =>
        obtain ⟨-, hasked⟩ := Option.ite_none_right_eq_some.mp h
        obtain rfl := Option.some.inj hasked
        exact s.askPeerFor_frame _ _
      next => cases h
  next => cases h

theorem State.fillViews_frame (s : State) (a : Agent) (ls : List Loc) (al : L2Alloc) : MemFrame s (s.fillViews a ls al) := by
  refine (MemFrame.refl s).foldl _ _ (fun u l => ?_)
  cases hfill : u.viewFill? a (lineOf l.pa) al with
  | none => exact MemFrame.refl u
  | some t => exact State.viewFill?_frame hfill

theorem State.engineXlate_blocks (s : State) (part asid : Nat) (va : DWord) (u : Use) : (s.engineXlate part asid va u).2.blocks = s.blocks := by
  unfold State.engineXlate
  split
  next =>
    split
    · rfl
    · split
      · rfl
      · split
        · exact (s.walkTouch_frame _ _).blocks
        · exact (s.walkTouch_frame _ _).blocks
        · exact (s.walkTouch_frame _ _).blocks
        · exact (s.askPeer_frame _ _).blocks
  next => rfl

theorem State.cirquePlace_blocks {s t : State} {w : CirqueWho} {va : Nat} {wr : Bool} {l : Loc} (h : s.cirquePlace w va wr = .ok (t, l)) :
    t.blocks = s.blocks := by
  unfold State.cirquePlace at h
  dsimp only at h
  generalize (if wr then Acc.cirqueWrite else Acc.travRead) = acc at h
  have hxlate := s.engineXlate_blocks w.part w.asid (BitVec.ofNat 64 va) ⟨acc, w.hm, false⟩
  split at h
  next l' s' heq =>
    rw [heq] at hxlate
    split at h
    · split at h
      · cases h
      · cases h
        exact (s'.fillViews_frame _ _ _).blocks.trans hxlate
    · cases h
    · cases h
    · cases h
  next => cases h
  next => cases h

theorem State.binSet_blocks {s t : State} {w : CirqueWho} {desc : DWord} {d : BinSet} (h : s.binSet w desc = .ok (t, d)) : t.blocks = s.blocks := by
  unfold State.binSet at h
  split at h
  next s' l heq =>
    cases h
    exact (s'.touchFor_frame _ _ _ _).blocks.trans (State.cirquePlace_blocks heq)
  next => cases h

/-! ### A `binrep` is accepted, and ends -/

/-- A `binrep` whose replays are under way, and at once ended where there are none. -/
def State.binrepBegun (s : State) (o : Op) (desc : DWord) (hm : Bool) (tk : Opnd) (reps : List Nat) : State :=
  let s := s.setOp o.id (.binrep desc hm tk true reps)
  if reps = [] then (s.binrepEnd? { o with body := .binrep desc hm tk true [] }).getD s else s

section
variable {s s1 : State} {o : Op} {b : Block} {g : Group} {desc : DWord} {hm : Bool} {tk : Opnd} {d : BinSet}
variable (h : s.Holds o b g) (hb : o.body = .binrep desc hm tk false [])
  (hbefore : ∀ x ∈ s.before o, x.body.acquires = false ∧ ∀ d h i k, x.body ≠ .binp d h i k) (hopen : s.ctxOpen b.asid = true)
  (hset : s.binSet (s.cirqueFor o.gk hm) desc = .ok (s1, d))
include h hb hbefore hopen hset

/-- With a set that is out of range or in a reproducible context nothing is replayed (R167, R481). -/
theorem State.binrepAccept?_none (hnone : d.bad = true ∨ s.isRepro b.asid = true) : s.binrepAccept? o = some (s1.binrepBegun o desc hm tk []) := by
  have hasid : (s.cirqueFor o.gk hm).asid = b.asid := h.asidOf
  rw [← hasid] at hopen hnone
  have hnone : (d.bad || s.isRepro (s.cirqueFor o.gk hm).asid) = true := (Bool.or_eq_true _ _).mpr hnone
  simp only [State.binrepAccept?, hb]
  refine (if_neg (State.goes_of_before hbefore hopen)).trans ?_
  simp only [hset, hnone, if_true]
  rfl

/-- Otherwise the regions that have records are replayed (R392). -/
theorem State.binrepAccept?_some {s2 : State} {rs : List Nat} (hgood : d.bad = false) (hrepro : s.isRepro b.asid = false)
    (hfilled : s1.filledRegions (s.cirqueFor o.gk hm) d (List.range d.nreg) = .ok (s2, rs)) :
    s.binrepAccept? o = some ((s2.startReplays (s.cirqueFor o.gk hm) b.launch desc d.rlog rs).1.binrepBegun o desc hm tk
      (s2.startReplays (s.cirqueFor o.gk hm) b.launch desc d.rlog rs).2) := by
  have hasid : (s.cirqueFor o.gk hm).asid = b.asid := h.asidOf
  rw [← hasid] at hopen hrepro
  simp only [State.binrepAccept?, hb, h.launchNo]
  refine (if_neg (State.goes_of_before hbefore hopen)).trans ?_
  simp only [hset, hgood, hrepro, Bool.or_self, Bool.false_eq_true, if_false, hfilled]
  rfl

end

/-- A `binrep` with no replay left gives its token STAT (R392). -/
theorem State.binrepBegun_nil {s1 s2 : State} {o : Op} {desc : DWord} {hm : Bool} {tk : Opnd} {n : Nat}
    (hopen : (s1.setOp o.id (.binrep desc hm tk true [])).ctxOpen (s1.asidOf o.gk) = true)
    (hnum : (s1.setOp o.id (.binrep desc hm tk true [])).cirqueNum ((s1.setOp o.id (.binrep desc hm tk true [])).cirqueFor o.gk hm)
      (desc.toNat + 0x18) 4 = .ok (s2, n)) :
    s1.binrepBegun o desc hm tk [] =
      (s2.giveToken o.gk o.id ((tokReg hm tk).map (fun r => ⟨r, 0, .s (tokenOf n)⟩)) Group.cpDone).dropOp o.id := by
  have hgoes : (!(s1.setOp o.id (.binrep desc hm tk true [])).ctxOpen
      ((s1.setOp o.id (.binrep desc hm tk true [])).cirqueFor o.gk hm).asid) = false := by rw [Bool.not_eq_false']; exact hopen
  simp only [State.binrepBegun, if_true, State.binrepEnd?, hgoes, Bool.false_eq_true, if_false, hnum, Option.getD_some]

/-- The token's arrival lowers the copy count (R385, R392). -/
theorem State.Holding.binrepEnd {s : State} {o : Op} {m : Memory} {g : Group} (h : s.Holding o.gk m g) (hlive : g.ended = false)
    (ws : List RegWrite) : ∃ g', ((s.giveToken o.gk o.id ws Group.cpDone).dropOp o.id).group? o.gk = some g' ∧ g'.cpCnt = g.cpCnt - 1 ∧
      SameRegs (ws.foldl Group.writeReg g) g' := by
  have hwakes := (g.tokened o.id ws).cpDone.woken_wakesOnly
  have hcount : (g.tokened o.id ws).cpDone.cpCnt = g.cpCnt - 1 := by
    obtain ⟨_, _, _, _, _, _, _, hframe⟩ := g.tokened_frame o.id ws
    rw [hframe]
    rfl
  have hlowered : SameRegs (g.tokened o.id ws) (g.tokened o.id ws).cpDone := ⟨rfl, rfl, rfl, rfl, rfl⟩
  exact ⟨_, ((h.giveToken hlive o.id ws Group.cpDone).dropOp o.id).group, hwakes.counts.2.2.1.trans hcount,
    (g.tokened_regs o.id ws).trans (hlowered.trans hwakes.regs)⟩

/-! ### The replays that a `binrep` starts -/

/-- A region's replay is asked for, unless it waits or is under way. -/
def State.askReplay (w : CirqueWho) (launch : Nat) (desc : DWord) (s : State) (r : Nat) : State :=
  if s.replaying w.asid desc r then s else s.addReplay w launch (some (desc, w.hm, r)) 0 []

section
variable {w : CirqueWho} {launch : Nat} {desc : DWord}

theorem State.askReplay_replaying (s : State) (r : Nat) : (s.askReplay w launch desc r).replaying w.asid desc r = true := by
  unfold State.askReplay
  split
  next hrep => exact hrep
  next => exact s.replaying_addReplay w launch desc w.hm r

theorem State.askReplay_keeps {s : State} {r : Nat} (h : s.replaying w.asid desc r = true) (q : Nat) :
    (s.askReplay w launch desc q).replaying w.asid desc r = true := by
  unfold State.askReplay
  split
  · exact h
  · rw [State.replaying] at h ⊢
    simp only [State.addReplay, List.any_append, h, Bool.true_or]

theorem State.askReplays_keeps {r : Nat} (rs : List Nat) {s : State} (h : s.replaying w.asid desc r = true) :
    (rs.foldl (State.askReplay w launch desc) s).replaying w.asid desc r = true := by
  induction rs generalizing s with
  | nil => exact h
  | cons q rs ih => exact ih (State.askReplay_keeps h q)

/-- Every region asked for is being replayed. -/
theorem State.askReplays_replaying {rs : List Nat} {s : State} :
    ∀ r ∈ rs, (rs.foldl (State.askReplay w launch desc) s).replaying w.asid desc r = true := by
  induction rs generalizing s with
  | nil => exact fun r hr => absurd hr List.not_mem_nil
  | cons q rs ih =>
    intro r hr
    rcases List.mem_cons.mp hr with rfl | hr
    · exact State.askReplays_keeps rs (s.askReplay_replaying r)
    · exact ih r hr

theorem State.askReplays_op? (s : State) (rs : List Nat) (id : Nat) : (rs.foldl (State.askReplay w launch desc) s).op? id = s.op? id := by
  refine foldl_keeps (fun s : State => s.op? id) _ (fun s r => ?_) rs s
  unfold State.askReplay
  split <;> rfl

/-- The start of a set's replays: its regions are asked for in the partition that has room. -/
theorem State.startReplays_state (s : State) (rlog : Nat) (rs : List Nat) : (s.startReplays w launch desc rlog rs).1 =
    rs.foldl (State.askReplay { w with part := s.replayPart w.part w.asid rlog } launch desc) s := rfl

theorem State.startReplays_ids {s : State} {rlog : Nat} {rs : List Nat} {x : Replay} {r : Nat}
    (hx : x ∈ (s.startReplays w launch desc rlog rs).1.replays) (hr : r ∈ rs) (hregion : x.ofRegion w.asid desc r = true) :
    x.id ∈ (s.startReplays w launch desc rlog rs).2 :=
  List.mem_map.mpr ⟨x, List.mem_filter.mpr ⟨hx, List.any_eq_true.mpr ⟨r, hr, hregion⟩⟩, rfl⟩

/-- Replays are started of all regions asked for, and the `binrep` waits for every one (R392). -/
theorem State.startReplays_spec (s : State) (rlog : Nat) (rs : List Nat) :
    (∀ id, (s.startReplays w launch desc rlog rs).1.op? id = s.op? id) ∧
    (∀ r ∈ rs, (s.startReplays w launch desc rlog rs).1.replaying w.asid desc r = true) ∧
    (rs ≠ [] → (s.startReplays w launch desc rlog rs).2 ≠ []) := by
  have hreplaying : ∀ r ∈ rs, (s.startReplays w launch desc rlog rs).1.replaying w.asid desc r = true := by
    rw [State.startReplays_state]
    exact State.askReplays_replaying
  refine ⟨fun id => ?_, hreplaying, fun hrs => ?_⟩
  · rw [State.startReplays_state]
    exact s.askReplays_op? rs id
  · obtain ⟨r, hr⟩ := List.exists_mem_of_ne_nil rs hrs
    obtain ⟨x, hx, hregion⟩ := List.any_eq_true.mp (hreplaying r hr)
    exact List.ne_nil_of_mem (State.startReplays_ids hx hr hregion)

end

theorem State.binrepBegun_of_ne_nil {s : State} {o : Op} {desc : DWord} {hm : Bool} {tk : Opnd} {reps : List Nat} (h : reps ≠ []) :
    s.binrepBegun o desc hm tk reps = s.setOp o.id (.binrep desc hm tk true reps) := if_neg h

/-- R116, R167, R168, R392, R481, R529: the end of a `binp`, and the acceptance of a `binrep`. -/
theorem cirqueAppends_holds : Part.CirqueAppends := by
  refine ⟨fun s o b g desc ikey hm item h hb hbefore hopen s0 hfits s2 hone hg hblock =>
    exec_binAppend h (State.binAppend?_one h hb hbefore hopen hfits hone) hg hblock,
    fun s s1 o b g desc hm tk d h hb hbefore hopen hset => ⟨fun hnone => ?_, fun hgood hrepro s2 rs hfilled hrs hop => ?_⟩⟩
  · intro u hopenU s2 n hnum hkept
    obtain ⟨hg, hblock⟩ := hkept
    have hasid : s1.asidOf o.gk = b.asid := by
      rw [← h.asidOf]
      simp only [State.asidOf, State.block?, State.binSet_blocks hset]
    have hexec : exec (.binrepAccept o.id) s = .next (s1.binrepBegun o desc hm tk []) :=
      next_getD (by rw [h.op, Option.bind_some, State.binrepAccept?_none h hb hbefore hopen hset hnone])
    rw [State.binrepBegun_nil (hasid ▸ hopenU) hnum] at hexec
    obtain ⟨g', hend⟩ := (State.Holding.of_block hblock h.resident hg).binrepEnd h.live ((tokReg hm tk).map (fun r => ⟨r, 0, .s (tokenOf n)⟩))
    rw [List.foldl_map] at hend
    exact ⟨_, g', hexec, State.op?_dropOp _ _, hend⟩
  · have hasid : (s.cirqueFor o.gk hm).asid = b.asid := h.asidOf
    obtain ⟨hops, hreplaying, hreps⟩ := s2.startReplays_spec (w := s.cirqueFor o.gk hm) (launch := b.launch) (desc := desc) d.rlog rs
    have hexec : exec (.binrepAccept o.id) s = _ :=
      next_getD (by rw [h.op, Option.bind_some, State.binrepAccept?_some h hb hbefore hopen hset hgood hrepro hfilled])
    rw [State.binrepBegun_of_ne_nil (hreps hrs)] at hexec
    refine ⟨_, _, hexec, State.op?_setOp ((hops o.id).trans hop) _, fun r hr => hasid ▸ hreplaying r hr, fun x hx hxa h' q hq hmem => ?_⟩
    refine State.startReplays_ids hx hmem ?_
    rw [hasid]
    simp [Replay.ofRegion, hxa, hq]

end Sys2Proof.Machine

/-- Settles O55: an append comes to one of six outcomes by the set's fields, the room and the bin; a `binp` and a `binrep` with
nothing to replay end as any work of their group does, and a `binrep` with records asks for the replays of its regions. -/
theorem cirqueAppends : Obligations.CirqueAppends := ⟨Sys2Proof.Machine.appendsToBins_holds, Sys2Proof.Machine.cirqueAppends_holds⟩

end

section
/-! Results of variable latency that reach their registers (R198, R352, R367, R370, R372, R402, R406). -/
open Sys2Proof Sys2Proof.Machine
namespace Sys2Proof.Machine

/-! ### A group that the work of another leaves alone -/

/-- A block that has not ended is not forgotten. -/
theorem State.block?_releaseBlocks {s : State} {n : Nat} {b : Block} (hb : s.block? n = some b) (hst : b.st ≠ .ended) :
    s.releaseBlocks.block? n = some b := by
  obtain ⟨htest, before, after, hblocks, hbefore⟩ := List.find?_eq_some_iff_append.mp hb
  rw [State.block?, State.releaseBlocks, hblocks, List.filter_append, List.filter_cons_of_pos (by simp [hst])]
  exact List.find?_eq_some_iff_append.mpr ⟨htest, _, _, rfl, fun a ha => hbefore a (List.mem_of_mem_filter ha)⟩

/-- A block that has not ended holds `x` at a key's place: a group, or none. -/
def State.Keeping (s : State) (k : GroupKey) (x : Option Group) : Prop :=
  ∃ b, s.block? k.block = some b ∧ b.st ≠ .ended ∧ b.groups[k.index]? = x

theorem State.Keeping.of_block {s : State} {k : GroupKey} {b : Block} (hb : s.block? k.block = some b) (hst : b.st ≠ .ended) :
    s.Keeping k (s.group? k) := ⟨b, hb, hst, by rw [State.group?, hb, Option.bind_some]⟩

section
variable {s : State} {k j : GroupKey} {x : Option Group} (h : s.Keeping j x)
include h

theorem State.Keeping.group : s.group? j = x := by
  obtain ⟨b, hb, -, hx⟩ := h
  rw [State.group?, hb, Option.bind_some, hx]

theorem State.Keeping.of_blocks {t : State} (ht : t.blocks = s.blocks) : t.Keeping j x := by
  obtain ⟨b, hb, hrest⟩ := h
  exact ⟨b, by rw [State.block?, ht]; exact hb, hrest⟩

theorem State.Keeping.putGroup (hj : j ≠ k) (g : Group) : (s.putGroup k g).Keeping j x := by
  have hgroup := (s.group?_putGroup_ne g hj).trans h.group
  obtain ⟨b, hb, hst, -⟩ := h
  have hput := s.block?_putGroup k g j.block
  rw [hb, Option.map_some] at hput
  rw [State.group?, hput, Option.bind_some] at hgroup
  refine ⟨_, hput, ?_, hgroup⟩
  split <;> exact hst

theorem State.Keeping.modGroup (hj : j ≠ k) (f : Group → Group) : (s.modGroup k f).Keeping j x := by
  unfold State.modGroup
  split
  · exact h.putGroup hj _
  · exact h

theorem State.Keeping.wakeGroup (hj : j ≠ k) {m : Memory} {g : Group} (hk : s.Holding k m g) : (s.wakeGroup k).Keeping j x := by
  rcases hk.wakeGroup_eq with e | e
  · exact e ▸ h.putGroup hj _
  · exact e ▸ (h.putGroup hj _).of_blocks rfl

theorem State.Keeping.dropOp (id : Nat) : (s.dropOp id).Keeping j x := by
  obtain ⟨b, hb, hst, hx⟩ := h
  exact ⟨b, State.block?_releaseBlocks hb hst, hst, hx⟩

end

/-! ### A result that lands -/

/-- A result comes to a block: where that is not on its cores, the wake of a slot that waits for the result is latched (R463). -/
def State.latchWake (s : State) (o : Op) : State :=
  s.modBlock o.gk.block (fun b => { b with woken := b.woken || (b.st != .resident && s.awaited o) })

theorem State.land_eq (s : State) (o : Op) (ws : List RegWrite) : s.land o ws = (s.latchWake o).giveToken o.gk o.id ws id := rfl

theorem State.block?_latchWake {s : State} {o : Op} {n : Nat} {b : Block} (hb : s.block? n = some b) :
    ∃ c, (s.latchWake o).block? n = some c ∧ c.st = b.st ∧ c.loc = b.loc ∧ c.groups = b.groups := by
  rw [State.latchWake, State.block?_modBlock s o.gk.block n (fun b => { b with woken := b.woken || (b.st != .resident && s.awaited o) })
    (fun _ => rfl), hb, Option.map_some]
  refine ⟨_, rfl, ?_⟩
  split <;> exact ⟨rfl, rfl, rfl⟩

theorem State.Holding.latchWake {s : State} {k : GroupKey} {m : Memory} {g : Group} (h : s.Holding k m g) (o : Op) :
    (s.latchWake o).Holding k m g := by
  obtain ⟨b, hb, hst, hm, hg⟩ := h
  obtain ⟨c, hc, hcst, hcloc, hcgroups⟩ := State.block?_latchWake (o := o) hb
  exact ⟨c, hc, hcst.trans hst, hcloc.trans hm, hcgroups ▸ hg⟩

theorem State.Keeping.latchWake {s : State} {j : GroupKey} {x : Option Group} (h : s.Keeping j x) (o : Op) : (s.latchWake o).Keeping j x := by
  obtain ⟨b, hb, hst, hx⟩ := h
  obtain ⟨c, hc, hcst, -, hcgroups⟩ := State.block?_latchWake (o := o) hb
  exact ⟨c, hc, hcst ▸ hst, hcgroups ▸ hx⟩

section
variable {s : State} {o : Op} {m : Memory} {g : Group}

theorem State.Holding.land (h : s.Holding o.gk m g) (hlive : g.ended = false) (ws : List RegWrite) :
    (s.land o ws).Holding o.gk m (g.tokened o.id ws).woken := by
  rw [State.land_eq]
  exact (h.latchWake o).giveToken hlive o.id ws id

theorem State.Holding.land_bytes (h : s.Holding o.gk m g) (ws : List RegWrite) : SameBytes s (s.land o ws) :=
  (s.modBlock_bytes _ _).trans ((h.latchWake o).giveToken_bytes o.id ws id)

theorem State.Keeping.land {j : GroupKey} {x : Option Group} (hx : s.Keeping j x) (hj : j ≠ o.gk) (h : s.Holding o.gk m g)
    (ws : List RegWrite) : (s.land o ws).Keeping j x :=
  ((hx.latchWake o).modGroup hj _).wakeGroup hj ((h.latchWake o).modGroup _)

end

/-- Registers that have landed, and the counts as they were. -/
theorem Group.tokened_woken_spec (g : Group) (id : Nat) (ws : List RegWrite) : let h := (g.tokened id ws).woken
    SameRegs (ws.foldl Group.writeReg g) h ∧ (∀ p ∈ h.pend, p.op ≠ id) ∧
      h.ldCnt = g.ldCnt ∧ h.stCnt = g.stCnt ∧ h.cpCnt = g.cpCnt ∧ h.tlCnt = g.tlCnt := by
  have hwakes := (g.tokened id ws).woken_wakesOnly
  obtain ⟨hld, hst, hcp, htl, hpend⟩ := hwakes.counts
  have hcounts : (g.tokened id ws).ldCnt = g.ldCnt ∧ (g.tokened id ws).stCnt = g.stCnt ∧ (g.tokened id ws).cpCnt = g.cpCnt ∧
      (g.tokened id ws).tlCnt = g.tlCnt := by
    obtain ⟨_, _, _, _, _, _, _, hframe⟩ := g.tokened_frame id ws
    rw [hframe]
    exact ⟨rfl, rfl, rfl, rfl⟩
  rw [← hld, ← hst, ← hcp, ← htl] at hcounts
  exact ⟨(g.tokened_regs id ws).trans hwakes.regs, hpend ▸ g.tokened_pend id ws, hcounts⟩

/-- What a piece of work leaves that ends with its group as `h` says, other groups untouched. -/
theorem State.Holding.landed {s u : State} {o : Op} {m : Memory} {g h : Group} {ws : List RegWrite} {dn : Group → Group}
    (hu : u.Holding o.gk m h) (hregs : SameRegs (ws.foldl Group.writeReg g) h) (hpend : ∀ p ∈ h.pend, p.op ≠ o.id)
    (hcounts : h.ldCnt = (dn g).ldCnt ∧ h.stCnt = (dn g).stCnt ∧ h.cpCnt = (dn g).cpCnt ∧ h.tlCnt = (dn g).tlCnt)
    (hothers : ∀ j x, j ≠ o.gk → s.Keeping j x → u.Keeping j x) : Landed s (u.dropOp o.id) o g ws dn where
  group := ⟨h, (hu.dropOp o.id).group, hregs, fun _ => hpend, hcounts⟩
  gone := u.op?_dropOp o.id
  others j _ hj hc hst := ((hothers j _ hj (.of_block hc hst)).dropOp o.id).group

section
variable {s : State} {o : Op} {m : Memory} {g : Group} (h : s.Holding o.gk m g) (hlive : g.ended = false)
include h hlive

/-- A result reaches its registers (R198). -/
theorem State.Holding.land_dropOp (ws : List RegWrite) : Landed s ((s.land o ws).dropOp o.id) o g ws id := by
  obtain ⟨hregs, hpend, hcounts⟩ := g.tokened_woken_spec o.id ws
  exact (h.land hlive ws).landed hregs hpend hcounts (fun j x hj hx => hx.land hj h ws)

/-- The result of a load-like piece of work reaches its registers, and the load count falls (R385). -/
theorem State.Holding.endLoad (ws : List RegWrite) :
    Landed s (s.endLoad o ws) o g ws (fun g => { g with ldCnt := g.ldCnt - 1 }) := by
  obtain ⟨hregs, hpend, hld, hst, hcp, htl⟩ := g.tokened_woken_spec o.id ws
  have hland := h.land hlive ws
  have hlower := (hland.modGroup Group.ldDone).wakeGroup
  have hwakes := ((g.tokened o.id ws).woken.ldDone).woken_wakesOnly
  obtain ⟨hld', hst', hcp', htl', hpend'⟩ := hwakes.counts
  have hdone : SameRegs (g.tokened o.id ws).woken (g.tokened o.id ws).woken.ldDone := ⟨rfl, rfl, rfl, rfl, rfl⟩
  refine State.Holding.landed hlower ((hregs.trans hdone).trans hwakes.regs) (hpend' ▸ hpend)
    ⟨hld'.trans (congrArg (· - 1) hld), hst'.trans hst, hcp'.trans hcp, htl'.trans htl⟩
    (fun j x hj hx => ((hx.land hj h ws).modGroup hj _).wakeGroup hj (hland.modGroup _))

theorem State.Holding.endLoad_bytes (ws : List RegWrite) : SameBytes s (s.endLoad o ws) := by
  have hland := h.land hlive ws
  exact (h.land_bytes ws).trans ((hland.modGroup_bytes _).trans ((hland.modGroup _).wakeGroup_bytes.trans (State.dropOp_bytes _ _)))

end

end Sys2Proof.Machine

/-- Settles O8: every such result lands in its group and its work is gone; that of `rng` ends as a load does. -/
theorem variableLatencyResults : Obligations.VariableLatencyResults := by
  intro s o b g k ws h hbody
  have hland := h.holding.land_dropOp h.live ws
  have hbytes : SameBytes s ((s.land o ws).dropOp o.id) := (h.holding.land_bytes ws).trans (State.dropOp_bytes _ _)
  cases k with
  | spawn => exact ⟨_, next_getD (by rw [h.op, Option.bind_some, State.spawnWrite?, hbody]), hland, hbytes⟩
  | rng =>
    exact ⟨_, next_getD (by rw [h.op, Option.bind_some, State.rngWrite?, hbody]), h.holding.endLoad h.live ws,
      h.holding.endLoad_bytes h.live ws⟩
  | _ => exact ⟨_, next_getD (by rw [h.op, Option.bind_some, State.varWrite?, hbody]; rfl), hland, hbytes⟩

end

section
/-! Refills, fixed-latency marks and the release of barriers (R134, R197, R198, R263, R264, R363). -/
open Sys2Proof Sys2Proof.Machine
namespace Sys2Proof.Machine

/-! ### Refills and fixed-latency writes -/

/-- R197, R198: the slot at a branch target is Ready after the refill, and the mark of the oldest fixed-latency write goes. -/
theorem refillsAndFixedWrites_holds : Part.RefillsAndFixedWrites := by
  refine ⟨fun s k g n hg hst hwait => ?_, fun s k g p hg hp => ?_⟩
  · have hgo : s.refill? k n.val = some (s.putGroup k (g.setSlot n.val (g.slot n.val).wake)) := by
      simp [State.refill?, hg, hst, hwait, State.modSlot, State.modGroup_eq hg]
    refine ⟨_, _, next_getD hgo, OnlyGroup.of_putGroup hg rfl rfl, ?_⟩
    rw [Slot.wake, if_pos hst]
  · have hgo : s.fixedWrite? k = some (s.putGroup k { g with pend := g.pend.erase p }) := by
      simp only [State.fixedWrite?, hg, hp]
    exact ⟨_, next_getD hgo, OnlyGroup.of_putGroup hg rfl rfl⟩

/-! ### The block barrier -/

/-- A slot that waits for what a test takes is among those that the test finds. -/
theorem Group.mem_slotsFor {g : Group} {n : Nat} {r : WaitReason} {p : WaitReason → Bool} (hn : n < 2) (hst : (g.slot n).st = .wait)
    (hw : (g.slot n).wait = some r) (hp : p r = true) : n ∈ g.slotsFor p := by
  have hmem : n ∈ [0, 1] := by
    simp
    omega
  exact List.mem_filter.mpr ⟨hmem, by simp [hst, hw, hp]⟩

/-- A slot that a test finds passes its instruction of four bytes. -/
theorem Group.passIf_slot_of_mem {g : Group} {n : Nat} {p : WaitReason → Bool} (hn : n < 2) (h : n ∈ g.slotsFor p) :
    (g.passIf p).slot n = (g.slot n).pass 4 := g.foldl_passSlot_slot hn (List.mem_filter.mp h).2

theorem Slot.pass_mask (x : Slot) (len : Nat) : (x.pass len).mask = x.mask := by
  unfold Slot.pass
  split <;> rfl

/-- The groups of a block with slots that wait at a phase of the block barrier that is over. -/
def Block.barWaiters (b : Block) : List Group := b.groups.filter (fun g => g.slotsFor b.phaseOver != [])

/-- The block behind its barrier: the slots that waited for the phase have gone on (R363). -/
def Block.pastBar (b : Block) : Block := { b with groups := b.groups.map (fun g => g.passIf b.phaseOver) }

/-- The release of a block barrier whose arrivals' accesses are performed (R134, R363). -/
theorem State.barRelease?_go {s : State} {n : Nat} {b : Block} (hb : s.block? n = some b) (hst : b.st = .resident)
    (hwaits : b.barWaiters ≠ []) (hops : ∀ o ∈ s.ops, o.gk.block = n → o.body.holdsFence .clu = false)
    (hcmds : ∀ c ∈ s.cmds, c.gk.block = n → c.accepted = true) (hseen : ∀ h ∈ b.groups, s.observedDone ⟨n, h.index⟩ h.seen = true) :
    s.barRelease? n = some ((s.modBlock n Block.pastBar).l1Drop (fun l => (b.barWaiters.map (·.core)).contains l.core)) := by
  have hquiet : b.barWaiters.all (fun g => s.observedDone ⟨n, g.index⟩ g.seen &&
      !s.ops.any (fun o => o.gk == ⟨n, g.index⟩ && o.body.holdsFence .clu) &&
      !s.cmds.any (fun c => c.gk == ⟨n, g.index⟩ && !c.accepted)) = true := by
    simp only [List.all_eq_true, Bool.and_eq_true, Bool.not_eq_true', List.any_eq_false, beq_iff_eq, not_and, Bool.not_eq_true,
      Bool.not_eq_false]
    refine fun g hg => ⟨⟨hseen g (List.mem_of_mem_filter hg), fun o ho hk => ?_⟩, fun c hc hk => ?_⟩
    · exact hops o ho (by rw [hk])
    · exact hcmds c hc (by rw [hk])
  rw [Block.barWaiters] at hwaits hquiet
  simp only [State.barRelease?, hb, hwaits, hquiet, hst]
  rfl

/-! ### Stage barriers -/

theorem State.block?_dropOp {s : State} {n : Nat} {b : Block} (hb : s.block? n = some b) (hst : b.st ≠ .ended) (id : Nat) :
    (s.dropOp id).block? n = some b :=
  State.block?_releaseBlocks (s := { s with ops := s.ops.filter (fun o => !(o.id == id)) }) hb hst

/-- The waiters of a resident block's stage barriers look at their phases: its groups, sequencers and cores' L1s change (R135, R263). -/
theorem State.stageWake_eq {s : State} {n : Nat} {b : Block} (hb : s.block? n = some b) (hst : b.st = .resident) :
    ∃ f q p, s.stageWake n = ({ s.modBlock n f with seqs := q } : State).l1Drop p ∧ ∀ c, (f c).serial = c.serial ∧ (f c).sbar = c.sbar := by
  simp only [State.stageWake, hb, hst, bne_self_eq_false, Bool.false_eq_true, if_false]
  exact ⟨_, _, _, rfl, fun _ => ⟨rfl, rfl⟩⟩

/-- No barrier, no work and no byte changes thereby. -/
theorem State.stageWake_spec {s : State} {n : Nat} {b : Block} (hb : s.block? n = some b) (hst : b.st = .resident) :
    (∃ b', (s.stageWake n).block? n = some b' ∧ b'.sbar = b.sbar) ∧ (s.stageWake n).ops = s.ops ∧ SameBytes s (s.stageWake n) := by
  obtain ⟨f, q, p, heq, hf⟩ := State.stageWake_eq hb hst
  have hblock := State.block?_modBlock s n n f (fun c => (hf c).1)
  rw [hb, Option.map_some, if_pos (State.block?_serial hb)] at hblock
  exact heq ▸ ⟨⟨f b, hblock, (hf b).2⟩, rfl, fun _ _ => rfl⟩

/-- R134, R263, R264, R363: the slots that wait at the block barrier go on, and an arrival on a stage barrier becomes visible. -/
theorem barriersRelease_holds : Part.BarriersRelease := by
  refine ⟨fun s n b i g m hb hst hg ⟨ph, hw, hph⟩ hwait hops hcmds hseen => ?_, fun s o b blk n ho hbody hb hst hrel hregs => ?_⟩
  · have hmem : m.val ∈ g.slotsFor b.phaseOver := Group.mem_slotsFor m.isLt hwait hw (by simpa [Block.phaseOver] using hph)
    have hwaits : g ∈ b.barWaiters := List.mem_filter.mpr ⟨List.mem_of_getElem? hg, by simpa using List.ne_nil_of_mem hmem⟩
    have hgo := State.barRelease?_go hb hst (List.ne_nil_of_mem hwaits) hops hcmds hseen
    have hblock : (s.modBlock n Block.pastBar).block? n = some b.pastBar := by
      rw [State.block?_modBlock s n n Block.pastBar (fun _ => rfl), hb, Option.map_some, if_pos (State.block?_serial hb)]
    have hslot := Group.passIf_slot_of_mem m.isLt hmem
    obtain ⟨hready, hpc⟩ := Slot.pass_of_wait hwait 4
    refine ⟨_, g.passIf b.phaseOver, next_getD hgo, ?_, (g.passIf_wakesOnly _).regs, fun _ _ => rfl, hslot ▸ hready, hslot ▸ hpc,
      hslot ▸ Slot.pass_mask _ _, fun l hl => ?_⟩
    · refine (congrArg (Option.bind · (fun c => c.groups[i]?)) hblock).trans ?_
      simp [Block.pastBar, hg]
    · intro hcore
      have hkept := (List.mem_filter.mp hl).2
      simp only [Bool.not_eq_true', List.contains_eq_mem, decide_eq_false_iff_not, hcore] at hkept
      exact hkept (List.mem_map_of_mem hwaits)
  · have hblock := State.block?_modBlock s blk blk (fun b => { b with sbar := b.sbar.set n b.sbar[n].arrive }) (fun _ => rfl)
    rw [hb, Option.map_some, if_pos (State.block?_serial hb)] at hblock
    have hdrop := State.block?_dropOp hblock (by simp [hst]) o.id
    obtain ⟨⟨b', hb', hbars⟩, hkept, hbytes⟩ := State.stageWake_spec hdrop hst
    refine ⟨_, b', next_getD ?_, ?_, hb', ?_, fun i => ?_, rfl⟩
    · rw [ho, Option.bind_some]
      simp only [State.arrival?, hbody, hrel, List.any_eq_false.mpr (fun x hx => Bool.not_eq_true _ ▸ hregs x hx), Bool.not_false,
        Bool.and_self, if_true]
    · rw [State.op?, hkept]
      exact State.op?_dropOp _ o.id
    · exact (s.modBlock_bytes _ _).trans ((State.dropOp_bytes _ _).trans hbytes)
    · rw [hbars]
      exact Vector.set_getElem_fin b.sbar n i _

end Sys2Proof.Machine

/-- Settles O52: a refill and a mark's end change one group; a barrier's release lets its waiters pass, an arrival completes the
phase where it brings the count. -/
theorem refillsFixedWritesAndBarriers : Obligations.RefillsFixedWritesAndBarriers :=
  ⟨Sys2Proof.Machine.refillsAndFixedWrites_holds, Sys2Proof.Machine.barriersRelease_holds⟩

end

section
/-! Affine results and the exact-stride fault (R189, R315). -/
open Sys2Proof Sys2Proof.Machine
namespace Sys2Proof.Machine

section
variable {i : Instr} {s : State} {f : Form} {bad cls : View → Bool} {body : View → Res} {w : View}
  (hx : exec i s = .next (s.issue f bad cls body)) (hi : s.Issues f bad cls w) (hc : w.Calm)
include hx hi hc

/-- An instruction that only writes a destination goes on, and keeps the registers that its meaning leaves. -/
theorem goesOn_of_writes {d : Done} (hb : body w = .done d) (hd : WritesOnly w d) :
    ∃ t g', exec i s = .next t ∧ OnlyGroup s t w.k g' ∧ Advanced w f.len g' ∧ SameFrame w.g g' ∧ SameRegs d.g g' := by
  obtain ⟨hflow, hpost, hafter, hframe⟩ := hd
  obtain ⟨g', hg', hl⟩ := State.commit_plain (f := f) hi.view hc hpost hafter
  have hregs := leaves_regs hflow hl
  have hsib : d.g.slot (sib w.n) = w.g.slot (sib w.n) := by
    rw [hframe]
    rfl
  refine ⟨_, g', (exec_of_issues hx hi hb).trans rfl, hg', advanced_fall hi.ready hflow hsib (by rw [hframe]) hl, ?_, ?_⟩
  · unfold SameFrame
    rw [hregs, hframe]
  · exact ⟨by rw [hregs], by rw [hregs], by rw [hregs], by rw [hregs], by rw [hregs]⟩

/-- An instruction that writes an A register computes an affine result. -/
theorem computesA_of_doneA {n : Fin 32} {r : Affine} (hb : body w = .done (w.doneA n r)) : ComputesA i s w f.len n r := by
  obtain ⟨t, g', hnext, honly, hadv, hframe, hregs⟩ := goesOn_of_writes hx hi hc hb (w.doneA_writes n r)
  refine ⟨t, g', hnext, honly, hadv, hframe, hregs.v.symm, hregs.s.symm, hregs.k.symm, hregs.p.symm, fun m => ?_⟩
  rw [← hregs.a]
  exact Vector.set_getElem_fin w.g.a n m r

end

/-- The A datapath of a two-source instruction: the base and the stride where that fits in 32 bits, and else the fault (R189). -/
theorem affine_of_twoA {i : Instr} {s : State} {w : View} {len : Nat} {e : Bool} {n : Fin 32} {x y : Opnd} {cls : View → Bool}
    {f : Word → Word → Word} {aff : View → DWord × Int} (hx : exec i s = .next (s.twoA len e (.a n) x y cls f aff))
    (hi : s.Issues (formTwo len e (.a n) x y false) noCheck (fun w => !(w.clsRule (.a n) [x, y] true && cls w)) w) (hc : w.Calm)
    {b : DWord} {t : Int} (haff : aff w = (b, t)) :
    (-(2 ^ 31 : Int) ≤ t ∧ t < (2 ^ 31 : Int) → ComputesA i s w len n ⟨b, BitVec.ofInt 32 t⟩) ∧
    (¬(-(2 ^ 31 : Int) ≤ t ∧ t < (2 ^ 31 : Int)) → Raises i s w { code := 0x14, sub := 0, tval := 0, slot := w.n }) := by
  have hfits : (-2147483648 ≤ t ∧ t ≤ 2147483647) ↔ (-(2 ^ 31 : Int) ≤ t ∧ t < (2 ^ 31 : Int)) := by omega
  refine ⟨fun hin => computesA_of_doneA hx hi hc ?_, fun hout => raises_of_raise hx hi ?_⟩
  · simp only [haff, View.affine, if_pos (hfits.mpr hin)]
  · simp only [haff, View.affine, if_neg (hfits.not.mpr hout)]
    rfl

/-- `add`, `sub`, `mul` and `shl` are the one two-source operation, each with its class check, its base and its stride. -/
theorem affineTwo_exec (s : State) (e : Bool) (n : Fin 32) (x y : Opnd) : ∀ c ∈ affineTwo, ∃ cls f aff,
    exec (c.make e (.a n) x y) s = .next (s.twoA (opLen [x, y]) e (.a n) x y cls f aff) ∧
    c.clsBad (.a n) x y = (fun w => !(w.clsRule (.a n) [x, y] true && cls w)) ∧ ∀ w, aff w = (c.base w x y, c.stride w x y) := by
  have hplain : affineClasses (.a n) x y = fun w => !(w.clsRule (.a n) [x, y] true && true) := by
    funext w
    rw [Bool.and_true]
    rfl
  simp only [affineTwo, List.forall_mem_cons]
  refine ⟨⟨_, _, _, rfl, hplain, fun _ => rfl⟩, ⟨_, _, _, rfl, hplain, fun _ => rfl⟩, ⟨_, _, _, rfl, rfl, fun w => ?mul⟩,
    ⟨_, _, _, rfl, rfl, fun w => ?shl⟩, List.forall_mem_nil _⟩
  case mul =>
    simp only [affMul]
    split <;> rfl
  case shl =>
    have hbase : (w.aval x).base <<< count6 (w.sval y) = BitVec.ofNat 64 ((w.aval x).base.toNat * 2 ^ ((w.sval y).toNat % 64)) := by
      refine BitVec.eq_of_toNat_eq ?_
      rw [BitVec.toNat_shiftLeft, Nat.shiftLeft_eq, BitVec.toNat_ofNat]
      rfl
    simp only [affShl, hbase]
    rfl

end Sys2Proof.Machine

/-- Settles O1: the four instructions share the A datapath, which tests the exact stride. -/
theorem affineTwoSource : Obligations.AffineTwoSource := by
  intro s w e n x y c hmem hi hc
  obtain ⟨cls, f, aff, hx, hcls, haff⟩ := affineTwo_exec s e n x y c hmem
  exact affine_of_twoA hx (hcls ▸ hi) hc (haff w)

end

section
/-! The placement of blocks and of gangs (R180, R182, R184, R434 to R436). -/
open Sys2Proof Sys2Proof.Machine
namespace Sys2Proof.Machine

/-! ### What the trace of a dispatch changes -/

theorem State.dtHeader_frame (s : State) (c : Ctx) : RecordFrame s (s.dtHeader c) := by
  unfold State.dtHeader
  split
  · exact (RecordFrame.ite (s.postNum_frame _ _ _) (.refl s)).trans (State.postNum_frame _ _ _ _)
  · exact .refl s

theorem State.dtRecord_frame (s : State) (asid : Nat) (e : List Byte) : RecordFrame s (s.dtRecord asid e) := by
  unfold State.dtRecord
  split
  · split
    · refine .ite (.refl s) ?_
      exact ((RecordFrame.ite (s.post_frame _) (.refl s)).trans (State.modCtx_frame _ _ _)).trans (State.dtHeader_frame _ _)
    · exact .refl s
  · exact .refl s

theorem State.dtConsume_frame (s : State) (asid : Nat) (st : Stream) : RecordFrame s (s.dtConsume asid st) := by
  unfold State.dtConsume
  split
  · split
    · dsimp only
      split
      · exact s.modCtx_frame _ _
      · exact .refl s
    · exact .refl s
  · exact .refl s

/-- Noting an event changes memories, what is posted, and what is kept of contexts (R478, R479). -/
theorem State.dtNote_frame (s : State) (asid : Nat) (st : Stream) (e : List Byte) : RecordFrame s (s.dtNote asid st e) := by
  unfold State.dtNote
  split
  · exact .ite (s.dtRecord_frame _ _) (.ite (s.dtConsume_frame _ _) (.refl s))
  · exact .refl s

theorem RecordFrame.placement {s t : State} (h : RecordFrame s t) :
    t.launches = s.launches ∧ t.rays = s.rays ∧ t.lastCluster = s.lastCluster ∧ t.lastQueue = s.lastQueue := by
  obtain ⟨_, _, _, _, _, _, _, _, rfl⟩ := h
  exact ⟨rfl, rfl, rfl, rfl⟩

/-! ### A block that is put on its cluster -/

/-- The groups of a block become resident: traces may begin, nothing else changes (R474). -/
theorem State.enrol_frame (s : State) (b : Block) : ∃ ts, s.enrol b = { s with traces := ts } := by
  unfold State.enrol
  generalize b.groups.filter (fun g => !g.ended) = gs
  dsimp only
  generalize s.corrOfBlock b = corr
  induction gs generalizing s with
  | nil => exact ⟨_, rfl⟩
  | cons g gs ih =>
    rw [List.foldl_cons]
    split
    · exact ih _
    · exact ih s

/-- The block as it stands on its cluster: a matrix block has a sequencer (R243). -/
def Block.bound (b : Block) (seq : Nat) : Block := if b.mx then { b with seq := some seq } else b

theorem Block.bound_frame (b : Block) (seq : Nat) : ∃ q, b.bound seq = { b with seq := q } := by
  unfold Block.bound
  split
  · exact ⟨_, rfl⟩
  · exact ⟨_, rfl⟩

theorem State.putBlock_eq (s : State) (b : Block) (ttrap : Bool) : ∃ qs, s.putBlock b ttrap =
    ({ s with blocks := s.blocks ++ [b.bound (s.freeSeq b.cluster)], seqs := qs,
              lastCluster := (b.bound (s.freeSeq b.cluster)).cluster } : State).enrol (b.bound (s.freeSeq b.cluster)) := ⟨_, rfl⟩

/-- A block is put behind the others, on the cluster after which the rotation goes on (R435). -/
theorem State.putBlock_spec (s : State) (b : Block) (ttrap : Bool) : let t := s.putBlock b ttrap
    (∃ q, t.blocks = s.blocks ++ [{ b with seq := q }]) ∧ t.launches = s.launches ∧ t.rays = s.rays ∧ t.lastCluster = b.cluster ∧
      t.lastQueue = s.lastQueue := by
  obtain ⟨q, hbound⟩ := b.bound_frame (s.freeSeq b.cluster)
  obtain ⟨qs, hput⟩ := s.putBlock_eq b ttrap
  rw [hbound] at hput
  obtain ⟨ts, hts⟩ := State.enrol_frame _ { b with seq := q }
  rw [hput, hts]
  exact ⟨⟨q, rfl⟩, rfl, rfl, rfl, rfl⟩

/-! ### A group at its start -/

/-- A group starts with the registers that the rules give (R182, R194). -/
theorem Group.start_fresh (d : Desc) (index core res : Nat) (role : Role) (gid : Word) (vregs : Nat) (pc : DWord) (mask : Mask) (born : Nat) :
    let g := Group.start d index core res role gid vregs pc mask born
    Fresh d pc mask g ∧ (∀ m : Fin 128, g.v[m] = Vector.replicate 32 0) ∧ g.s[2] = 0 := by
  have hv : ∀ m : Fin 128, (Group.start d index core res role gid vregs pc mask born).v[m] = Vector.replicate 32 0 := by
    simp [Group.start]
  have hs : ∀ n : Fin 64, 2 ≤ n.val → (Group.start d index core res role gid vregs pc mask born).s[n] = 0 := by
    intro n hn
    have h0 : 0 ≠ n.val := by omega
    have h1 : 1 ≠ n.val := by omega
    simp [Group.start, h0, h1]
  refine ⟨⟨⟨rfl, rfl⟩, ⟨rfl, rfl⟩, rfl, fun n _ => hv n, ?_, ?_, fun n hn => hs n (by omega), ?_, ⟨rfl, rfl, rfl, rfl⟩,
    ⟨rfl, rfl, rfl, rfl, rfl, rfl⟩⟩, hv, hs 2 (by decide)⟩
  · simp [Group.start]
  · simp [Group.start]
  · simp [Group.start]

theorem Fresh.withRsv {d : Desc} {entry : DWord} {mask : Mask} {g : Group} (h : Fresh d entry mask g) (n : Nat) :
    Fresh d entry mask { g with rsv := n } :=
  ⟨h.slots, h.stack, h.emask, h.v, h.p, h.consts, h.s, h.a, h.modes, h.counts⟩

/-! ### The next block of a launch -/

/-- The block that a launch places next on a cluster, from a first core on (R182, R184). -/
def State.nextBlock (s : State) (l : Launch) (cluster c0 : Nat) : Block :=
  Block.start s.ids l l.nextBlock cluster l.desc.need (s.gridGroups l.desc cluster c0 l.nextBlock l.desc.rsv)

/-- Putting the next block on a cluster adds the block, counts it to its launch, and turns the rotations (R434, R435). -/
theorem State.putNext_spec (s : State) (l : Launch) (cluster c0 : Nat) : let t := s.putNext l cluster c0
    (∃ q, t.blocks = s.blocks ++ [{ s.nextBlock l cluster c0 with seq := q }]) ∧
      t.launches = (s.modLaunch l.id (fun l => { l with nextBlock := l.nextBlock + 1 })).launches ∧ t.lastCluster = cluster ∧
      t.lastQueue = l.q := by
  obtain ⟨hblocks, hlaunches, -, hcluster, hqueue⟩ :=
    State.putBlock_spec { s with ids := s.ids + 1, lastQueue := l.q } (s.nextBlock l cluster c0) l.desc.ttrap
  have hnote : RecordFrame _ (s.putNext l cluster c0) := State.dtNote_frame _ _ _ _
  obtain ⟨hlaunches', -, hcluster', hqueue'⟩ := hnote.placement
  exact ⟨hblocks.imp (fun _ h => hnote.blocks.trans h), hlaunches'.trans (congrArg (List.map _) hlaunches), hcluster'.trans hcluster,
    hqueue'.trans hqueue⟩

/-- Every group of the next block has its number, its core, its role, and its starting registers (R182, R435). -/
theorem State.gridGroups_spec {s : State} {d : Desc} {cluster c0 b rsv n : Nat} {g : Group}
    (hg : (s.gridGroups d cluster c0 b rsv)[n]? = some g) : g.index = n ∧ g.core = 8 * cluster + (c0 + n) % 8 ∧ g.role = d.role n ∧
      g.vregs = 8 * d.vregs ∧ Fresh d d.entry 0xFFFFFFFF#32 g ∧ (∀ m : Fin 128, g.v[m] = Vector.replicate 32 0) ∧ g.s[2] = 0 := by
  rw [State.gridGroups, List.getElem?_map, Option.map_eq_some_iff] at hg
  obtain ⟨i, hi, rfl⟩ := hg
  obtain ⟨_, hin⟩ := List.getElem?_eq_some_iff.mp hi
  obtain rfl : n = i := (List.getElem_range _).symm.trans hin
  obtain ⟨hfresh, hv, hs2⟩ := Group.start_fresh d n (8 * cluster + (c0 + n) % 8) _ (d.role n) (gidOf b n) (8 * d.vregs) d.entry fullMask s.clk
  exact ⟨rfl, rfl, rfl, rfl, hfresh.withRsv rsv, hv, hs2⟩

theorem State.isRepro_of_ctx {s : State} {asid : Nat} {c : Ctx} (hc : s.ctx? asid = some c) (hr : c.repro = false) : s.isRepro asid = false := by
  simp [State.isRepro, hc, hr]

/-- Outside reproducible contexts a block goes to the first cluster in rotation that takes it (R435). -/
theorem State.placeOne_go {s : State} {l : Launch} {c : Ctx} {k : Nat} (hl : s.launch? l.id = some l) (hblocks : s.hasBlocks l = true)
    (hc : s.ctx? l.asid = some c) (hr : c.repro = false) (hk : (s.rotation c.confined).find? (fun c => s.takes l c (s.bestCore c)) = some k) :
    s.placeOne l.id = .placed (s.putNext l k (s.bestCore k)) := by
  simp only [State.placeOne, hl, hblocks, Bool.not_true, Bool.false_eq_true, if_false,
    State.dtAsk_free (State.isRepro_of_ctx hc hr), hc, Option.bind_some, hk]

/-- The block that is served next is placed, and its gang waits no more (R434, R436). -/
theorem State.blockPlace_placed {s t : State} {l : Launch} (hl : s.launch? l.id = some l) (hblocks : s.hasBlocks l = true)
    (ht : s.placing l = .placed t) (hserved : s.serves (s.rankOf l.cls l) = true) :
    s.blockPlace? l.id = some { t with gangs := t.gangs.filter (fun g => g.1 != l.id) } := by
  simp only [State.blockPlace?, hl, hblocks, Bool.not_true, Bool.false_eq_true, if_false, ht, hserved, if_true]

/-- A gang that does not fit becomes the waiting gang of its priority, where none waits (R436). -/
theorem State.blockPlace_waits {s : State} {l : Launch} (hl : s.launch? l.id = some l) (hblocks : s.hasBlocks l = true)
    (hfull : s.placing l = .full) (hgang : l.desc.gang ≠ 0) (hnone : ∀ g ∈ s.gangs, g.2 ≠ l.prio) :
    s.blockPlace? l.id = some { s with gangs := s.gangs ++ [(l.id, l.prio)] } := by
  have hfirst : (decide (l.desc.gang = 0) || s.gangs.any (fun g => g.2 == l.prio)) = false := by
    simpa [hgang] using hnone
  simp only [State.blockPlace?, hl, hblocks, Bool.not_true, Bool.false_eq_true, if_false, hfull, hfirst]

end Sys2Proof.Machine

/-- Settles O17: a block that is served goes to the first cluster that takes it, and stands there with its groups at their start. -/
theorem blocksPlaced : Obligations.BlocksPlaced := by
  refine ⟨fun s l hl hblocks => ⟨fun t ht hserved => next_getD (State.blockPlace_placed hl hblocks ht hserved),
    fun hfull hgang hnone => next_getD (State.blockPlace_waits hl hblocks hfull hgang hnone)⟩,
    fun s l c k hl hblocks hc hr hk => State.placeOne_go hl hblocks hc hr hk, fun s l cluster c0 hl => ?_⟩
  obtain ⟨⟨n, hblocks⟩, hlaunches, hcluster, hqueue⟩ := s.putNext_spec l cluster c0
  refine ⟨?_, hcluster, hqueue, { s.nextBlock l cluster c0 with seq := n }, ?_, ?_⟩
  · have hcount := s.launch?_modLaunch l.id l.id (fun l => { l with nextBlock := l.nextBlock + 1 }) (fun _ => rfl)
    rw [hl, Option.map_some, if_pos rfl] at hcount
    rw [State.launch?, hlaunches]
    exact congrArg (Option.map (·.nextBlock)) hcount
  · rw [hblocks]
    exact List.mem_append_right _ List.mem_cons_self
  · exact ⟨rfl, rfl, rfl, rfl, rfl, rfl, rfl, rfl, rfl, rfl, rfl, rfl, rfl, by simp [State.nextBlock, Block.start, State.gridGroups],
      fun _ _ => State.gridGroups_spec⟩

end

section
/-! Ray groups that a wave former forms (R182, R209, R210, R217, R219, R434, R494). -/
open Sys2Proof Sys2Proof.Machine
namespace Sys2Proof.Machine

/-! ### The rays of a group -/

/-- The same slot of the ray pool. -/
def Ray.SameSlot (q r : Ray) : Prop := q.part = r.part ∧ q.asid = r.asid ∧ q.slot = r.slot

/-- The ray in its episode. -/
def Ray.started (r : Ray) : Ray := { r with st := .inEpisode }

theorem State.mem_putRay {s : State} {q r : Ray} (h : q ∈ s.rays) (hslot : q.SameSlot r) : r ∈ (s.putRay r).rays :=
  List.mem_map.mpr ⟨q, h, if_pos hslot⟩

/-- A ray of a slot stays one through a replacement of a ray, and one in its episode through that by another. -/
theorem State.putRay_started {s : State} {q r : Ray} (x : Ray) (h : q ∈ s.rays) (hslot : q.SameSlot r) :
    ∃ q' ∈ (s.putRay x.started).rays, q'.SameSlot r ∧ (q.st = .inEpisode → q'.st = .inEpisode) := by
  by_cases hx : q.SameSlot x
  · obtain ⟨h1, h2, h3⟩ := hx
    obtain ⟨h1', h2', h3'⟩ := hslot
    exact ⟨x.started, State.mem_putRay h ⟨h1, h2, h3⟩, ⟨h1.symm.trans h1', h2.symm.trans h2', h3.symm.trans h3'⟩, fun _ => rfl⟩
  · exact ⟨q, List.mem_map.mpr ⟨q, h, if_neg hx⟩, hslot, id⟩

/-- The rays that a plan names enter their episode (R210). -/
def State.startRays (s : State) (rs : List Ray) : State := rs.foldl (fun s r => s.putRay r.started) s

theorem State.startRays_keeps (rs : List Ray) {s : State} {q r : Ray} (h : q ∈ s.rays) (hslot : q.SameSlot r) :
    ∃ q' ∈ (s.startRays rs).rays, q'.SameSlot r ∧ (q.st = .inEpisode → q'.st = .inEpisode) := by
  induction rs generalizing s q with
  | nil => exact ⟨q, h, hslot, id⟩
  | cons x rs ih =>
    obtain ⟨q', hq', hslot', hst'⟩ := s.putRay_started x h hslot
    obtain ⟨q'', hq'', hslot'', hst''⟩ := ih hq' hslot'
    exact ⟨q'', hq'', hslot'', hst'' ∘ hst'⟩

theorem State.startRays_started {rs : List Ray} {s : State} {r : Ray} (hr : r ∈ rs) (h : r ∈ s.rays) :
    ∃ q ∈ (s.startRays rs).rays, q.SameSlot r ∧ q.st = .inEpisode := by
  obtain ⟨before, after, rfl⟩ := List.append_of_mem hr
  obtain ⟨q, hq, hslot, -⟩ := State.startRays_keeps before h ⟨rfl, rfl, rfl⟩
  have hput : r.started ∈ ((s.startRays before).putRay r.started).rays := State.mem_putRay hq hslot
  obtain ⟨q', hq', hslot', hst'⟩ := State.startRays_keeps after hput (r := r) ⟨rfl, rfl, rfl⟩
  refine ⟨q', ?_, hslot', hst' rfl⟩
  rw [State.startRays, List.foldl_append]
  exact hq'

theorem State.startRays_frame (s : State) (rs : List Ray) : ∃ xs, s.startRays rs = { s with rays := xs } := by
  induction rs generalizing s with
  | nil => exact ⟨_, rfl⟩
  | cons x rs ih => exact ih _

/-! ### The group that forms -/

/-- The group of a plan: its launch's start, one lane for each ray (R182, R209, R210). -/
theorem State.rayGroup_fresh (s : State) (p : FormPlan) (part : Nat) :
    Fresh p.l.desc p.ent.pc (maskOf (fun i => decide (i.val < p.rays.length))) (s.rayGroup p part) := by
  obtain ⟨h, -, -⟩ := Group.start_fresh p.l.desc 0 (8 * p.cluster + p.c0) (s.freeRes (8 * p.cluster + p.c0)) .gen
    (gidOf p.l.formed.toList.sum 0) (8 * p.ent.vregs) p.ent.pc (maskOf (fun i => decide (i.val < p.rays.length))) s.clk
  obtain ⟨hconst0, hconst1⟩ := h.consts
  refine ⟨h.slots, h.stack, h.emask, fun n hn => ?_, h.p, ⟨?_, ?_⟩, fun n hn => ?_, h.a, h.modes, h.counts⟩
  · rw [← h.v n hn]
    simp [State.rayGroup, Nat.not_lt.mpr hn]
  · rw [← hconst0]
    simp [State.rayGroup]
  · rw [← hconst1]
    simp [State.rayGroup]
  · have hne : 2 ≠ n.val := by omega
    rw [← h.s n hn]
    simp [State.rayGroup, hne]

/-- Lane i of v0 to v15 holds the record of the i-th ray, and the lane's handle names it (R210). -/
theorem State.rayGroup_lanes (s : State) (p : FormPlan) (part : Nat) (i : Fin 32) :
    (∀ k : Fin 16, ((s.rayGroup p part).v[k.val]'(by omega))[i] = ((p.rays[i.val]?).map (fun r => r.w[k])).getD 0) ∧
      (s.rayGroup p part).handle[i] = ((p.rays[i.val]?).map (fun r => handleOf part r.slot)).getD 0xFFFFFFFF#32 := by
  cases hray : p.rays[i.val]? with
  | none => simp [State.rayGroup, hray]
  | some r => simp [State.rayGroup, hray]

theorem State.rayGroup_shid (s : State) {p : FormPlan} {r : Ray} (part : Nat) (h : p.rays.head? = some r) :
    (s.rayGroup p part).s[2] = BitVec.ofNat 32 r.shid := by
  simp [State.rayGroup, h]

/-! ### What forming leaves -/

/-- The block of a ray group (R209). -/
def State.rayBlock (s : State) (part : Nat) (p : FormPlan) : Block :=
  { Block.start s.ids p.l 0 p.cluster p.ent.need [s.rayGroup p part] with
    bx := 0, by_ := 0, bz := 0, isRay := true, formation := p.l.formed.toList.getD part 0 }

/-- The rays have started, on the turn of the plan's queue. -/
def State.raysStarted (s : State) (p : FormPlan) : State := State.startRays { s with lastQueue := p.l.q } p.rays

/-- The block of the plan stands on its cluster. -/
def State.rayBlockPut (s : State) (part : Nat) (p : FormPlan) : State :=
  ({ s.raysStarted p with ids := (s.raysStarted p).ids + 1 } : State).putBlock (s.rayBlock part p) false

theorem State.rayBlockPut_spec (s : State) (part : Nat) (p : FormPlan) : let t := s.rayBlockPut part p
    (∃ q, t.blocks = (s.raysStarted p).blocks ++ [{ s.rayBlock part p with seq := q }]) ∧ t.rays = (s.raysStarted p).rays ∧
      t.lastQueue = p.l.q := by
  obtain ⟨hblocks, -, hrays, -, hqueue⟩ :=
    State.putBlock_spec { s.raysStarted p with ids := (s.raysStarted p).ids + 1 } (s.rayBlock part p) false
  obtain ⟨xs, hstart⟩ := State.startRays_frame { s with lastQueue := p.l.q } p.rays
  exact ⟨hblocks, hrays, hqueue.trans (congrArg State.lastQueue hstart)⟩

/-- What follows in the formation of a group: its bin's time limit goes, its launch counts it, an L1 is emptied, the event is noted
(R129, R479). -/
def State.noteFormed (s : State) (part asid : Nat) (p : FormPlan) (f : Launch → Launch) (l1 : L1Line → Bool) (e : List Byte) : State :=
  (((s.clearTimeout part asid true p.bin).modLaunch p.l.id f).l1Drop l1).dtNote asid (.formation part) e

theorem State.noteFormed_keeps (s : State) (part asid : Nat) (p : FormPlan) (f : Launch → Launch) (l1 : L1Line → Bool) (e : List Byte) :
    let t := s.noteFormed part asid p f l1 e
    t.blocks = s.blocks ∧ t.rays = s.rays ∧ t.lastQueue = s.lastQueue := by
  have hnote : RecordFrame _ (s.noteFormed part asid p f l1 e) := State.dtNote_frame _ _ _ _
  obtain ⟨-, hrays, -, hqueue⟩ := hnote.placement
  exact ⟨hnote.blocks, hrays, hqueue⟩

theorem State.formGroup_eq (s : State) (part asid : Nat) (p : FormPlan) :
    ∃ f l1 e, s.formGroup part asid p = (s.rayBlockPut part p).noteFormed part asid p f l1 e := by
  unfold State.formGroup State.noteFormed State.rayBlockPut State.raysStarted State.startRays State.rayBlock Ray.started
  exact ⟨_, _, _, rfl⟩

/-- Forming a group adds its block, starts its rays, and turns the rotation of queues (R210, R434). -/
theorem State.formGroup_spec (s : State) (part asid : Nat) (p : FormPlan) :
    (∃ q, { s.rayBlock part p with seq := q } ∈ (s.formGroup part asid p).blocks) ∧
      (s.formGroup part asid p).rays = (s.raysStarted p).rays ∧ (s.formGroup part asid p).lastQueue = p.l.q := by
  obtain ⟨⟨q, hblocks⟩, hrays, hqueue⟩ := s.rayBlockPut_spec part p
  obtain ⟨f, l1, e, hform⟩ := s.formGroup_eq part asid p
  obtain ⟨hblocks', hrays', hqueue'⟩ := (s.rayBlockPut part p).noteFormed_keeps part asid p f l1 e
  rw [hform, hblocks', hrays', hqueue', hblocks]
  exact ⟨⟨q, List.mem_append_right _ List.mem_cons_self⟩, hrays, hqueue⟩

end Sys2Proof.Machine

/-- Settles O16: whichever former serves, the plan's group stands in a new block with a lane for each ray, and its rays have started. -/
theorem rayGroupsForm : Obligations.RayGroupsForm := by
  refine ⟨fun s part asid p starve hplan hserved => ?_, fun s part asid p _ => ?_, fun s part asid hplan => ?_⟩
  · cases starve with
    | false => exact next_getD (by simp only [State.waveForm?, show s.formPlan? part asid = some p from hplan, hserved, if_true])
    | true => exact next_getD (by simp only [State.waveStarve?, show s.starvePlan? part asid = some p from hplan, hserved, if_true])
  · obtain ⟨⟨q, hblock⟩, hrays, hqueue⟩ := s.formGroup_spec part asid p
    refine ⟨⟨_, s.rayGroup p part, hblock, rfl, rfl, rfl, rfl, rfl, rfl, rfl, rfl, rfl, rfl, rfl, s.rayGroup_fresh p part,
      fun i => (s.rayGroup_lanes p part i).1, fun i => (s.rayGroup_lanes p part i).2, fun r => s.rayGroup_shid part⟩, fun r hr hin => ?_, hqueue⟩
    rw [hrays]
    obtain ⟨q, hq, ⟨h1, h2, h3⟩, hst⟩ := State.startRays_started (s := { s with lastQueue := p.l.q }) hr hin
    exact ⟨q, hq, h1, h2, h3, hst⟩
  · simp only [State.starvePlan?, hplan, Bool.or_true, if_true]

end

section
/-! Divergence, reconvergence and the exit of lanes (R194, R195, R357, R361). -/
open Sys2Proof Sys2Proof.Machine
namespace Sys2Proof.Machine

/-! ### The two slots of a group -/

theorem Group.slot_setSlot_of_sib (g : Group) (n : Nat) (x : Slot) : (g.setSlot (sib n) x).slot n = g.slot n := by
  unfold Group.setSlot Group.slot sib
  by_cases h : n = 0 <;> simp [h]

theorem Group.setSlot_self (g : Group) (n : Nat) : g.setSlot n (g.slot n) = g := by
  unfold Group.setSlot Group.slot
  split <;> rfl

/-- What holds of a slot and of its sibling holds of either slot. -/
theorem Group.slot_cases {P : Slot → Slot → Prop} {g h : Group} {n : Nat} (hn : P (g.slot n) (h.slot n))
    (hs : P (g.slot (sib n)) (h.slot (sib n))) (m : Nat) : P (g.slot m) (h.slot m) := by
  unfold Group.slot sib at *
  by_cases h0 : n = 0 <;> by_cases h1 : m = 0 <;> simp_all

/-! ### A pop -/

theorem Group.popInto_empty {g : Group} (h : g.sd = 0) (n : Nat) : g.popInto n = g := by
  rw [Group.popInto, dif_neg (by omega)]

/-- A pop changes the slots and the depth of the stack. -/
theorem Group.popInto_frame (g : Group) (n : Nat) : ∃ x y d, g.popInto n = { g with slot0 := x, slot1 := y, sd := d } := by
  unfold Group.popInto
  split
  · dsimp only
    rw [Group.setSlot_frame]
    exact ⟨_, _, _, rfl⟩
  · exact ⟨_, _, _, rfl⟩

theorem Group.popInto_slot_sib (g : Group) (n : Nat) : (g.popInto n).slot (sib n) = g.slot (sib n) := by
  unfold Group.popInto
  split
  · exact g.slot_setSlot_sib n _
  · rfl

/-- A pop takes the top of the stack, or nothing where that is empty (R194). -/
theorem Group.popInto_popped {g : Group} (h : g.sd ≤ 16) (n : Nat) : Popped g (g.popInto n) n := by
  by_cases h0 : g.sd = 0
  · rw [Group.popInto_empty h0]
    exact ⟨rfl, by rw [if_pos h0]; exact ⟨rfl, h0⟩⟩
  · have hpop : 0 < g.sd ∧ g.sd ≤ 16 := ⟨by omega, h⟩
    have hlt : g.sd - 1 < 16 := by omega
    have hstack : (g.setSlot n (Slot.readyAt (g.stack[g.sd - 1]).pc (g.stack[g.sd - 1]).mask)).stack = g.stack := by
      rw [Group.setSlot_frame]
    rw [Group.popInto, dif_pos hpop]
    refine ⟨hstack, ?_⟩
    rw [if_neg h0]
    exact ⟨g.stack[g.sd - 1], by simp [hlt], g.slot_setSlot n _, rfl⟩

theorem Group.popInto_latch {g : Group} {m : Nat} (h : (g.slot m).latch = none) (n : Nat) : ((g.popInto n).slot m).latch = none := by
  unfold Group.popInto
  split
  · show ((g.setSlot n _).slot m).latch = none
    unfold Group.setSlot Group.slot at *
    by_cases hn : n = 0 <;> by_cases hm : m = 0 <;> simp_all [Slot.readyAt, Slot.free]
  · exact h

theorem Popped.of_eq {g g' h h' : Group} {n : Nat} (hp : Popped g g' n) (hstack : h.stack = g.stack) (hsd : h.sd = g.sd)
    (hslot : h.slot n = g.slot n) (hstack' : h'.stack = g'.stack) (hsd' : h'.sd = g'.sd) (hslot' : h'.slot n = g'.slot n) : Popped h h' n := by
  unfold Popped at *
  rw [hstack, hsd, hslot, hstack', hsd', hslot']
  exact hp

theorem Group.refillTrap_none {g : Group} (h : g.sd ≠ 0 ∨ g.sc = 0) (n : Nat) : g.refillTrap n = none := by
  unfold Group.refillTrap
  rw [if_neg]
  simpa using fun h0 => h.resolve_left (not_not_intro h0)

theorem Group.refillTrap_some {g : Group} (h : g.sd = 0) (h' : g.sc ≠ 0) (n : Nat) : g.refillTrap n = some (.plain 5 n) := by
  simp [Group.refillTrap, h, h']

/-! ### What such an instruction leaves of its group -/

theorem Done.leaves_placed {d : Done} {why : Option Nat} (hf : d.flow = .placed why) (w : View) (f : Form) :
    d.leaves w f = { d.g with icnt := d.g.icnt + 1 } := by
  simp only [Done.leaves, hf, Flow.counts, Flow.apply, if_true]

/-- The slot of a taken branch (R197). -/
def View.jumping (w : View) (pc : DWord) : Slot :=
  { w.issued.noGuard with pc := pc &&& ~~~1#64, st := .wait, wait := some .refill, latch := none }

theorem Done.leaves_jump {d : Done} {pc : DWord} (hf : d.flow = .jump pc) (w : View) (f : Form) :
    d.leaves w f = { d.g.setSlot w.n (w.jumping pc) with icnt := d.g.icnt + 1 } := by
  simp only [Done.leaves, hf, Flow.counts, Flow.apply, if_true, View.jumping]
  congr 2
  rw [Group.setSlot_frame]

section
variable {i : Instr} {s : State} {f : Form} {bad cls : View → Bool} {body : View → Res} {w : View}
  (hx : exec i s = .next (s.issue f bad cls body)) (hi : s.Issues f bad cls w) (hc : w.Calm)
include hx hi hc

/-- An instruction that acts on its group alone and leaves its slot without a latch. -/
theorem onlyGroup_of_done {d : Done} (hb : body w = .done d) (hp : d.post = id) (ha : d.after = none)
    (hlatch : ((d.leaves w f).slot w.n).latch = none) : ∃ t, exec i s = .next t ∧ OnlyGroup s t w.k (d.leaves w f) := by
  obtain ⟨g', hg', hl⟩ := State.commit_plain (f := f) hi.view hc hp ha
  have hsame : ({ (d.leaves w f).slot w.n with latch := none } : Slot) = (d.leaves w f).slot w.n := by rw [← hlatch]
  rw [hsame, Group.setSlot_self, or_self] at hl
  exact ⟨_, exec_of_issues hx hi hb, hl ▸ hg'⟩

/-- A taken branch (R197). -/
theorem jumps_of_jump {pc : DWord} (hb : body w = .done { g := w.g, flow := .jump pc }) : Jumps i s w pc := by
  have hleaves := Done.leaves_jump (d := { g := w.g, flow := .jump pc }) rfl w f
  have hslot := w.g.slot_setSlot w.n (w.jumping pc)
  obtain ⟨t, hnext, honly⟩ := onlyGroup_of_done hx hi hc hb rfl rfl (by rw [hleaves]; exact congrArg Slot.latch hslot)
  rw [hleaves] at honly
  have hkept : ({ w.g.setSlot w.n (w.jumping pc) with icnt := w.g.icnt + 1 } : Group).slot w.n = w.jumping pc := hslot
  refine ⟨t, _, hnext, honly, ⟨?_, ?_, ?_, ?_, ?_, w.g.slot_setSlot_sib w.n _, rfl⟩, ?_, ?_⟩
  · rw [hkept]; rfl
  · rw [hkept]; rfl
  · rw [hkept]; rfl
  · rw [hkept]; rfl
  · rw [hkept]; rfl
  · unfold SameFrame
    rw [Group.setSlot_frame]
  · rw [Group.setSlot_frame]
    exact ⟨rfl, rfl, rfl, rfl, rfl⟩

end

/-! ### `brv` -/

theorem SlotState.live_iff {x : SlotState} : x.live = true ↔ x ≠ .free := by
  cases x <;> simp [SlotState.live]

/-- The group of a mixed `brv` before its slots are placed: a live sibling stands on the stack (R195). -/
def View.pushed (w : View) : Group :=
  if h : (w.g.slot (sib w.n)).st.live = true ∧ w.g.sd < 16 then
    { w.g with stack := w.g.stack.set w.g.sd ⟨(w.g.slot (sib w.n)).pc, (w.g.slot (sib w.n)).mask⟩ h.2, sd := w.g.sd + 1 }
  else w.g

theorem View.pushed_spec {w : View} (hsd : w.g.sd ≤ 16) (hroom : ¬((w.g.slot (sib w.n)).st ≠ .free ∧ w.g.sd = 16)) :
    let o := w.g.slot (sib w.n)
    SameRegs w.g w.pushed ∧ if o.st = .free then w.pushed.sd = w.g.sd ∧ w.pushed.stack = w.g.stack
      else w.pushed.sd = w.g.sd + 1 ∧ ∀ j : Fin 16, w.pushed.stack[j] = if j.val = w.g.sd then ⟨o.pc, o.mask⟩ else w.g.stack[j] := by
  dsimp only
  split
  · next hfree =>
    rw [View.pushed, dif_neg (fun h => SlotState.live_iff.mp h.1 hfree)]
    exact ⟨⟨rfl, rfl, rfl, rfl, rfl⟩, rfl, rfl⟩
  · next hlive =>
    have hlt : w.g.sd < 16 := lt_of_le_of_ne hsd (fun h => hroom ⟨hlive, h⟩)
    rw [View.pushed, dif_pos ⟨SlotState.live_iff.mpr hlive, hlt⟩]
    refine ⟨⟨rfl, rfl, rfl, rfl, rfl⟩, rfl, fun j => ?_⟩
    simpa [Fin.ext_iff] using Vector.set_getElem_fin w.g.stack ⟨w.g.sd, hlt⟩ j ⟨(w.g.slot (sib w.n)).pc, (w.g.slot (sib w.n)).mask⟩

/-- The slot that a mixed `brv` leaves behind it, with the lanes that stay. -/
def View.staying (w : View) (t : Mask) : Slot :=
  { w.issued.noGuard with pc := w.sl.pc + 4, mask := w.sl.mask &&& ~~~t, latch := none }

/-- The sibling of a mixed `brv`: it waits at the target with the lanes that go. -/
def Slot.branched (target : DWord) (t : Mask) : Slot := { Slot.readyAt (target &&& ~~~1#64) t with st := .wait, wait := some .refill }

theorem View.split_eq (w : View) (t : Mask) (target : DWord) :
    w.split t target = (w.pushed.setSlot w.n (w.staying t)).setSlot (sib w.n) (Slot.branched target t) := rfl

/-- What a mixed `brv` leaves: the slot behind it, the sibling at the target, and the stack (R195). -/
theorem View.split_spec (w : View) (t : Mask) (target : DWord) : let g := w.split t target
    SameRegs w.pushed g ∧ g.slot w.n = w.staying t ∧ g.slot (sib w.n) = Slot.branched target t ∧ g.sd = w.pushed.sd ∧
      g.stack = w.pushed.stack := by
  dsimp only
  rw [View.split_eq]
  refine ⟨(Group.setSlot_regs _ _ _).trans (Group.setSlot_regs _ _ _), (Group.slot_setSlot_of_sib _ _ _).trans (Group.slot_setSlot _ _ _),
    Group.slot_setSlot _ _ _, ?_, ?_⟩
  · rw [Group.setSlot_frame, Group.setSlot_frame]
  · rw [Group.setSlot_frame, Group.setSlot_frame]

/-- What `brv` means behind the gate (R357). -/
def View.brv (w : View) (t : Mask) (target : DWord) : Res :=
  if t = w.sl.mask then .done { g := w.g, flow := .jump target }
  else if t = 0 then .done w.doneNone
  else if (w.g.slot (sib w.n)).st.live && 16 ≤ w.g.sd then .raise (.plain 4 w.n)
  else .done { g := w.split t target, flow := .placed (some 2) }

theorem exec_brv (s : State) (e : Bool) (pr : Pred) (sns : Bool) (disp : BitVec 16) :
    exec (.brv e pr sns disp) s = .next (s.issue { len := 4, e := e, preds := [pr], kind := .brv } View.inHandler noCheck
      (fun w => w.brv (w.act &&& (if sns then ~~~(w.g.predMask pr) else w.g.predMask pr)) (w.sl.pc + 2 * disp.signExtend 64))) := rfl

/-- R195, R357: `brv` goes one way, or splits its slot, or traps where the stack is full. -/
theorem divergence_holds : Part.Divergence := by
  intro s w e pr sns disp hi hc hsd t target o
  have hx := exec_brv s e pr sns disp
  split
  · next hall => exact jumps_of_jump hx hi hc (if_pos hall)
  · next hall =>
    split
    · next hnone => exact passes_of_doneNone hx hi hc ((if_neg hall).trans (if_pos hnone))
    · next hnone =>
      split
      · next hfull =>
        have htrap : (o.st.live && decide (16 ≤ w.g.sd)) = true := by simp [SlotState.live_iff.mpr hfull.1, hfull.2]
        exact raises_of_raise hx hi ((if_neg hall).trans ((if_neg hnone).trans (if_pos htrap)))
      · next hroom =>
        have hno : ¬(o.st.live && decide (16 ≤ w.g.sd)) = true := by
          simp only [Bool.and_eq_true, decide_eq_true_eq, SlotState.live_iff]
          exact fun h => hroom ⟨h.1, by omega⟩
        obtain ⟨hregs, hslot, hsib, hdepth, hstack⟩ := w.split_spec t target
        obtain ⟨hregs', hpush⟩ := View.pushed_spec hsd hroom
        rw [← hdepth, ← hstack] at hpush
        have hleaves := Done.leaves_placed (d := { g := w.split t target, flow := .placed (some 2) }) rfl w
          { len := 4, e := e, preds := [pr], kind := .brv }
        obtain ⟨u, hnext, honly⟩ := onlyGroup_of_done hx hi hc ((if_neg hall).trans ((if_neg hnone).trans (if_neg hno))) rfl rfl
          (by rw [hleaves]; exact congrArg Slot.latch hslot)
        rw [hleaves] at honly
        exact ⟨u, _, hnext, honly, (hregs'.trans hregs).trans ⟨rfl, rfl, rfl, rfl, rfl⟩, congrArg Slot.pc hslot, congrArg Slot.mask hslot,
          (congrArg Slot.st hslot).trans hi.ready, congrArg Slot.pc hsib, congrArg Slot.mask hsib, congrArg Slot.wait hsib, hpush⟩

end Sys2Proof.Machine
end

section
/-! Reconvergence and the exit of lanes (R194, R195, R361, R448). -/
open Sys2Proof Sys2Proof.Machine
namespace Sys2Proof.Machine

/-! ### A trap behind an instruction -/

/-- The cause that follows an instruction is taken in the state that the instruction leaves. -/
theorem State.commit_trapped (s : State) {w : View} (f : Form) {d : Done} {c : Cause} (hc : w.g.sstep = false) (ha : d.after = some c)
    (hcode : c.code ≠ 2) : s.commit w f d = (s.commit w f { d with after := none }).trapNow w.k w.b.asid w.n c := by
  have htrap : w.trapAfter d = some c := by
    simp [View.trapAfter, ha, hcode]
  have hnone : w.trapAfter { d with after := none } = none := View.trapAfter_calm hc rfl
  simp only [State.commit, htrap, hnone]

/-- A cause other than the step trap is taken at once: the entry waits for a pop with a record, or is made (R448). -/
theorem State.trapNow_eq {u : State} {k : GroupKey} {g : Group} (hg : u.group? k = some g) (asid n : Nat) {c : Cause} (hcode : c.code ≠ 3) :
    u.trapNow k asid n c = (if u.entryHeld k asid c then u.holdEntry k c else u.raise k asid c).endRun g.core k n (u.causeEnd k asid c) := by
  simp only [State.trapNow, hg]
  rw [if_pos (by simp [hcode])]

section
variable {i : Instr} {s : State} {f : Form} {bad cls : View → Bool} {body : View → Res} {w : View}
  (hx : exec i s = .next (s.issue f bad cls body)) (hi : s.Issues f bad cls w) (hc : w.Calm)
include hx hi hc

/-- An instruction that acts on its group alone, with a trap behind it. -/
theorem trapped_of_done {d : Done} {c : Cause} (hb : body w = .done d) (hp : d.post = id) (ha : d.after = some c) (h2 : c.code ≠ 2)
    (h3 : c.code ≠ 3) (hcore : (d.leaves w f).core = w.g.core) (hlatch : ((d.leaves w f).slot w.n).latch = none) :
    ∃ u, OnlyGroup s u w.k (d.leaves w f) ∧ exec i s = .next
      ((if u.entryHeld w.k w.b.asid c then u.holdEntry w.k c else u.raise w.k w.b.asid c).endRun w.g.core w.k w.n
        (u.causeEnd w.k w.b.asid c)) := by
  obtain ⟨g', hg', hl⟩ := State.commit_plain (f := f) (d := { d with after := none }) hi.view hc hp rfl
  have hleaves : Done.leaves { d with after := none } w f = d.leaves w f := rfl
  have hsame : ({ (d.leaves w f).slot w.n with latch := none } : Slot) = (d.leaves w f).slot w.n := by rw [← hlatch]
  rw [hleaves, hsame, Group.setSlot_self, or_self] at hl
  subst hl
  refine ⟨_, hg', ?_⟩
  rw [exec_of_issues hx hi hb, ← hcore, ← State.trapNow_eq hg'.group w.b.asid w.n h3]
  exact congrArg _ (s.commit_trapped f hc.1 ha h2)

end

/-! ### Whether an entry waits -/

theorem View.sl_wait {s : State} {w : View} (h : s.view? = some w) : w.sl.wait = (w.g.slot w.n).wait := by
  unfold State.view? at h
  split at h
  · split at h
    · cases h
      rfl
    · cases h
  · cases h

theorem State.popBusy_congr {s u : State} {k : GroupKey} {g h : Group} (hg : s.group? k = some g) (hh : u.group? k = some h)
    (hops : u.ops = s.ops) (hwait : ∀ n, (h.slot n).wait = (g.slot n).wait) : u.popBusy k = s.popBusy k := by
  simp only [State.popBusy, hg, hh, hwait, State.op?, hops]

/-- A group whose slots wait for nothing keeps no entry waiting. -/
theorem State.entryHeld_false {u : State} {k : GroupKey} {h : Group} (hh : u.group? k = some h) (hwait : ∀ n, (h.slot n).wait = none)
    (asid : Nat) (c : Cause) : u.entryHeld k asid c = false := by
  have hbusy : u.popBusy k = false := by
    simp [State.popBusy, hh, hwait]
  rw [State.entryHeld, hbusy, Bool.and_false]

/-- Whether an entry waits depends on the group's mode and on what its slots wait for. -/
theorem OnlyGroup.entryHeld {s u : State} {k : GroupKey} {g h : Group} (hu : OnlyGroup s u k h) (hg : s.group? k = some g) (hhm : h.hm = g.hm)
    (hwait : ∀ n, (h.slot n).wait = (g.slot n).wait) (asid : Nat) (c : Cause) : u.entryHeld k asid c = s.entryHeld k asid c := by
  have hctx : u.ctx? asid = s.ctx? asid := by rw [hu.rest]; rfl
  have hops : u.ops = s.ops := by rw [hu.rest]
  have hhandled : u.handled k asid c = s.handled k asid c := by
    simp only [State.handled, hu.group, hg, hctx]
    cases s.ctx? asid with
    | none => rfl
    | some x => simp only [hhm]
  rw [State.entryHeld, State.entryHeld, hhandled, State.popBusy_congr hg hu.group hops hwait]

/-! ### `join` -/

/-- Both slots of a group that meet at a `join` become slot 0, and slot 1 is Free (R195). -/
def View.merged (w : View) : Group :=
  { w.g with
    slot0 := { Slot.readyAt (w.sl.pc + 4) (w.sl.mask ||| (w.g.slot (sib w.n)).mask) with lastIssue := w.s.turn }
    slot1 := Slot.free }

theorem View.merged_waits (w : View) (n : Nat) : (w.merged.slot n).wait = none ∧ (w.merged.slot n).latch = none := by
  unfold View.merged Group.slot
  split <;> exact ⟨rfl, rfl⟩

/-- The slot that waits in Join for a sibling that is elsewhere (R195). -/
def View.joining (w : View) : Slot := { w.issued.noGuard with st := .join, latch := none }

/-- What `join` means behind the gate (R195). -/
def View.join (w : View) : Res :=
  match (w.g.slot (sib w.n)).st with
  | .free => .done { g := w.g.popInto (sib w.n), after := w.g.refillTrap w.n }
  | .join =>
    if (w.g.slot (sib w.n)).pc = w.sl.pc then
      .done { g := w.merged.popInto 1, flow := .placed (some 3), after := w.g.refillTrap w.n }
    else .raise (.plain 0x16 w.n)
  | _ => .done { g := w.g.setSlot w.n w.joining, flow := .placed (some 3) }

theorem exec_join (s : State) (e : Bool) :
    exec (.join e) s = .next (s.issue { len := 4, e := e, ends := true } View.inHandler noCheck View.join) := rfl

theorem View.join_free {w : View} (h : (w.g.slot (sib w.n)).st = .free) :
    w.join = .done { g := w.g.popInto (sib w.n), after := w.g.refillTrap w.n } := by
  simp only [View.join, h]

theorem View.join_meets {w : View} (h : (w.g.slot (sib w.n)).st = .join) (hpc : (w.g.slot (sib w.n)).pc = w.sl.pc) :
    w.join = .done { g := w.merged.popInto 1, flow := .placed (some 3), after := w.g.refillTrap w.n } := by
  simp only [View.join, h, hpc, if_true]

theorem View.join_misses {w : View} (h : (w.g.slot (sib w.n)).st = .join) (hpc : (w.g.slot (sib w.n)).pc ≠ w.sl.pc) :
    w.join = .raise (.plain 0x16 w.n) := by
  simp only [View.join, h, hpc, if_false]

theorem View.join_alone {w : View} (hfree : (w.g.slot (sib w.n)).st ≠ .free) (hjoin : (w.g.slot (sib w.n)).st ≠ .join) :
    w.join = .done { g := w.g.setSlot w.n w.joining, flow := .placed (some 3) } := by
  unfold View.join
  cases h : (w.g.slot (sib w.n)).st with
  | free => exact absurd h hfree
  | join => exact absurd h hjoin
  | ready => rfl
  | wait => rfl

theorem Group.popInto_regs (g : Group) (n : Nat) : SameRegs g (g.popInto n) := by
  obtain ⟨x, y, d, h⟩ := g.popInto_frame n
  rw [h]
  exact ⟨rfl, rfl, rfl, rfl, rfl⟩

theorem SameRegs.counted {g h : Group} (hr : SameRegs g h) (n : DWord) : SameRegs g { h with icnt := n } := ⟨hr.v, hr.s, hr.a, hr.p, hr.k⟩

section
variable {s : State} {w : View} {e : Bool}
  (hi : s.Issues { len := 4, e := e, ends := true } View.inHandler noCheck w) (hc : w.Calm)
include hi hc

/-- A `join` that has no live sibling, with nothing to refill (R195). -/
theorem join_goes_on (hfree : (w.g.slot (sib w.n)).st = .free) (hsd : w.g.sd ≤ 16) (hfull : w.g.sd ≠ 0 ∨ w.g.sc = 0) :
    ∃ u g', exec (.join e) s = .next u ∧ OnlyGroup s u w.k g' ∧ SameRegs w.g g' ∧ (g'.slot w.n).pc = w.sl.pc + 4 ∧
      (g'.slot w.n).mask = w.sl.mask ∧ (g'.slot w.n).st = .ready ∧ Popped w.g g' (sib w.n) := by
  have hleaves := Done.leaves_fall (d := { g := w.g.popInto (sib w.n), after := w.g.refillTrap w.n }) rfl w
    { len := 4, e := e, ends := true }
  have hslot := (w.g.popInto (sib w.n)).slot_setSlot w.n (w.behind 4 none)
  have hsib := (w.g.popInto (sib w.n)).slot_setSlot_sib w.n (w.behind 4 none)
  obtain ⟨u, hnext, honly⟩ := onlyGroup_of_done (exec_join s e) hi hc (View.join_free hfree) rfl (Group.refillTrap_none hfull w.n)
    (Done.leaves_fall_latch rfl rfl _ _)
  rw [hleaves] at honly
  refine ⟨u, _, hnext, honly, (((w.g.popInto_regs _).trans (Group.setSlot_regs _ _ _)).counted _), (congrArg Slot.pc hslot :),
    (congrArg Slot.mask hslot :), (congrArg Slot.st hslot).trans hi.ready, ?_⟩
  refine (Group.popInto_popped hsd (sib w.n)).of_eq rfl rfl rfl ?_ ?_ hsib
  · rw [Group.setSlot_frame]
  · rw [Group.setSlot_frame]

/-- A `join` that has no live sibling, with the top of the stack in the spill area (R195, R448). -/
theorem join_goes_on_refilling (hfree : (w.g.slot (sib w.n)).st = .free) (hempty : w.g.sd = 0) (hspilled : w.g.sc ≠ 0) :
    ∃ u g', OnlyGroup s u w.k g' ∧ SameRegs w.g g' ∧ Advanced w 4 g' ∧ exec (.join e) s = .next
      ((if s.entryHeld w.k w.b.asid (.plain 5 w.n) then u.holdEntry w.k (.plain 5 w.n) else u.raise w.k w.b.asid (.plain 5 w.n)).endRun
        w.g.core w.k w.n (u.causeEnd w.k w.b.asid (.plain 5 w.n))) := by
  have hb : w.join = .done { g := w.g, after := some (.plain 5 w.n) } := by
    rw [View.join_free hfree, Group.popInto_empty hempty, Group.refillTrap_some hempty hspilled]
  have hleaves := Done.leaves_fall (d := { g := w.g, after := some (.plain 5 w.n) }) rfl w { len := 4, e := e, ends := true }
  have hslot := w.g.slot_setSlot w.n (w.behind 4 none)
  have hsib := w.g.slot_setSlot_sib w.n (w.behind 4 none)
  obtain ⟨u, honly, hnext⟩ := trapped_of_done (exec_join s e) hi hc hb rfl rfl (by simp [Cause.plain]) (by simp [Cause.plain])
    (by rw [hleaves, Group.setSlot_frame]) (Done.leaves_fall_latch rfl rfl _ _)
  have hadv := advanced_fall (f := { len := 4, e := e, ends := true }) (d := { g := w.g, after := some (.plain 5 w.n) })
    hi.ready rfl rfl rfl (.inl rfl)
  have hwait := Group.slot_cases (P := fun x y => y.wait = x.wait) (g := w.g)
    (h := { w.g.setSlot w.n (w.behind 4 none) with icnt := w.g.icnt + 1 }) (n := w.n)
    ((congrArg Slot.wait hslot).trans (View.sl_wait hi.view)) (congrArg Slot.wait hsib)
  rw [hleaves] at honly hadv
  rw [honly.entryHeld (State.view?_group hi.view) (by rw [Group.setSlot_frame]) hwait] at hnext
  exact ⟨u, _, honly, (Group.setSlot_regs _ _ _).counted _, hadv, hnext⟩

/-- Two slots that meet at one `join`, with nothing to refill (R195). -/
theorem join_merges (hjoin : (w.g.slot (sib w.n)).st = .join) (hpc : (w.g.slot (sib w.n)).pc = w.sl.pc) (hsd : w.g.sd ≤ 16)
    (hfull : w.g.sd ≠ 0 ∨ w.g.sc = 0) : ∃ u g', exec (.join e) s = .next u ∧ OnlyGroup s u w.k g' ∧ SameRegs w.g g' ∧
      g'.slot0.pc = w.sl.pc + 4 ∧ g'.slot0.mask = w.sl.mask ||| (w.g.slot (sib w.n)).mask ∧ g'.slot0.st = .ready ∧
      Popped { w.g with slot1 := Slot.free } g' 1 := by
  have hleaves := Done.leaves_placed (d := { g := w.merged.popInto 1, flow := .placed (some 3), after := w.g.refillTrap w.n }) rfl w
    { len := 4, e := e, ends := true }
  obtain ⟨u, hnext, honly⟩ := onlyGroup_of_done (exec_join s e) hi hc (View.join_meets hjoin hpc) rfl (Group.refillTrap_none hfull w.n)
    (by rw [hleaves]; exact Group.popInto_latch (w.merged_waits w.n).2 1)
  rw [hleaves] at honly
  have hslot : (w.merged.popInto 1).slot0 = w.merged.slot0 := w.merged.popInto_slot_sib 1
  have hmerged : SameRegs w.g w.merged := ⟨rfl, rfl, rfl, rfl, rfl⟩
  exact ⟨u, _, hnext, honly, (hmerged.trans (w.merged.popInto_regs 1)).counted _, (congrArg Slot.pc hslot :), (congrArg Slot.mask hslot :),
    (congrArg Slot.st hslot :), (Group.popInto_popped (g := w.merged) hsd 1).of_eq rfl rfl rfl rfl rfl rfl⟩

/-- Two slots that meet at one `join`, with the top of the stack in the spill area (R195). -/
theorem join_merges_refilling (hjoin : (w.g.slot (sib w.n)).st = .join) (hpc : (w.g.slot (sib w.n)).pc = w.sl.pc) (hempty : w.g.sd = 0)
    (hspilled : w.g.sc ≠ 0) : ∃ u g', OnlyGroup s u w.k g' ∧ SameRegs w.g g' ∧ g'.slot0.pc = w.sl.pc + 4 ∧
      g'.slot0.mask = w.sl.mask ||| (w.g.slot (sib w.n)).mask ∧ g'.slot0.st = .ready ∧ g'.slot1 = Slot.free ∧
      exec (.join e) s = .next
        ((u.raise w.k w.b.asid (.plain 5 w.n)).endRun w.g.core w.k w.n (u.causeEnd w.k w.b.asid (.plain 5 w.n))) := by
  have hb : w.join = .done { g := w.merged, flow := .placed (some 3), after := some (.plain 5 w.n) } := by
    rw [View.join_meets hjoin hpc, Group.popInto_empty (g := w.merged) hempty, Group.refillTrap_some hempty hspilled]
  have hleaves := Done.leaves_placed (d := { g := w.merged, flow := .placed (some 3), after := some (.plain 5 w.n) }) rfl w
    { len := 4, e := e, ends := true }
  obtain ⟨u, honly, hnext⟩ := trapped_of_done (exec_join s e) hi hc hb rfl rfl (by simp [Cause.plain]) (by simp [Cause.plain])
    (by rw [hleaves]; rfl) (by rw [hleaves]; exact (w.merged_waits w.n).2)
  rw [hleaves] at honly
  have hnow := State.entryHeld_false honly.group (fun m => (w.merged_waits m).1) w.b.asid (.plain 5 w.n)
  rw [hnow, if_neg Bool.false_ne_true] at hnext
  exact ⟨u, _, honly, ⟨rfl, rfl, rfl, rfl, rfl⟩, rfl, rfl, rfl, rfl, hnext⟩

/-- A `join` whose sibling is elsewhere waits for it (R195). -/
theorem join_waits (hfree : (w.g.slot (sib w.n)).st ≠ .free) (hjoin : (w.g.slot (sib w.n)).st ≠ .join) :
    ∃ u g', exec (.join e) s = .next u ∧ OnlyGroup s u w.k g' ∧ SameRegs w.g g' ∧ (g'.slot w.n).st = .join ∧
      (g'.slot w.n).pc = w.sl.pc ∧ (g'.slot w.n).mask = w.sl.mask ∧ g'.slot (sib w.n) = w.g.slot (sib w.n) ∧ g'.sd = w.g.sd ∧
      g'.stack = w.g.stack := by
  have hleaves := Done.leaves_placed (d := { g := w.g.setSlot w.n w.joining, flow := .placed (some 3) }) rfl w
    { len := 4, e := e, ends := true }
  have hslot := w.g.slot_setSlot w.n w.joining
  obtain ⟨u, hnext, honly⟩ := onlyGroup_of_done (exec_join s e) hi hc (View.join_alone hfree hjoin) rfl rfl
    (by rw [hleaves]; exact congrArg Slot.latch hslot)
  rw [hleaves] at honly
  refine ⟨u, _, hnext, honly, (Group.setSlot_regs _ _ _).counted _, (congrArg Slot.st hslot :), (congrArg Slot.pc hslot :),
    (congrArg Slot.mask hslot :), w.g.slot_setSlot_sib w.n w.joining, ?_, ?_⟩
  · rw [Group.setSlot_frame]
  · rw [Group.setSlot_frame]

end

/-- R195: what `join` does, by where the sibling is. -/
theorem reconvergence_holds : Part.Reconvergence := by
  intro s w e hi hc hsd o next
  refine ⟨fun hfree hempty hspilled => join_goes_on_refilling hi hc hfree hempty hspilled,
    fun hjoin hpc hempty hspilled => join_merges_refilling hi hc hjoin hpc hempty hspilled, ?_⟩
  cases ho : o.st with
  | free => exact fun hfull => join_goes_on hi hc ho hsd hfull
  | join =>
    dsimp only
    split
    · next hpc => exact fun hfull => join_merges hi hc ho hpc hsd hfull
    · next hpc => exact raises_of_raise (exec_join s e) hi (View.join_misses ho hpc)
  | ready => exact join_waits hi hc (by rw [ho]; simp) (by rw [ho]; simp)
  | wait => exact join_waits hi hc (by rw [ho]; simp) (by rw [ho]; simp)

end Sys2Proof.Machine
end

section
/-! `exit`, and the lanes that it takes away (R195, R361). -/
open Sys2Proof Sys2Proof.Machine
namespace Sys2Proof.Machine

/-! ### Slots and stack alone -/

/-- `h` is `g` but for its slots and the depth of its stack. -/
def SlotsOnly (g h : Group) : Prop := h = { g with slot0 := h.slot0, slot1 := h.slot1, sd := h.sd }

theorem SlotsOnly.trans {g h i : Group} (a : SlotsOnly g h) (b : SlotsOnly h i) : SlotsOnly g i := by
  unfold SlotsOnly at *
  rw [b, a]

theorem SlotsOnly.setSlot (g : Group) (n : Nat) (x : Slot) : SlotsOnly g (g.setSlot n x) := by
  unfold SlotsOnly
  rw [Group.setSlot_frame]

theorem SlotsOnly.popInto (g : Group) (n : Nat) : SlotsOnly g (g.popInto n) := by
  obtain ⟨x, y, d, h⟩ := g.popInto_frame n
  rw [h]
  rfl

/-! ### Lanes that leave -/

/-- The group with lanes out of its entry mask. -/
def Group.lessLanes (g : Group) (x : Mask) : Group := { g with emask := g.emask &&& ~~~x }

theorem Group.leave_eq {g : Group} (hm : g.hm = false) (n : Nat) (x : Mask) (next : Slot) :
    g.leave n x next =
      if next.mask &&& ~~~x = 0 then
        if g.emask &&& ~~~x = 0 then ((g.lessLanes x).setSlot n Slot.free, none) else (g.lessLanes x).freed n
      else ((g.lessLanes x).setSlot n { next with mask := next.mask &&& ~~~x }, none) := by
  have hsaved : (g.lessLanes x).leaveSaved x = g.lessLanes x := if_neg (by simp [Group.lessLanes, hm])
  unfold Group.leave
  rw [show ({ g with emask := g.emask &&& ~~~x } : Group).leaveSaved x = g.lessLanes x from hsaved]
  rfl

theorem Group.refillTrap_setSlot {g : Group} (h : g.sd ≠ 0 ∨ g.sc = 0) (m n : Nat) (x : Slot) : (g.setSlot m x).refillTrap n = none := by
  refine Group.refillTrap_none ?_ n
  rw [Group.setSlot_frame]
  exact h

theorem Group.freed_of_join {g : Group} {n : Nat} (ho : (g.slot (sib n)).st = .join) (h : g.sd ≠ 0 ∨ g.sc = 0) :
    g.freed n = (((g.setSlot n Slot.free).setSlot (sib n) ((g.slot (sib n)).goOn ((g.slot (sib n)).pc + 4))).popInto n, none) := by
  simp only [Group.freed, Group.slot_setSlot_sib, ho, Group.refillTrap_setSlot h]

theorem Group.freed_of_free {g : Group} {n : Nat} (ho : (g.slot (sib n)).st = .free) (h : g.sd ≠ 0 ∨ g.sc = 0) :
    g.freed n = ((g.setSlot n Slot.free).popInto n, none) := by
  simp only [Group.freed, Group.slot_setSlot_sib, ho, Group.refillTrap_setSlot h]

theorem Group.freed_of_running {g : Group} {n : Nat} (ho : (g.slot (sib n)).st = .ready ∨ (g.slot (sib n)).st = .wait) :
    g.freed n = (g.setSlot n Slot.free, none) := by
  rcases ho with ho | ho <;> simp only [Group.freed, Group.slot_setSlot_sib, ho]

/-- Setting slots keeps the stack and its depth. -/
theorem Group.setSlot_stack (g : Group) (n : Nat) (x : Slot) : (g.setSlot n x).stack = g.stack ∧ (g.setSlot n x).sd = g.sd := by
  rw [Group.setSlot_frame]
  exact ⟨rfl, rfl⟩

/-- A pop into a slot that has gone (R194, R195). -/
theorem Group.popInto_freed {g h : Group} {n : Nat} (hsd : g.sd ≤ 16) (hstack : h.stack = g.stack) (hdepth : h.sd = g.sd)
    (hslot : h.slot n = Slot.free) : Popped (g.setSlot n Slot.free) (h.popInto n) n := by
  obtain ⟨hstack', hdepth'⟩ := g.setSlot_stack n Slot.free
  exact (Group.popInto_popped (hdepth.trans_le hsd) n).of_eq (hstack'.trans hstack.symm) (hdepth'.trans hdepth.symm)
    ((g.slot_setSlot n _).trans hslot.symm) rfl rfl rfl

/-- What becomes of the slots when lanes leave and slot `n` is left without any: a sibling's `join` completes, the stack pops into
the slot, or the sibling goes on alone (R195). -/
theorem Group.freed_lessLanes {g : Group} {n : Nat} (x : Mask) (hsd : g.sd ≤ 16) (h : g.sd ≠ 0 ∨ g.sc = 0) :
    ∃ g', (g.lessLanes x).freed n = (g', none) ∧ (g'.slot n).latch = none ∧ SlotsOnly (g.lessLanes x) g' ∧
      let o := g.slot (sib n)
      match o.st with
      | .join => (g'.slot (sib n)).pc = o.pc + 4 ∧ (g'.slot (sib n)).mask = o.mask ∧ (g'.slot (sib n)).st = .ready ∧
          Popped (g.setSlot n Slot.free) g' n
      | .free => g'.slot (sib n) = o ∧ Popped (g.setSlot n Slot.free) g' n
      | _ => g'.slot n = Slot.free ∧ g'.slot (sib n) = o := by
  have hslot := (g.lessLanes x).slot_setSlot n Slot.free
  have hsib := (g.lessLanes x).slot_setSlot_sib n Slot.free
  have honly := SlotsOnly.setSlot (g.lessLanes x) n Slot.free
  obtain ⟨hstack, hdepth⟩ := (g.lessLanes x).setSlot_stack n Slot.free
  dsimp only
  cases ho : (g.slot (sib n)).st with
  | join =>
    let y := (g.slot (sib n)).goOn ((g.slot (sib n)).pc + 4)
    let g1 := ((g.lessLanes x).setSlot n Slot.free).setSlot (sib n) y
    have hslot1 : g1.slot n = Slot.free := (Group.slot_setSlot_of_sib _ n y).trans hslot
    have hsib1 : (g1.popInto n).slot (sib n) = y := (g1.popInto_slot_sib n).trans (Group.slot_setSlot _ (sib n) y)
    obtain ⟨hstack1, hdepth1⟩ := ((g.lessLanes x).setSlot n Slot.free).setSlot_stack (sib n) y
    refine ⟨g1.popInto n, Group.freed_of_join ho h, Group.popInto_latch (congrArg Slot.latch hslot1) n,
      (honly.trans (SlotsOnly.setSlot _ _ _)).trans (SlotsOnly.popInto _ n), ?_⟩
    exact ⟨(congrArg Slot.pc hsib1 :), (congrArg Slot.mask hsib1 :), (congrArg Slot.st hsib1 :),
      Group.popInto_freed hsd (hstack1.trans hstack) (hdepth1.trans hdepth) hslot1⟩
  | free =>
    exact ⟨_, Group.freed_of_free ho h, Group.popInto_latch (congrArg Slot.latch hslot) n, honly.trans (SlotsOnly.popInto _ n),
      (Group.popInto_slot_sib _ n).trans hsib, Group.popInto_freed hsd hstack hdepth hslot⟩
  | ready => exact ⟨_, Group.freed_of_running (.inl ho), congrArg Slot.latch hslot, honly, hslot, hsib⟩
  | wait => exact ⟨_, Group.freed_of_running (.inr ho), congrArg Slot.latch hslot, honly, hslot, hsib⟩

/-! ### `exit` -/

/-- What `exit` means behind the gate (R361). -/
def View.exit (w : View) : Res :=
  if w.act = 0 then .done w.doneNone
  else
    .done { g := (w.g.leave w.n w.act (w.behind 4 none)).1, flow := .placed (some 3), after := (w.g.leave w.n w.act (w.behind 4 none)).2,
            post := fun t => (t.retireLanes w.k w.act).endIfEmpty w.k 3 }

theorem exec_exit (s : State) (e : Bool) :
    exec (.exit e) s = .next (s.issue { len := 4, e := e, ends := true } View.inHandler noCheck View.exit) := rfl

section
variable {s : State} {w : View} {e : Bool}
  (hi : s.Issues { len := 4, e := e, ends := true } View.inHandler noCheck w) (hc : w.Calm) (hact : w.act ≠ 0)
include hi hc hact

/-- Lanes leave by `exit`: what is the same however the slots are placed. -/
theorem exit_leaves {g' : Group} (hleave : w.g.leave w.n w.act (w.behind 4 none) = (g', none)) (hlatch : (g'.slot w.n).latch = none)
    (hslots : SlotsOnly (w.g.lessLanes w.act) g') :
    Leaves (.exit e) s w { g' with icnt := g'.icnt + 1 } (fun t => (t.retireLanes w.k w.act).endIfEmpty w.k 3) ∧
      SameRegs w.g { g' with icnt := g'.icnt + 1 } ∧ g'.emask = w.g.emask &&& ~~~w.act ∧ g'.icnt + 1 = w.g.icnt + 1 := by
  let d : Done := { g := g', flow := .placed (some 3), post := fun t => (t.retireLanes w.k w.act).endIfEmpty w.k 3 }
  let f : Form := { len := 4, e := e, ends := true }
  have hb : w.exit = .done d := by
    rw [View.exit, if_neg hact, hleave]
  have hplaced : d.leaves w f = { g' with icnt := g'.icnt + 1 } := Done.leaves_placed rfl w f
  have hunlatched : (s.placed w f d).Unlatched w.k w.n := s.placed_unlatched (by rw [hplaced]; exact hlatch)
  have huntraced : ((s.placed w f d).retireLanes w.k w.act).Untraced w.k := by
    unfold State.Untraced
    rw [State.retireLanes_traces]
    exact State.placed_untraced (hc.untraced hi.view)
  have hl := leaves_of_done (exec_exit s e) hi hc hb rfl (huntraced.endIfEmpty 3) ((hunlatched.retireLanes w.act).endIfEmpty 3)
  rw [hplaced] at hl
  refine ⟨hl, ?_, ?_, ?_⟩
  all_goals rw [hslots]
  · exact ⟨rfl, rfl, rfl, rfl, rfl⟩
  · rfl
  · rfl

end

/-- R195, R361: `exit` takes the active lanes away, and what becomes of the slots. -/
theorem laneExit_holds : Part.LaneExit := by
  intro s w e hi hc hsd hfull
  refine ⟨fun hact => passes_of_doneNone (exec_exit s e) hi hc (if_pos hact), fun hact => ?_⟩
  have hleave := Group.leave_eq hi.legal w.n w.act (w.behind 4 none)
  have hbehind : (w.behind 4 none).mask = w.sl.mask := rfl
  rw [hbehind] at hleave
  by_cases hrest : w.sl.mask &&& ~~~w.act = 0
  · rw [if_pos hrest] at hleave
    by_cases hmask : w.g.emask &&& ~~~w.act = 0
    · rw [if_pos hmask] at hleave
      have hgone := (w.g.lessLanes w.act).slot_setSlot w.n Slot.free
      obtain ⟨hl, hregs, hemask, hicnt⟩ := exit_leaves hi hc hact hleave (congrArg Slot.latch hgone) (SlotsOnly.setSlot _ _ _)
      refine ⟨_, hl, hregs, hemask, hicnt, ?_⟩
      dsimp only
      rw [if_neg (not_not_intro hrest), if_pos (hemask.trans hmask)]
      exact ⟨hgone, (w.g.lessLanes w.act).slot_setSlot_sib w.n Slot.free⟩
    · rw [if_neg hmask] at hleave
      obtain ⟨g', hfreed, hlatch, hslots, hspec⟩ := Group.freed_lessLanes (n := w.n) w.act hsd hfull
      obtain ⟨hl, hregs, hemask, hicnt⟩ := exit_leaves hi hc hact (hleave.trans hfreed) hlatch hslots
      refine ⟨_, hl, hregs, hemask, hicnt, ?_⟩
      dsimp only
      rw [if_neg (not_not_intro hrest), if_neg (fun h0 => hmask (hemask.symm.trans h0))]
      exact hspec
  · rw [if_neg hrest] at hleave
    have hslot := (w.g.lessLanes w.act).slot_setSlot w.n { w.behind 4 none with mask := w.sl.mask &&& ~~~w.act }
    obtain ⟨hl, hregs, hemask, hicnt⟩ := exit_leaves hi hc hact hleave (congrArg Slot.latch hslot) (SlotsOnly.setSlot _ _ _)
    refine ⟨_, hl, hregs, hemask, hicnt, ?_⟩
    dsimp only
    rw [if_pos hrest]
    exact ⟨(congrArg Slot.pc hslot :), (congrArg Slot.mask hslot :), (congrArg Slot.st hslot).trans hi.ready,
      (w.g.lessLanes w.act).slot_setSlot_sib w.n _⟩

end Sys2Proof.Machine

/-- Settles O46: each of `brv`, `join` and `exit` behind the gate, by the state of the sibling slot and of the stack. -/
theorem divergenceAndReconvergence : Obligations.DivergenceAndReconvergence :=
  ⟨Sys2Proof.Machine.divergence_holds, Sys2Proof.Machine.reconvergence_holds, Sys2Proof.Machine.laneExit_holds⟩
end

section
/-! Traversal: the bins' time limits and pulls, the visits of a walk, and prefetches (R215, R216, R220 to R232, R234). -/
open Sys2Proof Sys2Proof.Machine
namespace Sys2Proof.Machine

/-! ### The rays of a bin -/

theorem mem_insertBy {α : Type} {le : α → α → Bool} {x y : α} {l : List α} : y ∈ insertBy le x l ↔ y = x ∨ y ∈ l := by
  induction l with
  | nil => simp [insertBy]
  | cons z l ih =>
    by_cases hle : le x z
    · simp [insertBy, hle]
    · simp [insertBy, hle, ih, or_left_comm]

theorem mem_sortBy {α : Type} {le : α → α → Bool} {y : α} {l : List α} : y ∈ sortBy le l ↔ y ∈ l := by
  induction l with
  | nil => rfl
  | cons x l ih =>
    rw [show sortBy le (x :: l) = insertBy le x (sortBy le l) from rfl, mem_insertBy, ih, List.mem_cons]

theorem State.mem_rays_of_binRays {s : State} {part asid bin : Nat} {shade : Bool} {r : Ray} (h : r ∈ s.binRays part asid shade bin) :
    r ∈ s.rays :=
  List.mem_of_mem_filter (List.mem_of_mem_filter (mem_sortBy.mp h))

theorem State.binTimeout?_eq {s : State} {part asid bin : Nat} {shade : Bool} (hrays : s.binRays part asid shade bin ≠ [])
    (htimed : (part, asid, shade, bin) ∉ s.timedOut) :
    s.binTimeout? part asid shade bin = some { s with timedOut := (part, asid, shade, bin) :: s.timedOut } := by
  simp [State.binTimeout?, hrays, htimed]

/-! ### A pull -/

/-- The rays of a batch start their walks (R216). -/
def State.startWalks (s : State) (rs : List Ray) (cluster batch : Nat) : State :=
  rs.foldl (fun s r => s.putRay (r.startWalk cluster batch)) s

theorem State.startWalks_frame (s : State) (rs : List Ray) (cluster batch : Nat) :
    ∃ xs, s.startWalks rs cluster batch = { s with rays := xs } := by
  induction rs generalizing s with
  | nil => exact ⟨_, rfl⟩
  | cons x rs ih => exact ih _

/-- The ray walks, at the root of the top, in a batch of a cluster (R203, R216, R227). -/
def Ray.AtRoot (q : Ray) (cluster batch : Nat) : Prop :=
  q.st = .walking ∧ ∃ w, q.walk = some w ∧ w.cluster = cluster ∧ w.batch = batch ∧ w.stack = [⟨none, 1, 0, none⟩] ∧
    w.hit = none ∧ w.cand = none ∧ w.visits = 0

theorem Ray.startWalk_atRoot (r : Ray) (cluster batch : Nat) : (r.startWalk cluster batch).AtRoot cluster batch :=
  ⟨rfl, _, rfl, rfl, rfl, rfl, rfl, rfl, rfl⟩

/-- A ray of a slot stays one while others start, and at the root once it is there. -/
theorem State.startWalks_keeps (rs : List Ray) {cluster batch : Nat} {s : State} {q r : Ray} (h : q ∈ s.rays) (hslot : q.SameSlot r) :
    ∃ q' ∈ (s.startWalks rs cluster batch).rays, q'.SameSlot r ∧ (q.AtRoot cluster batch → q'.AtRoot cluster batch) := by
  induction rs generalizing s q with
  | nil => exact ⟨q, h, hslot, id⟩
  | cons x rs ih =>
    by_cases hx : q.SameSlot x
    · obtain ⟨hpart, hasid, hnum⟩ := hx
      obtain ⟨hpart', hasid', hnum'⟩ := hslot
      obtain ⟨q', hq', hslot', hroot⟩ := ih (q := x.startWalk cluster batch)
        (State.mem_putRay h ⟨hpart, hasid, hnum⟩) ⟨hpart.symm.trans hpart', hasid.symm.trans hasid', hnum.symm.trans hnum'⟩
      exact ⟨q', hq', hslot', fun _ => hroot (x.startWalk_atRoot cluster batch)⟩
    · exact ih (List.mem_map.mpr ⟨q, h, if_neg hx⟩) hslot

theorem State.startWalks_atRoot {rs : List Ray} (cluster batch : Nat) {s : State} {r : Ray} (hr : r ∈ rs) (h : r ∈ s.rays) :
    ∃ q ∈ (s.startWalks rs cluster batch).rays, q.SameSlot r ∧ q.AtRoot cluster batch := by
  obtain ⟨before, after, rfl⟩ := List.append_of_mem hr
  obtain ⟨q, hq, hslot, -⟩ := State.startWalks_keeps before (cluster := cluster) (batch := batch) h ⟨rfl, rfl, rfl⟩
  have hput : r.startWalk cluster batch ∈ ((s.startWalks before cluster batch).putRay (r.startWalk cluster batch)).rays :=
    State.mem_putRay hq hslot
  obtain ⟨q', hq', hslot', hroot⟩ := State.startWalks_keeps after hput (r := r) ⟨rfl, rfl, rfl⟩
  refine ⟨q', ?_, hslot', hroot (r.startWalk_atRoot cluster batch)⟩
  rw [State.startWalks, List.foldl_append]
  exact hq'

/-- A traversal unit with room starts the walks of up to 32 rays of the first bin in drain order (R216, R220). -/
theorem State.pull?_eq {s : State} {cluster asid bin : Nat} {bins : List Nat} (hruns : s.ctxRuns asid = true)
    (hroom : (s.batches cluster).length < 4) (hcluster : cluster < Config.clusters)
    (hbins : drainOrder (s.binInfos (partOfCluster cluster) asid false) = bin :: bins) :
    let u := s.startWalks ((s.binRays (partOfCluster cluster) asid false bin).take 32) cluster s.ids
    s.pull? cluster asid = some (({ u with ids := s.ids + 1 } : State).clearTimeout (partOfCluster cluster) asid false bin) := by
  have hgo : (!s.ctxRuns asid || decide (4 ≤ (s.batches cluster).length) || decide (Config.clusters ≤ cluster)) = false := by
    simp only [hruns, Nat.not_le.mpr hroom, Nat.not_le.mpr hcluster, decide_false, Bool.not_true, Bool.or_self]
  obtain ⟨xs, hstart⟩ := s.startWalks_frame ((s.binRays (partOfCluster cluster) asid false bin).take 32) cluster s.ids
  unfold State.startWalks at hstart ⊢
  simp only [State.pull?, hgo, hbins, hstart, Bool.false_eq_true, if_false]

/-! ### The visit of a walk -/

/-- The ray of a slot walks, its context is open, and an item is at the top of its stack. -/
structure State.Visits (s : State) (part asid slot : Nat) (r : Ray) (w : RayWalk) (h : RayHeader) (x : WalkItem)
    (rest : List WalkItem) : Prop where
  ray : s.ray? part asid slot = some r
  walk : r.walk = some w
  header : s.rayHeader r = some h
  ctx : s.ctxOpen asid = true
  stack : w.stack = x :: rest

/-- Where a unit of the treelet of an item is (R221). -/
def WalkItem.unitVa (x : WalkItem) (h : RayHeader) (unit : Nat) : Nat := x.base h + 4096 * x.treelet + 64 * unit

/-- The walk of an opaque-only ray ignores a triangle that neither its record nor its instance makes opaque (R202, R227). -/
def Ray.leavesOut (r : Ray) (inst : WalkInst) (bs : List Byte) : Bool := r.opq && !bitAt (fieldAt bs 0x28 4) 12 && !inst.fopq

theorem Ray.leavesOut_true {r : Ray} {inst : WalkInst} {bs : List Byte} (hopq : r.opq = true) (hflag : bitAt (fieldAt bs 0x28 4) 12 = false)
    (hfopq : inst.fopq = false) : r.leavesOut inst bs = true := by
  simp only [Ray.leavesOut, hopq, hflag, hfopq, Bool.not_false, Bool.and_self]

theorem Ray.leavesOut_false {r : Ray} {inst : WalkInst} {bs : List Byte}
    (h : r.opq = false ∨ bitAt (fieldAt bs 0x28 4) 12 = true ∨ inst.fopq = true) : r.leavesOut inst bs = false := by
  rcases h with h | h | h <;> simp only [Ray.leavesOut, h, Bool.not_true, Bool.and_false, Bool.false_and]

section
variable {s s' : State} {part asid slot : Nat} {r : Ray} {w : RayWalk} {h : RayHeader} {x : WalkItem} {rest : List WalkItem} {bs : List Byte}
  {inst : WalkInst} {t sl n u left : Nat} (hv : s.Visits part asid slot r w h x rest)
include hv

/-- A malformed reference ends the walk with TERM (R231). -/
theorem State.Visits.bad (hk : refKind x.ref.toNat x.inst.isNone x.treelet h.ninst = .bad) :
    s.visit? part asid slot = some (s.walkOn r { w with stack := rest } true false) := by
  simp only [State.visit?, hv.ray, hv.walk, hv.header, hv.ctx, hv.stack, hk, Bool.not_true, Bool.false_eq_true, if_false]

section
variable (hk : refKind x.ref.toNat x.inst.isNone x.treelet h.ninst = .node t sl)
  (hread : s.travRead r w.cluster (x.base h + 4096 * t + 128 * sl) 128 (x.base h + 4096 * t + 128 * sl) = .ok (s', bs))
include hk hread

theorem State.Visits.node_children {items : List WalkItem} (hitems : boxChildren r w x t h.ninst bs = some items) :
    s.visit? part asid slot = some (s'.walkOn r { (w.count h).1 with stack := items ++ rest } (w.count h).2 false) := by
  simp only [State.visit?, hv.ray, hv.walk, hv.header, hv.ctx, hv.stack, hk, hread, hitems, Bool.not_true, Bool.false_eq_true, if_false,
    RayWalk.count]

theorem State.Visits.node_malformed (hitems : boxChildren r w x t h.ninst bs = none) :
    s.visit? part asid slot = some (s'.walkOn r { (w.count h).1 with stack := rest } true false) := by
  simp only [State.visit?, hv.ray, hv.walk, hv.header, hv.ctx, hv.stack, hk, hread, hitems, Bool.not_true, Bool.false_eq_true, if_false,
    RayWalk.count]

end

section
variable (hk : refKind x.ref.toNat x.inst.isNone x.treelet h.ninst = .inst n)
  (hread : s.travRead r w.cluster (h.inst.toNat + 64 * n) 64 (h.inst.toNat + 64 * n) = .ok (s', bs))
include hk hread

theorem State.Visits.inst_skipped (henter : r.enterInst bs = .skip) :
    s.visit? part asid slot = some (s'.walkOn r { w with stack := rest } false false) := by
  simp only [State.visit?, hv.ray, hv.walk, hv.header, hv.ctx, hv.stack, hk, hread, henter, Bool.not_true, Bool.false_eq_true, if_false]

theorem State.Visits.inst_malformed (henter : r.enterInst bs = .bad) :
    s.visit? part asid slot = some (s'.walkOn r { w with stack := rest } true false) := by
  simp only [State.visit?, hv.ray, hv.walk, hv.header, hv.ctx, hv.stack, hk, hread, henter, Bool.not_true, Bool.false_eq_true, if_false]

theorem State.Visits.inst_entered {y : WalkItem} (henter : r.enterInst bs = .root y) :
    s.visit? part asid slot = some (s'.walkOn r { w with stack := y :: rest } false false) := by
  simp only [State.visit?, hv.ray, hv.walk, hv.header, hv.ctx, hv.stack, hk, hread, henter, Bool.not_true, Bool.false_eq_true, if_false]

end

section
variable (hk : refKind x.ref.toNat x.inst.isNone x.treelet h.ninst = .tris u left) (hinst : x.inst = some inst)
  (hread : s.travRead r w.cluster (x.unitVa h u) 64 (x.unitVa h u / 128 * 128) = .ok (s', bs))
include hk hinst hread

/-- No visit counts for a triangle that the walk ignores (log 64). -/
theorem State.Visits.triangle_left_out (hout : r.leavesOut inst bs = true) :
    s.visit? part asid slot = some (s'.walkOn r { w with stack := restOfLeaf x u left ++ rest } false false) := by
  rw [hinst] at hk
  rw [WalkItem.unitVa] at hread
  rw [Ray.leavesOut] at hout
  simp only [State.visit?, hv.ray, hv.walk, hv.header, hv.ctx, hv.stack, hk, hinst, hread, hout, Bool.not_true, Bool.false_eq_true,
    if_false, if_true]

section
variable (hout : r.leavesOut inst bs = false)
include hout

theorem State.Visits.triangle_hit {hit : Hit} (hhit : r.triangle w inst bs = some hit) :
    s.visit? part asid slot =
      some (s'.walkOn r { (w.count h).1 with stack := restOfLeaf x u left ++ rest, hit := some hit } (w.count h).2 r.first) := by
  rw [hinst] at hk
  rw [WalkItem.unitVa] at hread
  rw [Ray.leavesOut] at hout
  simp only [State.visit?, hv.ray, hv.walk, hv.header, hv.ctx, hv.stack, hk, hinst, hread, hout, hhit, Bool.not_true,
    Bool.false_eq_true, if_false, RayWalk.count]

theorem State.Visits.triangle_missed (hhit : r.triangle w inst bs = none) :
    s.visit? part asid slot = some (s'.walkOn r { (w.count h).1 with stack := restOfLeaf x u left ++ rest } (w.count h).2 false) := by
  rw [hinst] at hk
  rw [WalkItem.unitVa] at hread
  rw [Ray.leavesOut] at hout
  simp only [State.visit?, hv.ray, hv.walk, hv.header, hv.ctx, hv.stack, hk, hinst, hread, hout, hhit, Bool.not_true,
    Bool.false_eq_true, if_false, RayWalk.count]

end

end

section
variable (hk : refKind x.ref.toNat x.inst.isNone x.treelet h.ninst = .proc u) (hinst : x.inst = some inst)
include hk hinst

/-- An opaque-only ray ignores a procedural box, and no visit counts (log 64). -/
theorem State.Visits.box_left_out (hopq : r.opq = true) :
    s.visit? part asid slot = some (s.walkOn r { w with stack := rest } false false) := by
  rw [hinst] at hk
  simp only [State.visit?, hv.ray, hv.walk, hv.header, hv.ctx, hv.stack, hk, hinst, hopq, Bool.not_true, Bool.false_eq_true,
    if_false, if_true]

variable (hopq : r.opq = false) (hread : s.travRead r w.cluster (x.unitVa h u) 64 (x.unitVa h u / 128 * 128) = .ok (s', bs))
include hopq hread

theorem State.Visits.box_met {k : Word × Word × Nat} (hmet : r.procedural w inst bs = some k) :
    s.visit? part asid slot =
      some (s'.walkOn r { (w.count h).1 with stack := rest, cand := some (lowerCand w.cand k) } (w.count h).2 r.first) := by
  rw [hinst] at hk
  rw [WalkItem.unitVa] at hread
  simp only [State.visit?, hv.ray, hv.walk, hv.header, hv.ctx, hv.stack, hk, hinst, hopq, hread, hmet, Bool.not_true, Bool.false_eq_true,
    if_false, RayWalk.count]

theorem State.Visits.box_missed (hmet : r.procedural w inst bs = none) :
    s.visit? part asid slot = some (s'.walkOn r { (w.count h).1 with stack := rest } (w.count h).2 false) := by
  rw [hinst] at hk
  rw [WalkItem.unitVa] at hread
  simp only [State.visit?, hv.ray, hv.walk, hv.header, hv.ctx, hv.stack, hk, hinst, hopq, hread, hmet, Bool.not_true, Bool.false_eq_true,
    if_false, RayWalk.count]

end

end

/-! ### How a walk goes on -/

section
variable (s : State) (r : Ray) (w : RayWalk)

/-- The walk without the children on top of its stack that are no longer wanted (R226). -/
def Ray.pruned (r : Ray) (w : RayWalk) : RayWalk := { w with stack := w.stack.dropWhile (fun x => !r.keeps w x) }

theorem State.walkOn_term (stop : Bool) : s.walkOn r w true stop = s.walkEnd r (r.pruned w) true := rfl

theorem State.walkOn_stop : s.walkOn r w false true = s.walkEnd r (r.pruned w) false := rfl

theorem State.walkOn_empty (stop : Bool) (hleft : w.stack.dropWhile (fun x => !r.keeps w x) = []) :
    s.walkOn r w false stop = s.walkEnd r (r.pruned w) false := by
  simp only [State.walkOn, Ray.pruned, hleft, List.isEmpty_nil, Bool.or_true, if_true]

theorem State.walkOn_left (hleft : w.stack.dropWhile (fun x => !r.keeps w x) ≠ []) :
    s.walkOn r w false false = s.putRay { r with walk := some (r.pruned w) } := by
  simp only [State.walkOn, Ray.pruned, List.isEmpty_eq_false_iff.mpr hleft, Bool.or_self, Bool.false_eq_true, if_false]

end

/-! ### Prefetches -/

/-- `t` differs from `s` at most in the memories and caches, those of translations among them. -/
def XlateFrame (s t : State) : Prop := ∃ d h p m tl wc,
  t = { s with dram := d, host := h, peer := p, mem := m, tlb := tl, walkCache := wc }

theorem XlateFrame.refl (s : State) : XlateFrame s s := ⟨_, _, _, _, _, _, rfl⟩

theorem XlateFrame.trans {s t u : State} (h : XlateFrame s t) (h' : XlateFrame t u) : XlateFrame s u := by
  obtain ⟨_, _, _, _, _, _, rfl⟩ := h
  obtain ⟨_, _, _, _, _, _, rfl⟩ := h'
  exact ⟨_, _, _, _, _, _, rfl⟩

theorem MemFrame.xlate {s t : State} (h : MemFrame s t) : XlateFrame s t := by
  obtain ⟨_, _, _, _, rfl⟩ := h
  exact ⟨_, _, _, _, _, _, rfl⟩

theorem XlateFrame.foldl {α : Type} {s t : State} (h : XlateFrame s t) (f : State → α → State) (l : List α)
    (hf : ∀ u a, XlateFrame u (f u a)) : XlateFrame s (l.foldl f t) := by
  induction l generalizing t with
  | nil => exact h
  | cons a l ih => exact ih (h.trans (hf t a))

/-- What a prefetch leaves alone: the rays, the blocks and the prefetches under way. -/
theorem XlateFrame.fields {s t : State} (h : XlateFrame s t) : t.rays = s.rays ∧ t.blocks = s.blocks ∧ t.prefetches = s.prefetches := by
  obtain ⟨_, _, _, _, _, _, rfl⟩ := h
  exact ⟨rfl, rfl, rfl⟩

theorem State.installWalk_frame (s : State) (core : Option Nat) (part : Nat) (c : Ctx) (va : Nat) (e : TlbEnt) (rds : List WalkRead) :
    XlateFrame s (s.installWalk core part c va e rds) :=
  ⟨_, _, _, _, _, _, rfl⟩

/-- An engine's translation changes caches alone (R34, R35, R41). -/
theorem State.engineXlate_frame (s : State) (part asid : Nat) (va : DWord) (u : Use) : XlateFrame s (s.engineXlate part asid va u).2 := by
  unfold State.engineXlate
  split
  next =>
    split
    next => exact .refl s
    next c _ =>
      split
      next => exact .refl s
      next =>
        split
        next e rds _ => exact (s.walkTouch_frame c rds).xlate.trans (State.installWalk_frame _ none part c va.toNat e rds)
        next => exact (s.walkTouch_frame c _).xlate
        next => exact (s.walkTouch_frame c _).xlate
        next => exact (s.askPeer_frame _ _).xlate
  next => exact .refl s

theorem State.readTreelet_frame (s : State) (p : Prefetch) (va : Nat) : XlateFrame s (s.readTreelet p va) := by
  unfold State.readTreelet
  dsimp only
  have hxlate := s.engineXlate_frame p.part p.asid (BitVec.ofNat 64 va) ⟨.travRead, false, false⟩
  split
  next l s' heq =>
    rw [heq] at hxlate
    exact hxlate.trans (s'.touchFor_frame _ _ _ _).xlate
  next => exact .refl s

/-- The prefetch is no longer under way. -/
def State.dropPrefetch (s : State) (id : Nat) : State := { s with prefetches := s.prefetches.filter (fun x => !(x.id == id)) }

/-- The hint entry's line is touched, and the treelets that its words name are read (R234). -/
def State.readHinted (s : State) (p : Prefetch) (l : Loc) : State :=
  (((upFrom 0 4).map (fun k => s.numAt (.ctx p.asid) (l.add (8 * k)) 8)).filter (fun x => bitAt x 0)).foldl
    (fun s x => s.readTreelet p (bitsAt x 12 42 * 4096)) (s.touchFor (.ctx p.asid) [l] .normal false)

theorem State.readHinted_frame (s : State) (p : Prefetch) (l : Loc) : XlateFrame s (s.readHinted p l) :=
  (s.touchFor_frame _ _ _ _).xlate.foldl _ _ (fun u x => u.readTreelet_frame p (bitsAt x 12 42 * 4096))

section
variable {s s' : State} {p : Prefetch} {h : RayHeader} {l : Loc} (hp : s.prefetches.find? (fun x => x.id == p.id) = some p)
  (hh : ((s.dropPrefetch p.id).launch? p.launch).bind (·.hdr) = some h)
  (hx : (s.dropPrefetch p.id).engineXlate p.part p.asid (BitVec.ofNat 64 (h.hint.toNat + 32 * p.cell)) ⟨.travRead, false, false⟩ =
    (.ok l, s'))
include hp hh hx

/-- A hint entry that cannot be read, or is poisoned, drops its prefetch (R234). -/
theorem State.prefetch?_dropped (hbad : s'.lineStatus (.ctx p.asid) false l ≠ .ok ∨ s'.poisonIn (.ctx p.asid) l 32 = true) :
    s.prefetch? p.id = some s' := by
  have hcond : (s'.lineStatus (.ctx p.asid) false l != .ok || s'.poisonIn (.ctx p.asid) l 32) = true := by
    rwa [Bool.or_eq_true, bne_iff_ne]
  rw [State.dropPrefetch] at hx hh
  simp only [State.prefetch?, hp, hh, hx, hcond, if_true]

/-- The treelets of a hint entry that is read follow it (R234). -/
theorem State.prefetch?_read (hok : s'.lineStatus (.ctx p.asid) false l = .ok) (hclean : s'.poisonIn (.ctx p.asid) l 32 = false) :
    s.prefetch? p.id = some (s'.readHinted p l) := by
  rw [State.dropPrefetch] at hx hh
  simp only [State.prefetch?, hp, hh, hx, hok, hclean, bne_self_eq_false, Bool.or_self, Bool.false_eq_true, if_false, State.readHinted]

end

end Sys2Proof.Machine

/-- Settles O15: a pull starts the walks of its bin, each case of a visit is one lemma, and a prefetch leaves the rays alone. -/
theorem traversal : Obligations.Traversal := by
  refine ⟨?_, ?_, ?_, ?_, ?_⟩
  · intro s cluster asid bin bins hruns hroom hcluster hbins
    obtain ⟨xs, hstart⟩ := s.startWalks_frame ((s.binRays (partOfCluster cluster) asid false bin).take 32) cluster s.ids
    refine ⟨_, next_getD (State.pull?_eq hruns hroom hcluster hbins), rfl, (congrArg State.blocks hstart :), fun r hr => ?_⟩
    obtain ⟨q, hq, ⟨hpart, hasid, hslot⟩, hroot⟩ :=
      State.startWalks_atRoot cluster s.ids hr (State.mem_rays_of_binRays (List.mem_of_mem_take hr))
    exact ⟨q, hq, hpart, hasid, hslot, hroot⟩
  · intro s part asid slot r w h x rest hray hwalk hheader hctx hstack
    have hv : s.Visits part asid slot r w h x rest := ⟨hray, hwalk, hheader, hctx, hstack⟩
    refine ⟨fun hk => next_getD (hv.bad hk), fun t sl s' bs hk hread => ?_, fun n s' bs hk hread => ?_,
      fun u left inst s' bs hk hinst hread => ?_, fun u inst hk hinst => ?_⟩
    · exact ⟨fun items hitems => next_getD (hv.node_children hk hread hitems), fun hitems => next_getD (hv.node_malformed hk hread hitems)⟩
    · exact ⟨fun henter => next_getD (hv.inst_skipped hk hread henter), fun henter => next_getD (hv.inst_malformed hk hread henter),
        fun y henter => next_getD (hv.inst_entered hk hread henter)⟩
    · exact ⟨fun hopq hflag hfopq => next_getD (hv.triangle_left_out hk hinst hread (Ray.leavesOut_true hopq hflag hfopq)),
        fun hopq => ⟨fun hit hhit => next_getD (hv.triangle_hit hk hinst hread (Ray.leavesOut_false hopq) hhit),
          fun hhit => next_getD (hv.triangle_missed hk hinst hread (Ray.leavesOut_false hopq) hhit)⟩⟩
    · exact ⟨fun hopq => next_getD (hv.box_left_out hk hinst hopq),
        fun s' bs hopq hread => ⟨fun k hmet => next_getD (hv.box_met hk hinst hopq hread hmet),
          fun hmet => next_getD (hv.box_missed hk hinst hopq hread hmet)⟩⟩
  · intro s r w stop
    refine ⟨s.walkOn_term r w stop, fun hend => ?_, fun hleft => s.walkOn_left r w hleft⟩
    rcases hend with hleft | rfl
    · exact s.walkOn_empty r w stop hleft
    · exact s.walkOn_stop r w
  · intro s part asid bin shade hrays htimed
    cases shade with
    | true => exact next_getD (State.binTimeout?_eq hrays htimed)
    | false => exact next_getD (State.binTimeout?_eq hrays htimed)
  · intro s p h hp hh u l s' hx
    refine ⟨fun hbad => next_getD (State.prefetch?_dropped hp hh hx hbad), fun hok hclean => ?_⟩
    have hxlate := u.engineXlate_frame p.part p.asid (BitVec.ofNat 64 (h.hint.toNat + 32 * p.cell)) ⟨.travRead, false, false⟩
    rw [hx] at hxlate
    obtain ⟨hrays, hblocks, hleft⟩ := (hxlate.trans (s'.readHinted_frame p l)).fields
    refine ⟨_, next_getD (State.prefetch?_read hp hh hx hok hclean), hrays, hblocks, fun y hy => ?_⟩
    rw [hleft] at hy
    simpa using List.of_mem_filter hy
end
